-- ==== Sys2Proof/Word.lean ====
section
/-! DEFINITION. Word types, little-endian byte helpers and the sparse table in which the model keeps every
numbered set of registers, lines, queues and bytes. -/

namespace Sys2Proof

abbrev Byte := BitVec 8
abbrev W64 := BitVec 64
/-- One 128-byte cache line (R28), byte 0 in bits [7:0] (R8). -/
abbrev Line128 := BitVec 1024

/-- A sparse table: entries by key, keys strictly rising, no entry equal to the default. Keys without an
entry read as the default that the reader names. -/
abbrev Tbl (α : Type) := List (Nat × α)

namespace Tbl

/-- The value at key `k`, or `d` where the table lists none. -/
def get {α : Type} (d : α) : Tbl α → Nat → α
  | [], _ => d
  | (j, w) :: r, k => if j = k then w else get d r k

/-- Put `v` at key `k`, keeping the keys in rising order. -/
def put {α : Type} (k : Nat) (v : α) : Tbl α → Tbl α
  | [] => [(k, v)]
  | (j, w) :: r =>
    if k < j then (k, v) :: (j, w) :: r
    else if k = j then (k, v) :: r
    else (j, w) :: put k v r

/-- Remove every entry of key `k`. -/
def del {α : Type} (k : Nat) : Tbl α → Tbl α
  | [] => []
  | (j, w) :: r => if j = k then del k r else (j, w) :: del k r

/-- Write `v` at key `k`; writing the default removes the entry, so equal tables are equal data. -/
def set {α : Type} [DecidableEq α] (d : α) (t : Tbl α) (k : Nat) (v : α) : Tbl α :=
  if v = d then del k t else put k v t

/-- Change the value at one key. -/
def upd {α : Type} [DecidableEq α] (d : α) (t : Tbl α) (k : Nat) (f : α → α) : Tbl α :=
  set d t k (f (get d t k))

/-- Keys rise strictly from above `lo`, and no entry is the default. -/
def wfFrom {α : Type} [DecidableEq α] (d : α) : Option Nat → Tbl α → Bool
  | _, [] => true
  | lo, (j, w) :: r =>
    (match lo with | none => true | some m => decide (m < j)) && !(decide (w = d)) && wfFrom d (some j) r

/-- The canonical form: strictly rising keys and no default entry. -/
def wf {α : Type} [DecidableEq α] (d : α) (t : Tbl α) : Bool := wfFrom d none t

/-- Write the listed values at consecutive keys from `k`. -/
def setMany {α : Type} [DecidableEq α] (d : α) (t : Tbl α) (k : Nat) : List α → Tbl α
  | [] => t
  | v :: vs => setMany d (set d t k v) (k + 1) vs

/-- Return every key from `lo` to below `hi` to the default. -/
def cut {α : Type} (lo hi : Nat) (t : Tbl α) : Tbl α := t.filter fun e => !(decide (lo ≤ e.1) && decide (e.1 < hi))

/-- Read `n` consecutive values from key `k`. -/
def getMany {α : Type} (d : α) (t : Tbl α) (k : Nat) : Nat → List α
  | 0 => []
  | n + 1 => get d t k :: getMany d t (k + 1) n

end Tbl

/-- The bytes of a number, least significant first (R8). -/
def natToBytes (v : Nat) : Nat → List Byte
  | 0 => []
  | n + 1 => BitVec.ofNat 8 v :: natToBytes (v / 256) n

/-- The number that bytes spell, least significant first (R8). -/
def bytesToNat : List Byte → Nat
  | [] => 0
  | b :: r => b.toNat + 256 * bytesToNat r

/-- Bit `i` of a number. -/
def bitOf (v i : Nat) : Bool := v.testBit i

/-- Field [h:l] of a number. -/
def field (v h l : Nat) : Nat := (v >>> l) % 2 ^ (h + 1 - l)

/-- A Bool as 0 or 1. -/
def b2n (b : Bool) : Nat := if b then 1 else 0

/-- Numbers 0 to n - 1, in order. -/
def upto (n : Nat) : List Nat := List.range n

end Sys2Proof
end

