-- ==== Sys2Proof/Syntax.lean ====
section
/-! DEFINITION. The commands of the block: one constructor per row of opcode_table.json, and the types of their
operands. -/

namespace Sys2Proof

/-! Numbers of the units (R16, R18, R44, R376, R436). -/
abbrev Core := Fin 256
abbrev Slice := Fin 256
abbrev Vault := Fin 256
abbrev Tu := Fin 64
abbrev Quad := Fin 4
abbrev Part := Fin 16
abbrev Thread := Fin 64
abbrev Clove := Fin 8
abbrev Dma := Fin 8
abbrev Port := Fin 32
abbrev HostId := Fin 2
/-- A function of a host port: 0 the physical function, f the virtual function f - 1 (R53). -/
abbrev FnId := Fin 17
abbrev Chan := Fin 16
abbrev RingId := Fin 4
abbrev BinId := Fin 4096
abbrev TaskId := Fin 256
abbrev BarId := Fin 64
abbrev MbxId := Fin 64
abbrev GBar := Fin 16
abbrev CollCtx := Fin 8
abbrev BlockNo := Fin 64
abbrev TreeEntry := Fin 1024
abbrev Tier := Fin 8
/-- A bank of a vault, 32 * tier + bank (R353). -/
abbrev BankId := Fin 256
/-- Rail selects 0 to 3: VCORE, VSRAM, VNOC, VMEMIF (R472). -/
abbrev Rail := Fin 4
abbrev TelGroup := Fin 3
abbrev SReg := Fin 32
abbrev VReg := Fin 32
abbrev MReg := Fin 8
abbrev GReg := Fin 16
abbrev AccId := Fin 4

/-- The sources a register access can come from (R429). -/
inductive Agent where
  | monitor (n : Core)
  | clove (h : Thread)
  | host (h : HostId) (f : FnId)
  | board
  | debug
deriving DecidableEq, Repr

/-- Which bytes of a register an access covers: all eight, the low half, the high half, or a width that no
register accepts (R576). -/
inductive Width where
  | full | lo | hi | other
deriving DecidableEq, Repr

/-- The bus responses of R420. -/
inductive BusResp where
  | okay | decode | perm | poison | domainOff
deriving DecidableEq, Repr

/-- The six CSR operations of R100. For the immediate forms the source field is uimm5. -/
inductive CsrOp where
  | w | s | c | wi | si | ci
deriving DecidableEq, Repr

/-- The engines of the matrix unit (R197). -/
inductive MEngine where
  | array | access
deriving DecidableEq, Repr

/-- What issues stream line requests: a channel, the next-layer slot or a system DMA engine (R265, R266, R299). -/
inductive StreamSrc where
  | chan (n : Core) (k : Chan)
  | next (n : Core)
  | dma (d : Dma)
deriving DecidableEq, Repr

/-- The caches that fetch lines from a home slice (R318, R337, R338). -/
inductive Cacher where
  | l1 (n : Core)
  | clv (c : Clove)
  | node (m : Tu)
deriving DecidableEq, Repr

/-- The caches that invalidate themselves at a reset (R329). -/
inductive CacheId where
  | l1 (n : Core)
  | icache (n : Core)
  | l2 (n : Slice)
  | node (m : Tu)
  | clv (c : Clove)
deriving DecidableEq, Repr

/-- One corrupted symbol of a stored vault line: its number 0 to 143 and the bits that are wrong (R355, R359). -/
structure SymErr where
  sym : Nat
  bits : Byte
deriving DecidableEq, Repr

/-- A transport packet (R442). `flags` leaves out the virtual channel, ECE and POISON bits, which stand alone. -/
structure Packet where
  op : Nat
  vc : Nat
  ece : Bool
  poison : Bool
  src : BlockNo
  dst : BlockNo
  part : Nat
  hops : Nat
  len : Nat
  psn : Nat
  tag : Nat
  addr : Nat
  attr : Nat
  data : List Byte
deriving DecidableEq, Repr

/-- A packet at the port that received it. -/
structure Arrival where
  port : Port
  pkt : Packet
deriving DecidableEq, Repr

/-- A flit as it comes from the lanes (R437, R438): its 432 bytes, the codewords that FEC corrected, the lane of each symbol
it corrected, and whether the flit lies in an uncorrectable codeword. -/
structure FlitIn where
  bytes : List Byte
  words : BitVec 4
  fixed : List (Fin 8)
  bad : Bool
deriving DecidableEq, Repr

/-- A failing lane (R441), which lost lock or else exceeded its threshold. -/
structure LaneFail where
  lane : Fin 8
  lock : Bool
deriving DecidableEq, Repr

/-- A register's offset (R10, R415), in a function page of a host port or in the register window. -/
structure RegAt where
  page : Bool
  off : BitVec 28
deriving DecidableEq, Repr

/-- The class of an instruction word and its fn12 (R91). -/
structure ClassFn where
  cls : BitVec 5
  fn : BitVec 12
deriving DecidableEq, Repr

/-- A line that goes home, and the depth of the queue of its vault bank (R325). -/
structure HomeLine where
  line : Nat
  queue : Nat
deriving DecidableEq, Repr

/-- The slot that comes to a scrub (R364, R365): whether a class of R281 claims it, and the errors that its line has
taken. -/
structure ScrubSlot where
  claimed : Bool
  hit : List SymErr
deriving DecidableEq, Repr

/-- Why a link goes to DOWN (R440, R441, R501, R503). -/
inductive DownCause where
  | replayFail | laneLoss | isolate
deriving DecidableEq, Repr

/-- The three AVSBus commands Nutmeg uses (R565). -/
inductive AvsCmd where
  | write | readMv | readAmps
deriving DecidableEq, Repr

/-- The registers that request power domains off or on (R496). -/
inductive PdReg where
  | tiles (j : Fin 4)
  | clove
deriving DecidableEq, Repr

/-- The power domains that firmware turns off (R473). -/
inductive Domain where
  | tile (n : Core)
  | clove (c : Clove)
deriving DecidableEq, Repr

/-- One detection as a detector reports it (R508, R510): the identifier, the unit, the address, INFO, and the
flags RETENTION, TIER_DEGRADED and LAST_WAY that the detector itself sets. -/
structure Detection where
  det : BitVec 16
  unit : BitVec 16
  addr : W64
  info : W64
  retention : Bool
  tierDegraded : Bool
  lastWay : Bool
deriving DecidableEq, Repr

/-- An event at an injection point (R504): the detector and unit it belongs to and the line it touches. -/
structure InjEvent where
  det : BitVec 16
  unit : BitVec 16
  line : Nat
deriving DecidableEq, Repr

/-- A read that latches a counter snapshot (R515): ERR_SNAP_SEQ of a group, or PMC_SNAP of a counter. -/
inductive SnapRead where
  | seq (g : Fin 16)
  | pmc (u : BitVec 16) (i : Fin 8)
deriving DecidableEq, Repr

/-- Whose timer compare the block time has reached (R84, R387). -/
inductive TimerTarget where
  | core (n : Core)
  | thread (h : Thread)
deriving DecidableEq, Repr

/-- What a host configuration write does (R411, R417, R425, R432). -/
inductive HostCfg where
  | d3hot (f : FnId) (on : Bool)
  | vfs (count : Fin 17)
  | hdm (base : W64)
  | msixMask (f : FnId) (vector : Fin 2) (masked : Bool)
  | ats (on : Bool)
  /-- host bus addresses whose accesses the host completes with an error from now on, or no longer (R418). -/
  | refuse (lo hi : BitVec 52) (on : Bool)
deriving DecidableEq, Repr

/-- One constructor for each row of opcode_table.json: a command from outside the block, an instruction that one
of its agents executes, or an event inside it. The docstring of each names the row and its rule. -/
inductive Instr where
  /-- BLK_TIME_ADVANCE (R25). -/
  | blkTimeAdvance
  /-- REGISTER_WRITE (R10). -/
  | registerWrite (a : Agent) (r : RegAt) (w : Width) (val : BitVec 64)
  /-- SHAPE_LOAD (R68). -/
  | shapeLoad (a : Agent)
  /-- SHAPE_LOAD_DONE (R42). -/
  | shapeLoadDone
  /-- MODE_COMMIT_GO (R71). -/
  | modeCommitGo (a : Agent)
  /-- MODE_COMMIT_DISCARD (R70). -/
  | modeCommitDiscard (a : Agent)
  /-- PARTICIPANT_APPLY (R72). -/
  | participantApply (u : BitVec 16)
  /-- MODE_COMMIT_COMPLETE (R71). -/
  | modeCommitComplete
  /-- MODE_COMMIT_REVERT (R71). -/
  | modeCommitRevert
  /-- FPDEFAULT_STAGE_WRITE (R110). -/
  | fpdefaultStageWrite (a : Agent) (n : Core) (val : BitVec 64)
  /-- INT_REGISTER_OP (R93): class 0x01, or a word that no other command spells, which faults ILLEGAL (R92). -/
  | intRegisterOp (n : Core) (rd ra rb : SReg) (op : ClassFn)
  /-- INT_IMMEDIATE_OP (R93). -/
  | intImmediateOp (n : Core) (rd ra : SReg) (fn : BitVec 5) (imm : BitVec 12)
  /-- MUL_DIV_OP (R94). -/
  | mulDivOp (n : Core) (rd ra rb : SReg) (fn : BitVec 12)
  /-- LIU (R95). -/
  | liu (n : Core) (rd : SReg) (imm : BitVec 22)
  /-- ADDPC (R95). -/
  | addpc (n : Core) (rd : SReg) (imm : BitVec 22)
  /-- SCALAR_LOAD (R106). -/
  | scalarLoad (n : Core) (rd ra : SReg) (fn : BitVec 5) (imm : BitVec 12)
  /-- SCALAR_STORE (R107). -/
  | scalarStore (n : Core) (rs ra : SReg) (fn : BitVec 5) (imm : BitVec 12)
  /-- ATOMIC (R98). -/
  | atomic (n : Core) (rd ra rb : SReg) (fn : BitVec 12)
  /-- BRANCH (R96). -/
  | branch (n : Core) (ra rb : SReg) (cond : BitVec 3) (off : BitVec 14)
  /-- JL (R95). -/
  | jl (n : Core) (rd : SReg) (off : BitVec 22)
  /-- JLR (R95). -/
  | jlr (n : Core) (rd ra : SReg) (fn : BitVec 5) (imm : BitVec 12)
  /-- FENCE (R99). -/
  | fence (n : Core)
  /-- FENCE_LD (R99). -/
  | fenceLd (n : Core)
  /-- FENCE_ST (R99). -/
  | fenceSt (n : Core)
  /-- FENCE_IO (R99). -/
  | fenceIo (n : Core)
  /-- IFLUSH (R99). -/
  | iflush (n : Core)
  /-- CSRW (R100). -/
  | csrw (n : Core) (rd ra : SReg) (csr : BitVec 12)
  /-- CSRS (R100). -/
  | csrs (n : Core) (rd ra : SReg) (csr : BitVec 12)
  /-- CSRC (R100). -/
  | csrc (n : Core) (rd ra : SReg) (csr : BitVec 12)
  /-- CSRWI (R100). -/
  | csrwi (n : Core) (rd : SReg) (uimm : BitVec 5) (csr : BitVec 12)
  /-- CSRSI (R100). -/
  | csrsi (n : Core) (rd : SReg) (uimm : BitVec 5) (csr : BitVec 12)
  /-- CSRCI (R100). -/
  | csrci (n : Core) (rd : SReg) (uimm : BitVec 5) (csr : BitVec 12)
  /-- VL_WRITE (R146). -/
  | vlWrite (n : Core) (op : CsrOp) (rd src : SReg)
  /-- MSHAPE_WRITE (R177). -/
  | mshapeWrite (n : Core) (op : CsrOp) (rd src : SReg)
  /-- MCALL (R101). -/
  | mcall (n : Core)
  /-- BREAK (R101). -/
  | brk (n : Core)
  /-- JEXIT (R101). -/
  | jexit (n : Core) (ra : SReg)
  /-- RETM (R80). -/
  | retm (n : Core)
  /-- WFI (R86). -/
  | wfi (n : Core)
  /-- WFI_WAKE (R86). -/
  | wfiWake (n : Core)
  /-- JOBGO (R109). -/
  | jobgo (n : Core)
  /-- JOBGO_START (R109). -/
  | jobgoStart (n : Core)
  /-- INTERRUPT_TAKE (R85). -/
  | interruptTake (n : Core)
  /-- CACHED_STORE_LOST (R585). -/
  | cachedStoreLost (n : Core) (line : Nat) (resp : BusResp)
  /-- WRK_KILL (R110). -/
  | wrkKill (a : Agent) (n : Core)
  /-- WRK_RESET (R110). -/
  | wrkReset (a : Agent) (n : Core)
  /-- WRK_RUN (R110). -/
  | wrkRun (a : Agent) (n : Core)
  /-- JOB_TAIL_WRITE (R110). -/
  | jobTailWrite (a : Agent) (n : Core) (val : BitVec 64)
  /-- VSETVL (R151). -/
  | vsetvl (n : Core) (rd ra : SReg) (fmt : BitVec 5)
  /-- VSETVLI (R151). -/
  | vsetvli (n : Core) (rd : SReg) (uimm : BitVec 10) (fmt : BitVec 5)
  /-- VMVR (R151). -/
  | vmvr (n : Core) (vd va : VReg)
  /-- VZERO (R151). -/
  | vzero (n : Core) (vd : VReg)
  /-- MMVR (R151). -/
  | mmvr (n : Core) (md ma : MReg)
  /-- VECTOR_ELEMENTWISE_OP (R152). -/
  | vectorElementwiseOp (n : Core) (scalarB : Bool) (op : BitVec 4) (vd va vb : VReg) (mk : MReg) (fmt : BitVec 5)
  /-- VUNARY (R152). -/
  | vunary (n : Core) (vd va : VReg) (sub : BitVec 5) (mk : MReg) (fmt : BitVec 5)
  /-- VMERGE (R152). -/
  | vmerge (n : Core) (scalarB : Bool) (vd va vb : VReg) (mk : MReg) (fmt : BitVec 5)
  /-- VFMA (R156). -/
  | vfma (n : Core) (op : BitVec 4) (vd va vb : VReg) (mk : MReg) (fmt : BitVec 5)
  /-- VECTOR_COMPARE (R157). -/
  | vectorCompare (n : Core) (op : BitVec 4) (md : MReg) (va vb : VReg) (mk : MReg) (fmt : BitVec 5)
  /-- MLOGIC (R157). -/
  | mlogic (n : Core) (md ma mb : MReg) (sub : BitVec 5)
  /-- MPOP (R157). -/
  | mpop (n : Core) (rd : SReg) (ma : MReg) (fmt : BitVec 5)
  /-- MFIRST (R157). -/
  | mfirst (n : Core) (rd : SReg) (ma : MReg) (fmt : BitVec 5)
  /-- VRSUM (R159). -/
  | vrsum (n : Core) (rd : SReg) (va : VReg) (mk : MReg) (fmt : BitVec 5)
  /-- VRMAX (R158). -/
  | vrmax (n : Core) (rd : SReg) (va : VReg) (mk : MReg) (fmt : BitVec 5)
  /-- VRMIN (R158). -/
  | vrmin (n : Core) (rd : SReg) (va : VReg) (mk : MReg) (fmt : BitVec 5)
  /-- VECTOR_BITWISE_REDUCE (R158). -/
  | vectorBitwiseReduce (n : Core) (op : BitVec 4) (rd : SReg) (va : VReg) (mk : MReg) (fmt : BitVec 5)
  /-- VSLIDEDN (R158). -/
  | vslidedn (n : Core) (vd va : VReg) (rb : SReg) (mk : MReg) (fmt : BitVec 5)
  /-- VSLIDEUP (R158). -/
  | vslideup (n : Core) (vd va : VReg) (rb : SReg) (mk : MReg) (fmt : BitVec 5)
  /-- VPERM (R158). -/
  | vperm (n : Core) (vd va vb : VReg) (mk : MReg) (fmt : BitVec 5)
  /-- VCOMPRESS (R158). -/
  | vcompress (n : Core) (vd va : VReg) (mk : MReg) (fmt : BitVec 5)
  /-- VMVX (R158). -/
  | vmvx (n : Core) (rd : SReg) (va : VReg) (rb : SReg) (fmt : BitVec 5)
  /-- VMVS (R158). -/
  | vmvs (n : Core) (vd : VReg) (ra rb : SReg) (fmt : BitVec 5)
  /-- VID (R158). -/
  | vid (n : Core) (vd : VReg) (mk : MReg) (fmt : BitVec 5)
  /-- VCVT (R160). -/
  | vcvt (n : Core) (vd va : VReg) (dfmt : BitVec 5) (mk : MReg) (sfmt : BitVec 5) (part : BitVec 4)
  /-- VLD (R163). -/
  | vld (n : Core) (vd : VReg) (ra : SReg) (mk : MReg) (fmt : BitVec 5)
  /-- VST (R163). -/
  | vst (n : Core) (vd : VReg) (ra : SReg) (mk : MReg) (fmt : BitVec 5)
  /-- VLDS (R163). -/
  | vlds (n : Core) (vd : VReg) (ra rb : SReg) (mk : MReg) (fmt : BitVec 5)
  /-- VSTS (R163). -/
  | vsts (n : Core) (vd : VReg) (ra rb : SReg) (mk : MReg) (fmt : BitVec 5)
  /-- VLDX (R165). -/
  | vldx (n : Core) (vd : VReg) (ra : SReg) (vb : VReg) (mk : MReg) (fmt : BitVec 5)
  /-- VSTX (R165). -/
  | vstx (n : Core) (vd : VReg) (ra : SReg) (vb : VReg) (mk : MReg) (fmt : BitVec 5)
  /-- MLD (R163). -/
  | mld (n : Core) (md : MReg) (ra : SReg)
  /-- MST (R163). -/
  | mst (n : Core) (md : MReg) (ra : SReg)
  /-- VLDR (R163). -/
  | vldr (n : Core) (vd : VReg) (ra : SReg)
  /-- VSTR (R163). -/
  | vstr (n : Core) (vd : VReg) (ra : SReg)
  /-- MMA (R188). -/
  | mma (n : Core) (acc : AccId) (fa fb : BitVec 5) (ra rb rc : SReg)
  /-- MZERO (R181). -/
  | mzero (n : Core) (acc : AccId) (fmt : BitVec 5)
  /-- MACCLD (R185). -/
  | maccld (n : Core) (acc : AccId) (fmt : BitVec 5) (ra rb : SReg)
  /-- MACCST (R185). -/
  | maccst (n : Core) (acc : AccId) (fmt : BitVec 5) (ra rb : SReg)
  /-- MACCSTC (R196). -/
  | maccstc (n : Core) (acc : AccId) (fmt : BitVec 5) (ra rb : SReg)
  /-- MACCSTCD (R196). -/
  | maccstcd (n : Core) (acc : AccId) (fmt : BitVec 5) (ra rb : SReg)
  /-- MRD (R182). -/
  | mrd (n : Core) (acc : AccId) (fmt : BitVec 5) (vd : VReg) (rb : SReg)
  /-- MWR (R182). -/
  | mwr (n : Core) (acc : AccId) (fmt : BitVec 5) (va : VReg) (rb : SReg)
  /-- MFENCE (R183). -/
  | mfence (n : Core)
  /-- MSHAPEI (R183). -/
  | mshapei (n : Core) (mrowsm1 ncolsm1 : BitVec 8)
  /-- MATRIX_START (R198). -/
  | matrixStart (n : Core) (e : MEngine)
  /-- MATRIX_COMPLETE (R198). -/
  | matrixComplete (n : Core) (e : MEngine)
  /-- TT_SETNEXT (R227). -/
  | ttSetnext (a : Agent)
  /-- TT_SWAP (R227). -/
  | ttSwap (a : Agent)
  /-- TT_READ (R227). -/
  | ttRead (a : Agent)
  /-- TT_RETIRE_ADVANCE (R229). -/
  | ttRetireAdvance (p : Part) (x : TreeEntry)
  /-- QSUB (R260). -/
  | qsub (n : Core) (rd ra : SReg)
  /-- QSUBN (R260). -/
  | qsubn (n : Core) (rd ra rb : SReg)
  /-- QSRC (R255). -/
  | qsrc (n : Core) (rd ra : SReg)
  /-- QFLUSH (R260). -/
  | qflush (n : Core)
  /-- TTNEXT (R260). -/
  | ttnext (n : Core) (rd ra rb : SReg)
  /-- TTSWAP (R260). -/
  | ttswap (n : Core) (rd ra : SReg)
  /-- TTREAD (R261). -/
  | ttread (n : Core) (rd ra : SReg)
  /-- BIN_AGE_FIRE (R252). -/
  | binAgeFire (q : Quad) (bin : BinId)
  /-- SAFFRON_RESPLIT (R253). -/
  | saffronResplit (q : Quad)
  /-- BIN_DISPATCH (R254). -/
  | binDispatch (q : Quad)
  /-- SPILL_RETURN (R250). -/
  | spillReturn (q : Quad)
  /-- GENERATOR_EMIT (R256). -/
  | generatorEmit (q : Quad)
  /-- QUERY_END (R237). -/
  | queryEnd (m : Tu)
  /-- BIN_DELIVER (R257). -/
  | binDeliver (m : Tu)
  /-- PACKET_WRITE (R258). -/
  | packetWrite (m : Tu)
  /-- HRCFG_WRITE (R259). -/
  | hrcfgWrite (n : Core) (op : CsrOp) (rd src : SReg) (ring : RingId)
  /-- HRPTR_WRITE (R259). -/
  | hrptrWrite (n : Core) (op : CsrOp) (rd src : SReg) (ring : RingId)
  /-- SSTART (R300). -/
  | sstart (n : Core) (rd ra rb : SReg)
  /-- SREARM (R289). -/
  | srearm (n : Core) (rd ra rb : SReg)
  /-- SSTOP (R300). -/
  | sstop (n : Core) (rd ra : SReg)
  /-- SWAIT (R300). -/
  | swait (n : Core) (rd ra : SReg)
  /-- SEMPOST (R295). -/
  | sempost (n : Core) (rd ra : SReg)
  /-- SEMWAIT (R295). -/
  | semwait (n : Core) (rd ra : SReg)
  /-- SEMTRY (R295). -/
  | semtry (n : Core) (rd ra : SReg)
  /-- SEMRD (R300). -/
  | semrd (n : Core) (rd ra : SReg)
  /-- BARARV (R297). -/
  | bararv (n : Core) (rd ra rb : SReg)
  /-- BARWAIT (R297). -/
  | barwait (n : Core) (rd ra : SReg)
  /-- NLARM (R299). -/
  | nlarm (n : Core) (rd ra : SReg)
  /-- STREAM_HALT (R272). -/
  | streamHalt (n : Core) (k : Chan)
  /-- STREAM_ARG (R272). -/
  | streamArg (n : Core) (k : Chan)
  /-- STREAM_LI (R272). -/
  | streamLi (n : Core) (k : Chan)
  /-- STREAM_ADDI (R272). -/
  | streamAddi (n : Core) (k : Chan)
  /-- STREAM_ADD (R272). -/
  | streamAdd (n : Core) (k : Chan)
  /-- STREAM_SUB (R272). -/
  | streamSub (n : Core) (k : Chan)
  /-- STREAM_MUL (R272). -/
  | streamMul (n : Core) (k : Chan)
  /-- STREAM_SHLI (R272). -/
  | streamShli (n : Core) (k : Chan)
  /-- STREAM_ANDI (R272). -/
  | streamAndi (n : Core) (k : Chan)
  /-- STREAM_LDT (R272). -/
  | streamLdt (n : Core) (k : Chan)
  /-- STREAM_BNZD (R272). -/
  | streamBnzd (n : Core) (k : Chan)
  /-- STREAM_BLTU (R272). -/
  | streamBltu (n : Core) (k : Chan)
  /-- STREAM_XFER (R273). -/
  | streamXfer (n : Core) (k : Chan)
  /-- STREAM_XFERI (R273). -/
  | streamXferi (n : Core) (k : Chan)
  /-- STREAM_EMIT (R273). -/
  | streamEmit (n : Core) (k : Chan)
  /-- STREAM_POST (R272). -/
  | streamPost (n : Core) (k : Chan)
  /-- LINE_REQUEST_ISSUE (R275). -/
  | lineRequestIssue (src : StreamSrc)
  /-- LINE_RESPONSE (R278). -/
  | lineResponse (src : StreamSrc) (tag : Nat) (resp : BusResp)
  /-- CHANNEL_COMPLETE (R277). -/
  | channelComplete (src : StreamSrc)
  /-- STRPTR_WRITE (R303). -/
  | strptrWrite (n : Core) (op : CsrOp) (rd src : SReg) (k : Chan)
  /-- MULTICAST_ATTACH_TIMEOUT (R291). -/
  | multicastAttachTimeout (n : Core) (k : Chan)
  /-- STRAGGLER_DETACH (R293). -/
  | stragglerDetach (n : Core) (k : Chan) (r : Core)
  /-- PRIV_CHANNEL_START (R304). -/
  | privChannelStart (a : Agent) (src : StreamSrc)
  /-- PRIV_CHANNEL_REARM (R304). -/
  | privChannelRearm (a : Agent) (src : StreamSrc)
  /-- PRIV_CHANNEL_STOP (R304). -/
  | privChannelStop (a : Agent) (src : StreamSrc)
  /-- BAR_CTL_WRITE (R298). -/
  | barCtlWrite (a : Agent) (b : BarId) (val : BitVec 64)
  /-- STORE_BUFFER_DRAIN (R322). -/
  | storeBufferDrain (n : Core) (line : Nat)
  /-- GETS (R337). -/
  | gets (r : Cacher) (line : Nat)
  /-- GETM (R337). -/
  | getm (r : Cacher) (line : Nat)
  /-- UPGRADE (R337). -/
  | upgrade (r : Cacher) (line : Nat)
  /-- HOME_WRITE (R324). -/
  | homeWrite (u : BitVec 16) (line : Nat) (mask : BitVec 128) (data : BitVec 1024) (poison : Bool)
  /-- FILL_COMPLETE (R321). -/
  | fillComplete (r : Cacher) (resp : BusResp)
  /-- OFFER (R325). -/
  | offer (r : Cacher) (line bankQueue : Nat)
  /-- WRITEBACK (R325). -/
  | writeback (r : Cacher) (x : HomeLine)
  /-- L2_LOCK_WAYS_WRITE (R326). -/
  | l2LockWaysWrite (a : Agent) (n : Slice) (val : BitVec 64)
  /-- LOCK_DRAIN_DONE (R326). -/
  | lockDrainDone (n : Slice)
  /-- CLEAN (R331). -/
  | clean (n : Core) (ra : SReg) (imm : BitVec 12)
  /-- INVAL (R331). -/
  | inval (n : Core) (ra : SReg) (imm : BitVec 12)
  /-- FLUSH (R331). -/
  | flush (n : Core) (ra : SReg) (imm : BitVec 12)
  /-- ZERO (R330). -/
  | zero (n : Core) (ra : SReg) (imm : BitVec 12)
  /-- PREF (R330). -/
  | pref (n : Core) (ra : SReg) (imm : BitVec 12)
  /-- PREFW (R330). -/
  | prefw (n : Core) (ra : SReg) (imm : BitVec 12)
  /-- LFILL (R327). -/
  | lfill (n : Core) (rd ra : SReg) (imm : BitVec 12)
  /-- CLEAN_R (R332). -/
  | cleanR (n : Core) (rd ra : SReg) (imm : BitVec 12)
  /-- INVAL_R (R332). -/
  | invalR (n : Core) (rd ra : SReg) (imm : BitVec 12)
  /-- FLUSH_R (R332). -/
  | flushR (n : Core) (rd ra : SReg) (imm : BitVec 12)
  /-- CACHE_INVALIDATE_DONE (R329). -/
  | cacheInvalidateDone (c : CacheId)
  /-- SNP_INV (R339). -/
  | snpInv (h : HostId) (line : Nat)
  /-- SNP_DATA (R339). -/
  | snpData (h : HostId) (line : Nat)
  /-- SNP_CUR (R339). -/
  | snpCur (h : HostId) (line : Nat)
  /-- HOST_MEM_READ (R340). -/
  | hostMemRead (h : HostId) (addr : BitVec 52) (len : Fin 129) (excl : Bool)
  /-- HOST_MEM_WRITE (R340). -/
  | hostMemWrite (h : HostId) (addr : BitVec 52) (len : Fin 129) (data : BitVec 1024) (poison : Bool)
  /-- BIRSP (R340). -/
  | birsp (h : HostId) (line : Nat) (dirty : Option (BitVec 1024))
  /-- BI_TIMEOUT (R419). -/
  | biTimeout (h : HostId) (line : Nat)
  /-- VAULT_READ (R360). -/
  | vaultRead (v : Vault) (l : Nat) (hit : List SymErr)
  /-- VAULT_WRITE (R361). -/
  | vaultWrite (v : Vault) (l : Nat) (data : BitVec 1024) (poison : Bool)
  /-- VAULT_PARTIAL_WRITE (R361). -/
  | vaultPartialWrite (v : Vault) (l : Nat) (mask : BitVec 128) (data : BitVec 1024) (hit : List SymErr)
  /-- SCRUB_LINE (R364). -/
  | scrubLine (v : Vault) (slot : ScrubSlot)
  /-- REFRESH_SLOT (R366). -/
  | refreshSlot (v : Vault)
  /-- TIER_TEMP_REPORT (R366). -/
  | tierTempReport (v : Vault) (t : Tier) (frame : BitVec 16)
  /-- BAND_FALL (R367). -/
  | bandFall (v : Vault)
  /-- TIER_TEMP_TIMEOUT (R561). -/
  | tierTempTimeout (v : Vault) (t : Tier)
  /-- MARK_ERASE (R373). -/
  | markErase (a : Agent) (v : Vault) (val : BitVec 64)
  /-- ZERO_ALL (R373). -/
  | zeroAll (a : Agent) (v : Vault)
  /-- ZERO_ALL_DONE (R373). -/
  | zeroAllDone (v : Vault)
  /-- VAULT_TRAINING_DONE (R561). -/
  | vaultTrainingDone (v : Vault) (badBond : Bool)
  /-- CLV_INT_OP (R381): classes 0x1 to 0x3, with rb or fn4 in `fld` and imm16, or fn12 below four zeros, in `top` and `fn`;
  or a word that no other command spells, which faults ILLEGAL. -/
  | clvIntOp (h : Thread) (cls : BitVec 4) (rd ra fld : GReg) (top : BitVec 4) (fn : BitVec 12)
  /-- LIH (R382). -/
  | lih (h : Thread) (rd : GReg) (imm : BitVec 16)
  /-- CLV_LOAD (R390). -/
  | clvLoad (h : Thread) (rd ra : GReg) (fn : BitVec 4) (imm : BitVec 16)
  /-- CLV_STORE (R390). -/
  | clvStore (h : Thread) (rs ra : GReg) (fn : BitVec 4) (imm : BitVec 16)
  /-- CLV_ATOMIC (R381). -/
  | clvAtomic (h : Thread) (rd ra rb : GReg) (fn : BitVec 12)
  /-- CLV_BRANCH (R381). -/
  | clvBranch (h : Thread) (ra rb : GReg) (cond : BitVec 3) (off : BitVec 16)
  /-- CLV_JL (R381). -/
  | clvJl (h : Thread) (rd : GReg) (off : BitVec 24)
  /-- CLV_JLR (R381). -/
  | clvJlr (h : Thread) (rd ra : GReg) (fn : BitVec 4) (imm : BitVec 16)
  /-- CLV_FENCE (R383). -/
  | clvFence (h : Thread)
  /-- TRD (R383). -/
  | trd (h : Thread) (rd : GReg) (num : BitVec 12)
  /-- TWR (R383). -/
  | twr (h : Thread) (ra : GReg) (num : BitVec 12)
  /-- RETT (R386). -/
  | rett (h : Thread)
  /-- CLV_WFI (R387). -/
  | clvWfi (h : Thread)
  /-- CLV_BREAK (R383). -/
  | clvBreak (h : Thread)
  /-- CMO (R383). -/
  | cmo (h : Thread) (rd ra : GReg) (fn : BitVec 5)
  /-- CLV_TRAP (R386). -/
  | clvTrap (h : Thread)
  /-- GETTASK (R396). -/
  | gettask (h : Thread) (rd ra : GReg)
  /-- TASK_DISPATCH (R396). -/
  | taskDispatch
  /-- TREADY (R401). -/
  | tready (h : Thread) (rd ra : GReg)
  /-- TEND (R401). -/
  | tend (h : Thread) (rd : GReg)
  /-- TBLOCK (R401). -/
  | tblock (h : Thread) (rd ra : GReg)
  /-- TDELAY (R398). -/
  | tdelay (h : Thread) (rd ra : GReg)
  /-- TYIELD (R398). -/
  | tyield (h : Thread) (rd : GReg)
  /-- TPRIO (R398). -/
  | tprio (h : Thread) (rd ra rb : GReg)
  /-- FLOWPUT (R403). -/
  | flowput (h : Thread) (rd ra rb : GReg)
  /-- FLOWDONE (R398). -/
  | flowdone (h : Thread) (rd ra : GReg)
  /-- FLOWTAKE (R404). -/
  | flowtake (h : Thread) (rd ra : GReg)
  /-- TICK (R405). -/
  | tick
  /-- DELAY_EXPIRY (R405). -/
  | delayExpiry (x : TaskId)
  /-- TIMEOUT_EXPIRY (R405). -/
  | timeoutExpiry (x : TaskId)
  /-- TASK_CFG_WRITE (R408). -/
  | taskCfgWrite (a : Agent) (x : TaskId) (val : BitVec 64)
  /-- ANISE_CTRL_WRITE (R408). -/
  | aniseCtrlWrite (a : Agent) (val : BitVec 64)
  /-- CLV_THREAD_RESET (R409). -/
  | clvThreadReset (a : Agent) (h : Thread)
  /-- CLV_THREAD_RUN (R409). -/
  | clvThreadRun (a : Agent) (h : Thread)
  /-- CLV_IPI_SET (R409). -/
  | clvIpiSet (a : Agent) (mask : BitVec 64)
  /-- CLV_IPI_CLEAR (R409). -/
  | clvIpiClear (a : Agent) (mask : BitVec 64)
  /-- CLV_CORE_RESET (R409). -/
  | clvCoreReset (a : Agent) (c : Clove)
  /-- HOST_SQ_TAIL_WRITE (R425). -/
  | hostSqTailWrite (a : Agent) (h : HostId) (f : FnId) (tail : BitVec 12)
  /-- SQ_HEAD_WRITE (R427). -/
  | sqHeadWrite (a : Agent) (h : HostId) (f : FnId) (head : BitVec 12)
  /-- CQ_TAIL_WRITE (R425). -/
  | cqTailWrite (a : Agent) (h : HostId) (f : FnId) (tail : BitVec 12)
  /-- CQ_HEAD_WRITE (R427). -/
  | cqHeadWrite (a : Agent) (h : HostId) (f : FnId) (head : BitVec 12)
  /-- RING_BASE_WRITE (R435). -/
  | ringBaseWrite (a : Agent) (h : HostId) (f : FnId) (cq : Bool) (val : BitVec 64)
  /-- HOST_LINK_TRAIN (R412). -/
  | hostLinkTrain (h : HostId) (width rate : Nat)
  /-- IDE_ESTABLISH (R413). -/
  | ideEstablish (h : HostId)
  /-- IDE_FAILURE (R413). -/
  | ideFailure (h : HostId) (stream : BitVec 64)
  /-- HOST_LINK_DOWN (R432). -/
  | hostLinkDown (h : HostId)
  /-- MBX_WORD_WRITE (R430). -/
  | mbxWordWrite (a : Agent) (c : MbxId) (w : Fin 8) (val : BitVec 64)
  /-- MBX_POST (R430). -/
  | mbxPost (a : Agent) (c : MbxId) (val : BitVec 64)
  /-- MBX_TAKE (R430). -/
  | mbxTake (a : Agent) (c : MbxId)
  /-- MBX_DB_MASK_WRITE (R431). -/
  | mbxDbMaskWrite (a : Agent) (target : BitVec 16) (val : BitVec 64)
  /-- FLIT_RECEIVE (R438). -/
  | flitReceive (p : Port) (f : FlitIn)
  /-- FLIT_REPLAY (R440). -/
  | flitReplay (p : Port)
  /-- CREDIT_RETURN (R439). -/
  | creditReturn (p : Port) (vc : Fin 4) (n : BitVec 12)
  /-- LANE_RETIRE (R441). -/
  | laneRetire (p : Port) (x : LaneFail)
  /-- LINK_DOWN (R441). -/
  | linkDown (p : Port) (why : DownCause)
  /-- LNK_TRAIN (R461). -/
  | lnkTrain (a : Agent) (p : Port)
  /-- LNK_DOWN_CMD (R461). -/
  | lnkDownCmd (a : Agent) (p : Port)
  /-- RESET_LANES (R461). -/
  | resetLanes (a : Agent) (p : Port)
  /-- LINK_TRAINING_DONE (R456). -/
  | linkTrainingDone (p : Port) (group : BitVec 32) (block : BitVec 6) (port : BitVec 5)
  /-- PUT (R447). -/
  | put (p : Port) (k : Packet)
  /-- GET (R447). -/
  | get (p : Port) (k : Packet)
  /-- TRANSPORT_ATOMIC (R443). -/
  | transportAtomic (p : Port) (k : Packet)
  /-- RESP (R449). -/
  | resp (p : Port) (k : Packet)
  /-- ACK (R444). -/
  | ack (p : Port) (k : Packet)
  /-- NACK (R444). -/
  | nack (p : Port) (k : Packet)
  /-- RETRANSMIT_TIMEOUT (R444). -/
  | retransmitTimeout (dst : BlockNo) (vc : Fin 4)
  /-- PACKET_FORWARD (R445). -/
  | packetForward (p : Port) (k : Packet)
  /-- RATE_INCREASE (R451). -/
  | rateIncrease (dst : BlockNo)
  /-- PFC_PAUSE (R452). -/
  | pfcPause (p : Port) (prio : BitVec 3) (xoff : Bool)
  /-- HEARTBEAT_SEND (R457). -/
  | heartbeatSend
  /-- HEARTBEAT (R457): the packet, and the live mask, manager, term and stage that begin its data. -/
  | heartbeat (r : Arrival) (live : W64) (mgr : BitVec 8) (term : BitVec 32) (stage : W64)
  /-- LIVENESS_EXPIRY (R457). -/
  | livenessExpiry (b : BlockNo)
  /-- CLAIM (R458). -/
  | claim (p : Port) (k : Packet)
  /-- GRANT (R458). -/
  | grant (p : Port) (k : Packet)
  /-- CLAIM_TIMEOUT (R458). -/
  | claimTimeout
  /-- ARRIVE (R459): the packet, and the phase that its address field holds. -/
  | arrive (p : Port) (k : Packet) (phase : BitVec 52)
  /-- RELEASE (R459). -/
  | release (p : Port) (k : Packet)
  /-- GROUP_BREAK (R459). -/
  | groupBreak (r : Arrival)
  /-- DISTRIBUTE (R460). -/
  | distribute (a : Agent)
  /-- IMAGE_RECEIVED (R460). -/
  | imageReceived
  /-- COLL_ARM (R462). -/
  | collArm (a : Agent) (k : CollCtx)
  /-- COLL_ABORT (R462). -/
  | collAbort (a : Agent) (k : CollCtx)
  /-- COLL (R454). -/
  | coll (p : Port) (k : Packet)
  /-- COLL_UNARMED_TIMEOUT (R455). -/
  | collUnarmedTimeout (p : Port) (k : Packet)
  /-- COLL_COMPLETE (R455). -/
  | collComplete (k : CollCtx)
  /-- OP_STAGE_WRITE (R466). -/
  | opStageWrite (a : Agent) (val : BitVec 64)
  /-- STANDBY_PLL_LOCK (R467). -/
  | standbyPllLock
  /-- RAIL_RISE_DONE (R467). -/
  | railRiseDone
  /-- RELOCK_END (R467). -/
  | relockEnd
  /-- AVS_TRANSACTION (R472). -/
  | avsTransaction (rail : Rail) (cmd : AvsCmd) (ok : Bool) (val : Nat)
  /-- RAIL_POLL (R472). -/
  | railPoll (mv amps : List Nat)
  /-- CAP_EVALUATION (R476). -/
  | capEvaluation
  /-- CAP_SUSTAINED (R476). -/
  | capSustained
  /-- THERMAL_SAMPLE (R477). -/
  | thermalSample (die : List Nat) (spine : List Nat)
  /-- TRIP_RELEASE (R478). -/
  | tripRelease
  /-- PLAN (R481). -/
  | plan (a : Agent)
  /-- PLAN_TRIGGER (R481). -/
  | planTrigger
  /-- PLAN_DONE (R480). -/
  | planDone (shift : List Int)
  /-- DROOP_TRIP (R484). -/
  | droopTrip (sensor : Tu) (halfMv : Nat)
  /-- DROOP_HOLD_EXPIRY (R484). -/
  | droopHoldExpiry (q : Quad)
  /-- DROOP_VALIDITY_LOSS (R486). -/
  | droopValidityLoss (iLoad : Nat)
  /-- STATIC_GB_RELEASE (R486). -/
  | staticGbRelease (iLoad : Nat)
  /-- CALIBRATION_BURST_START (R487). -/
  | calibrationBurstStart (iLoad : Nat)
  /-- CALIBRATION_BURST_END (R487). -/
  | calibrationBurstEnd (d iMax : Nat)
  /-- PD_REQ_WRITE (R473). -/
  | pdReqWrite (a : Agent) (r : PdReg) (val : BitVec 64)
  /-- DOMAIN_OFF_DONE (R473). -/
  | domainOffDone (d : Domain)
  /-- DOMAIN_ON_DONE (R473). -/
  | domainOnDone (d : Domain)
  /-- CAP_WRITE (R496). -/
  | capWrite (a : Agent) (val : BitVec 64)
  /-- CAR_HOLDUP_WRITE (R491). -/
  | carHoldupWrite (a : Agent) (mj : BitVec 16)
  /-- RECORD_WRITE (R493). -/
  | recordWrite
  /-- FLASH_PROGRAM_DONE (R491). -/
  | flashProgramDone
  /-- AGEING_RECORD (R488). -/
  | ageingRecord
  /-- RETENTION_CANARY (R488). -/
  | retentionCanary (v : Vault) (l : Nat) (hit : List SymErr)
  /-- CARAWAY_BUDGET_WINDOW (R489). -/
  | carawayBudgetWindow
  /-- TELEMETRY_CAPTURE (R494). -/
  | telemetryCapture
  /-- TELEMETRY_LATCH_READ (R495). -/
  | telemetryLatchRead (a : Agent) (g : TelGroup) (word : Fin 32)
  /-- ERROR_DETECT (R508). -/
  | errorDetect (d : Detection)
  /-- ERROR_LOG_FLUSH (R511). -/
  | errorLogFlush
  /-- PART_HELD_RELEASE (R502). -/
  | partHeldRelease (a : Agent) (mask : BitVec 16)
  /-- WATCHDOG_KICK (R517). -/
  | watchdogKick (a : Agent) (c : Clove)
  /-- WATCHDOG_EXPIRY (R517). -/
  | watchdogExpiry (c : Clove)
  /-- INJECTION_ARM (R519). -/
  | injectionArm (a : Agent) (val : BitVec 64)
  /-- INJECTION_FIRE (R519). -/
  | injectionFire (e : InjEvent)
  /-- PMC_WRAP (R513). -/
  | pmcWrap (u : BitVec 16) (c : Fin 8)
  /-- SNAP_CMD (R515). -/
  | snapCmd (a : Agent) (mask : BitVec 16)
  /-- SNAP_LATCH_READ (R515). -/
  | snapLatchRead (a : Agent) (r : SnapRead)
  /-- PWRGOOD_FALL (R552). -/
  | pwrgoodFall
  /-- RESET_N_LOW (R552). -/
  | resetNLow (cycles : Nat)
  /-- COLD_RESET (R522). -/
  | coldReset (a : Agent)
  /-- BOOT_RELEASE (R524). -/
  | bootRelease (pufOk : Bool)
  /-- BOOT_ROOT_LOCK (R524). -/
  | bootRootLock
  /-- BOOT_ROM_STAGES (R525). -/
  | bootRomStages
  /-- RECORD_SCAN_DONE (R492). -/
  | recordScanDone
  /-- BLK_READY (R527). -/
  | blkReady (a : Agent)
  /-- ADVANCE_FW_FLOOR (R538). -/
  | advanceFwFloor (a : Agent)
  /-- ADVANCE_SHAPE_FLOOR (R538). -/
  | advanceShapeFloor (a : Agent)
  /-- REVOKE_KEY (R538). -/
  | revokeKey (a : Agent)
  /-- FUSE_PROGRAM_DONE (R538). -/
  | fuseProgramDone (ok : Bool)
  /-- DEBUG_CHECK (R546). -/
  | debugCheck (a : Agent)
  /-- DEBUG_LOCK (R547). -/
  | debugLock (a : Agent)
  /-- UNLOCK_EXPIRY (R547). -/
  | unlockExpiry
  /-- SIGN (R541). -/
  | sign (a : Agent)
  /-- SIGN_DONE (R541). -/
  | signDone
  /-- HOLDUP_LOW (R553). -/
  | holdupLow
  /-- HOLDUP_RESTORE (R553). -/
  | holdupRestore
  /-- REFCLK_LOSS (R551). -/
  | refclkLoss
  /-- CRIT_COMPARATOR (R566). -/
  | critComparator (spine : List Nat)
  /-- I3C_REGISTER_ACCESS (R562). -/
  | i3cRegisterAccess (bytes : List (BitVec 8))
  /-- I3C_MCTP_PACKET (R562). -/
  | i3cMctpPacket (bytes : List (BitVec 8))
  /-- TIMER_INTERRUPT (R84). -/
  | timerInterrupt (t : TimerTarget)
  /-- RC_READ (R10). -/
  | rcRead (a : Agent) (r : RegAt) (w : Width)
  /-- VAON_LOSS (R522). -/
  | vaonLoss
  /-- REFCLK_RESTORE (R551). -/
  | refclkRestore
  /-- HOST_CONFIG_WRITE (R432). -/
  | hostConfigWrite (h : HostId) (c : HostCfg)
  /-- BANK_ROW_CLOSE (R371). -/
  | bankRowClose (v : Vault) (bank : BankId)
  /-- CALIBRATION_BURST_CANCEL (R487). -/
  | calibrationBurstCancel
  /-- TCK_EDGE (R567). -/
  | tckEdge (rising tms tdi trst : Bool)
deriving DecidableEq, Repr

end Sys2Proof
end

