-- ==== Sys2Proof/Decode.lean ====
section
/-! DEFINITION. Commands from words. The block's commands have no encoding of their own: opcode_table.json gives no row any
bits, so that no word spells a command for the host. The instructions of worker cores and of Clove threads have one (R91,
R149, R178, R260, R300, R330, R380): here is its decoder. -/

namespace Sys2Proof

/-- The command that a word spells by the table's bits: none, for no row has any. -/
def decodeTableWord (_nbits _w : Nat) : Option Instr := none

/-! ## Fields of a word. -/

/-- Bits [lo + len - 1:lo] of an instruction word. -/
abbrev cut (w : BitVec 32) (lo len : Nat) : BitVec len := w.extractLsb' lo len

/-- A register number of 5, 4, 3 or 2 bits. -/
def sreg (w : BitVec 32) (lo : Nat) : SReg := (cut w lo 5).toFin
def greg (w : BitVec 32) (lo : Nat) : GReg := (cut w lo 4).toFin
def mreg (w : BitVec 32) (lo : Nat) : MReg := (cut w lo 3).toFin
def accOf (w : BitVec 32) : AccId := (cut w 25 2).toFin

/-- The bits of a register number. -/
abbrev b5 (r : Fin 32) : BitVec 5 := BitVec.ofFin r
abbrev b4 (r : Fin 16) : BitVec 4 := BitVec.ofFin r

/-- An instruction where the fields that it does not use are zero (R92). -/
def onlyIf (used : Bool) (i : Instr) : Option Instr := if used then some i else none

/-! ## Worker instructions (R91, R92). -/

/-- Class 0x0C: fences (R99). -/
def decodeFence (n : Core) (w : BitVec 32) : Option Instr :=
  if cut w 22 5 ≠ 0 ∨ cut w 17 5 ≠ 0 ∨ cut w 0 12 ≠ 0 then none
  else match (cut w 12 5).toNat with
    | 0 => some (.fence n) | 1 => some (.fenceLd n) | 2 => some (.fenceSt n) | 3 => some (.fenceIo n) | 4 => some (.iflush n)
    | _ => none

/-- A write of a CSR, or the row of the table that a write of a particular one has (R100, R146, R177, R259, R303). -/
def csrRow (n : Core) (op : CsrOp) (rd src : SReg) (csr : BitVec 12) (plain : Instr) : Instr :=
  if csr = 0x003 then .vlWrite n op rd src
  else if csr = 0x040 then .mshapeWrite n op rd src
  else if 0x080 ≤ csr ∧ csr < 0x090 then .strptrWrite n op rd src (csr.extractLsb' 0 4).toFin
  else if 0x0C0 ≤ csr ∧ csr < 0x0D0 ∧ csr.extractLsb' 0 2 = (0 : BitVec 2) then .hrcfgWrite n op rd src (csr.extractLsb' 2 2).toFin
  else if 0x0C0 ≤ csr ∧ csr < 0x0D0 ∧ csr.extractLsb' 0 2 = (1 : BitVec 2) then .hrptrWrite n op rd src (csr.extractLsb' 2 2).toFin
  else plain

/-- Class 0x0D: CSR access (R100). -/
def decodeCsr (n : Core) (w : BitVec 32) : Option Instr :=
  let rd := sreg w 22
  let src := sreg w 17
  let csr := cut w 0 12
  match (cut w 12 5).toNat with
  | 0 => some (csrRow n .w rd src csr (.csrw n rd src csr))
  | 1 => some (csrRow n .s rd src csr (.csrs n rd src csr))
  | 2 => some (csrRow n .c rd src csr (.csrc n rd src csr))
  | 4 => some (csrRow n .wi rd src csr (.csrwi n rd (cut w 17 5) csr))
  | 5 => some (csrRow n .si rd src csr (.csrsi n rd (cut w 17 5) csr))
  | 6 => some (csrRow n .ci rd src csr (.csrci n rd (cut w 17 5) csr))
  | _ => none

/-- Class 0x0E: system (R101). -/
def decodeSystem (n : Core) (w : BitVec 32) : Option Instr :=
  if cut w 22 5 ≠ 0 ∨ cut w 0 12 ≠ 0 ∨ (cut w 17 5 ≠ 0 ∧ cut w 12 5 ≠ 2) then none
  else match (cut w 12 5).toNat with
    | 0 => some (.mcall n) | 1 => some (.brk n) | 2 => some (.jexit n (sreg w 17)) | 3 => some (.retm n) | 4 => some (.wfi n)
    | 5 => some (.jobgo n) | _ => none

/-- Class 0x0F: cache maintenance (R330). -/
def decodeMaint (n : Core) (w : BitVec 32) : Option Instr :=
  let rd := sreg w 22
  let ra := sreg w 17
  let imm := cut w 0 12
  let bare := cut w 22 5 == 0
  match (cut w 12 5).toNat with
  | 0 => onlyIf bare (.clean n ra imm) | 1 => onlyIf bare (.inval n ra imm) | 2 => onlyIf bare (.flush n ra imm)
  | 3 => onlyIf bare (.zero n ra imm) | 4 => onlyIf bare (.pref n ra imm) | 5 => onlyIf bare (.prefw n ra imm)
  | 6 => some (.lfill n rd ra imm) | 8 => some (.cleanR n rd ra imm) | 9 => some (.invalR n rd ra imm)
  | 10 => some (.flushR n rd ra imm) | _ => none

/-- Class 0x10: vector configuration and moves (R151). -/
def decodeVecConfig (n : Core) (w : BitVec 32) : Option Instr :=
  let mk0 := cut w 9 3 == 0
  let b0 := cut w 12 5 == 0
  let f0 := cut w 4 5 == 0
  match (cut w 0 4).toNat with
  | 0 => onlyIf (mk0 && b0) (.vsetvl n (sreg w 22) (sreg w 17) (cut w 4 5))
  | 1 => onlyIf mk0 (.vsetvli n (sreg w 22) (cut w 12 10) (cut w 4 5))
  | 2 => onlyIf (mk0 && b0 && f0) (.vmvr n (sreg w 22) (sreg w 17))
  | 3 => onlyIf (mk0 && b0 && f0 && cut w 17 5 == 0) (.vzero n (sreg w 22))
  | 4 => onlyIf (mk0 && b0 && f0 && cut w 25 2 == 0 && cut w 20 2 == 0) (.mmvr n (mreg w 22) (mreg w 17))
  | _ => none

/-- Classes 0x11 and 0x12: element-wise arithmetic (R152). -/
def decodeElementwise (n : Core) (w : BitVec 32) (scalarB : Bool) : Instr :=
  let vd := sreg w 22
  let va := sreg w 17
  let vb := sreg w 12
  let mk := mreg w 9
  let f := cut w 4 5
  if cut w 0 4 = 14 then .vmerge n scalarB vd va vb mk f
  else if cut w 0 4 = 13 ∧ !scalarB then .vunary n vd va (cut w 12 5) mk f
  else .vectorElementwiseOp n scalarB (cut w 0 4) vd va vb mk f

/-- Class 0x15: compares and mask operations (R157). -/
def decodeCompare (n : Core) (w : BitVec 32) : Option Instr :=
  let md := mreg w 22
  let ma := mreg w 17
  let f := cut w 4 5
  let mk0 := cut w 9 3 == 0
  let d0 := cut w 25 2 == 0
  let a0 := cut w 20 2 == 0
  match (cut w 0 4).toNat with
  | 10 => onlyIf (mk0 && d0 && a0 && cut w 15 2 == 0) (.mlogic n md ma (mreg w 12) f)
  | 11 => onlyIf (mk0 && a0 && cut w 12 5 == 0) (.mpop n (sreg w 22) ma f)
  | 12 => onlyIf (mk0 && a0 && cut w 12 5 == 0) (.mfirst n (sreg w 22) ma f)
  | op => onlyIf (decide (op < 10) && d0) (.vectorCompare n (cut w 0 4) md (sreg w 17) (sreg w 12) (mreg w 9) f)

/-- Class 0x16: reductions and permutations (R158). -/
def decodeReduce (n : Core) (w : BitVec 32) : Option Instr :=
  let d := sreg w 22
  let a := sreg w 17
  let b := sreg w 12
  let mk := mreg w 9
  let f := cut w 4 5
  let mk0 := cut w 9 3 == 0
  let b0 := cut w 12 5 == 0
  match (cut w 0 4).toNat with
  | 0 => onlyIf b0 (.vrsum n d a mk f) | 1 => onlyIf b0 (.vrmax n d a mk f) | 2 => onlyIf b0 (.vrmin n d a mk f)
  | 3 | 4 | 5 => onlyIf b0 (.vectorBitwiseReduce n (cut w 0 4) d a mk f)
  | 8 => some (.vslidedn n d a b mk f) | 9 => some (.vslideup n d a b mk f) | 10 => some (.vperm n d a b mk f)
  | 11 => onlyIf b0 (.vcompress n d a mk f)
  | 12 => onlyIf mk0 (.vmvx n d a b f) | 13 => onlyIf mk0 (.vmvs n d a b f)
  | 14 => onlyIf (b0 && cut w 17 5 == 0) (.vid n d mk f)
  | _ => none

/-- Class 0x17: vector loads and stores (R163). -/
def decodeVecMem (n : Core) (w : BitVec 32) : Option Instr :=
  let d := sreg w 22
  let a := sreg w 17
  let b := sreg w 12
  let mk := mreg w 9
  let f := cut w 4 5
  let b0 := cut w 12 5 == 0
  let bare := cut w 9 3 == 0 && b0 && cut w 4 5 == 0
  match (cut w 0 4).toNat with
  | 0 => onlyIf b0 (.vld n d a mk f) | 1 => onlyIf b0 (.vst n d a mk f)
  | 2 => some (.vlds n d a b mk f) | 3 => some (.vsts n d a b mk f)
  | 4 => some (.vldx n d a b mk f) | 5 => some (.vstx n d a b mk f)
  | 6 => onlyIf (bare && cut w 25 2 == 0) (.mld n (mreg w 22) a) | 7 => onlyIf (bare && cut w 25 2 == 0) (.mst n (mreg w 22) a)
  | 8 => onlyIf bare (.vldr n d a) | 9 => onlyIf bare (.vstr n d a)
  | _ => none

/-- Class 0x19: accumulator moves and conversions (R181). -/
def decodeAcc (n : Core) (w : BitVec 32) : Option Instr :=
  let acc := accOf w
  let f := cut w 20 5
  let a := sreg w 15
  let b := sreg w 10
  if cut w 4 6 ≠ 0 then none
  else match (cut w 0 4).toNat with
    | 0 => onlyIf (cut w 15 5 == 0 && cut w 10 5 == 0) (.mzero n acc f)
    | 1 => some (.maccld n acc f a b) | 2 => some (.maccst n acc f a b) | 3 => some (.maccstc n acc f a b)
    | 4 => some (.maccstcd n acc f a b) | 5 => some (.mrd n acc f a b) | 6 => some (.mwr n acc f a b)
    | _ => none

/-- Class 0x1A: fence and shape (R183). -/
def decodeShape (n : Core) (w : BitVec 32) : Option Instr :=
  if cut w 0 27 = 0 then some (.mfence n)
  else onlyIf (cut w 4 7 == 0 && cut w 0 4 == 1) (.mshapei n (cut w 19 8) (cut w 11 8))

/-- Class 0x1C: stream engine, semaphores and barriers (R300). -/
def decodeSync (n : Core) (w : BitVec 32) : Option Instr :=
  let rd := sreg w 22
  let ra := sreg w 17
  let rb := sreg w 12
  let b0 := cut w 12 5 == 0
  match (cut w 0 12).toNat with
  | 0 => some (.sstart n rd ra rb) | 1 => some (.srearm n rd ra rb)
  | 2 => onlyIf b0 (.sstop n rd ra) | 3 => onlyIf b0 (.swait n rd ra) | 4 => onlyIf b0 (.sempost n rd ra)
  | 5 => onlyIf b0 (.semwait n rd ra) | 6 => onlyIf b0 (.semtry n rd ra) | 7 => some (.bararv n rd ra rb)
  | 8 => onlyIf b0 (.barwait n rd ra) | 9 => onlyIf b0 (.nlarm n rd ra) | 10 => onlyIf b0 (.semrd n rd ra)
  | _ => none

/-- Class 0x1D: Saffron and tree tables (R260). -/
def decodeQuery (n : Core) (w : BitVec 32) : Option Instr :=
  let rd := sreg w 22
  let ra := sreg w 17
  let rb := sreg w 12
  let b0 := cut w 12 5 == 0
  match (cut w 0 12).toNat with
  | 0 => onlyIf b0 (.qsub n rd ra) | 1 => some (.qsubn n rd ra rb) | 2 => onlyIf b0 (.qsrc n rd ra)
  | 3 => onlyIf (cut w 12 15 == 0) (.qflush n) | 4 => some (.ttnext n rd ra rb)
  | 5 => onlyIf b0 (.ttswap n rd ra) | 6 => onlyIf b0 (.ttread n rd ra) | _ => none

/-- The instruction that a word spells to core `n`, none where its class is reserved, its function code has no row, or a field
that it does not use is not zero (R92, R150, R178, R260, R300). Codes and formats that an instruction checks itself stand in
its operands. -/
def decodeWorker (n : Core) (w : BitVec 32) : Option Instr :=
  let rd := sreg w 22
  let ra := sreg w 17
  let rb := sreg w 12
  match (cut w 27 5).toNat with
  | 0x01 => some (.intRegisterOp n rd ra rb ⟨0x01, cut w 0 12⟩)
  | 0x02 => some (.intImmediateOp n rd ra (cut w 12 5) (cut w 0 12))
  | 0x03 => some (.mulDivOp n rd ra rb (cut w 0 12))
  | 0x04 => some (.liu n rd (cut w 0 22))
  | 0x05 => some (.addpc n rd (cut w 0 22))
  | 0x06 => some (.scalarLoad n rd ra (cut w 12 5) (cut w 0 12))
  | 0x07 => some (.scalarStore n rd ra (cut w 12 5) (cut w 0 12))
  | 0x08 => some (.atomic n rd ra rb (cut w 0 12))
  | 0x09 => some (.branch n rd ra (cut w 14 3) (cut w 0 14))
  | 0x0A => some (.jl n rd (cut w 0 22))
  | 0x0B => some (.jlr n rd ra (cut w 12 5) (cut w 0 12))
  | 0x0C => decodeFence n w
  | 0x0D => decodeCsr n w
  | 0x0E => decodeSystem n w
  | 0x0F => decodeMaint n w
  | 0x10 => decodeVecConfig n w
  | 0x11 => some (decodeElementwise n w false)
  | 0x12 => some (decodeElementwise n w true)
  | 0x13 => some (.vfma n (cut w 0 4) rd ra rb (mreg w 9) (cut w 4 5))
  | 0x14 => some (.vcvt n rd ra (cut w 12 5) (mreg w 9) (cut w 4 5) (cut w 0 4))
  | 0x15 => decodeCompare n w
  | 0x16 => decodeReduce n w
  | 0x17 => decodeVecMem n w
  | 0x18 => some (.mma n (accOf w) (cut w 20 5) (cut w 15 5) (sreg w 10) (sreg w 5) (sreg w 0))
  | 0x19 => decodeAcc n w
  | 0x1A => decodeShape n w
  | 0x1C => decodeSync n w
  | 0x1D => decodeQuery n w
  | _ => none

/-- The word of the Register form with all its fields (R91). -/
def wordOf (cls : BitVec 5) (rd ra rb : SReg) (fn : BitVec 12) : BitVec 32 :=
  cls ++ b5 rd ++ b5 ra ++ b5 rb ++ fn

/-- The command that runs a word on core `n`: its instruction, or the word itself, which faults ILLEGAL (R92). -/
def runWorker (n : Core) (w : BitVec 32) : Instr :=
  (decodeWorker n w).getD (.intRegisterOp n (sreg w 22) (sreg w 17) (sreg w 12) ⟨cut w 27 5, cut w 0 12⟩)

/-! ## Clove instructions (R380, R381). -/

/-- Class 0xA: system (R383). -/
def decodeCloveSystem (h : Thread) (w : BitVec 32) : Option Instr :=
  let rd := greg w 24
  let ra := greg w 20
  let d0 := cut w 24 4 == 0
  let a0 := cut w 20 4 == 0
  let i0 := cut w 0 16 == 0
  match (cut w 16 4).toNat with
  | 0 => onlyIf (d0 && a0 && i0) (.clvFence h)
  | 1 => onlyIf (a0 && cut w 12 4 == 0) (.trd h rd (cut w 0 12))
  | 2 => onlyIf (d0 && cut w 12 4 == 0) (.twr h ra (cut w 0 12))
  | 3 => onlyIf (d0 && a0 && i0) (.rett h)
  | 4 => onlyIf (d0 && a0 && i0) (.clvWfi h)
  | 5 => onlyIf (d0 && a0 && i0) (.clvBreak h)
  | 6 => onlyIf (cut w 5 11 == 0) (.cmo h rd ra (cut w 0 5))
  | _ => none

/-- Class 0xB: the task scheduler (R398). -/
def decodeTask (h : Thread) (w : BitVec 32) : Option Instr :=
  let rd := greg w 24
  let ra := greg w 20
  let rb := greg w 16
  let a0 := cut w 20 4 == 0
  let b0 := cut w 16 4 == 0
  match (cut w 0 16).toNat with
  | 0 => onlyIf b0 (.gettask h rd ra) | 1 => onlyIf b0 (.tready h rd ra) | 2 => onlyIf (a0 && b0) (.tend h rd)
  | 3 => onlyIf b0 (.tblock h rd ra) | 4 => onlyIf b0 (.tdelay h rd ra) | 5 => onlyIf (a0 && b0) (.tyield h rd)
  | 6 => some (.tprio h rd ra rb) | 7 => some (.flowput h rd ra rb) | 8 => onlyIf b0 (.flowdone h rd ra)
  | 9 => onlyIf b0 (.flowtake h rd ra) | _ => none

/-- The instruction that a word spells to thread `h`, none where its class is reserved, its function code has no row, or a
field that it does not use is not zero (R381, R383, R398). -/
def decodeClove (h : Thread) (w : BitVec 32) : Option Instr :=
  let rd := greg w 24
  let ra := greg w 20
  let rb := greg w 16
  let imm := cut w 0 16
  match (cut w 28 4).toNat with
  | 0x1 => some (.clvIntOp h 0x1 rd ra rb (cut w 12 4) (cut w 0 12))
  | 0x2 => some (.clvIntOp h 0x2 rd ra rb (cut w 12 4) (cut w 0 12))
  | 0x3 => if cut w 16 4 = 9 then onlyIf (cut w 20 4 == 0) (.lih h rd imm) else some (.clvIntOp h 0x3 rd ra rb (cut w 12 4) (cut w 0 12))
  | 0x4 => some (.clvLoad h rd ra (cut w 16 4) imm)
  | 0x5 => some (.clvStore h rd ra (cut w 16 4) imm)
  | 0x6 => onlyIf (cut w 12 4 == 0) (.clvAtomic h rd ra rb (cut w 0 12))
  | 0x7 => onlyIf (cut w 16 1 == 0) (.clvBranch h rd ra (cut w 17 3) imm)
  | 0x8 => some (.clvJl h rd (cut w 0 24))
  | 0x9 => some (.clvJlr h rd ra (cut w 16 4) imm)
  | 0xA => decodeCloveSystem h w
  | 0xB => decodeTask h w
  | _ => none

/-- The word of a Clove instruction from its fields (R380). -/
def cloveWordOf (cls : BitVec 4) (rd ra fld : GReg) (imm : BitVec 16) : BitVec 32 :=
  cls ++ b4 rd ++ b4 ra ++ b4 fld ++ imm

/-- The command that runs a word on thread `h`: its instruction, or the word itself, which faults ILLEGAL (R381). -/
def runClove (h : Thread) (w : BitVec 32) : Instr :=
  (decodeClove h w).getD (.clvIntOp h (cut w 28 4) (greg w 24) (greg w 20) (greg w 16) (cut w 12 4) (cut w 0 12))

end Sys2Proof
end

