-- ==== Sys2Proof/Config.lean ====
section
/-! DEFINITION. What an implementation fixes and the values the spec leaves open: constants without a body, so that
no proof can see what they are. Each names the log entry that declares it. -/

namespace Sys2Proof.Config

/-- A free value of 64 bits, drawn by a counter of State (log 1). -/
opaque freeValue : Nat → BitVec 64

/-- A free choice among `n` possibilities: the counter's value picks one (log 1). -/
opaque freeChoice : Nat → Nat → Nat

/-- Whether an ML-DSA-87 signature verifies: public key, message, signature (R40, FIPS 204; log 4). -/
opaque mldsaVerify : List Byte → List Byte → List Byte → Bool

/-- Whether an ECDSA P-384 signature verifies: public key, message digest, signature (log 4). -/
opaque ecdsaVerify : List Byte → List Byte → List Byte → Bool

/-- A deterministic signature: private key, message (log 4). -/
opaque signature : List Byte → List Byte → List Byte

/-- The public key of a private key (log 4). -/
opaque publicKey : List Byte → List Byte

/-- The SHA-384 digest of the boot ROM, whose contents the spec does not give (R524, R535; log 4). -/
opaque romDigest : BitVec 384

/-- The boot ROM entry, which lies outside the address map (R524; log 4). -/
opaque romEntry : BitVec 64

/-- Bytes of boot flash beyond the 32 MiB that R564 asks for (log 4). -/
opaque flashExtra : Nat

/-- The DER certificate of a public key that a private key signs, with what it lists (R539; log 4). -/
opaque certificate : List Byte → List Byte → List Byte → List Byte

/-- The private key that the key generation of R539 draws from a 48-byte seed (log 4). -/
opaque keygen : List Byte → List Byte

/-- The directory set of a line, before its reduction below 2,048 (R335; log 10). -/
opaque dirSet : Nat → Nat

end Sys2Proof.Config
end

