-- ==== Sys2Proof/Machine/Detectors.lean ====
section
/-! DEFINITION. The detector table of the error unit: kind, minimum and default action of each identifier
(R499, R500, R504). -/

namespace Sys2Proof.Machine

/-- The kinds of detector (R499): corrected, uncorrectable, event. -/
inductive DetKind where
  | c | u | e
deriving DecidableEq, Repr

/-- A row of the detector table: identifier, kind, minimum and default action (R504). -/
structure DetRow where
  id : Nat
  kind : DetKind
  min : Nat
  dflt : Nat
deriving DecidableEq, Repr

/-- The detectors of R504. -/
def detectorTable : List DetRow :=
  [ ⟨0x00, .c, 0, 0⟩, ⟨0x01, .u, 1, 1⟩, ⟨0x02, .c, 0, 0⟩, ⟨0x03, .c, 0, 0⟩, ⟨0x04, .u, 1, 1⟩, ⟨0x05, .c, 0, 0⟩,
    ⟨0x06, .u, 1, 1⟩, ⟨0x07, .c, 0, 0⟩, ⟨0x08, .c, 0, 0⟩, ⟨0x09, .c, 0, 0⟩, ⟨0x0B, .c, 0, 0⟩, ⟨0x0C, .u, 1, 1⟩,
    ⟨0x0D, .c, 0, 0⟩, ⟨0x0E, .u, 1, 1⟩ ] ++
  [ ⟨0x10, .c, 0, 0⟩, ⟨0x11, .c, 0, 0⟩, ⟨0x12, .u, 1, 1⟩, ⟨0x13, .c, 0, 0⟩, ⟨0x14, .e, 0, 0⟩, ⟨0x18, .c, 0, 0⟩,
    ⟨0x19, .u, 4, 4⟩, ⟨0x20, .c, 0, 0⟩, ⟨0x21, .c, 0, 0⟩, ⟨0x22, .e, 0, 0⟩, ⟨0x23, .e, 0, 0⟩, ⟨0x24, .c, 0, 0⟩,
    ⟨0x28, .e, 2, 2⟩, ⟨0x29, .u, 1, 1⟩, ⟨0x2A, .e, 0, 0⟩, ⟨0x2C, .u, 2, 2⟩, ⟨0x2D, .e, 0, 2⟩, ⟨0x2E, .e, 0, 0⟩,
    ⟨0x2F, .u, 4, 4⟩ ] ++
  [ ⟨0x30, .e, 0, 0⟩, ⟨0x31, .e, 0, 0⟩, ⟨0x32, .e, 0, 0⟩, ⟨0x33, .c, 0, 0⟩, ⟨0x34, .e, 0, 0⟩, ⟨0x35, .e, 0, 0⟩,
    ⟨0x36, .e, 0, 0⟩, ⟨0x37, .e, 0, 0⟩, ⟨0x38, .e, 0, 0⟩, ⟨0x39, .e, 0, 0⟩, ⟨0x3A, .e, 0, 0⟩, ⟨0x3B, .e, 0, 0⟩,
    ⟨0x3C, .e, 0, 0⟩, ⟨0x3D, .e, 0, 0⟩, ⟨0x3E, .e, 0, 0⟩, ⟨0x3F, .e, 0, 0⟩, ⟨0x40, .e, 0, 0⟩, ⟨0x41, .e, 0, 0⟩,
    ⟨0x42, .e, 0, 0⟩, ⟨0x43, .u, 2, 2⟩ ]

/-- The row of a detector, none for a reserved identifier (R504). -/
def detectorRow (d : Nat) : Option DetRow := detectorTable.find? (fun r => r.id == d)

/-- Whether an identifier names a unit under R44; `ext` also admits 0x0496 and 0x0497 (R510). -/
def unitListed (u : Nat) : Bool := decide (u < 0x444) || decide (0x450 ≤ u ∧ u < 0x482) || decide (0x490 ≤ u ∧ u < 0x496)

end Sys2Proof.Machine
end

