-- ==== Sys2Proof/ShapeConfig.lean ====
section
/-! DEFINITION. The settings that a shape image carries, one structure per section record (R45 to R60). Every
table is sparse: an unlisted key has the default named here, which is also what the block holds until the boot
image is applied (R14, R61). -/

namespace Sys2Proof

/-- A segment or a region entry as the image stores it: its BASE word and its LIMIT word (R45, R47). -/
structure SpanWord where
  base : W64
  limit : W64
deriving DecidableEq, Repr

abbrev SpanWord.off : SpanWord := ⟨0, 0⟩

/-- A partition record (R45). -/
structure PartCfg where
  coreMask : BitVec 256
  enable : Nat
  fpdefault : Nat
  seg : Tbl SpanWord
deriving DecidableEq, Repr

abbrev PartCfg.off : PartCfg := ⟨0, 0, 0, []⟩

/-- A multicast group record (R49); a group without members is absent. -/
structure GroupCfg where
  members : BitVec 256
  part : Nat
deriving DecidableEq, Repr

abbrev GroupCfg.off : GroupCfg := ⟨0, 0⟩

/-- The bandwidth split of a vault port in per cent (R50). -/
structure SplitCfg where
  read : Nat
  write : Nat
  remote : Nat
deriving DecidableEq, Repr

/-- A Saffron record (R51). -/
structure SafCfg where
  split : List Nat
  flags : Nat
  spillBase : Nat
  spillRecords : Nat
deriving DecidableEq, Repr

abbrev SafCfg.off : SafCfg := ⟨[0, 0, 0, 0, 0, 0], 0, 0, 0⟩

/-- The privileged channels of a core (R52). Bits 14 and 15 of PRIV_MASK are always 1. -/
structure PrivCfg where
  priv : BitVec 16
  host : BitVec 16
deriving DecidableEq, Repr

abbrev PrivCfg.off : PrivCfg := ⟨0xC000, 0⟩

/-- A mailbox channel record (R53). -/
structure MbxCfg where
  sender : Nat
  receiver : Nat
  doorbell : Nat
  flags : Nat
deriving DecidableEq, Repr

abbrev MbxCfg.off : MbxCfg := ⟨0, 0, 0, 0⟩

/-- A link port record (R54). -/
structure LinkCfg where
  mode : Nat
  lanes : BitVec 8
  flags : Nat
deriving DecidableEq, Repr

abbrev LinkCfg.off : LinkCfg := ⟨0, 0, 0⟩

/-- A host port record (R55). -/
structure HostPortCfg where
  enable : Nat
  maxWidth : Nat
  maxRate : Nat
  vfCount : Nat
  flags : Nat
  vfPart : List Nat
deriving DecidableEq, Repr

abbrev HostPortCfg.off : HostPortCfg := ⟨0, 0, 0, 0, 0, List.replicate 16 0xFF⟩

/-- An operating-point entry (R56). -/
structure OpEntry where
  mult : Nat
  vcore : Nat
  vsram : Nat
  vnoc : Nat
  vmemif : Nat
deriving DecidableEq, Repr

abbrev OpEntry.off : OpEntry := ⟨0, 0, 0, 0, 0⟩

/-- The operating-point table (R56). -/
structure OpTable where
  bootOp : Nat
  capW : Nat
  count : Nat
  entries : List OpEntry
deriving DecidableEq, Repr

/-- The background-activity budgets (R57). -/
structure BudgetCfg where
  vault : Nat
  clove : Nat
  scrubHours : Nat
deriving DecidableEq, Repr

/-- A counter entry (R58); `used` is false for a counter without an entry. -/
structure CtrCfg where
  used : Bool
  flags : Nat
  event : Nat
  group : Nat
deriving DecidableEq, Repr

abbrev CtrCfg.off : CtrCfg := ⟨false, 0, 0, 0⟩

/-- An error policy entry (R59). -/
structure PolicyCfg where
  action : Nat
  flags : Nat
  threshold : Nat
  thread : Nat
deriving DecidableEq, Repr

/-- All settings in force, or all settings of a resulting configuration (R63). -/
structure ShapeCfg where
  /-- 0x01, keys 0 to 15. -/
  parts : Tbl PartCfg
  /-- 0x02. -/
  l1Mode : BitVec 256
  l2Mode : BitVec 256
  nodeMode : BitVec 64
  clvMode : BitVec 8
  /-- 0x03, keys 0 to 63. -/
  regions : Tbl SpanWord
  /-- 0x04. -/
  blockStripe : Nat
  qmode : List Nat
  /-- 0x05; groups by GROUP_ID. -/
  reqOrder : Nat
  rspOrder : Nat
  groups : Tbl GroupCfg
  /-- 0x06, by vault. -/
  splits : Tbl SplitCfg
  /-- 0x07: the owner of each traversal unit (0xFF for none) and the Saffron records. -/
  tuPart : Tbl Nat
  saffron : Tbl SafCfg
  /-- 0x08: privileged channels by core, owner by system DMA engine. -/
  priv : Tbl PrivCfg
  dmaOwner : Tbl Nat
  /-- 0x09, by channel. -/
  mbx : Tbl MbxCfg
  /-- 0x0A, by port. -/
  link : Tbl LinkCfg
  /-- 0x0B, by host port. -/
  hostPort : Tbl HostPortCfg
  /-- 0x0C. -/
  op : OpTable
  /-- 0x0D. -/
  budget : BudgetCfg
  /-- 0x0E, by 256 × unit + counter. -/
  counters : Tbl CtrCfg
  /-- 0x0F, by detector. -/
  policies : Tbl (Option PolicyCfg)
  /-- 0x10. -/
  debugLevel : Nat
  unlockKeyId : BitVec 128
deriving DecidableEq, Repr

/-- The vault split that an unlisted vault holds: what the block shows before an image is applied. DESIGN CHOICE,
log 3. -/
abbrev SplitCfg.off : SplitCfg := ⟨60, 25, 15⟩

/-- The settings before the boot image is applied: no partition, no region, no group, no assigned unit, every
channel, port and function disabled (R14, R61). The budgets are the Weapra defaults (DESIGN CHOICE, log 3). -/
def ShapeCfg.none : ShapeCfg :=
  { parts := [], l1Mode := 0, l2Mode := 0, nodeMode := 0, clvMode := 0, regions := [], blockStripe := 0,
    qmode := [0, 0, 0, 0], reqOrder := 0, rspOrder := 0, groups := [], splits := [], tuPart := [],
    saffron := [], priv := [], dmaOwner := [], mbx := [], link := [], hostPort := [],
    op := ⟨0, 0, 0, List.replicate 4 OpEntry.off⟩, budget := ⟨20, 10, 24⟩, counters := [], policies := [],
    debugLevel := 0, unlockKeyId := 0 }

namespace ShapeCfg

abbrev partOf (c : ShapeCfg) (p : Nat) : PartCfg := Tbl.get PartCfg.off c.parts p
abbrev regionOf (c : ShapeCfg) (r : Nat) : SpanWord := Tbl.get SpanWord.off c.regions r
abbrev groupOf (c : ShapeCfg) (g : Nat) : GroupCfg := Tbl.get GroupCfg.off c.groups g
abbrev splitOf (c : ShapeCfg) (v : Nat) : SplitCfg := Tbl.get SplitCfg.off c.splits v
abbrev tuOwner (c : ShapeCfg) (m : Nat) : Nat := Tbl.get 0xFF c.tuPart m
abbrev safOf (c : ShapeCfg) (q : Nat) : SafCfg := Tbl.get SafCfg.off c.saffron q
abbrev privOf (c : ShapeCfg) (n : Nat) : PrivCfg := Tbl.get PrivCfg.off c.priv n
abbrev dmaOwnerOf (c : ShapeCfg) (d : Nat) : Nat := Tbl.get 0 c.dmaOwner d
abbrev mbxOf (c : ShapeCfg) (k : Nat) : MbxCfg := Tbl.get MbxCfg.off c.mbx k
abbrev linkOf (c : ShapeCfg) (p : Nat) : LinkCfg := Tbl.get LinkCfg.off c.link p
abbrev hostOf (c : ShapeCfg) (h : Nat) : HostPortCfg := Tbl.get HostPortCfg.off c.hostPort h
abbrev opAt (c : ShapeCfg) (i : Nat) : OpEntry := c.op.entries.getD i OpEntry.off
abbrev counterOf (c : ShapeCfg) (u i : Nat) : CtrCfg := Tbl.get CtrCfg.off c.counters (256 * u + i)
abbrev policyOf (c : ShapeCfg) (d : Nat) : Option PolicyCfg := Tbl.get Option.none c.policies d

end ShapeCfg

/-- Base address of a segment or region, bits [51:12] of its BASE word (R45, R47). -/
def SpanWord.lo (w : SpanWord) : Nat := field w.base.toNat 51 12 * 4096
/-- Last byte address, bits [51:0] of the LIMIT word. -/
def SpanWord.hi (w : SpanWord) : Nat := field w.limit.toNat 51 0
/-- VALID, bit 0 of the BASE word. -/
def SpanWord.valid (w : SpanWord) : Bool := bitOf w.base.toNat 0
/-- WRITABLE of a segment, bit 1 of the BASE word (R45). -/
def SpanWord.writable (w : SpanWord) : Bool := bitOf w.base.toNat 1
/-- WPOL of a region (R47). -/
def SpanWord.wpol (w : SpanWord) : Nat := field w.base.toNat 2 1
/-- EXEC of a region (R47). -/
def SpanWord.exec (w : SpanWord) : Bool := bitOf w.base.toNat 3
/-- SHARE of a region (R47). -/
def SpanWord.share (w : SpanWord) : Bool := bitOf w.base.toNat 4
/-- LOCK of a region (R47). -/
def SpanWord.lock (w : SpanWord) : Bool := bitOf w.base.toNat 5
/-- STREAM of a region (R47). -/
def SpanWord.stream (w : SpanWord) : Bool := bitOf w.base.toNat 6

end Sys2Proof
end

