-- ==== Sys2Proof/Machine/Image.lean ====
section
/-! DEFINITION. The shape image: its layout, the reading of its sections, the rules of its fields, and what a
re-shape stages and affects (R37 to R63). -/

namespace Sys2Proof.Machine

/-- Size of stacked memory, 384 GiB (R27). -/
def stackedBytes : Nat := 0x60_0000_0000
/-- The block register window (R2, R574). -/
def windowBase : Nat := 0xF000_0000_0000
def windowSize : Nat := 0x1000_0000

/-- The little-endian number in `n` bytes from offset `o`. -/
def le (b : List Byte) (o n : Nat) : Nat := bytesToNat ((b.drop o).take n)

/-- Whether `n` bytes from offset `o` are zero. -/
def zeros (b : List Byte) (o n : Nat) : Bool := ((b.drop o).take n).all (· == 0)

/-- A table of the values of keys 0 to n - 1. -/
def tabulate {α : Type} [DecidableEq α] (d : α) (n : Nat) (f : Nat → α) : Tbl α :=
  (List.range n).foldl (fun t k => Tbl.set d t k (f k)) []

/-- A section as found in the image (R39). -/
structure Section where
  type : Nat
  srev : Nat
  count : Nat
  slen : Nat
  body : List Byte
  reservedZero : Bool
deriving DecidableEq, Repr

/-- Cut the section area into sections; none where a length breaks R39. -/
def cutSections : Nat → List Byte → Option (List Section)
  | 0, b => if b.isEmpty then some [] else none
  | fuel + 1, b =>
    if b.isEmpty then some [] else
    let slen := le b 4 4
    if b.length < 16 ∨ slen < 16 ∨ slen % 16 ≠ 0 ∨ b.length < slen then none else
    (cutSections fuel (b.drop slen)).map fun r =>
      { type := le b 0 1, srev := le b 1 1, count := le b 8 4, slen, body := (b.take slen).drop 16,
        reservedZero := zeros b 2 2 && zeros b 12 4 } :: r

/-- The defined body size of a type, before the padding to 16 bytes (R43, R45 to R60). -/
def bodySize (t count : Nat) : Nat :=
  match t with
  | 0x01 => 4864 | 0x02 => 96 | 0x03 => 1024 | 0x04 => 16 | 0x05 => 16 + 48 * count | 0x06 => 1024 | 0x07 => 192
  | 0x08 => 2064 | 0x09 => 512 | 0x0A => 256 | 0x0B => 64 | 0x0C => 80 | 0x0D => 16 | 0x0E => 8 * count
  | 0x0F => 8 * count | 0x10 => 32 | _ => 0

/-- Types whose ENTRY_COUNT may be non-zero (R43, R56). -/
def hasCount (t : Nat) : Bool := t == 0x05 || t == 0x0C || t == 0x0E || t == 0x0F

/-- The section header rules of R39 with the zero padding of its body, and the sizes of R43. -/
def sectionOk (s : Section) : Bool :=
  decide (1 ≤ s.type ∧ s.type ≤ 0x10) && s.srev == 1 && (hasCount s.type || s.count == 0)
    && s.slen == 16 + (bodySize s.type s.count + 15) / 16 * 16 && zeros s.body (bodySize s.type s.count) 16

/-- Strictly ascending TYPE order (R39). -/
def ascending : List Section → Bool
  | a :: b :: r => decide (a.type < b.type) && ascending (b :: r)
  | _ => true

/-- Every byte the layout of a section's body reserves is zero (R42 check 10). -/
def reservedOk (t count : Nat) (b : List Byte) : Bool :=
  let ent (n w o k : Nat) : Bool := (List.range n).all fun i => zeros b (w * i + o) k
  match t with
  | 0x01 => ent 16 304 33 1 && ent 16 304 36 12
  | 0x02 => zeros b 72 8 && zeros b 81 15
  | 0x04 => zeros b 5 11
  | 0x05 => zeros b 2 14 && (List.range count).all fun g => zeros b (16 + 48 * g + 34) 14
  | 0x06 => ent 256 4 3 1
  | 0x07 => (List.range 4).all fun q => zeros b (64 + 32 * q + 7) 1 && zeros b (64 + 32 * q + 20) 12
  | 0x08 => ent 256 8 4 4 && zeros b 2056 8
  | 0x09 => ent 64 8 6 2
  | 0x0A => ent 32 8 3 5
  | 0x0B => ent 2 32 5 11
  | 0x0C => zeros b 1 1 && zeros b 4 12
      && (List.range 4).all fun i => zeros b (16 + 16 * i + 1) 1 && zeros b (16 + 16 * i + 10) 6
  | 0x0D => zeros b 6 10
  | 0x0E => ent count 8 7 1
  | 0x0F => ent count 8 7 1
  | 0x10 => zeros b 1 15
  | _ => true

/-- The group records of a section 0x05 body, with their identifiers (R49). -/
def groupRecords (b : List Byte) (count : Nat) : List (Nat × GroupCfg) :=
  (List.range count).map fun g =>
    (le b (48 + 48 * g) 1, ⟨BitVec.ofNat 256 (le b (16 + 48 * g) 32), le b (49 + 48 * g) 1⟩)

/-- The error policy entries of a section 0x0F body, by detector. A later entry for a detector replaces an earlier one
(log 61). -/
def policyRecords (b : List Byte) (count : Nat) : List (Nat × PolicyCfg) :=
  (List.range count).map fun i =>
    (le b (8 * i) 2, ⟨le b (8 * i + 2) 1, le b (8 * i + 3) 1, le b (8 * i + 4) 2, le b (8 * i + 6) 1⟩)

/-- Read a section's body into the settings (R45 to R60). -/
def applySection (c : ShapeCfg) (s : Section) : ShapeCfg :=
  let b := s.body
  match s.type with
  | 0x01 =>
    { c with parts := tabulate PartCfg.off 16 fun p =>
        { coreMask := BitVec.ofNat 256 (le b (304 * p) 32), enable := le b (304 * p + 32) 1,
          fpdefault := le b (304 * p + 34) 2,
          seg := tabulate SpanWord.off 16 fun i =>
            ⟨BitVec.ofNat 64 (le b (304 * p + 48 + 16 * i) 8), BitVec.ofNat 64 (le b (304 * p + 56 + 16 * i) 8)⟩ } }
  | 0x02 =>
    { c with l1Mode := BitVec.ofNat 256 (le b 0 32), l2Mode := BitVec.ofNat 256 (le b 32 32),
             nodeMode := BitVec.ofNat 64 (le b 64 8), clvMode := BitVec.ofNat 8 (le b 80 1) }
  | 0x03 =>
    { c with regions := tabulate SpanWord.off 64 fun r =>
        ⟨BitVec.ofNat 64 (le b (16 * r) 8), BitVec.ofNat 64 (le b (16 * r + 8) 8)⟩ }
  | 0x04 => { c with blockStripe := le b 0 1, qmode := (List.range 4).map fun q => le b (1 + q) 1 }
  | 0x05 =>
    { c with reqOrder := le b 0 1, rspOrder := le b 1 1,
             groups := (groupRecords b s.count).foldl (fun t g => Tbl.set GroupCfg.off t g.1 g.2) [] }
  | 0x06 => { c with splits := tabulate SplitCfg.off 256 fun n => ⟨le b (4 * n) 1, le b (4 * n + 1) 1, le b (4 * n + 2) 1⟩ }
  | 0x07 =>
    { c with tuPart := tabulate 0xFF 64 fun m => le b m 1,
             saffron := tabulate SafCfg.off 4 fun q =>
               { split := (List.range 6).map fun i => le b (64 + 32 * q + i) 1, flags := le b (70 + 32 * q) 1,
                 spillBase := le b (72 + 32 * q) 8, spillRecords := le b (80 + 32 * q) 4 } }
  | 0x08 =>
    { c with priv := tabulate PrivCfg.off 256 fun n =>
               ⟨BitVec.ofNat 16 (le b (8 * n) 2), BitVec.ofNat 16 (le b (8 * n + 2) 2)⟩,
             dmaOwner := tabulate 0 8 fun d => le b (2048 + d) 1 }
  | 0x09 =>
    { c with mbx := tabulate MbxCfg.off 64 fun k =>
        ⟨le b (8 * k) 2, le b (8 * k + 2) 2, le b (8 * k + 4) 1, le b (8 * k + 5) 1⟩ }
  | 0x0A =>
    { c with link := tabulate LinkCfg.off 32 fun p =>
        ⟨le b (8 * p) 1, BitVec.ofNat 8 (le b (8 * p + 1) 1), le b (8 * p + 2) 1⟩ }
  | 0x0B =>
    { c with hostPort := tabulate HostPortCfg.off 2 fun h =>
        { enable := le b (32 * h) 1, maxWidth := le b (32 * h + 1) 1, maxRate := le b (32 * h + 2) 1,
          vfCount := le b (32 * h + 3) 1, flags := le b (32 * h + 4) 1,
          vfPart := (List.range 16).map fun f => le b (32 * h + 16 + f) 1 } }
  | 0x0C =>
    { c with op :=
        { bootOp := le b 0 1, capW := le b 2 2, count := s.count,
          entries := (List.range 4).map fun i =>
            ⟨le b (16 + 16 * i) 1, le b (18 + 16 * i) 2, le b (20 + 16 * i) 2, le b (22 + 16 * i) 2, le b (24 + 16 * i) 2⟩ } }
  | 0x0D => { c with budget := ⟨le b 0 2, le b 2 2, le b 4 2⟩ }
  | 0x0E =>
    { c with counters := (List.range s.count).foldl (fun t i =>
        Tbl.set CtrCfg.off t (256 * le b (8 * i) 2 + le b (8 * i + 2) 1)
          ⟨true, le b (8 * i + 3) 1, le b (8 * i + 4) 2, le b (8 * i + 6) 1⟩) [] }
  | 0x0F =>
    { c with policies := (policyRecords b s.count).foldl (fun t e => Tbl.set none t e.1 (some e.2)) [] }
  | 0x10 => { c with debugLevel := le b 0 1, unlockKeyId := BitVec.ofNat 128 (le b 16 16) }
  | _ => c

/-- One error policy entry (R59, R500, R504). -/
def policyOk (d : Nat) (p : PolicyCfg) : Bool :=
  match detectorRow d with
  | some r => decide (r.min ≤ p.action ∧ p.action ≤ 4) && decide (p.flags ≤ 3) && decide (1 ≤ p.threshold)
      && decide (p.thread ≤ 63)
  | none => false

/-- Rules that need the section's bytes because the settings cannot hold the breach: repeated keys, entries that a later one
replaces, and ENTRY_COUNT (R49, R58, R59). -/
def bytesOk (s : Section) : Bool :=
  match s.type with
  | 0x05 => decide (s.count ≤ 128) && ((groupRecords s.body s.count).map (·.1)).Nodup
      && (groupRecords s.body s.count).all fun g => decide (g.2.members ≠ 0)
  | 0x0E => decide (s.count ≤ 4096)
      && ((List.range s.count).map fun i => 256 * le s.body (8 * i) 2 + le s.body (8 * i + 2) 1).Nodup
  | 0x0F => decide (s.count ≤ 1024) && (policyRecords s.body s.count).all fun e => policyOk e.1 e.2
  | _ => true

/-- Reserved bits of a span word: BASE bits outside [51:12] and the named low bits, LIMIT bits [63:52]. -/
def spanReserved (w : SpanWord) (low : Nat) : Bool :=
  field w.base.toNat 63 52 == 0 && field w.base.toNat 11 low == 0 && field w.limit.toNat 63 52 == 0

/-- The shape of a valid span (R45, R47). -/
def spanShape (w : SpanWord) : Bool := field w.hi 11 0 == 0xFFF && decide (w.lo ≤ w.hi)

/-- Whether two spans share a byte. -/
def spanMeets (a b : SpanWord) : Bool := decide (a.lo ≤ b.hi) && decide (b.lo ≤ a.hi)

/-- Partition rules (R45). -/
def rulePart (c : ShapeCfg) : Bool :=
  (List.range 16).all fun p =>
    let r := c.partOf p
    decide (r.enable ≤ 1) && decide (r.fpdefault < 16)
      && (if r.enable = 1 then
            decide (r.coreMask ≠ 0) && (List.range 16).all fun o =>
              o == p || (c.partOf o).enable != 1 || (c.partOf o).coreMask &&& r.coreMask == 0
          else decide (r.coreMask = 0))
      && (List.range 16).all fun i =>
        let w := Tbl.get SpanWord.off r.seg i
        spanReserved w 2 && (!w.valid || (r.enable == 1 && spanShape w
          && (decide (w.hi < windowBase) || decide (windowBase + windowSize ≤ w.lo))))

/-- Whether partition `p` is enabled. -/
def cfgEnabled (c : ShapeCfg) (p : Nat) : Bool := decide (p < 16) && (c.partOf p).enable == 1

/-- Region rules (R47). -/
def ruleRegion (c : ShapeCfg) : Bool :=
  (List.range 64).all fun r =>
    let w := c.regionOf r
    spanReserved w 7 && (!w.valid || (spanShape w && !(w.lock && w.wpol == 3)
      && (List.range 64).all fun o => o == r || !(c.regionOf o).valid || !(spanMeets w (c.regionOf o))))

/-- Interleave rules (R48). -/
def ruleInterleave (c : ShapeCfg) : Bool :=
  decide (c.blockStripe ≤ 1) && c.qmode.all (fun q => decide (q ≤ 1)) && (c.blockStripe == 0 || c.qmode.all (· == 0))

/-- How many bits of a mask are set. -/
def popBits (v n : Nat) : Nat := (List.range n).foldl (fun a i => a + b2n (bitOf v i)) 0

/-- Route and group rules (R49). -/
def ruleGroups (c : ShapeCfg) : Bool :=
  decide (c.reqOrder ≤ 1) && decide (c.rspOrder ≤ 1) && c.groups.all fun g =>
    decide (g.1 ≤ 127) && decide (popBits g.2.members.toNat 256 ≤ 64) && cfgEnabled c g.2.part
      && g.2.members &&& ~~~ (c.partOf g.2.part).coreMask == 0

/-- Bandwidth split rules (R50). -/
def ruleSplit (c : ShapeCfg) : Bool :=
  (List.range 256).all fun v =>
    let s := c.splitOf v
    [s.read, s.write, s.remote].all (fun x => decide (5 ≤ x) && x % 5 == 0) && s.read + s.write + s.remote == 100

/-- Traversal and Saffron rules (R51). -/
def ruleTraversal (c : ShapeCfg) : Bool :=
  ((List.range 64).all fun m => c.tuOwner m == 0xFF || cfgEnabled c (c.tuOwner m)) &&
  (List.range 4).all fun q =>
    let r := c.safOf q
    r.split.sum == 64 && decide (r.flags ≤ 1) && r.spillBase % 4096 == 0
      && decide (r.spillBase < stackedBytes) && decide (r.spillBase + 64 * r.spillRecords ≤ stackedBytes) && r.spillRecords % 64 == 0
      && decide (r.spillRecords ≤ 16777216)
      && (List.range 4).all fun o =>
        let k := c.safOf o
        o == q || decide (r.spillBase + 64 * r.spillRecords ≤ k.spillBase)
          || decide (k.spillBase + 64 * k.spillRecords ≤ r.spillBase) || r.spillRecords == 0 || k.spillRecords == 0

/-- Privileged channel rules (R52). -/
def rulePriv (c : ShapeCfg) : Bool :=
  ((List.range 256).all fun n =>
    let r := c.privOf n
    r.priv &&& 0xC000 == 0xC000 && r.host &&& ~~~ r.priv == 0) &&
  (List.range 8).all fun d => decide (c.dmaOwnerOf d ≤ 2)

/-- Whether a number is a mailbox agent (R53). -/
def mbxAgent (a : Nat) : Bool :=
  decide (a < 0x100) || decide (0x100 ≤ a ∧ a < 0x140)
    || (decide (0x200 ≤ a ∧ a < 0x240) && decide (a % 0x20 ≤ 16)) || a == 0x300

/-- Mailbox rules (R53). -/
def ruleMailbox (c : ShapeCfg) : Bool :=
  (List.range 64).all fun k =>
    let r := c.mbxOf k
    decide (r.flags ≤ 1) && (r.flags == 0 || (mbxAgent r.sender && mbxAgent r.receiver && r.sender != r.receiver
      && decide (r.doorbell ≤ 31) && (List.range 64).all fun o =>
        let s := c.mbxOf o
        o == k || s.flags == 0 || s.receiver != r.receiver || s.doorbell != r.doorbell))

/-- Link rules (R54). -/
def ruleLink (c : ShapeCfg) : Bool :=
  (List.range 32).all fun p =>
    let r := c.linkOf p
    decide (r.mode ≤ 2) && (r.mode == 0 || decide (r.lanes ≠ 0)) && (r.flags == 0 || (r.flags == 1 && r.mode == 2))

/-- Host port rules (R55). -/
def ruleHost (c : ShapeCfg) : Bool :=
  let served := (List.range 2).flatMap fun h => (c.hostOf h).vfPart.filter (· != 0xFF)
  ((List.range 2).all fun h =>
    let r := c.hostOf h
    decide (r.enable ≤ 1) && (r.enable == 0 || ([4, 8, 16].contains r.maxWidth && [16, 32, 64].contains r.maxRate))
      && decide (r.vfCount ≤ 16) && decide (r.flags < 8)
      && (List.range 16).all fun f => decide (f < r.vfCount) || r.vfPart.getD f 0xFF == 0xFF) &&
  decide served.Nodup && served.all (cfgEnabled c)

/-- Operating-point rules (R56) with the rail ranges of R470. -/
def ruleOp (c : ShapeCfg) : Bool :=
  let o := c.op
  let rail (v lo hi : Nat) : Bool := decide (lo ≤ v ∧ v ≤ hi)
  decide (1 ≤ o.count ∧ o.count ≤ 4) && decide (o.bootOp < o.count) && decide (1000 ≤ o.capW ∧ o.capW ≤ 2400) &&
  (List.range 4).all fun i =>
    let e := c.opAt i
    if i < o.count then
      [96, 88, 80, 64].contains e.mult && rail e.vcore 550 800 && rail e.vsram 700 850 && rail e.vnoc 600 800
        && rail e.vmemif 700 900 && (i == 0 || decide (e.mult < (c.opAt (i - 1)).mult))
    else e == OpEntry.off

/-- Budget rules (R57). -/
def ruleBudget (c : ShapeCfg) : Bool :=
  decide (5 ≤ c.budget.vault ∧ c.budget.vault ≤ 100) && decide (5 ≤ c.budget.clove ∧ c.budget.clove ≤ 50)
    && decide (6 ≤ c.budget.scrubHours ∧ c.budget.scrubHours ≤ 168)

/-- Counter rules (R58, R514). An EVENT code that the unit's chapter does not list is accepted, and its counter counts
nothing (log 62). -/
def ruleCounter (c : ShapeCfg) : Bool :=
  c.counters.all fun e =>
    unitListed (e.1 / 256) && decide (e.1 % 256 ≤ 7) && decide (e.2.flags ≤ 3) && decide (e.2.group ≤ 15)
      && (bitOf e.2.flags 1 || e.2.group == 0)

/-- Error policy rules (R59, R500, R504). -/
def rulePolicy (c : ShapeCfg) : Bool :=
  c.policies.all fun e =>
    match e.2 with
    | some p => policyOk e.1 p
    | none => true

/-- The field rules of every section, on a resulting configuration (R42 check 10, R63). -/
def cfgValid (c : ShapeCfg) : Bool :=
  rulePart c && ruleRegion c && ruleInterleave c && ruleGroups c && ruleSplit c && ruleTraversal c && rulePriv c
    && ruleMailbox c && ruleLink c && ruleHost c && ruleOp c && ruleBudget c && ruleCounter c && rulePolicy c
    && decide (c.debugLevel ≤ 3)

/-- What the loader knows when it checks an image: the length given, whether a source read failed, the key that
KEY_ID selects when R41 accepts one, the sequence floor, the boot sequence number of a re-shape, the settings in
force and the operating point in force. -/
structure LoadCtx where
  given : Nat
  srcFault : Bool
  key : Nat → Option (List Byte)
  digestFlip : Bool
  floor : Nat
  bootSeq : Nat
  full : Bool
  reshape : Bool
  inForce : ShapeCfg
  curIndex : Nat
  drained : Nat → Bool

/-- The section area of an image, or none where it cannot be cut. -/
def imageSections (b : List Byte) (given : Nat) : Option (List Section) :=
  cutSections 17 ((b.take (given - 4656)).drop 256)

/-- The settings after an image: its sections over those in force. -/
def imageResult (base : ShapeCfg) (secs : List Section) : ShapeCfg := secs.foldl applySection base

/-- The digest D of the signed region (R40). An armed injection of detector 0x39 inverts one digest bit (R504). -/
def imageDigest (x : LoadCtx) (b : List Byte) : BitVec 384 :=
  let d := digest (b.take (x.given - 4656))
  if x.digestFlip then d ^^^ 1 else d

/-- The types a re-shape may carry (R63). -/
def reshapable (t : Nat) : Bool := [0x01, 0x02, 0x03, 0x05, 0x06, 0x07, 0x08, 0x09, 0x0C, 0x0D, 0x0E, 0x0F].contains t

/-- The partition of a worker core, none when no enabled partition holds it (R45). -/
def cfgCorePart (c : ShapeCfg) (n : Nat) : Option Nat :=
  (List.range 16).find? fun p => (c.partOf p).enable == 1 && bitOf (c.partOf p).coreMask.toNat n

/-- What a worker core takes from section 0x01: its partition, default and segments. -/
def coreSetting (c : ShapeCfg) (n : Nat) : Option (Nat × Nat × Tbl SpanWord) :=
  (cfgCorePart c n).map fun p => (p, (c.partOf p).fpdefault, (c.partOf p).seg)

/-- Partitions owning a traversal unit of quadrant q. -/
def quadOwners (c : ShapeCfg) (q : Nat) : List Nat :=
  ((List.range 16).map fun j => c.tuOwner (16 * q + j)).filter (· != 0xFF)

/-- The partitions a re-shape affects, as R63's table lists them (log 6). -/
def affectedParts (o n : ShapeCfg) : List Nat :=
  let enabledBoth := (List.range 16).filter fun p => cfgEnabled o p || cfgEnabled n p
  ((List.range 16).filter fun p => o.partOf p != n.partOf p)
  ++ (if o.regions != n.regions then enabledBoth else [])
  ++ ((List.range 128).flatMap fun g =>
      let a := o.groupOf g
      let b := n.groupOf g
      if a == b then [] else (if a.members == 0 then [] else [a.part]) ++ (if b.members == 0 then [] else [b.part]))
  ++ ((List.range 64).flatMap fun m =>
      if o.tuOwner m == n.tuOwner m then [] else [o.tuOwner m, n.tuOwner m].filter (· != 0xFF))
  ++ ((List.range 4).flatMap fun q => if o.safOf q == n.safOf q then [] else quadOwners o q ++ quadOwners n q)
  ++ ((List.range 256).flatMap fun k =>
      if o.privOf k == n.privOf k then [] else (cfgCorePart o k).toList ++ (cfgCorePart n k).toList)

/-- The units in which a re-shape stages a setting (R63), by unit identifier (R44). -/
def stagedUnits (o n : ShapeCfg) : List Nat :=
  let cores := (List.range 256).filter fun k => coreSetting o k != coreSetting n k
  let pick (count base : Nat) (f : Nat → Bool) : List Nat := ((List.range count).filter f).map (base + ·)
  (cores ++ cores.map (0x100 + ·)
    ++ pick 256 0 (fun k => bitOf o.l1Mode.toNat k != bitOf n.l1Mode.toNat k)
    ++ pick 256 0x200 (fun k => bitOf o.l2Mode.toNat k != bitOf n.l2Mode.toNat k)
    ++ pick 64 0x400 (fun k => bitOf o.nodeMode.toNat k != bitOf n.nodeMode.toNat k)
    ++ pick 8 0x450 (fun k => bitOf o.clvMode.toNat k != bitOf n.clvMode.toNat k)
    ++ (if o.regions != n.regions then List.range 256 else [])
    ++ (if o.groups != n.groups then [0x495] else [])
    ++ pick 256 0x300 (fun k => o.splitOf k != n.splitOf k)
    ++ pick 64 0x400 (fun k => o.tuOwner k != n.tuOwner k)
    ++ pick 4 0x440 (fun k => o.safOf k != n.safOf k)
    ++ pick 256 0x100 (fun k => o.privOf k != n.privOf k)
    ++ pick 8 0x458 (fun k => o.dmaOwnerOf k != n.dmaOwnerOf k)
    ++ (if o.mbx != n.mbx then [0x493] else [])
    ++ (if o.op != n.op then [0x490, 0x491] else [])
    ++ (if o.budget != n.budget then [0x492] else [])
    ++ ((o.counters ++ n.counters).filter fun (e : Nat × CtrCfg) => Tbl.get CtrCfg.off o.counters e.1 != Tbl.get CtrCfg.off n.counters e.1).map
        (fun (e : Nat × CtrCfg) => e.1 / 256)
    ++ (if o.policies != n.policies then [0x494] else [])).eraseDups

/-- The re-shape rules of check 11 (R63). -/
def reshapeOk (x : LoadCtx) (secs : List Section) (n : ShapeCfg) : Bool :=
  secs.all (fun s => reshapable s.type) && !secs.isEmpty
    && n.reqOrder == x.inForce.reqOrder && n.rspOrder == x.inForce.rspOrder
    && decide (x.curIndex < n.op.count) && n.opAt x.curIndex == x.inForce.opAt x.curIndex

/-- The result code of the checks of R42, in the order of its table; 0x00 is OK. -/
def imageCheck (x : LoadCtx) (b : List Byte) : Nat :=
  let tr := b.drop (x.given - 4656)
  let secs? := imageSections b x.given
  let secs := secs?.getD []
  let n := imageResult x.inForce secs
  let key := x.key (le b 0x20 16)
  if x.srcFault then 0x0E
  else if x.given < 4944 ∨ x.given > 4194304 ∨ x.given % 16 ≠ 0 then 0x04
  else if le b 0 4 ≠ 0xC7155A9E ∨ le tr 0 4 ≠ 0x7E516A3D then 0x01
  else if le b 4 2 ≠ 1 ∨ le tr 4 2 ≠ 1 ∨ le tr 6 2 ≠ 0x1213 ∨ !zeros tr 8 8 ∨ !zeros tr 0x1223 13 then 0x02
  else if le b 12 4 ≠ x.given then 0x04
  else if key = none then 0x06
  else if !Config.mldsaVerify (key.getD []) (digestBytes (imageDigest x b)) ((tr.drop 16).take 4627) then 0x07
  else if ¬ (le b 8 2 ≤ 0x0902 ∧ 0x0902 ≤ le b 10 2) then 0x03
  else if le b 0x18 8 < x.floor ∨ (x.reshape ∧ le b 0x18 8 < x.bootSeq) then 0x08
  else if secs? = none ∨ secs.length ≠ le b 16 2 ∨ secs = [] ∨ !secs.all sectionOk ∨ !ascending secs
      ∨ (x.full ∧ secs.length ≠ 16) then 0x05
  else if !zeros b 6 2 ∨ !zeros b 0x12 6 ∨ !zeros b 0x30 208 ∨ !secs.all (fun s => s.reservedZero
      && reservedOk s.type s.count s.body && bytesOk s) ∨ !cfgValid n then 0x09
  else if x.reshape ∧ !reshapeOk x secs n then 0x0A
  else if x.reshape ∧ !(affectedParts x.inForce n).all x.drained then 0x0B
  else 0x00

end Sys2Proof.Machine
end

