-- ==== Sys2Proof/Machine/Flags.lean ====
section
/-! DEFINITION. The sticky arithmetic flags of cs.flags (R89, R141). -/

namespace Sys2Proof.Machine

/-- The flag bits of cs.flags (R89). -/
abbrev Flags := BitVec 7
def fINV : Flags := 0x01
def fDZ : Flags := 0x02
def fOVF : Flags := 0x04
def fUNF : Flags := 0x08
def fINX : Flags := 0x10
def fSATD : Flags := 0x20
def fFLUSHED : Flags := 0x40

/-- The union of the flags of an instruction's elements (R141). -/
def unionFlags (fs : List Flags) : Flags := fs.foldl (· ||| ·) 0

end Sys2Proof.Machine
end

