-- ==== Sys2Proof/Machine/Numbers.lean ====
section
/-! DEFINITION. Number formats, exact values, rounding and conversion (R112 to R142). An exact value is a dyadic
number, a power of 2^(1/8), or a truncated real with a sticky bit; rounding is exact integer arithmetic. -/

namespace Sys2Proof.Machine

/-- cs.fpmode as its fields, with the seed that a stochastic instruction took (R88, R131). -/
structure FpMode where
  rm : Nat
  ftz : Bool
  sat : Bool
  srnd : Bool
  seed : Nat
deriving DecidableEq, Repr

/-- RNE without flush, saturation or stochastic rounding. -/
def FpMode.rne : FpMode := ⟨0, false, false, false, 0⟩

/-- Whether a code names a format (R112). -/
def fmtDefined (f : Nat) : Bool := decide (f < 0x0C) || decide (0x10 ≤ f ∧ f < 0x16) || decide (0x18 ≤ f ∧ f < 0x1A)

/-- Width in bits of an element (R112). -/
def fmtBits (f : Nat) : Nat :=
  match f with
  | 0x00 => 64 | 0x01 => 32 | 0x02 => 16 | 0x03 => 16 | 0x04 => 8 | 0x05 => 8 | 0x06 => 64 | 0x07 => 32 | 0x08 => 16
  | 0x09 => 8 | 0x0A => 8 | 0x0B => 4 | 0x10 => 8 | 0x11 => 8 | 0x12 => 6 | 0x13 => 6 | 0x14 => 4 | 0x15 => 8
  | 0x18 => 8 | 0x19 => 4 | _ => 0

/-- Block-scaled formats (R112). -/
def fmtBlock (f : Nat) : Bool := decide (0x10 ≤ f)

/-- Exponent bits, mantissa bits and bias of a floating-point format or element format (R114, R115). -/
def fmtFloat (f : Nat) : Option (Nat × Nat × Nat) :=
  match f with
  | 0x00 => some (11, 52, 1023) | 0x01 => some (8, 23, 127) | 0x02 => some (5, 10, 15) | 0x03 => some (8, 7, 127)
  | 0x04 => some (5, 2, 15) | 0x05 => some (4, 3, 7) | 0x10 => some (5, 2, 15) | 0x11 => some (4, 3, 7)
  | 0x12 => some (3, 2, 3) | 0x13 => some (2, 3, 1) | 0x14 => some (2, 1, 1) | _ => none

/-- The integer formats: width and signedness (R119). -/
def fmtInt (f : Nat) : Option (Nat × Bool) :=
  match f with
  | 0x06 => some (64, true) | 0x07 => some (32, true) | 0x08 => some (16, true) | 0x09 => some (8, true)
  | 0x0A => some (8, false) | 0x0B => some (4, true) | _ => none

/-- Formats whose all-ones exponent is infinity or NaN (R116). -/
def fmtInf (f : Nat) : Bool := f == 0 || f == 1 || f == 2 || f == 3 || f == 4 || f == 0x10

/-- E4M3, alone or as an MX element: no infinity, mantissa 7 of the top exponent is NaN (R116). -/
def fmtE4M3 (f : Nat) : Bool := f == 5 || f == 0x11

/-- Default NaN of a format (R117). -/
def defaultNan (f : Nat) : Nat :=
  match f with
  | 0x00 => 0x7FF8000000000000 | 0x01 => 0x7FC00000 | 0x02 => 0x7E00 | 0x03 => 0x7FC0
  | 0x18 => 0x80 | 0x19 => 0x8 | _ => 0x7F

/-- The value of a code point: a NaN (signalling or quiet), an infinity, a signed zero, a dyadic number
(-1)^neg * mant * 2^exp with mant ≠ 0, or (-1)^neg * 2^(num/8) of a logarithmic element. -/
inductive FVal where
  | nan (signalling : Bool)
  | inf (neg : Bool)
  | zero (neg : Bool)
  | fin (neg : Bool) (mant : Nat) (exp : Int)
  | log (neg : Bool) (num : Int)
deriving DecidableEq, Repr

namespace FVal
def isNan : FVal → Bool | nan _ => true | _ => false
def isSNan : FVal → Bool | nan b => b | _ => false
def isInf : FVal → Bool | inf _ => true | _ => false
def isZero : FVal → Bool | zero _ => true | _ => false
def negB : FVal → Bool | nan _ => false | inf b => b | zero b => b | fin b _ _ => b | log b _ => b
def neg : FVal → FVal | nan b => nan b | inf b => inf (!b) | zero b => zero (!b) | fin b m e => fin (!b) m e | log b n => log (!b) n
/-- Multiply by 2^k. -/
def scale (k : Int) : FVal → FVal | fin b m e => fin b m (e + k) | log b n => log b (n + 8 * k) | v => v
end FVal

/-- floor(log2 v) for v ≠ 0. -/
def log2n (v : Nat) : Nat := Nat.log2 v

/-- floor(log2 |x|) of a finite non-zero value. -/
def FVal.flog2 : FVal → Int
  | .fin _ m e => (log2n m : Int) + e
  | .log _ n => n.fdiv 8
  | _ => 0

/-- A dyadic value; zero keeps the given sign. -/
def dyadic (zeroNeg : Bool) (v : Int) (e : Int) : FVal :=
  if v = 0 then .zero zeroNeg else .fin (decide (v < 0)) v.natAbs e

/-- The value of a code point under R114 to R125, before any block scale. -/
def decodeElem (f code : Nat) : FVal :=
  match fmtFloat f with
  | some (e, m, b) =>
    let s := bitOf code (e + m)
    let ex := field code (e + m - 1) m
    let mn := code % 2 ^ m
    if fmtInf f ∧ ex = 2 ^ e - 1 then
      if mn = 0 then .inf s else .nan (decide (8 < fmtBits f) && !bitOf mn (m - 1))
    else if fmtE4M3 f ∧ ex = 15 ∧ mn = 7 then .nan false
    else if ex = 0 then (if mn = 0 then .zero s else .fin s mn (1 - (b : Int) - m))
    else .fin s (2 ^ m + mn) ((ex : Int) - b - m)
  | none =>
    match fmtInt f with
    | some (w, signed) =>
      let c := code % 2 ^ w
      let v : Int := if signed ∧ 2 ^ (w - 1) ≤ c then (c : Int) - 2 ^ w else c
      dyadic false v 0
    | none =>
      if f = 0x15 then
        let c := code % 256
        dyadic false (if 128 ≤ c then (c : Int) - 256 else c) (-6)
      else if f = 0x18 then
        let k := code % 128
        let s := bitOf code 7
        if k = 0 then (if s then .nan false else .zero false) else .log s ((k : Int) - 64)
      else
        let k := code % 8
        let s := bitOf code 3
        if k = 0 then (if s then .nan false else .zero false) else .log s (4 * ((k : Int) - 4))

/-- The value of an element of a block with scale byte `x` (R121, R122). -/
def decodeScaled (f code x : Nat) : FVal :=
  if x = 0xFF then .nan false else (decodeElem f code).scale ((x : Int) - 127)

/-- Input flush of R132: subnormals of the 16-bit formats always, of binary32 and binary64 under FTZ. -/
def inputFlush (md : FpMode) (f : Nat) (v : FVal) : FVal × Flags :=
  match fmtFloat f, v with
  | some (_, _, b), .fin s _ _ =>
    if (f = 2 ∨ f = 3 ∨ ((f = 0 ∨ f = 1) ∧ md.ftz)) ∧ v.flog2 < 1 - (b : Int) then (.zero s, fFLUSHED) else (v, 0)
  | _, _ => (v, 0)

/-- A real number of magnitude (mant + δ) * 2^exp with 0 ≤ δ < 1, and δ > 0 exactly when `sticky`. Where `sticky`
holds, `mant` has at least 200 bits. -/
structure Real where
  neg : Bool
  mant : Nat
  exp : Int
  sticky : Bool
deriving DecidableEq, Repr

/-- floor of the square root, by bits from the top. -/
def isqrtGo : Nat → Nat → Nat → Nat
  | 0, _, r => r
  | k + 1, n, r => let c := r + 2 ^ k; if c * c ≤ n then isqrtGo k n c else isqrtGo k n r

def isqrt (n : Nat) : Nat := isqrtGo (Nat.log2 n / 2 + 1) n 0

/-- 2^(num/8) with 256 bits after the leading one. -/
def pow2Eighth (neg : Bool) (num : Int) : Real :=
  let q := num.fdiv 8
  let r := (num - 8 * q).toNat
  ⟨neg, isqrt (isqrt (isqrt (2 ^ (8 * 256 + r)))), q - 256, decide (r ≠ 0)⟩

/-- A finite non-zero value as a real. -/
def FVal.toReal : FVal → Real
  | .fin s m e => ⟨s, m, e, false⟩
  | .log s n => pow2Eighth s n
  | _ => ⟨false, 0, 0, false⟩

def Real.flog2 (x : Real) : Int := (log2n x.mant : Int) + x.exp

/-- The quotient of two positive dyadic numbers. -/
def divReal (neg : Bool) (m1 : Nat) (e1 : Int) (m2 : Nat) (e2 : Int) : Real :=
  let s := 256 + Nat.log2 m2
  let n := m1 * 2 ^ s
  ⟨neg, n / m2, e1 - e2 - s, decide (n % m2 ≠ 0)⟩

/-- The square root of a positive dyadic number. -/
def sqrtReal (m : Nat) (e : Int) : Real :=
  let k : Int := if (e - 512) % 2 = 0 then 512 else 513
  let n := m * 2 ^ k.toNat
  let r := isqrt n
  ⟨false, r, (e - k) / 2, decide (r * r ≠ n)⟩

/-- A real cut at a unit 2^q: whole units, whether nothing is left, how the rest compares with half a unit
(0 below, 1 equal, 2 above), and the first 16 bits of the rest. -/
structure Cut where
  n : Nat
  exact : Bool
  half : Nat
  f16 : Nat
deriving DecidableEq, Repr

def Real.cut (x : Real) (q : Int) : Cut :=
  if q ≤ x.exp then ⟨x.mant * 2 ^ (x.exp - q).toNat, !x.sticky, 0, 0⟩
  else
    let sh := (q - x.exp).toNat
    let r := x.mant % 2 ^ sh
    ⟨x.mant / 2 ^ sh, decide (r = 0) && !x.sticky,
     if 2 * r < 2 ^ sh then 0 else if 2 * r = 2 ^ sh ∧ !x.sticky then 1 else 2, r * 2 ^ 16 / 2 ^ sh⟩

/-- The generator of R130. -/
def srRandom (seed j : Nat) : Nat :=
  let m := 2 ^ 64
  let z := (seed + (j + 1) * 0x9E3779B97F4A7C15) % m
  let z := ((z ^^^ (z >>> 30)) * 0xBF58476D1CE4E5B9) % m
  let z := ((z ^^^ (z >>> 27)) * 0x94D049BB133111EB) % m
  z ^^^ (z >>> 31)

/-- The draw R of R129 for element j. -/
def srDraw (md : FpMode) (j : Nat) : Nat := srRandom md.seed j / 2 ^ 48

/-- How a value is rounded: a mode RM, or stochastically with a draw. -/
inductive Rnd where
  | mode (rm : Nat)
  | draw (r : Nat)
deriving DecidableEq, Repr

/-- Whether a conversion to a target of `w` bits rounds stochastically (R129). -/
def rndOf (md : FpMode) (w j : Nat) : Rnd := if md.srnd ∧ w ≤ 16 then .draw (srDraw md j) else .mode md.rm

/-- The rounded number of units (R127, R129 step 4). -/
def Cut.round (c : Cut) (neg : Bool) : Rnd → Nat
  | .draw r => if c.exact then c.n else if c.f16 > r then c.n + 1 else c.n
  | .mode rm =>
    if c.exact then c.n else
    match rm with
    | 0 => if c.half = 2 ∨ (c.half = 1 ∧ c.n % 2 = 1) then c.n + 1 else c.n
    | 1 => c.n
    | 2 => if neg then c.n else c.n + 1
    | _ => if neg then c.n + 1 else c.n

/-- Largest finite value of a floating-point format: mantissa with the leading bit, and its exponent (R115). -/
def fmtLargest (f e m b : Nat) : Nat × Int :=
  if fmtInf f then (2 ^ (m + 1) - 1, (2 ^ e - 2 : Int) - b - m)
  else if fmtE4M3 f then (14, (15 : Int) - b - m)
  else (2 ^ (m + 1) - 1, (2 ^ e - 1 : Int) - b - m)

/-- Whether n * 2^q exceeds m * 2^e. -/
def dyadicGt (n : Nat) (q : Int) (m : Nat) (e : Int) : Bool :=
  if q ≤ e then decide (m * 2 ^ (e - q).toNat < n) else decide (m < n * 2 ^ (q - e).toNat)

/-- The code of n * 2^q, a representable value of format (e, m, b), q at least the subnormal unit. -/
def encodeFloat (e m b : Nat) (neg : Bool) (n : Nat) (q : Int) : Nat :=
  let sgn := b2n neg * 2 ^ (e + m)
  if n = 0 then sgn else
  let l := log2n n
  let mn := if m ≤ l then n / 2 ^ (l - m) else n
  let q' := if m ≤ l then q + ((l : Int) - m) else q
  if mn < 2 ^ m then sgn + mn * 2 ^ (q - (1 - (b : Int) - m)).toNat
  else
    let ex := q' + m + b
    if ex ≤ 0 then sgn + mn / 2 ^ (1 - ex).toNat else sgn + ex.toNat * 2 ^ m + (mn - 2 ^ m)

/-- The infinity code of a format with infinities, the largest code otherwise. -/
def infCode (f e m : Nat) (neg : Bool) : Nat :=
  b2n neg * 2 ^ (e + m) + (if fmtInf f then (2 ^ e - 1) * 2 ^ m else if fmtE4M3 f then 0x7E else 2 ^ (e + m) - 1)

/-- The largest finite code. -/
def largestCode (f e m : Nat) (neg : Bool) : Nat :=
  b2n neg * 2 ^ (e + m) + (if fmtInf f then (2 ^ e - 1) * 2 ^ m - 1 else if fmtE4M3 f then 0x7E else 2 ^ (e + m) - 1)

/-- Overflow of a target that is not block-scaled (R136). -/
def overflowFloat (md : FpMode) (rnd : Rnd) (f e m : Nat) (neg : Bool) : Nat × Flags :=
  if fmtE4M3 f then (largestCode f e m neg, fOVF ||| fINX) else
  let toInf := match rnd with
    | .draw _ => true
    | .mode 0 => true
    | .mode 1 => false
    | .mode 2 => !neg
    | .mode _ => neg
  if toInf then
    if md.sat then (largestCode f e m neg, fOVF ||| fINX ||| fSATD) else (infCode f e m neg, fOVF ||| fINX)
  else (largestCode f e m neg, fOVF ||| fINX)

/-- Round a non-zero real to a floating-point format or element format (R127 to R136). `block` selects the element
rules of R138: a result above the largest becomes the largest, with OVF only when the scale was clamped. -/
def roundFloat (md : FpMode) (f : Nat) (j : Nat) (block : Option Bool) (x : Real) : Nat × Flags :=
  match fmtFloat f with
  | none => (0, 0)
  | some (e, m, b) =>
    let emin : Int := 1 - (b : Int)
    let fl := x.flog2
    let qu : Int := fl - m
    let q : Int := max qu (emin - m)
    let (lm, le) := fmtLargest f e m b
    let rnd0 := rndOf md (fmtBits f) j
    let top := x.cut (le - 1)
    let aboveHalf := decide (2 * lm + 1 ≤ top.n)
    let aboveLargest := decide (2 * lm < top.n) || (decide (2 * lm = top.n) && !top.exact)
    let rnd := match rnd0 with | .draw r => if aboveHalf then .mode 0 else .draw r | r => r
    let c := x.cut q
    let n := c.round x.neg rnd
    let inx := if c.exact then 0 else fINX
    let isDraw : Bool := match rnd with | .draw _ => true | _ => false
    if isDraw && aboveLargest then
      (largestCode f e m x.neg, fINX)
    else if dyadicGt n q lm le then
      match block with
      | some clamped => (largestCode f e m x.neg, if clamped then fOVF ||| fINX else fINX)
      | none => overflowFloat md rnd f e m x.neg
    else
      let cu := x.cut qu
      let nu := cu.round x.neg rnd
      let tiny := !(dyadicGt nu qu 1 emin || (decide (nu ≠ 0) && decide ((log2n nu : Int) + qu = emin)))
      let flush := f == 2 || f == 3 || ((f == 0 || f == 1) && md.ftz)
      if tiny ∧ flush then (b2n x.neg * 2 ^ (e + m), fFLUSHED ||| fUNF ||| fINX)
      else (encodeFloat e m b x.neg n q, inx ||| (if tiny ∧ !c.exact then fUNF else 0))

/-- Units of a magnitude whose largest is `top`: a draw never decides one above it; from half a unit above on RNE does
(R129). -/
def Cut.roundTop (c : Cut) (neg : Bool) (top : Nat) : Rnd → Nat
  | .draw r =>
    if top < c.n ∨ (top = c.n ∧ c.half ≠ 0) then c.round neg (.mode 0)
    else if top = c.n then top
    else c.round neg (.draw r)
  | .mode rm => c.round neg (.mode rm)

/-- Range of an integer format. -/
def intRange (w : Nat) (signed : Bool) : Int × Int := if signed then (-(2 ^ (w - 1) : Int), 2 ^ (w - 1) - 1) else (0, 2 ^ w - 1)

/-- A two's-complement or unsigned code of an integer. -/
def intCode (w : Nat) (v : Int) : Nat := (v % 2 ^ w).toNat

/-- Round a non-zero real to an integer format (R137). The largest magnitude of R129 is that of the value's sign in a
signed format, and that of the format in an unsigned one (log 75). -/
def roundInt (md : FpMode) (w : Nat) (signed : Bool) (j : Nat) (x : Real) : Nat × Flags :=
  let (lo, hi) := intRange w signed
  let c := x.cut 0
  let top := if signed && x.neg then lo.natAbs else hi.natAbs
  let n := (c.roundTop x.neg top (rndOf md w j) : Int)
  let v : Int := if x.neg then -n else n
  if v < lo then (intCode w lo, fOVF ||| fINX)
  else if hi < v then (intCode w hi, fOVF ||| fINX)
  else (intCode w v, if c.exact then 0 else fINX)

/-- Convert a value, after input flush, to a format without a block scale (R134 to R137, R140). -/
def convertTo (md : FpMode) (dst j : Nat) (v : FVal) : Nat × Flags :=
  match fmtFloat dst with
  | some (e, m, _) =>
    match v with
    | .nan s => (defaultNan dst, if s then fINV else 0)
    | .inf s => (infCode dst e m s, if fmtE4M3 dst then fOVF ||| fINX else 0)
    | .zero s => (b2n s * 2 ^ (e + m), 0)
    | _ => roundFloat md dst j none v.toReal
  | none =>
    match fmtInt dst with
    | some (w, signed) =>
      let (lo, hi) := intRange w signed
      match v with
      | .nan _ => (0, fINV)
      | .inf s => (intCode w (if s then lo else hi), fOVF ||| fINX)
      | .zero _ => (0, 0)
      | _ => roundInt md w signed j v.toReal
    | none => (0, 0)

/-- emax of a block-scaled target (R138). -/
def fmtEmax (f : Nat) : Int :=
  match f with
  | 0x10 => 15 | 0x11 => 8 | 0x12 => 4 | 0x13 => 2 | 0x14 => 2 | 0x15 => 0 | 0x18 => 7 | 0x19 => 1 | _ => 0

/-- The scale byte of a block and whether it was clamped at 127 (R138). -/
def blockScale (dst : Nat) (vs : List FVal) : Nat × Bool :=
  let ls := vs.filterMap fun v => match v with | .fin _ _ _ => some v.flog2 | .log _ _ => some v.flog2 | _ => none
  match ls with
  | [] => (0x7F, false)
  | l :: r =>
    let t := r.foldl max l - fmtEmax dst
    if t > 127 then (254, true) else if t < -127 then (0, false) else ((t + 127).toNat, false)

/-- floor(p * 2^k) of the position of R128, and whether p * 2^k is an integer. `c` is 8 for L8 and 2 for L4. -/
def logPos (c k : Nat) (off : Int) (v : FVal) : Int × Bool :=
  match v with
  | .fin _ m e => ((log2n (m ^ (c * 2 ^ k)) : Int) + (c * 2 ^ k) * e + off * 2 ^ k, decide (2 ^ log2n m = m))
  | .log _ n => ((c * 2 ^ k * n).fdiv 8 + off * 2 ^ k, decide ((c * 2 ^ k * n) % 8 = 0))
  | _ => (0, true)

/-- Round x / S to an L8 or L4 code (R127 to R129, R138, R139). `v` is already divided by S. Position 0 stands for zero, so
that a value at it is not representable. -/
def roundLog (md : FpMode) (dst j : Nat) (clamped : Bool) (v : FVal) : Nat × Flags :=
  let c := if dst = 0x18 then 8 else 2
  let off : Int := if dst = 0x18 then 64 else 4
  let top : Int := if dst = 0x18 then 127 else 7
  let sgn := b2n v.negB * (if dst = 0x18 then 128 else 8)
  let (p0, ex) := logPos c 0 off v
  let rnd := rndOf md (fmtBits dst) j
  let near : Int :=
    let (p1, ex1) := logPos c 1 off v
    if ex1 ∧ p1 % 2 ≠ 0 then (if p0 % 2 = 0 then p0 else p0 + 1) else (p1 + 1).fdiv 2
  let up (b : Bool) : Int := if b ∧ (!ex ∨ p0 = 0) then p0 + 1 else p0
  let r : Int := match rnd with
    | .draw d => if top ≤ p0 then near else up (decide (0 ≤ p0 ∧ ((logPos c 16 off v).1 % 2 ^ 16).toNat > d))
    | .mode 0 => near
    | .mode 1 => p0
    | .mode 2 => up (!v.negB)
    | .mode _ => up v.negB
  let below := decide (p0 < 0)
  let code : Int :=
    if below then
      (match rnd with
       | .mode 2 => if v.negB then 0 else 1
       | .mode 3 => if v.negB then 1 else 0
       | _ => 0)
    else r
  if top < code ∨ top + 1 ≤ p0 then (sgn + top.toNat, if clamped then fOVF ||| fINX else fINX)
  else if code ≤ 0 then (0, fINX ||| fUNF)
  else
    let inx := !(ex && decide (code = p0))
    (sgn + code.toNat, (if inx then fINX else 0) ||| (if p0 < 1 ∧ inx then fUNF else 0))

/-- Round x / S to MXINT8 (R123, R133, R138); the largest magnitude of R129 is that of the value's sign (log 75). -/
def roundMxint (md : FpMode) (j : Nat) (clamped : Bool) (x : Real) : Nat × Flags :=
  let c := x.cut (-6)
  let top := if x.neg then 128 else 127
  let n := c.roundTop x.neg top (rndOf md 8 j)
  if top < n then (intCode 8 (if x.neg then -(top : Int) else top), if clamped then fOVF ||| fINX else fINX)
  else if n = 0 then (0, fINX ||| fUNF)
  else (intCode 8 (if x.neg then -(n : Int) else n), if c.exact then 0 else fINX)

/-- Convert one element of a block whose scale is chosen (R134, R138 to R140). `v` is not yet divided by S. -/
def convertElem (md : FpMode) (dst j sb : Nat) (clamped : Bool) (v : FVal) : Nat × Flags :=
  let w := v.scale (127 - (sb : Int))
  match v with
  | .nan _ => (defaultNan dst, 0)
  | .inf s =>
    if dst = 0x18 then (b2n s * 128 + 127, fOVF ||| fINX)
    else if dst = 0x19 then (b2n s * 8 + 7, fOVF ||| fINX)
    else if dst = 0x10 then (if s then 0xFC else 0x7C, 0)
    else (if s then 0xFE else 0x7E, fOVF ||| fINX)
  | .zero s =>
    match fmtFloat dst with
    | some (e, m, _) => (b2n s * 2 ^ (e + m), 0)
    | none => (0, 0)
  | _ =>
    if dst = 0x18 ∨ dst = 0x19 then roundLog md dst j clamped w
    else if dst = 0x15 then roundMxint md j clamped w.toReal
    else roundFloat md dst j (some clamped) w.toReal

/-- Convert the values of one block (R138, R139): scale byte, element codes, flags. Element i has index j0 + i. -/
def convertBlock (md : FpMode) (dst j0 : Nat) (vs : List FVal) : Nat × List Nat × Flags :=
  let inv : Flags := if vs.any FVal.isSNan then fINV else 0
  let nanBlock := (decide (0x12 ≤ dst ∧ dst ≤ 0x15)) && vs.any fun v => v.isNan || v.isInf
  if nanBlock then (0xFF, vs.map fun _ => 0, inv) else
  let (sb, clamped) := blockScale dst vs
  let rs := vs.zipIdx.map fun vi => convertElem md dst (j0 + vi.2) sb clamped vi.1
  (sb, rs.map (·.1), rs.foldl (fun a r => a ||| r.2) inv)

end Sys2Proof.Machine
end

