-- ==== Sys2Proof/Machine/VecArith.lean ====
section
/-! DEFINITION. Element arithmetic of the vector unit: the operations of R152 to R159 on element codes, and the
element layout of vector registers (R144, R145). -/

namespace Sys2Proof.Machine

abbrev VecReg := BitVec 8192
abbrev MaskReg := BitVec 2048

/-- The F formats of R145. -/
def isF (f : Nat) : Bool := decide (f < 4)
/-- The I formats of R145. -/
def isI (f : Nat) : Bool := decide (6 ≤ f ∧ f ≤ 0x0B)
/-- Whether an I format is signed (R119). -/
def isSigned (f : Nat) : Bool := f != 0x0A
/-- VLMAX of a width (R145). -/
def vlmaxW (w : Nat) : Nat := if w = 6 then 1024 else 8192 / w
/-- VLMAX of a format (R145). -/
def vlmax (f : Nat) : Nat := vlmaxW (fmtBits f)

/-- Element j of a register, width w (R144). -/
def vecElem (w : Nat) (r : VecReg) (j : Nat) : Nat := (r.toNat >>> (w * j)) % 2 ^ w

/-- Pack element codes from element 0 up. -/
def packElems (w : Nat) (cs : List Nat) : Nat := cs.foldr (fun c a => a * 2 ^ w + c % 2 ^ w) 0

/-- A register with the elements below `n` that are active replaced (R147). -/
def vecWrite (w n : Nat) (act : Nat → Bool) (old : VecReg) (f : Nat → Nat) : VecReg :=
  let body := packElems w ((List.range n).map fun j => if act j then f j else vecElem w old j)
  BitVec.ofNat 8192 ((old.toNat >>> (w * n)) * 2 ^ (w * n) + body)

/-- The signed or unsigned value of an integer code (R153). -/
def intVal (f code : Nat) : Int :=
  let w := fmtBits f
  let c := code % 2 ^ w
  if isSigned f ∧ 2 ^ (w - 1) ≤ c then (c : Int) - 2 ^ w else c

/-- The code of an integer modulo 2^w. -/
def wrapInt (f : Nat) (v : Int) : Nat := (v % 2 ^ fmtBits f).toNat

/-- The mode of arithmetic: rounding and flush, without SAT and SRND (R154). -/
def FpMode.arith (md : FpMode) : FpMode := { md with sat := false, srnd := false }

/-- An operand of F arithmetic: decoded and flushed (R132). -/
def fIn (md : FpMode) (f code : Nat) : FVal × Flags := inputFlush md f (decodeElem f code)

/-- The default NaN, with INV where asked. -/
def nanOut (f : Nat) (inv : Bool) : Nat × Flags := (defaultNan f, if inv then fINV else 0)

/-- The sign of an exact zero sum of terms that are not all zeros of one sign (R154, IEEE 754). -/
def zeroSumNeg (md : FpMode) : Bool := md.rm == 3

/-- mant and exp of a zero or finite dyadic value, signed. -/
def FVal.signedParts : FVal → Int × Int
  | .fin s m e => (if s then -(m : Int) else m, e)
  | _ => (0, 0)

/-- Exact sum of two signed dyadic numbers. -/
def sumParts (a b : Int × Int) : Int × Int :=
  let e := min a.2 b.2
  (a.1 * 2 ^ (a.2 - e).toNat + b.1 * 2 ^ (b.2 - e).toNat, e)

/-- The exact product of two non-NaN values; inf × 0 is the caller's. -/
def mulVal (a b : FVal) : FVal :=
  let s := a.negB != b.negB
  match a, b with
  | .fin _ m e, .fin _ n k => .fin s (m * n) (e + k)
  | .inf _, _ => .inf s
  | _, .inf _ => .inf s
  | _, _ => .zero s

/-- Sum of two non-NaN values rounded to format f (R154). -/
def addVal (md : FpMode) (f : Nat) (a b : FVal) : Nat × Flags :=
  match a, b with
  | .inf s, .inf t => if s = t then convertTo md f 0 (.inf s) else nanOut f true
  | .inf s, _ => convertTo md f 0 (.inf s)
  | _, .inf s => convertTo md f 0 (.inf s)
  | .zero s, .zero t => convertTo md f 0 (.zero (if s = t then s else zeroSumNeg md))
  | _, _ =>
    let (v, e) := sumParts a.signedParts b.signedParts
    convertTo md f 0 (dyadic (zeroSumNeg md) v e)

/-- a + b and a - b (R152). -/
def fAdd (md : FpMode) (f a b : Nat) (sub : Bool) : Nat × Flags :=
  let (x, f1) := fIn md f a
  let (y, f2) := fIn md f b
  if x.isNan || y.isNan then ((nanOut f (x.isSNan || y.isSNan)).1, f1 ||| f2 ||| (nanOut f (x.isSNan || y.isSNan)).2)
  else
    let r := addVal md.arith f x (if sub then y.neg else y)
    (r.1, f1 ||| f2 ||| r.2)

/-- a × b (R152). -/
def fMul (md : FpMode) (f a b : Nat) : Nat × Flags :=
  let (x, f1) := fIn md f a
  let (y, f2) := fIn md f b
  let r :=
    if x.isNan || y.isNan then nanOut f (x.isSNan || y.isSNan)
    else if (x.isInf && y.isZero) || (x.isZero && y.isInf) then nanOut f true
    else convertTo md.arith f 0 (mulVal x y)
  (r.1, f1 ||| f2 ||| r.2)

/-- a ÷ b (R152, R154). -/
def fDiv (md : FpMode) (f a b : Nat) : Nat × Flags :=
  let (x, f1) := fIn md f a
  let (y, f2) := fIn md f b
  let s := x.negB != y.negB
  let r :=
    if x.isNan || y.isNan then nanOut f (x.isSNan || y.isSNan)
    else match x, y with
      | .inf _, .inf _ => nanOut f true
      | .zero _, .zero _ => nanOut f true
      | .inf _, _ => convertTo md.arith f 0 (.inf s)
      | _, .inf _ => convertTo md.arith f 0 (.zero s)
      | .zero _, _ => convertTo md.arith f 0 (.zero s)
      | _, .zero _ => ((convertTo md.arith f 0 (.inf s)).1, fDZ)
      | .fin _ m e, .fin _ n k => roundFloat md.arith f 0 none (divReal s m e n k)
      | _, _ => (0, 0)
  (r.1, f1 ||| f2 ||| r.2)

/-- Square root (R152, R154). -/
def fSqrt (md : FpMode) (f a : Nat) : Nat × Flags :=
  let (x, f1) := fIn md f a
  let r := match x with
    | .nan s => nanOut f s
    | .zero s => convertTo md.arith f 0 (.zero s)
    | .inf s => if s then nanOut f true else convertTo md.arith f 0 (.inf false)
    | .fin s m e => if s then nanOut f true else roundFloat md.arith f 0 none (sqrtReal m e)
    | _ => (0, 0)
  (r.1, f1 ||| r.2)

/-- ±(a × b) ± d, rounded once (R156). -/
def fFma (md : FpMode) (f a b d : Nat) (negProd negAdd : Bool) : Nat × Flags :=
  let (x, f1) := fIn md f a
  let (y, f2) := fIn md f b
  let (z0, f3) := fIn md f d
  let z := if negAdd then z0.neg else z0
  let bad := (x.isInf && y.isZero) || (x.isZero && y.isInf)
  let r :=
    if bad then nanOut f true
    else if x.isNan || y.isNan || z.isNan then nanOut f (x.isSNan || y.isSNan || z.isSNan)
    else
      let p := mulVal x y
      addVal md.arith f (if negProd then p.neg else p) z
  (r.1, f1 ||| f2 ||| f3 ||| r.2)

/-- How two non-NaN values compare; zeros are equal. -/
def cmpVal (a b : FVal) : Ordering :=
  match a, b with
  | .inf s, .inf t => if s = t then .eq else if s then .lt else .gt
  | .inf s, _ => if s then .lt else .gt
  | _, .inf s => if s then .gt else .lt
  | _, _ =>
    let (v, _) := sumParts a.signedParts b.neg.signedParts
    if v < 0 then .lt else if v = 0 then .eq else .gt

/-- Sign bit of a code. -/
def signBit (f code : Nat) : Bool := bitOf code (fmtBits f - 1)

/-- Change only the sign bit. -/
def setSign (f code : Nat) (s : Bool) : Nat :=
  let w := fmtBits f
  code % 2 ^ (w - 1) + b2n s * 2 ^ (w - 1)

/-- F minimum or maximum (R155). -/
def fMinMax (md : FpMode) (f a b : Nat) (max : Bool) : Nat × Flags :=
  let (x, f1) := fIn md f a
  let (y, f2) := fIn md f b
  let ca := if x.isZero then setSign f 0 x.negB else a
  let cb := if y.isZero then setSign f 0 y.negB else b
  let inv := if x.isSNan || y.isSNan then fINV else 0
  let c :=
    if x.isNan && y.isNan then defaultNan f
    else if x.isNan then cb
    else if y.isNan then ca
    else
      let lt := match cmpVal x y with
        | .lt => true
        | .gt => false
        | .eq => x.negB && !y.negB
      if max then (if lt then cb else ca) else (if lt then ca else cb)
  (c, f1 ||| f2 ||| inv)

/-- Leading zeros within w bits. -/
def clzW (w v : Nat) : Nat := if v % 2 ^ w = 0 then w else w - 1 - Nat.log2 (v % 2 ^ w)

/-- Number of one bits in the low w bits. -/
def popW (w v : Nat) : Nat := (List.range w).foldl (fun a i => a + b2n (bitOf v i)) 0

/-- Class 0x11 and 0x12 operations 0 to 12 and 15 on two element codes (R152 to R155). -/
def vecBinary (md : FpMode) (op f a b : Nat) : Nat × Flags :=
  let w := fmtBits f
  if isF f then
    match op with
    | 0 => fAdd md f a b false
    | 1 => fAdd md f a b true
    | 2 => fMul md f a b
    | 3 => fDiv md f a b
    | 4 => fMinMax md f a b false
    | 5 => fMinMax md f a b true
    | 15 =>
      let r := fAdd md f a b true
      (if r.1 = defaultNan f then r.1 else setSign f r.1 false, r.2)
    | _ => (b % 2 ^ w, 0)
  else
    let x := intVal f a
    let y := intVal f b
    let sh := b % w
    (match op with
     | 0 => wrapInt f (x + y)
     | 1 => wrapInt f (x - y)
     | 2 => wrapInt f (x * y)
     | 4 => wrapInt f (min x y)
     | 5 => wrapInt f (max x y)
     | 6 => a &&& b
     | 7 => a ||| b
     | 8 => a ^^^ b
     | 9 => (a * 2 ^ sh) % 2 ^ w
     | 10 => a / 2 ^ sh
     | 11 => wrapInt f (x.fdiv (2 ^ sh))
     | 12 => wrapInt f ((x * y).fdiv (2 ^ w))
     | 15 => (x - y).natAbs
     | _ => b % 2 ^ w, 0)

/-- VCLASS codes (R152). -/
def fClass (f code : Nat) : Nat :=
  let sub (v : FVal) : Bool := match fmtFloat f with | some (_, _, b) => decide (v.flog2 < 1 - (b : Int)) | none => false
  match decodeElem f code with
  | .inf s => if s then 0 else 7
  | .zero s => if s then 3 else 4
  | .nan s => if s then 8 else 9
  | v => if sub v then (if v.negB then 2 else 5) else (if v.negB then 1 else 6)

/-- Unary sub-operations of class 0x11 op 13 (R152). -/
def vecUnary (md : FpMode) (sub f a : Nat) : Nat × Flags :=
  let w := fmtBits f
  match sub with
  | 0 => (a, 0)
  | 1 => (if isF f then setSign f a (!signBit f a) else wrapInt f (-(intVal f a)), 0)
  | 2 => (if isF f then setSign f a false else wrapInt f (intVal f a).natAbs, 0)
  | 3 => fSqrt md f a
  | 4 => (2 ^ w - 1 - a % 2 ^ w, 0)
  | 5 => (popW w a, 0)
  | 6 => (clzW w a, 0)
  | _ => (fClass f a, 0)

/-- Class 0x13 (R156). The operation is taken modulo 4. -/
def vecFma (md : FpMode) (op f a b d : Nat) : Nat × Flags :=
  let np := op % 4 = 2 ∨ op % 4 = 3
  let na := op % 4 = 1 ∨ op % 4 = 3
  if isF f then fFma md f a b d np na
  else
    let p := intVal f a * intVal f b
    let d := intVal f d
    (wrapInt f ((if np then -p else p) + (if na then -d else d)), 0)

/-- Class 0x15 compares 0 to 4 (R157). -/
def vecCompare (md : FpMode) (op f a b : Nat) : Bool × Flags :=
  if isF f then
    let (x, f1) := fIn md f a
    let (y, f2) := fIn md f b
    let nan := x.isNan || y.isNan
    let snan := x.isSNan || y.isSNan
    let inv := if (if op = 2 ∨ op = 3 then nan else snan) then fINV else 0
    let r := if nan then op == 1 || op == 4 else
      match op, cmpVal x y with
      | 0, .eq => true
      | 1, .lt => true
      | 1, .gt => true
      | 2, .lt => true
      | 3, .lt => true
      | 3, .eq => true
      | _, _ => false
    (r, f1 ||| f2 ||| inv)
  else
    let x := intVal f a
    let y := intVal f b
    (match op with
     | 0 => decide (x = y)
     | 1 => decide (x ≠ y)
     | 2 => decide (x < y)
     | 3 => decide (x ≤ y)
     | _ => false, 0)

/-- Sum of the active elements of an F format, rounded once (R159). -/
def fSum (md : FpMode) (f : Nat) (cs : List Nat) : Nat × Flags :=
  let xs := cs.map (fIn md f)
  let fl := unionFlags (xs.map (·.2))
  let vs := xs.map (·.1)
  let pinf := vs.any fun v => v.isInf && !v.negB
  let ninf := vs.any fun v => v.isInf && v.negB
  let inv := if vs.any FVal.isSNan || (pinf && ninf) then fINV else 0
  let r : Nat × Flags :=
    if vs.isEmpty then convertTo md.arith f 0 (.zero false)
    else if vs.any FVal.isNan || (pinf && ninf) then (defaultNan f, 0)
    else if pinf then convertTo md.arith f 0 (.inf false)
    else if ninf then convertTo md.arith f 0 (.inf true)
    else
      let (v, e) := (vs.map FVal.signedParts).foldl sumParts (0, 0)
      if v = 0 then convertTo md.arith f 0 (.zero ((vs.all fun v => v.isZero && v.negB) || md.rm == 3))
      else convertTo md.arith f 0 (dyadic false v e)
  (r.1, fl ||| inv ||| r.2)

/-- F or I element extended to 64 bits as a reduction result (R158). -/
def extendElem (f code : Nat) : W64 :=
  if isI f then BitVec.ofInt 64 (intVal f code) else BitVec.ofNat 64 code

/-- Reductions of class 0x16 ops 0 to 5 over the active element codes (R158, R159). -/
def vecReduce (md : FpMode) (op f : Nat) (cs : List Nat) : W64 × Flags :=
  let w := fmtBits f
  let (lo, hi) := if isSigned f then (-(2 ^ (w - 1) : Int), (2 ^ (w - 1) : Int) - 1) else (0, (2 ^ w : Int) - 1)
  match op with
  | 0 =>
    if isF f then (let r := fSum md f cs; (BitVec.ofNat 64 r.1, r.2))
    else (BitVec.ofInt 64 ((cs.map (intVal f)).foldl (· + ·) 0), 0)
  | 1 =>
    if isF f then
      let r := cs.foldl (fun (a : Nat × Flags) c => let m := fMinMax md f a.1 c true; (m.1, a.2 ||| m.2)) (defaultNan f, 0)
      (BitVec.ofNat 64 r.1, r.2)
    else (BitVec.ofInt 64 ((cs.map (intVal f)).foldl max lo), 0)
  | 2 =>
    if isF f then
      let r := cs.foldl (fun (a : Nat × Flags) c => let m := fMinMax md f a.1 c false; (m.1, a.2 ||| m.2)) (defaultNan f, 0)
      (BitVec.ofNat 64 r.1, r.2)
    else (BitVec.ofInt 64 ((cs.map (intVal f)).foldl min hi), 0)
  | 3 => (extendElem f (cs.foldl (· &&& ·) (2 ^ w - 1)), 0)
  | 4 => (extendElem f (cs.foldl (· ||| ·) 0), 0)
  | _ => (extendElem f (cs.foldl (· ^^^ ·) 0), 0)

/-- Formats accepted by class 0x11 and 0x12 operations 0 to 15, 13 being VBCAST (R152). -/
def binaryAccepts (op f : Nat) : Bool :=
  match op with
  | 3 => isF f
  | 6 => isI f | 7 => isI f | 8 => isI f | 9 => isI f | 10 => isI f
  | 11 => isI f && f != 0x0A
  | 12 => isI f
  | _ => isF f || isI f

/-- Formats accepted by the unary sub-operations (R152). -/
def unaryAccepts (sub f : Nat) : Bool :=
  match sub with
  | 0 => isF f || isI f
  | 1 => isF f || isI f
  | 2 => isF f || isI f
  | 3 => isF f
  | 4 => isI f
  | 5 => isI f
  | 6 => isI f
  | 7 => isF f
  | _ => false

/-- Pairs that VCVT accepts (R160). -/
def cvtAccepts (s d : Nat) : Bool :=
  fmtDefined s && fmtDefined d && s != d &&
    (s == 1 || d == 1 || (s == 0 && (d == 6 || d == 7)) || (d == 0 && (s == 6 || s == 7)) || (isI s && isI d))

end Sys2Proof.Machine
end

