-- ==== Sys2Proof/Machine/MatArith.lean ====
section
/-! DEFINITION. Arithmetic and layouts of the matrix unit: the block sums of R188 to R195, the operand layouts of
R184 to R186 and the operand checks of R187, as functions of a reader of tile memory. -/

namespace Sys2Proof.Machine

/-- Bytes of a 32-element group (R184). -/
def groupBytes (f : Nat) : Nat := 4 * fmtBits f

/-- The pairs of formats that MMA accepts (R179). -/
def mmaAccepts (a b : Nat) : Bool :=
  (a == b && [0x19, 0x14, 0x0B, 0x18, 0x15, 0x02, 0x03, 0x01, 0x00].contains a)
    || ([4, 5].contains a && [4, 5].contains b)
    || ([0x10, 0x11, 0x12, 0x13].contains a && [0x10, 0x11, 0x12, 0x13].contains b)
    || ([9, 10].contains a && [9, 10].contains b)

/-- The accumulator format of an MMA (R179). -/
def mmaAccFmt (a : Nat) : Nat := if a = 0 then 0 else 1

/-- Whether a non-zero real is tiny in a floating-point format (R133). -/
def isTiny (md : FpMode) (f : Nat) (x : Real) : Bool :=
  match fmtFloat f with
  | none => false
  | some (_, m, b) =>
    let emin : Int := 1 - (b : Int)
    let qu : Int := x.flog2 - m
    let n := (x.cut qu).round x.neg (.mode md.rm)
    !(dyadicGt n qu 1 emin || (decide (n ≠ 0) && decide ((log2n n : Int) + qu = emin)))

/-- Fraction bits with which a sum of irrational rails is held; more than any rounding decision of c + S needs. -/
def railBits : Nat := 4608

/-- floor(2^(r/8) * 2^railBits) for a residue r. -/
def railRoot (r : Nat) : Nat := isqrt (isqrt (isqrt (2 ^ (8 * railBits + r))))

/-- c + Σ ±2^(num/8) as one real, rounded to binary32 (R191): the terms of one residue add as integers. -/
def railSum (md : FpMode) (c : FVal) (ts : List (Bool × Int)) (zeroNeg : Bool) : Nat × Flags :=
  let cp := c.signedParts
  let e0 := ts.foldl (fun a t => min a (t.2.fdiv 8)) cp.2
  let rail (r : Nat) : Int := ts.foldl (fun a t =>
    if t.2 % 8 = (r : Int) then (let v : Int := 2 ^ (t.2.fdiv 8 - e0).toNat; if t.1 then a - v else a + v) else a) 0
  let base := rail 0 + cp.1 * 2 ^ (cp.2 - e0).toNat
  let rest : List (Nat × Int) := (List.range 7).map fun i => (i + 1, rail (i + 1))
  if rest.all (fun t => t.2 = 0) then
    if base = 0 then convertTo md 1 0 (.zero zeroNeg) else convertTo md 1 0 (dyadic false base e0)
  else
    let v : Int := rest.foldl (fun (a : Int) t => a + t.2 * (railRoot t.1 : Int)) (base * 2 ^ railBits)
    roundFloat md 1 0 none ⟨decide (v < 0), v.natAbs / 2 ^ 64, e0 - railBits + 64, true⟩

/-- The window width of R192, none for an exact group. -/
def windowOf (f : Nat) : Option Int := match f with | 3 => some 32 | 1 => some 64 | 0 => some 128 | _ => none

/-- Step 5 of R189 for the window formats (R192). -/
def windowSum (md : FpMode) (acc : Nat) (w : Int) (ts : List FVal) (zeroNeg : Bool) : Nat × Flags :=
  let nz := ts.filter fun t => !t.isZero
  match nz with
  | [] => convertTo md acc 0 (.zero zeroNeg)
  | t0 :: r =>
    let emax := (r.map FVal.flog2).foldl max t0.flog2
    let g := emax - w
    let cuts := nz.map fun t => (t.negB, t.toReal.cut g)
    let tt : Int := cuts.foldl (fun a c => if c.1 then a - c.2.n else a + c.2.n) 0
    let st := cuts.any fun c => !c.2.exact
    if !st then (if tt = 0 then convertTo md acc 0 (.zero zeroNeg) else convertTo md acc 0 (dyadic false tt g))
    else if tt = 0 then ((convertTo md acc 0 (.zero zeroNeg)).1, fINX)
    else
      let v := dyadic false (2 * tt + (if tt < 0 then -1 else 1)) (g - 1)
      let o := convertTo md acc 0 v
      (o.1, o.2 ||| fINX ||| (if isTiny md acc v.toReal then fUNF else 0))

/-- One block: c plus 32 products, resolved in the order of R189. `xs` and `ys` are decoded and flushed. -/
def blockSum (md : FpMode) (fa acc : Nat) (c : FVal) (ps : List (FVal × FVal)) (fl : Flags) : Nat × Flags :=
  let snan := c.isSNan || ps.any fun p => p.1.isSNan || p.2.isSNan
  let nan := c.isNan || ps.any fun p => p.1.isNan || p.2.isNan
  let bad := ps.any fun p => (p.1.isInf && p.2.isZero) || (p.1.isZero && p.2.isInf)
  let md := { md with srnd := false }
  if nan || bad then (defaultNan acc, fl ||| (if snan || bad then fINV else 0))
  else
    let prods := ps.map fun p => mulVal p.1 p.2
    let pinf := (c :: prods).any fun v => v.isInf && !v.negB
    let ninf := (c :: prods).any fun v => v.isInf && v.negB
    if pinf && ninf then (defaultNan acc, fl ||| fINV)
    else if pinf then ((convertTo md acc 0 (.inf false)).1, fl)
    else if ninf then ((convertTo md acc 0 (.inf true)).1, fl)
    else
      let plusZero := (fmtInt fa).isSome || fa == 0x15 || fa == 0x18 || fa == 0x19
      let zn := md.rm == 3 || (!plusZero && (c :: prods).all fun v => v.isZero && v.negB)
      if fa = 0x18 ∨ fa = 0x19 then
        let ts := ps.filterMap fun p => match p.1, p.2 with
          | .log s a, .log t b => some (s != t, a + b)
          | _, _ => none
        let r := railSum md c ts zn
        (r.1, fl ||| r.2)
      else
        match windowOf fa with
        | some w => let r := windowSum md acc w (prods ++ [c]) zn; (r.1, fl ||| r.2)
        | none =>
          let (v, e) := (c :: prods).map FVal.signedParts |>.foldl sumParts (0, c.signedParts.2)
          let r := if v = 0 then convertTo md acc 0 (.zero zn) else convertTo md acc 0 (dyadic false v e)
          (r.1, fl ||| r.2)

/-- The decoded, flushed elements of a group (R120, R122, R189 step 1). -/
def groupVals (md : FpMode) (f : Nat) (bytes : List Byte) (scale : Nat) : List (FVal × Flags) :=
  let v := bytesToNat bytes
  let w := fmtBits f
  (List.range 32).map fun k =>
    let code := (v >>> (w * k)) % 2 ^ w
    inputFlush md f (if fmtBlock f then decodeScaled f code scale else decodeElem f code)

/-- Operands of an MMA as captured at issue (R180). -/
structure MmaArgs where
  fa : Nat
  fb : Nat
  aElem : Nat
  aScale : Nat
  bElem : Nat
  bScale : Nat
  kb : Nat
  za : Bool
deriving DecidableEq, Repr

/-- Unpack the three operand registers of MMA (R180). -/
def mmaArgs (fa fb : Nat) (a b c : W64) : MmaArgs :=
  { fa, fb, aElem := field a.toNat 21 0, aScale := field a.toNat 43 22, bElem := field b.toNat 21 0,
    bScale := field b.toNat 43 22, kb := field c.toNat 8 0, za := bitOf c.toNat 16 }

/-- Tile-memory size (R27). -/
def tileBytes : Nat := 0x400000

/-- The first failing check of a list. -/
def firstFail (cs : List (Bool × Nat × Nat)) : Option (Nat × W64) :=
  (cs.find? (·.1)).map fun c => (c.2.1, BitVec.ofNat 64 c.2.2)

/-- The checks of R187 for MMA, in order SUB 4, 1, 3, 2. -/
def mmaCheck (fa fb : Nat) (a b c : W64) (rows cols : Nat) : Option (Nat × W64) :=
  let g := mmaArgs fa fb a b c
  let kb := field c.toNat 8 0
  firstFail [
    (field a.toNat 63 44 != 0 || (!fmtBlock fa && g.aScale != 0), 4, a.toNat),
    (field b.toNat 63 44 != 0 || (!fmtBlock fb && g.bScale != 0), 4, b.toNat),
    (field c.toNat 63 17 != 0 || field c.toNat 15 9 != 0, 4, c.toNat),
    (decide (kb = 0 ∨ 256 < kb), 1, kb),
    (g.aElem % 64 != 0, 3, g.aElem), (g.bElem % 64 != 0, 3, g.bElem),
    (decide (tileBytes < g.aElem + kb * rows * groupBytes fa), 2, g.aElem),
    (fmtBlock fa && decide (tileBytes < g.aScale + kb * rows), 2, g.aScale),
    (decide (tileBytes < g.bElem + kb * cols * groupBytes fb), 2, g.bElem),
    (fmtBlock fb && decide (tileBytes < g.bScale + kb * cols), 2, g.bScale)]

/-- The byte ranges an MMA reads: (offset, length). -/
def mmaReads (g : MmaArgs) (rows cols : Nat) : List (Nat × Nat) :=
  [(g.aElem, g.kb * rows * groupBytes g.fa), (g.bElem, g.kb * cols * groupBytes g.fb)]
    ++ (if fmtBlock g.fa then [(g.aScale, g.kb * rows)] else []) ++ (if fmtBlock g.fb then [(g.bScale, g.kb * cols)] else [])

/-- The bytes of one tile-memory read. -/
def tileRead (rd : Nat → Byte) (o n : Nat) : List Byte := (List.range n).map fun i => rd (o + i)

/-- Whether a range of bytes touches a poisoned 8-byte word (R202, R584). -/
def touchesBad (bad : Nat → Bool) (o n : Nat) : Bool := (List.range ((o + n + 7) / 8 - o / 8)).any fun i => bad (o / 8 + i)

/-- One accumulator cell of an MMA (R188): code and flags. `rd` reads a tile byte, `bad` tells a poisoned word. -/
def mmaCell (md : FpMode) (g : MmaArgs) (rows cols : Nat) (rd : Nat → Byte) (bad : Nat → Bool) (i j c0 : Nat) :
    Nat × Flags × Bool :=
  let acc := mmaAccFmt g.fa
  let ba := groupBytes g.fa
  let bb := groupBytes g.fb
  let start := if g.za then 0 else c0
  let r := (List.range g.kb).foldl (fun (s : Nat × Flags × Bool) kb =>
    let oa := g.aElem + (kb * rows + i) * ba
    let ob := g.bElem + (kb * cols + j) * bb
    let sa := g.aScale + kb * rows + i
    let sb := g.bScale + kb * cols + j
    let xs := groupVals md g.fa (tileRead rd oa ba) (rd sa).toNat
    let ys := groupVals md g.fb (tileRead rd ob bb) (rd sb).toNat
    let (c, f1) := inputFlush md acc (decodeElem acc s.1)
    let fl := unionFlags (xs.map (·.2)) ||| unionFlags (ys.map (·.2)) ||| f1
    let o := blockSum md g.fa acc c (List.zip (xs.map (·.1)) (ys.map (·.1))) fl
    let hit := touchesBad bad oa ba || touchesBad bad ob bb || (fmtBlock g.fa && bad (sa / 8)) || (fmtBlock g.fb && bad (sb / 8))
    (o.1, s.2.1 ||| o.2, s.2.2 || hit)) (start, 0, false)
  if r.2.2 then (defaultNan acc, 0, true) else r

/-- Element size of the accumulator side: 8 for a pair, 4 for a tile (R185). -/
def accSize (pair : Bool) : Nat := if pair then 8 else 4

/-- The row pitch of MACCLD and MACCST (R185). -/
def accPitch (pair : Bool) (p cols : Nat) : Nat := if p = 0 then cols * accSize pair else p

/-- The checks of R187 for MACCLD and MACCST. -/
def accMoveCheck (pair : Bool) (a b : W64) (rows cols : Nat) : Option (Nat × W64) :=
  let es := accSize pair
  let p := b.toNat
  let pp := accPitch pair p cols
  firstFail [
    (decide (2 ^ 22 ≤ a.toNat), 4, a.toNat), (decide (2 ^ 22 ≤ p), 4, p),
    (p != 0 && decide (p < cols * es), 1, p),
    (a.toNat % es != 0, 3, a.toNat), (p % es != 0, 3, p),
    (decide (tileBytes < a.toNat + (rows - 1) * pp + cols * es), 2, a.toNat)]

/-- The checks of R187 for MACCSTC and MACCSTCD. -/
def accConvCheck (fmt : Nat) (a b : W64) (rows cols : Nat) : Option (Nat × W64) :=
  let w := fmtBits fmt
  let blk := fmtBlock fmt
  firstFail [
    (decide (2 ^ 22 ≤ a.toNat), 4, a.toNat), (blk && decide (2 ^ 22 ≤ b.toNat), 4, b.toNat),
    ((blk || decide (w < 8)) && cols % 32 != 0, 1, cols),
    (a.toNat % 16 != 0, 3, a.toNat),
    (decide (tileBytes < a.toNat + rows * (cols * w / 8)), 2, a.toNat),
    (blk && decide (tileBytes < b.toNat + rows * (cols / 32)), 2, b.toNat)]

/-- Convert one row of an accumulator (R196): element bytes, scale bytes, flags. `src` is 1 for a tile, 0 for a pair. -/
def convRow (md : FpMode) (src dst i cols : Nat) (row : List Nat) : List Byte × List Byte × Flags :=
  let w := fmtBits dst
  let vs := row.map fun c => inputFlush md src (decodeElem src c)
  let f0 := unionFlags (vs.map (·.2))
  if fmtBlock dst then
    let blocks := (List.range (cols / 32)).map fun b =>
      convertBlock md dst (i * cols + 32 * b) (((vs.map (·.1)).drop (32 * b)).take 32)
    (natToBytes (packElems w (blocks.flatMap (·.2.1))) (cols * w / 8), blocks.map (fun b => BitVec.ofNat 8 b.1),
      f0 ||| unionFlags (blocks.map (·.2.2)))
  else
    let rs := vs.zipIdx.map fun v => convertTo md dst (i * cols + v.2) v.1.1
    (natToBytes (packElems w (rs.map (·.1))) (cols * w / 8), [], f0 ||| unionFlags (rs.map (·.2)))

/-- Formats of MACCSTC and MACCSTCD (R181). -/
def convAccepts (pair : Bool) (f : Nat) : Bool :=
  fmtDefined f && (if pair then f == 1 || f == 6 || f == 7 else f != 0 && f != 1 && f != 6)

/-- Whether two byte ranges overlap. -/
def rangesMeet (a b : Nat × Nat) : Bool := decide (0 < a.2 ∧ 0 < b.2 ∧ a.1 < b.1 + b.2 ∧ b.1 < a.1 + a.2)

end Sys2Proof.Machine
end

