-- ==== Sys2Proof/Machine/TreeMath.lean ====
section
/-! DEFINITION. Trees, primitives and queries as functions of a memory reader: nodes, boxes and primitive tests
(R205 to R224), query records (R240 to R244), the walk (R245, R246), tracks (R247 to R249) and the source
generator's samples (R256). -/

namespace Sys2Proof.Machine

/-! Exact arithmetic on values. -/

def vAdd (a b : FVal) : FVal := let s := sumParts a.signedParts b.signedParts; dyadic false s.1 s.2
def vSub (a b : FVal) : FVal := vAdd a b.neg
def vMul (a b : FVal) : FVal := mulVal a b
def vInt (n : Int) : FVal := dyadic false n 0
def vIsFin (v : FVal) : Bool := !v.isNan && !v.isInf
def vPos (v : FVal) : Bool := !v.isZero && !v.isNan && !v.negB
def vNegative (v : FVal) : Bool := !v.isZero && !v.isNan && v.negB
def vLe (a b : FVal) : Bool := cmpVal a b != .gt
def vLt (a b : FVal) : Bool := cmpVal a b == .lt
def vMax (a b : FVal) : FVal := if vLt a b then b else a
def vMin (a b : FVal) : FVal := if vLt b a then b else a

/-- A mode with only a rounding direction. -/
def dirMode (rm : Nat) : FpMode := { FpMode.rne with rm := rm }

/-- round(v) to format f as a value. -/
def vRound (f rm : Nat) (v : FVal) : FVal := decodeElem f (convertTo (dirMode rm) f 0 v).1

/-- round(n / d) as a value; d is not zero. A zero result takes the sign of the quotient (log 76). -/
def vDiv (f rm : Nat) (n d : FVal) : FVal :=
  match n, d with
  | .fin s m e, .fin t k g => decodeElem f (roundFloat (dirMode rm) f 0 none (divReal (s != t) m e k g)).1
  | .inf _, .inf _ => .nan false
  | .inf s, _ => .inf (s != d.negB)
  | _, _ => .zero (n.negB != d.negB)

/-- round(sqrt v) of a value that is not negative. -/
def vSqrt (f : Nat) (v : FVal) : FVal :=
  match v with
  | .fin _ m e => decodeElem f (roundFloat FpMode.rne f 0 none (sqrtReal m e)).1
  | v => v

/-- The code of a value in format f. -/
def vCode (f : Nat) (v : FVal) : Nat := (convertTo FpMode.rne f 0 v).1

abbrev V3 := List FVal
def vx (p : V3) (a : Nat) : FVal := p.getD a (.zero false)

/-- A binary32 or binary64 value stored at an offset. -/
def f32At (b : List Byte) (o : Nat) : FVal := decodeElem 1 (le b o 4)
def f64At (b : List Byte) (o : Nat) : FVal := decodeElem 0 (le b o 8)

/-! References and nodes. -/

def refType (r : Nat) : Nat := field r 2 0
def refAddr (r : Nat) : Nat := field r 47 3 * 128
def refBlocks (r : Nat) : Nat := field r 52 48 + 1
def refCull (r : Nat) : Bool := bitOf r 53
def refMask (r : Nat) : Nat := field r 63 56

/-- A reference obeys R208 and the count limits of R222; the empty reference is valid as a root. -/
def refValid (r : Nat) : Bool :=
  let t := refType r
  decide (t < 6) && field r 55 54 == 0 && (!refCull r || t == 2) &&
    (match t with
     | 0 => r == 0
     | 1 => refBlocks r == 1
     | 4 => decide (2 ≤ refBlocks r ∧ refBlocks r ≤ 8)
     | _ => true)

def nodeCount (b : List Byte) : Nat := field (le b 15 1) 3 0
def nodeFixed (b : List Byte) : Bool := bitOf (le b 15 1) 4
def nodeRef (b : List Byte) (c : Nat) : Nat := le b (64 + 8 * c) 8
def nodeExp (b : List Byte) (a : Nat) : Int := let x := le b (12 + a) 1; if 128 ≤ x then (x : Int) - 256 else x

/-- A node obeys R205 and R206 (R233 order 3). -/
def nodeOk (b : List Byte) : Bool :=
  let n := nodeCount b
  decide (1 ≤ n ∧ n ≤ 8) && field (le b 15 1) 7 5 == 0
    && ((List.range 3).all fun a => vIsFin (f32At b (4 * a)) && decide (-126 ≤ nodeExp b a))
    && ((List.range 8).all fun c =>
      if c < n then (List.range 3).all fun a => decide (le b (16 + 6 * c + 2 * a) 1 ≤ le b (17 + 6 * c + 2 * a) 1)
      else zeros b (16 + 6 * c) 6 && zeros b (64 + 8 * c) 8)

/-- Every used reference of a node obeys R208 and R222 (R233 order 4). -/
def nodeRefsOk (b : List Byte) : Bool :=
  (List.range (nodeCount b)).all fun c => refValid (nodeRef b c) && refType (nodeRef b c) != 0

/-- The decoded box of slot c (R207). -/
def childBox (b : List Byte) (c : Nat) : V3 × V3 :=
  let side (off rm a : Nat) : FVal :=
    vRound 1 rm (vAdd (f32At b (4 * a)) (dyadic false (le b (16 + 6 * c + 2 * a + off) 1) (nodeExp b a)))
  ((List.range 3).map (side 0 3), (List.range 3).map (side 1 2))

/-! Queries. -/

/-- A query record with its extension, as values (R240, R241). -/
structure Query where
  qtype : Nat
  ext : Bool
  o : List FVal
  d : List FVal
  tmin : FVal
  tmax : FVal
  qid : Nat
  tree : Nat
  mask : Nat
  n : Nat
  ring : Nat
  dest : Nat
  group : Nat
  coll : Nat
  pid : Nat
deriving DecidableEq, Repr

/-- Whether the search types use points. -/
def Query.isPoint (q : Query) : Bool := q.qtype == 4 || q.qtype == 5

/-- Read a query record and its extension; none where a check of R240 fails (the GROUP check needs the binding). -/
def parseQuery (r : List Byte) (x : Option (List Byte)) : Option Query :=
  let qt := le r 38 1
  let t := qt % 8
  let ext := bitOf qt 7
  let e := x.getD []
  let o := (List.range 3).map fun a => if ext then f64At e (8 * a) else f32At r (4 * a)
  let d := (List.range 3).map fun a => if ext then f64At e (24 + 8 * a) else f32At r (12 + 4 * a)
  let tmin := if ext then f64At e 48 else f32At r 24
  let tmax := if ext then f64At e 56 else f32At r 28
  let pt := t == 4 || t == 5
  let zeroDir := if ext then zeros e 24 24 && zeros e 48 8 else zeros r 12 16
  let cnt := t == 2 || pt
  let ok := decide (t < 6) && field qt 6 3 == 0 && decide (le r 36 2 < 1024) && decide (le r 41 1 < 4)
    && decide (le r 42 1 < 64) && zeros r 56 8 && (!ext || (zeros r 0 32 && x.isSome))
    && (if cnt then decide (1 ≤ le r 40 1 ∧ le r 40 1 ≤ 32) else le r 40 1 == 0)
    && (t == 3 || (le r 43 1 == 0 && le r 44 4 == 0 && le r 48 8 == 0))
    && (t != 3 || le r 44 4 != 0xFFFFFFFF)
    && o.all vIsFin && d.all vIsFin && vIsFin tmin && !tmax.isNan && !(vNegative tmin) && !(vLt tmax tmin)
    && (if pt then zeroDir else d.any fun v => !v.isZero)
  if ok then
    some { qtype := t, ext, o, d, tmin, tmax, qid := le r 32 4, tree := le r 36 2, mask := le r 39 1, n := le r 40 1,
           ring := le r 41 1, dest := le r 42 1, group := le r 43 1, coll := le r 44 4, pid := le r 48 8 }
  else none

/-- Number of materials and groups, base and VALID of a cross-section descriptor (R223). -/
def xsMats (x : Nat) : Nat := field x 63 52 + 1
def xsGroups (x : Nat) : Nat := field x 7 0 + 1
def xsBase (x : Nat) : Nat := field x 51 12 * 4096
def xsValid (x : Nat) : Bool := bitOf x 8
/-- The layout rules of R223. -/
def xsOk (x : Nat) : Bool := if xsValid x then field x 11 9 == 0 else x == 0

/-- The GROUP check of a track against its bound descriptor (R240). -/
def groupFits (q : Query) (xs : Nat) : Bool := q.qtype != 3 || !xsValid xs || decide (q.group < xsGroups xs)

/-- A hit record (R243). -/
structure HitRec where
  qid : Nat
  prim : Nat
  mat : Nat
  kind : Nat
  flags : Nat
  data0 : Nat
  dist : Nat
  data1 : Nat
deriving DecidableEq, Repr

/-- The 32 bytes of a hit record (R243). -/
def HitRec.bytes (h : HitRec) : List Byte :=
  natToBytes h.qid 4 ++ natToBytes h.prim 4 ++ natToBytes h.mat 2 ++ natToBytes h.kind 1 ++ natToBytes h.flags 1
    ++ natToBytes h.data0 4 ++ natToBytes h.dist 8 ++ natToBytes h.data1 8

/-- The record of a query without hits (R244). -/
def noneRec (q : Query) : HitRec := ⟨q.qid, 0xFFFFFFFF, 0xFFFF, 8, 2, 0, 0x7FF0000000000000, 0⟩
/-- The record of a faulted query (R237, R244). -/
def faultRec (q : Query) (code : Nat) : HitRec :=
  ⟨q.qid, 0xFFFFFFFF, 0xFFFF, 9, 2, code, 0, if q.qtype = 3 then q.pid else 0⟩

/-- A reader of memory: address and length to bytes, or a fault code of R233 (4 outside, 5 poisoned). -/
abbrev Fetch := Nat → Nat → Except Nat (List Byte)

/-! Box tests. -/

/-- Box test of a ray (R210): the entry distance of a hit. -/
def boxRay (o d : V3) (tmin tmax : FVal) (lo hi : V3) : Option FVal :=
  let r := (List.range 3).foldl (fun (s : Option (FVal × FVal)) a =>
    s.bind fun (en, lv) =>
      let oa := vx o a; let da := vx d a; let l := vx lo a; let h := vx hi a
      if da.isZero then (if vLt oa l || vLt h oa then none else some (en, lv))
      else
        let num (b : FVal) : FVal := if b.isInf then b else vSub b oa
        let (near, far) := if da.negB then (num h, num l) else (num l, num h)
        some (vMax en (vDiv 1 3 near da), vMin lv (vDiv 1 2 far da))) (some (tmin, tmax))
  r.bind fun (en, lv) => if vLe en lv then some en else none

/-- Exact squared distance from a point to a closed box. -/
def boxDist2 (p lo hi : V3) : FVal :=
  (List.range 3).foldl (fun s a =>
    let c := vx p a
    let g := if vLt c (vx lo a) then vSub (vx lo a) c else if vLt (vx hi a) c then vSub c (vx hi a) else .zero false
    vAdd s (vMul g g)) (.zero false)

/-- Box test of a radius query (R211): the rounded squared distance of a hit. -/
def boxPoint (p : V3) (r : FVal) (lo hi : V3) : Option FVal :=
  let d := vRound 1 3 (boxDist2 p lo hi)
  if r.isInf || vLe d (vRound 1 2 (vMul r r)) then some d else none

/-! Triangles (R214). -/

structure TriHit where
  t : FVal
  v : FVal
  w : FVal
  det : FVal
  back : Bool

def cross2 (a b c d : FVal) : FVal := vSub (vMul a b) (vMul c d)

/-- Whether the exact triple product n · d is positive; at most one component of d is infinite. -/
def tripPos (n : Nat → FVal) (d : V3) : Bool :=
  match (List.range 3).find? fun a => (vx d a).isInf with
  | some a => vPos (vMul (n a) (vx d a)) && !(n a).isZero
  | none => vPos ((List.range 3).foldl (fun s a => vAdd s (vMul (n a) (vx d a))) (.zero false))

/-- tri_ray of R214; origin and direction are already binary32 values. A miss where a value that it forms is not finite. -/
def triRay (o d : V3) (vs : List V3) (tmin tmax : FVal) (cull : Bool) : Option TriHit :=
  let vabs (v : FVal) : FVal := if v.negB then v.neg else v
  if !(o.all vIsFin) then none else
  let kz := if vLt (vabs (vx d 0)) (vabs (vx d 1)) then (if vLt (vabs (vx d 1)) (vabs (vx d 2)) then 2 else 1)
    else (if vLt (vabs (vx d 0)) (vabs (vx d 2)) then 2 else 0)
  let dz := vx d kz
  if dz.isZero then none else
  let k1 := (kz + 1) % 3
  let k2 := (k1 + 1) % 3
  let (kx, ky) := if dz.negB then (k2, k1) else (k1, k2)
  let sx := vDiv 1 0 (vx d kx) dz
  let sy := vDiv 1 0 (vx d ky) dz
  let sz := vDiv 1 0 (vInt 1) dz
  let as := vs.map fun v => (List.range 3).map fun a => vRound 1 0 (vSub (vx v a) (vx o a))
  if !([sx, sy, sz].all vIsFin && as.all fun a => a.all vIsFin) then none else
  let xs := as.map fun a => vRound 1 0 (vSub (vx a kx) (vMul sx (vx a kz)))
  let ys := as.map fun a => vRound 1 0 (vSub (vx a ky) (vMul sy (vx a kz)))
  let zs := as.map fun a => vRound 1 0 (vMul sz (vx a kz))
  if !(xs.all vIsFin && ys.all vIsFin && zs.all vIsFin) then none else
  let u := cross2 (vx xs 2) (vx ys 1) (vx ys 2) (vx xs 1)
  let v := cross2 (vx xs 0) (vx ys 2) (vx ys 0) (vx xs 2)
  let w := cross2 (vx xs 1) (vx ys 0) (vx ys 1) (vx xs 0)
  if [u, v, w].any vNegative && [u, v, w].any vPos then none else
  let det := vAdd (vAdd u v) w
  if det.isZero then none else
  let num := vAdd (vAdd (vMul u (vx zs 0)) (vMul v (vx zs 1))) (vMul w (vx zs 2))
  let t := vDiv 1 0 num det
  if !(vIsFin t) || vLt t tmin || vLt tmax t then none else
  let e (i a : Nat) : FVal := vSub (vx (vs.getD i []) a) (vx (vs.getD 0 []) a)
  let n (a : Nat) : FVal := cross2 (e 1 ((a + 1) % 3)) (e 2 ((a + 2) % 3)) (e 1 ((a + 2) % 3)) (e 2 ((a + 1) % 3))
  let back := tripPos n d
  if back && cull then none else some ⟨t, v, w, det, back⟩

/-- A triangle block obeys R213. -/
def triBlockOk (b : List Byte) : Bool :=
  let n := le b 120 1
  decide (1 ≤ n ∧ n ≤ 3) && zeros b 121 1 && (List.range 3).all fun t =>
    if t < n then (List.range 9).all fun i => vIsFin (f32At b (36 * t + 4 * i))
    else zeros b (36 * t) 36 && zeros b (108 + 4 * t) 4 && zeros b (122 + 2 * t) 2

/-- The vertices of triangle t. -/
def triVerts (b : List Byte) (t : Nat) : List V3 :=
  (List.range 3).map fun i => (List.range 3).map fun a => f32At b (36 * t + 12 * i + 4 * a)

/-- Directions and origins of triangle tests, rounded to binary32 for an extended query (R214). -/
def toB32 (q : Query) (v : V3) : V3 := if q.ext then v.map (vRound 1 0) else v

/-! Quadric cells (R216 to R219). -/

structure Surf where
  coef : List FVal
  bits : List Byte
  id : Nat
  sense : Nat
  vacuum : Bool
deriving DecidableEq, Repr

structure Cell where
  id : Nat
  mat : Nat
  density : FVal
  surfs : List Surf
  addr : Nat
deriving DecidableEq, Repr

/-- A quadric block taken alone obeys R216. -/
def quadBlockOk (b : List Byte) : Bool :=
  ((List.range 10).all fun i => vIsFin (f64At b (8 * i))) && decide (le b 84 1 ≤ 1) && decide (le b 85 1 ≤ 1)
    && zeros b 86 2 && vIsFin (f64At b 88) && !(vNegative (f64At b 88)) && decide (1 ≤ le b 102 1 ∧ le b 102 1 ≤ 32)
    && decide (le b 103 1 < le b 102 1) && zeros b 104 24

def quadSurf (b : List Byte) : Surf :=
  { coef := (List.range 10).map fun i => f64At b (8 * i), bits := b.take 80, id := le b 80 4, sense := le b 84 1,
    vacuum := bitOf (le b 85 1) 0 }

/-- Q(p), exact. -/
def quadEval (k : List FVal) (p : V3) : FVal :=
  let c := vx k
  let x := vx p 0; let y := vx p 1; let z := vx p 2
  [vMul (c 0) (vMul x x), vMul (c 1) (vMul y y), vMul (c 2) (vMul z z), vMul (c 3) (vMul x y), vMul (c 4) (vMul y z),
   vMul (c 5) (vMul z x), vMul (c 6) x, vMul (c 7) y, vMul (c 8) z, c 9].foldl vAdd (.zero false)

/-- dᵀMd, exact. -/
def quadA (k : List FVal) (d : V3) : FVal :=
  let c := vx k
  let x := vx d 0; let y := vx d 1; let z := vx d 2
  [vMul (c 0) (vMul x x), vMul (c 1) (vMul y y), vMul (c 2) (vMul z z), vMul (c 3) (vMul x y), vMul (c 4) (vMul y z),
   vMul (c 5) (vMul z x)].foldl vAdd (.zero false)

/-- 2pᵀMd + gᵀd, exact. -/
def quadB (k : List FVal) (p d : V3) : FVal :=
  let c := vx k
  let sym (a b : Nat) : FVal := vAdd (vMul (vx p a) (vx d b)) (vMul (vx p b) (vx d a))
  [vMul (c 0) (sym 0 0), vMul (c 1) (sym 1 1), vMul (c 2) (sym 2 2), vMul (c 3) (sym 0 1), vMul (c 4) (sym 1 2),
   vMul (c 5) (sym 2 0), vMul (c 6) (vx d 0), vMul (c 7) (vx d 1), vMul (c 8) (vx d 2)].foldl vAdd (.zero false)

/-- a + b rounded to binary64, where at most one of them is infinite. -/
def vSum (a b : FVal) : FVal := if a.isInf then a else if b.isInf then b else vRound 0 0 (vAdd a b)

/-- The roots of R218 as they round, with the exact sign of the slope at each: true where the crossing enters Q ≥ 0. A
tangent root is left out. A coefficient that overflows gives no root (log 12). -/
def quadRoots (k : List FVal) (p d : V3) : List (FVal × Bool) :=
  let a := vRound 0 0 (quadA k d)
  let b := vRound 0 0 (quadB k p d)
  let c := vRound 0 0 (quadEval k p)
  if !([a, b, c].all vIsFin) then [] else
  let rs : List FVal :=
    if a.isZero then (if b.isZero then [] else [vDiv 0 0 c.neg b])
    else
      let disc := vRound 0 0 (vSub (vMul b b) ((vMul a c).scale 2))
      if vNegative disc then [] else
      let sq := vSqrt 0 disc
      let u := vSum b (if vNegative b then sq.neg else sq)
      let q := if u.isInf then u.neg else (u.neg).scale (-1)
      vDiv 0 0 q a :: (if q.isZero then [] else [vDiv 0 0 c q])
  rs.filterMap fun r =>
    if a.isZero then some (r, vPos b)
    else if r.isInf then some (r, a.negB == r.negB)
    else
      let slope := vAdd ((vMul a r).scale 1) b
      if slope.isZero then none else some (r, vPos slope)

/-- Whether a point lies on the cell's side of a surface; `ovr` gives the side of a surface just crossed (R249). -/
def surfHolds (s : Surf) (p : V3) (ovr : Option (List Byte × Bool)) : Bool :=
  let pos := match ovr with
    | some (b, side) => if b = s.bits then side else !(vNegative (quadEval s.coef p))
    | none => !(vNegative (quadEval s.coef p))
  if s.sense = 1 then pos else !pos

/-- Whether a point lies in a cell (R217). -/
def Cell.holds (c : Cell) (p : V3) (ovr : Option (List Byte × Bool)) : Bool := c.surfs.all fun s => surfHolds s p ovr

/-- The exit of a cell from an inside point (R219): distance and surface, with the side that the crossing enters. -/
def Cell.exit (c : Cell) (p d : V3) : Option (FVal × Surf × Bool) :=
  c.surfs.foldl (fun best s =>
    (quadRoots s.coef p d).foldl (fun best r =>
      if vPos r.1 && (if s.sense = 0 then r.2 else !r.2) then
        match best with
        | some (t, _, _) => if vLt r.1 t then some (r.1, s, r.2) else best
        | none => some (r.1, s, r.2)
      else best) best) none

/-- The point round(p + t d), binary64. -/
def along (p d : V3) (t : FVal) : V3 :=
  (List.range 3).map fun a => if t.isInf then .nan false else vRound 0 0 (vAdd (vx p a) (vMul t (vx d a)))

/-- The entry of a ray into a cell (R219): distance from p, and the surface entered (none when p is inside); of equal
distances that of the lowest SIDX (log 76). -/
def Cell.entry (c : Cell) (p d : V3) : Option (FVal × Option Surf) :=
  if c.holds p none then some (.zero false, none) else
  let cands := c.surfs.zipIdx.flatMap fun s => ((quadRoots s.1.coef p d).filter fun r =>
    !(vNegative r.1) && (if s.1.sense = 0 then !r.2 else r.2)
      && (let x := along p d r.1
          x.all vIsFin && c.surfs.zipIdx.all fun o => o.2 == s.2 || surfHolds o.1 x none)).map fun r => (r.1, s.1)
  cands.foldl (fun best r => match best with
    | some (t, _) => if vLt r.1 t then some (r.1, some r.2) else best
    | none => some (r.1, some r.2)) none

/-! Voxels (R220). -/

structure Voxel where
  code : Nat
  key : Nat
  lo : List FVal
  hi : List FVal
  addr : Nat
deriving DecidableEq, Repr

/-- A brick header obeys R220. -/
def voxHeaderOk (b : List Byte) : Bool :=
  let n := le b 0 1
  let corner (i a k : Nat) : FVal := vAdd (f32At b (16 + 16 * i + 4 * a)) (vMul (vInt k) (f32At b (28 + 16 * i)))
  decide (1 ≤ n ∧ n ≤ 7) && zeros b 1 15 &&
  ((List.range 7).all fun i =>
    if i < n then
      ((List.range 3).all fun a => vIsFin (f32At b (16 + 16 * i + 4 * a)))
        && (let p := f32At b (28 + 16 * i); vIsFin p && vPos p && decide (-126 ≤ p.flog2))
    else zeros b (16 + 16 * i) 16) &&
  (List.range n).all fun i => (List.range n).all fun j =>
    i == j || (List.range 3).any fun a => vLe (corner i a 4) (corner j a 0) || vLe (corner j a 4) (corner i a 0)

/-- The fault of a brick header whose reference counts `blocks` blocks: BAD_REF where that is not NBRICK + 1 (R222), before
BAD_BLOCK (R233). -/
def voxHeaderCode (b : List Byte) (blocks : Nat) : Option Nat :=
  if blocks ≠ le b 0 1 + 1 then some 1 else if voxHeaderOk b then none else some 3

/-- The voxels of a brick (R220). -/
def brickVoxels (h data : List Byte) (i addr : Nat) : List Voxel :=
  let o (a : Nat) : FVal := f32At h (16 + 16 * i + 4 * a)
  let p := f32At h (28 + 16 * i)
  (List.range 64).map fun k =>
    let ix : List Nat := [k % 4, k / 4 % 4, k / 16]
    { code := 64 * i + k, key := le data (2 * k) 2,
      lo := (List.range 3).map fun a => vAdd (o a) (vMul (vInt (ix.getD a 0)) p),
      hi := (List.range 3).map fun a => vAdd (o a) (vMul (vInt (ix.getD a 0 + 1)) p), addr }

/-- A fraction n / d with d positive, and whether the bound belongs to the interval. -/
structure Bound where
  n : FVal
  d : FVal
  closed : Bool

def fracCmp (a b : Bound) : Ordering := cmpVal (vMul a.n b.d) (vMul b.n a.d)
def boundOf (n d : FVal) (closed : Bool) : Bound := if d.negB then ⟨n.neg, d.neg, closed⟩ else ⟨n, d, closed⟩

/-- The parameter interval in which a ray lies in the half-open box of a voxel, within [tmin, tmax]. -/
def voxInterval (v : Voxel) (o d : V3) (tmin tmax : FVal) : Option Bound :=
  let r := (List.range 3).foldl (fun (s : Option (Bound × Option Bound)) a =>
    s.bind fun (l, u) =>
      let oa := vx o a; let da := vx d a
      if da.isZero then (if vLt oa (vx v.lo a) || vLe (vx v.hi a) oa then none else some (l, u))
      else
        let bl := boundOf (vSub (vx v.lo a) oa) da true
        let bh := boundOf (vSub (vx v.hi a) oa) da false
        let (near, far) := if da.negB then (bh, bl) else (bl, bh)
        let l' := match fracCmp l near with
          | .lt => near
          | .eq => { l with closed := l.closed && near.closed }
          | .gt => l
        let u' := match u with
          | none => far
          | some k => (match fracCmp k far with
            | .gt => far
            | .eq => { k with closed := k.closed && far.closed }
            | .lt => k)
        some (l', some u')) (some (⟨tmin, vInt 1, true⟩, if tmax.isInf then none else some ⟨tmax, vInt 1, true⟩))
  r.bind fun (l, u) =>
    match u with
    | none => some l
    | some k => (match fracCmp l k with
      | .lt => some l
      | .eq => if l.closed && k.closed then some l else none
      | .gt => none)

/-- The distance, rounded to binary64, at which a ray leaves a voxel (R248); one that comes out negative is taken as 0
(log 76). -/
def voxExit (v : Voxel) (p d : V3) : Option FVal :=
  let c := (List.range 3).filterMap fun a =>
    if (vx d a).isZero then none
    else some (boundOf (vSub (if (vx d a).negB then vx v.lo a else vx v.hi a) (vx p a)) (vx d a) true)
  match c with
  | [] => none
  | x :: r =>
    let b := r.foldl (fun m y => if fracCmp y m == .lt then y else m) x
    some (vMax (.zero false) (vDiv 0 0 b.n b.d))

/-- Whether a point lies in a voxel's half-open box (R220, R249; log 13). -/
def voxHolds (v : Voxel) (p : V3) : Bool :=
  (List.range 3).all fun a => vLe (vx v.lo a) (vx p a) && vLt (vx p a) (vx v.hi a)

/-! Points (R221). -/

def pointBlockOk (b : List Byte) : Bool :=
  (List.range 8).all fun u =>
    if le b (96 + 4 * u) 4 = 0xFFFFFFFF then zeros b (12 * u) 12
    else (List.range 3).all fun a => vIsFin (f32At b (12 * u + 4 * a))

/-! Leaves. -/

/-- Fetch the blocks of a leaf in order, checking each before the next is fetched: the blocks up to the first that fails
its check, each with its address, and the fault of that one. `bad` sees the block before, the index and the block. -/
def fetchBlocks (fetch : Fetch) (bad : Option (List Byte) → Nat → List Byte → Option Nat) (addr : Nat) :
    Nat → Nat → Option (List Byte) → List (Nat × List Byte) × Option Nat
  | 0, _, _ => ([], none)
  | n + 1, i, prev =>
    match fetch (addr + 128 * i) 128 with
    | .error c => ([], some c)
    | .ok b =>
      match bad prev i b with
      | some c => ([], some c)
      | none =>
        let r := fetchBlocks fetch bad addr n (i + 1) (some b)
        ((addr + 128 * i, b) :: r.1, r.2)

/-- BAD_BLOCK where a check of a block fails (R233). -/
def blockCode (ok : Bool) : Option Nat := if ok then none else some 3

/-- A block of a quadric leaf follows the block before under R217: it goes on with that block's cell or starts one, and its
cell ends within the `left` blocks from it on (log 60). -/
def quadFollows (prev : Option (List Byte)) (left : Nat) (b : List Byte) : Bool :=
  let n := le b 102 1
  let i := le b 103 1
  decide (n ≤ i + left) &&
    match prev with
    | none => i == 0
    | some p =>
      if le p 103 1 + 1 = le p 102 1 then i == 0
      else i == le p 103 1 + 1 && le p 102 1 == n && le p 96 4 == le b 96 4 && le p 100 2 == le b 100 2
        && (p.drop 88).take 8 == (b.drop 88).take 8

/-- Cut blocks that obey R217 into cells; a last cell that lacks blocks is left out. -/
def cutCells : Nat → List (Nat × List Byte) → List Cell
  | 0, _ => []
  | _, [] => []
  | fuel + 1, (a, b) :: r =>
    let mine := ((a, b) :: r).take (le b 102 1)
    if mine.length < le b 102 1 then []
    else { id := le b 96 4, mat := le b 100 2, density := f64At b 88, surfs := mine.map fun x => quadSurf x.2, addr := a }
      :: cutCells fuel (((a, b) :: r).drop (le b 102 1))

/-- The cells of a quadric leaf up to the first block that fails, and its fault. -/
def leafCells (fetch : Fetch) (ref : Nat) : List Cell × Option Nat :=
  let r := fetchBlocks fetch (fun p i b => blockCode (quadBlockOk b && quadFollows p (refBlocks ref - i) b)) (refAddr ref)
    (refBlocks ref) 0 none
  (cutCells 33 r.1, r.2)

/-- The voxels of a voxel leaf, or none and a fault: a leaf is one primitive (R222). -/
def leafVoxels (fetch : Fetch) (ref : Nat) : List Voxel × Option Nat :=
  match fetchBlocks fetch (fun _ i b => if i = 0 then voxHeaderCode b (refBlocks ref) else none) (refAddr ref) (refBlocks ref)
      0 none with
  | (h :: ds, none) => (ds.zipIdx.flatMap fun x => brickVoxels h.2 x.1.2 x.2 x.1.1, none)
  | (_, f) => ([], f)

/-- A hit with its rank (R246). -/
structure Ranked where
  dist : FVal
  addr : Nat
  idx : Nat
  hit : HitRec
deriving DecidableEq, Repr

def rankCmp (a b : Ranked) : Ordering :=
  match cmpVal a.dist b.dist with
  | .eq => (match compare a.addr b.addr with | .eq => compare a.idx b.idx | o => o)
  | o => o

/-- Insert by rank, keeping one entry of a rank and at most k entries (R245). -/
def insertRank (k : Nat) (x : Ranked) (l : List Ranked) : List Ranked :=
  if l.any (fun y => rankCmp y x == .eq) then l
  else ((l.filter fun y => rankCmp y x == .lt) ++ [x] ++ (l.filter fun y => rankCmp y x == .gt)).take k

/-- The primitives of a leaf that a query hits, in block order then index order, up to the first block that fails, and the
fault of that block (R222, R233, R245). -/
def leafHits (fetch : Fetch) (q : Query) (ref : Nat) : List Ranked × Option Nat :=
  let mk (prim mat kind flags d0 : Nat) (dist : FVal) (d1 : Nat) : HitRec :=
    ⟨q.qid, prim, mat, kind, flags, d0, vCode 0 dist, d1⟩
  match refType ref with
  | 2 =>
    let bs := fetchBlocks fetch (fun _ _ b => blockCode (triBlockOk b)) (refAddr ref) (refBlocks ref) 0 none
    (bs.1.flatMap fun ab => (List.range (le ab.2 120 1)).filterMap fun t =>
      (triRay (toB32 q q.o) (toB32 q q.d) (triVerts ab.2 t) q.tmin q.tmax (refCull ref)).map fun h =>
        ⟨h.t, ab.1, t, mk (le ab.2 (108 + 4 * t) 4) (le ab.2 (122 + 2 * t) 2) 0 (b2n h.back)
          (vCode 1 (vDiv 1 0 h.v h.det)) h.t (vCode 1 (vDiv 1 0 h.w h.det))⟩, bs.2)
  | 3 =>
    let cs := leafCells fetch ref
    (cs.1.filterMap fun c =>
      if c.mat = 0xFFFF then none else
      (c.entry (along q.o q.d q.tmin) q.d).bind fun (r, s) =>
        let dist := vRound 0 0 (vAdd q.tmin r)
        if vLt q.tmax dist then none else
        some ⟨dist, c.addr, 0, mk (match s with | some x => x.id | none => 0xFFFFFFFF) c.mat 1 0 c.id dist 0⟩, cs.2)
  | 4 =>
    let vs := leafVoxels fetch ref
    let hits := vs.1.filterMap fun v =>
      if v.key = 0xFFFF then none else (voxInterval v q.o q.d q.tmin q.tmax).map fun b => (b, v)
    (match hits with
     | [] => []
     | x :: r =>
       let (b, v) := r.foldl (fun (m : Bound × Voxel) y =>
         match fracCmp y.1 m.1 with
         | .lt => y
         | .eq => if y.1.closed && !m.1.closed then y else m
         | .gt => m) x
       let dist := vDiv (if q.ext then 0 else 1) 0 b.n b.d
       [⟨dist, v.addr, v.code % 64, mk v.code v.key 2 0 0 dist 0⟩], vs.2)
  | 5 =>
    let bs := fetchBlocks fetch (fun _ _ b => blockCode (pointBlockOk b)) (refAddr ref) (refBlocks ref) 0 none
    (bs.1.flatMap fun ab => (List.range 8).filterMap fun u =>
      let id := le ab.2 (96 + 4 * u) 4
      if id = 0xFFFFFFFF then none else
      let d2 := (List.range 3).foldl (fun s a =>
        let g := vSub (f32At ab.2 (12 * u + 4 * a)) (vx q.o a); vAdd s (vMul g g)) (.zero false)
      if q.tmax.isInf || vLe d2 (vMul q.tmax q.tmax) then
        some ⟨d2, ab.1, u, mk id (id / 65536) 3 0 0 (vRound 0 0 d2) 0⟩
      else none, bs.2)
  | _ => ([], none)

/-- The leaf types that a query type tests (R222). -/
def testsType (qt t : Nat) : Bool :=
  match t with
  | 2 => decide (qt < 3)
  | 3 => decide (qt < 4)
  | 4 => decide (qt < 4)
  | 5 => qt == 4 || qt == 5
  | _ => false

/-- The children of a node that a query visits, in visiting order (R245). -/
def orderChildren (q : Query) (b : List Byte) : List (Nat × FVal) :=
  let cs := (List.range (nodeCount b)).filterMap fun c =>
    if refMask (nodeRef b c) &&& q.mask = 0 then none else
    let (lo, hi) := childBox b c
    (if q.isPoint then boxPoint q.o q.tmax lo hi else boxRay q.o q.d q.tmin q.tmax lo hi).map fun k => (nodeRef b c, k)
  if nodeFixed b then cs else
  cs.foldl (fun l x => (l.takeWhile fun y => vLe y.2 x.2) ++ [x] ++ (l.dropWhile fun y => vLe y.2 x.2)) []

/-- Fetch and check a node (R233). `dep` is its depth on the path; DEPTH is found when a 65th node is fetched, after its other
checks (log 76). -/
def fetchNode (fetch : Fetch) (ref dep : Nat) : Except Nat (List Byte) :=
  match fetch (refAddr ref) 128 with
  | .error c => .error c
  | .ok b => if !(nodeOk b) then .error 2 else if !(nodeRefsOk b) then .error 1 else if 64 < dep then .error 6 else .ok b

/-- More steps than any walk that stays below the node limit takes. -/
def walkFuel : Nat := 9437193

/-- The walk of R245. A leaf's blocks are fetched as the walk reaches them, so that one past the end of an any-hit or radius
query raises no fault (log 60). -/
def walkGo (fetch : Fetch) (q : Query) (k : Nat) :
    Nat → Nat → List (Nat × FVal × Nat) → List Ranked → Except Nat (List Ranked)
  | 0, _, _, _ => .error 8
  | _, _, [], best => .ok best
  | fuel + 1, nodes, (ref, key, dep) :: st, best =>
    if refMask ref &&& q.mask = 0 then walkGo fetch q k fuel nodes st best
    else if (q.qtype == 0 || q.qtype == 2 || q.qtype == 5) && best.length == k
        && (match best.getLast? with | some l => vLt l.dist key | none => false) then walkGo fetch q k fuel nodes st best
    else if refType ref = 1 then
      if nodes = 1048576 then .error 8 else
      match fetchNode fetch ref dep with
      | .error c => .error c
      | .ok b => walkGo fetch q k fuel (nodes + 1) ((orderChildren q b).map (fun c => (c.1, c.2, dep + 1)) ++ st) best
    else if !(testsType q.qtype (refType ref)) then walkGo fetch q k fuel nodes st best
    else
      let h := leafHits fetch q ref
      let stop := q.qtype == 1 || q.qtype == 4
      let best' := h.1.foldl (fun l x => if stop && l.length == k then l else insertRank k x l) best
      if stop && best'.length == k then .ok best'
      else match h.2 with
        | some c => .error c
        | none => walkGo fetch q k fuel nodes st best'

/-- Mark the last record, and a full radius query (R242, R243). -/
def markLast (full : Bool) : List HitRec → List HitRec
  | [] => []
  | [h] => [{ h with flags := h.flags + 2 + (if full then 4 else 0) }]
  | h :: r => h :: markLast full r

/-- The records of a query that is not a track (R242, R244, R245). -/
def runWalk (fetch : Fetch) (q : Query) (root : Nat) : List HitRec :=
  let k := if q.qtype < 2 then 1 else q.n
  match walkGo fetch q k walkFuel 0 [(root, if q.isPoint then .zero false else q.tmin, 1)] [] with
  | .error c => [faultRec q c]
  | .ok [] => [noneRec q]
  | .ok best => markLast (q.qtype == 4 && best.length == k) (best.map (·.hit))

/-! Tracks (R247 to R249). -/

/-- trk_u as the numerator of a multiple of 2^-53 (R247). -/
def trkU (pid n : Nat) : Nat := srRandom pid n / 2 ^ 11 + 1

/-- Fraction bits of the fixed-point logarithm, sine and cosine. -/
def lnBits : Nat := 512

/-- 2 * atanh(n / d) in fixed point, by its series. -/
def atanhSeries (n d : Nat) : Nat :=
  let z := n * 2 ^ lnBits / d
  let z2 := z * z / 2 ^ lnBits
  let r := (List.range 200).foldl (fun (s : Nat × Nat) i => (s.1 + s.2 / (2 * i + 1), s.2 * z2 / 2 ^ lnBits)) (0, z)
  2 * r.1

/-- -ln(u / 2^53) for 1 ≤ u ≤ 2^53, correctly rounded to binary64 (R248; log 14). -/
def negLn (u : Nat) : FVal :=
  if u = 2 ^ 53 then .zero false else
  let l := log2n u
  let lnm := atanhSeries (u - 2 ^ l) (u + 2 ^ l)
  let ln2 := atanhSeries 1 3
  let v := (53 - l) * ln2 - lnm
  decodeElem 0 (roundFloat FpMode.rne 0 0 none ⟨false, v, -(lnBits : Int), true⟩).1

/-- Where a track is: a quadric cell or a voxel. -/
inductive Loc where
  | cell (c : Cell)
  | voxel (v : Voxel)

def Loc.id : Loc → Nat | .cell c => c.id | .voxel v => v.code
def Loc.mat : Loc → Nat | .cell c => c.mat | .voxel v => v.key

/-- A quadric surface that a track has just crossed: its coefficients, and whether it enters Q ≥ 0 (R249). -/
abbrev Crossed := Option (List Byte × Bool)

/-- The walk of locate: every cell and voxel that holds p (R249). -/
def locateGo (fetch : Fetch) (q : Query) (p : V3) (s : Crossed) :
    Nat → Nat → List (Nat × Nat) → List Loc → Except Nat (List Loc)
  | 0, _, _, _ => .error 8
  | _, _, [], acc => .ok acc
  | fuel + 1, nodes, (ref, dep) :: st, acc =>
    if refMask ref &&& q.mask = 0 then locateGo fetch q p s fuel nodes st acc
    else
      match refType ref with
      | 1 =>
        if nodes = 1048576 then .error 8 else
        (match fetchNode fetch ref dep with
         | .error c => .error c
         | .ok b => locateGo fetch q p s fuel (nodes + 1)
            ((orderChildren { q with qtype := 4, o := p, tmax := .zero false } b).map (fun c => (c.1, dep + 1)) ++ st) acc)
      | 3 =>
        (match leafCells fetch ref with
         | (_, some c) => .error c
         | (cs, none) => locateGo fetch q p s fuel nodes st (acc ++ (cs.filter fun c => c.holds p s).map Loc.cell))
      | 4 =>
        (match leafVoxels fetch ref with
         | (_, some c) => .error c
         | (vs, none) => locateGo fetch q p s fuel nodes st (acc ++ (vs.filter fun v => voxHolds v p).map Loc.voxel))
      | _ => locateGo fetch q p s fuel nodes st acc

/-- The lowest CELL_ID that matches, else a voxel (R249); of several that match alike, the first in walk order (log 76). -/
def pickLoc (ls : List Loc) : Option Loc :=
  ls.foldl (fun best l => match best, l with
    | none, l => some l
    | some (.voxel _), .cell c => some (.cell c)
    | some (.cell b), .cell c => if c.id < b.id then some (.cell c) else best
    | b, _ => b) none

/-- The containing cell or voxel of a point (R249). -/
def locate (fetch : Fetch) (q : Query) (root : Nat) (p : V3) (s : Crossed) : Except Nat (Option Loc) :=
  if !(p.all vIsFin) then .ok none else
  match locateGo fetch q p s walkFuel 0 [(root, 1)] [] with
  | .error c => .error c
  | .ok ls => .ok (pickLoc ls)

/-- The cross-section of a location (R224), or the fault BAD_XS, POISON or OUT_OF_SEGMENT. -/
def trackXs (fetch : Fetch) (q : Query) (xs : Nat) (l : Loc) : Except Nat FVal :=
  if l.mat = 0xFFFF then .ok (.zero false)
  else if !(xsValid xs) || decide (xsMats xs ≤ l.mat) || decide (xsGroups xs ≤ q.group) then .error 7
  else
    match fetch (xsBase xs + 4 * (l.mat * xsGroups xs + q.group)) 4 with
    | .error c => .error c
    | .ok b =>
      let v := f32At b 0
      if !(vIsFin v) || vNegative v then .error 7
      else .ok (match l with | .cell c => vRound 0 0 (vMul c.density v) | .voxel _ => v)

/-- The track loop of R248. -/
def trackGo (fetch : Fetch) (q : Query) (root xs : Nat) :
    Nat → FVal → FVal → V3 → Option Loc → Option Loc → HitRec
  | 0, _, _, _, _, _ => faultRec q 8
  | fuel + 1, tau, t, p, cur, last =>
    let mk (prim mat kind d0 : Nat) (dist : FVal) : HitRec := ⟨q.qid, prim, mat, kind, 2, d0, vCode 0 dist, q.pid⟩
    match cur with
    | none =>
      (match last with
       | some (.voxel v) => mk 0xFFFFFFFF 0xFFFF 5 v.code t
       | _ => mk 0xFFFFFFFF 0xFFFF 7 q.coll t)
    | some loc =>
      if fuel = 0 then faultRec q 8 else
      let ex : Option (FVal × Option (Surf × Bool)) := match loc with
        | .cell c => (c.exit p q.d).map fun (r, s, side) => (r, some (s, side))
        | .voxel v => (voxExit v p q.d).map fun r => (r, none)
      let r := match ex with | some (r, _) => r | none => .inf false
      let left := match ex with | some (_, s) => s | none => none
      match trackXs fetch q xs loc with
      | .error c => faultRec q c
      | .ok sigma =>
        let rest := if q.tmax.isInf then .inf false else vSum q.tmax t.neg
        let seg := vMin r rest
        let opt := if sigma.isZero then .zero false else if seg.isInf then .inf false else vRound 0 0 (vMul sigma seg)
        if vPos sigma && vLe tau opt then mk loc.id loc.mat 4 (q.coll + 1) (vSum t (vDiv 0 0 tau sigma))
        else if vLt seg r then mk loc.id loc.mat 6 q.coll q.tmax
        else
          let tau' := if opt.isInf then opt.neg else vRound 0 0 (vSub tau opt)
          let t' := vSum t r
          let p' := along q.o q.d t'
          match left with
          | some (f, side) =>
            if f.vacuum then mk f.id 0xFFFF 5 loc.id t'
            else (match locate fetch q root p' (some (f.bits, side)) with
              | .error c => faultRec q c
              | .ok l => trackGo fetch q root xs fuel tau' t' p' l (some loc))
          | none =>
            (match locate fetch q root p' none with
              | .error c => faultRec q c
              | .ok l => trackGo fetch q root xs fuel tau' t' p' l (some loc))

/-- The record of a track query (R248). The fuel is the 16,384 cells a track may cross, and the end after the last. -/
def runTrack (fetch : Fetch) (q : Query) (root xs : Nat) : HitRec :=
  let p := along q.o q.d q.tmin
  match locate fetch q root p none with
  | .error c => faultRec q c
  | .ok l => trackGo fetch q root xs 16385 (negLn (trkU q.pid q.coll)) q.tmin p l none

/-- Every record of a query (R239, R242). A query bound to an EMPTY root has no hit (R226). -/
def runQuery (fetch : Fetch) (q : Query) (root xs : Nat) : List HitRec :=
  if q.qtype = 3 then [runTrack fetch q root xs] else runWalk fetch q root

/-! The source generator (R256). -/

/-- pi in fixed point, by Machin's formula. -/
def piFixed : Nat :=
  let atanInv (k : Nat) : Int :=
    ((List.range 200).foldl (fun (s : Int × Nat) i =>
      ((if i % 2 = 0 then s.1 + (s.2 / (2 * i + 1) : Nat) else s.1 - (s.2 / (2 * i + 1) : Nat)), s.2 / (k * k)))
      ((0 : Int), 2 ^ lnBits / k)).1
  (16 * atanInv 5 - 4 * atanInv 239).toNat

/-- sin and cos of a fixed-point angle in [0, pi/4], by their series. -/
def sinCos (x : Nat) : Nat × Nat :=
  let x2 := x * x / 2 ^ lnBits
  let term := (List.range 60).foldl (fun (s : Int × Int × Nat) i =>
    let n := 2 * i
    let c := s.2.2
    let sn := c * x / 2 ^ lnBits / (n + 1)
    let nx := c * x2 / 2 ^ lnBits / ((n + 1) * (n + 2))
    (if i % 2 = 0 then (s.1 + sn, s.2.1 + c, nx) else (s.1 - sn, s.2.1 - c, nx))) ((0 : Int), (0 : Int), 2 ^ lnBits)
  (term.1.toNat, term.2.1.toNat)

/-- sqrt(1 - mu²) times cos or sin of 2π u / 2^53, correctly rounded; mu = m / 2^53 (R256; log 14). -/
def sphereXY (m : Int) (u : Nat) (sine : Bool) : FVal :=
  let one : Nat := 2 ^ 53
  let w := one * one - m.natAbs * m.natAbs
  let oct := (u / 2 ^ 50) % 8
  let fr := u % 2 ^ 50
  let q := if sine then (u + 3 * 2 ^ 51) % 2 ^ 53 else u % 2 ^ 53
  let neg := decide (2 ^ 51 < q ∧ q < 3 * 2 ^ 51)
  if w = 0 then .zero false
  else if fr = 0 then
    if oct % 2 = 1 then (let v := vSqrt 0 (.fin false w (-107)); if neg then v.neg else v)
    else if q = 2 ^ 51 ∨ q = 3 * 2 ^ 51 then .zero false
    else (let v := vSqrt 0 (.fin false w (-106)); if neg then v.neg else v)
  else
    let a := if oct % 2 = 0 then fr else 2 ^ 50 - fr
    let (sn, cs) := sinCos (2 * piFixed * a / 2 ^ 53)
    let useSin := ((oct == 1 || oct == 2 || oct == 5 || oct == 6) != sine)
    let tr := if useSin then sn else cs
    let rt := isqrt (w * 2 ^ (2 * (lnBits - 53)))
    decodeElem 0 (roundFloat FpMode.rne 0 0 none ⟨neg, tr * rt, -(2 * lnBits : Int), true⟩).1

/-- The reals that round to the binary64 code `c` reach from the first of these to the second. -/
def roundSpan (c : Nat) : FVal × FVal :=
  let half (a b : FVal) : FVal := (vAdd a b).scale (-1)
  let v := decodeElem 0 c
  (if c = 0 then .zero false else half (decodeElem 0 (c - 1)) v, half v (decodeElem 0 (c + 1)))

/-- Whether some vector of length 1 rounds to a direction, given the codes of its components (R255; log 74). -/
def unitDir (cs : List Nat) : Bool :=
  let sq (f : FVal × FVal → FVal) : FVal :=
    cs.foldl (fun s c => let x := f (roundSpan (c % 2 ^ 63)); vAdd s (vMul x x)) (.zero false)
  vLe (sq (·.1)) (vInt 1) && vLe (vInt 1) (sq (·.2))

/-- A source description (R255), as its bytes' values. -/
structure Source where
  kind : Nat
  q : Query
  count : Nat
  pidBase : Nat
  qidBase : Nat
  p0 : List FVal
  p1 : List FVal
deriving DecidableEq, Repr

/-- Read a source description; none where R255 fails. -/
def parseSource (b : List Byte) : Option Source :=
  let kind := le b 0 1
  let qt := le b 1 1
  let t := qt % 8
  let pt := t == 4 || t == 5
  let p0 := (List.range 3).map fun a => f64At b (32 + 8 * a)
  let p1 := (List.range 3).map fun a => f64At b (56 + 8 * a)
  let tmax := f64At b 80
  let gn := le b 7 1
  let ok := decide (kind ≤ 2) && decide (t < 6) && field qt 6 3 == 0 && decide (le b 2 2 < 1024) && decide (le b 5 1 < 64)
    && decide (le b 6 1 < 4) && decide (1 ≤ le b 8 8 ∧ le b 8 8 ≤ 2 ^ 32) && zeros b 28 4 && zeros b 88 40
    && p0.all vIsFin && p1.all vIsFin && !tmax.isNan && vPos tmax && (kind != 0 || zeros b 56 24)
    && (kind != 2 || unitDir ((List.range 3).map fun a => le b (56 + 8 * a) 8))
    && (kind != 1 || (List.range 3).all fun a => vLe (vx p0 a) (vx p1 a))
    && (if t = 3 then true else if t == 2 || pt then decide (1 ≤ gn ∧ gn ≤ 32) else gn == 0)
  if ok then
    some { kind, count := le b 8 8, pidBase := le b 16 8, qidBase := le b 24 4, p0, p1,
           q := { qtype := t, ext := true, o := p0, d := p1, tmin := .zero false, tmax, qid := 0, tree := le b 2 2,
                  mask := le b 4 1, n := if t = 3 then 0 else gn, ring := le b 6 1, dest := le b 5 1,
                  group := if t = 3 then gn else 0, coll := 0, pid := 0 } }
  else none

/-- Query i of a source (R255, R256). -/
def sourceQuery (s : Source) (i : Nat) : Query :=
  let pid := (s.pidBase + i) % 2 ^ 64
  let u (k : Nat) : FVal := dyadic false (trkU pid (2 ^ 32 + k)) (-53)
  let o := if s.kind = 1 then (List.range 3).map fun a =>
      vRound 0 0 (vAdd (vx s.p0 a) (vMul (u a) (vSub (vx s.p1 a) (vx s.p0 a)))) else s.p0
  let m : Int := 2 * (trkU pid (2 ^ 32 + 3) : Int) - 2 ^ 53
  let u4 := trkU pid (2 ^ 32 + 4)
  let d := if s.q.isPoint then [.zero false, .zero false, .zero false]
    else if s.kind = 2 then s.p1 else [sphereXY m u4 false, sphereXY m u4 true, dyadic false m (-53)]
  { s.q with o, d, pid := if s.q.qtype = 3 then pid else 0, qid := (s.qidBase + i) % 2 ^ 32 }

/-! Saffron's bins (R251, R253). -/

/-- g of bin_of: the lowest used slot whose box holds the origin, 8 for none, 9 where the root is no NODE. -/
def binGroup (fetch : Fetch) (root : Nat) (o : V3) : Nat :=
  if refType root ≠ 1 then 9 else
  match fetch (refAddr root) 128 with
  | .error _ => 8
  | .ok b =>
    if !(nodeOk b) then 8 else
    ((List.range (nodeCount b)).find? fun c =>
      let (lo, hi) := childBox b c
      (List.range 3).all fun a => vLe (vx lo a) (vx o a) && vLe (vx o a) (vx hi a)).getD 8

/-- The key of R251: partition, entry, group and octant. -/
def binKey (p x g : Nat) (q : Query) : Nat :=
  let o := if q.isPoint then 0 else
    b2n (vNegative (vx q.d 0)) + 2 * b2n (vNegative (vx q.d 1)) + 4 * b2n (vNegative (vx q.d 2))
  ((p * 1024 + x) * 10 + g) * 8 + o

/-- The bin of a key and type under a split (R251). -/
def binIndex (share : List Nat) (key t : Nat) : Nat :=
  let h := (key * 0x9E3779B1) % 2 ^ 32
  64 * (share.take t).sum + (h / 256) % (64 * share.getD t 0)

/-- resplit of R253. -/
def resplit (c : List Nat) : List Nat :=
  let tot := c.sum
  let s0 := c.map fun x => if 0 < x then 1 else 0
  let rest := 64 - s0.sum
  let s1 := List.zipWith (fun s x => s + rest * x / tot) s0 c
  let left := 64 - s1.sum
  let frac := c.map fun x => (rest * x) % tot
  (List.range 6).map fun t =>
    let better := ((List.range 6).filter fun k =>
      decide (frac.getD t 0 < frac.getD k 0) || (frac.getD k 0 == frac.getD t 0 && decide (k < t))).length
    s1.getD t 0 + (if better < left then 1 else 0)

/-- An ended query of a bin: its destination (DEST, RING), its binding and its records. -/
structure Ended where
  dest : Nat × Nat
  bind : Nat × Nat × Nat
  recs : List HitRec

/-- The packets of a bin: groups by destination, cut at 64 records, no query divided (R257). -/
def cutPackets (qs : List Ended) : List (List Ended) :=
  (qs.map (·.dest)).eraseDups.flatMap fun d =>
    let cut := (qs.filter fun q => q.dest = d).foldl (fun (s : List (List Ended) × List Ended × Nat) q =>
      if s.2.2 + q.recs.length ≤ 64 then (s.1, s.2.1 ++ [q], s.2.2 + q.recs.length)
      else (s.1 ++ [s.2.1], [q], q.recs.length)) ([], [], 0)
    (cut.1 ++ [cut.2.1]).filter fun p => !p.isEmpty

/-- Records with their positions within their queries, by (MAT, QID, position) (R257). -/
def sortPacket (rs : List (HitRec × Nat)) : List HitRec :=
  (rs.foldl (fun (l : List (HitRec × Nat)) x =>
    let before (y : HitRec × Nat) : Bool := decide (y.1.mat < x.1.mat) || (y.1.mat == x.1.mat &&
      (decide (y.1.qid < x.1.qid) || (y.1.qid == x.1.qid && decide (y.2 ≤ x.2))))
    (l.takeWhile before) ++ [x] ++ (l.dropWhile before)) []).map (·.1)

end Sys2Proof.Machine
end

