-- ==== Sys2Proof/Machine/State.lean ====
section
/-! DEFINITION. The state of the block: every register, buffer, queue, counter and mode the spec gives it, as plain
data, and the machine right after cold reset. Each field's docstring gives its width, the rule that names it and its
reset value. -/

namespace Sys2Proof.Machine

/-- Why the block stops with a fault. No command of this block ends in one: every rule gives an effect, and a
command whose event cannot occur leaves the state unchanged (log 2). -/
inductive Fault where
  /-- Raised by no meaning; kept so that the type is inhabited. Safe. -/
  | none
deriving DecidableEq, Repr

/-- Why a command is refused. -/
inductive Refusal where
  /-- Raised by the arm of a command that has no meaning yet. Safe: the machine stops. -/
  | notModelled (mnemonic : String)
deriving DecidableEq, Repr

/-! ## Shape image, mode epoch and time (01, 02, 19). -/

/-- STATE of the shape-image loader (R67). -/
inductive LoaderState where
  | idle | verifying | staged | committing
deriving DecidableEq, Repr

/-- A staged re-shape (R63, R69). -/
structure StagedImage where
  /-- the resulting configuration; R63; reset none. -/
  cfg : ShapeCfg
  /-- 384 bits, digest D; R40; reset none. -/
  digest : BitVec 384
  /-- 64 bits, SEQ; R38; reset none. -/
  seq : W64
  /-- unit identifiers with a staged setting; R63; reset none. -/
  units : List Nat
  /-- 16 bits, partitions held for this image; R65; reset none. -/
  held : BitVec 16
deriving DecidableEq, Repr

/-- The shape-image loader and the settings in force. -/
structure ShapeSt where
  /-- every shape setting in force; 02 R45 to R60; reset ShapeCfg.none. -/
  cfg : ShapeCfg
  /-- 52 bits, SHP_SRC_ADDR.ADDR with bits [3:0] zero; 02 R67; reset 0. -/
  srcAddr : Nat
  /-- 23 bits, SHP_SRC_LEN.LEN; 02 R67; reset 0. -/
  srcLen : Nat
  /-- 8 bits, SHP_STATUS.RESULT; 02 R67; reset 0x00. -/
  result : Nat
  /-- 16 bits, SHP_STATUS.SECTIONS; 02 R67; reset 0x0000. -/
  sections : BitVec 16
  /-- 3 bits, SHP_STATUS.STATE; 02 R67; reset 0 IDLE. -/
  st : LoaderState
  /-- 64 bits, SHP_BOOT_SEQ; 02 R67; reset 0. -/
  bootSeq : W64
  /-- 64 bits, SHP_RESHAPE_SEQ; 02 R67; reset 0. -/
  reshapeSeq : W64
  /-- the image in STAGED, none when no image is staged; 02 R69; reset none. -/
  staged : Option StagedImage
deriving DecidableEq, Repr

/-- A mode commit (R70, R71). -/
structure CommitSt where
  /-- 64 bits, MODE_EPOCH; 02 R70; reset 0. -/
  epoch : W64
  /-- 64 bits, MODE_EPOCH_TIME; 19 R582; reset 0. -/
  epochTime : W64
  /-- 16 bits, MODE_STATUS.FAIL_UNIT; 02 R70; reset 0xFFFF. -/
  failUnit : BitVec 16
  /-- unit identifiers of the participants of the current or last commit; PARTICIPANTS is their number; 02 R70;
  reset none. -/
  parts : List Nat
  /-- participants that applied and acknowledged; PENDING is the number of the others; 02 R71; reset none. -/
  acked : List Nat
  /-- participants that an injection of detector 0x3B keeps from acknowledging; 16 R504; reset none. -/
  withheld : List Nat
  /-- 4 bits, MODE_STATUS.RESULT; 02 R70; reset 0. -/
  result : Nat
  /-- 1 bit, MODE_STATUS.BUSY_REJECT; 02 R70; reset 0. -/
  busyReject : Bool
  /-- 1 bit, MODE_STATUS.STAGE_WRITE_REJECT; 02 R70; reset 0. -/
  stageReject : Bool
  /-- 1 bit, MODE_STATUS.ACTIVE; 02 R70; reset 0. -/
  active : Bool
  /-- BLK_TIME at which an incomplete commit reverts, C + 20,000; 02 R71; reset 0. -/
  deadline : Nat
  /-- the re-shape that the commit includes; 02 R69; reset none. -/
  image : Option StagedImage
  /-- whether the commit includes an operating-point change; 02 R71 step 6; reset false. -/
  withOp : Bool
deriving DecidableEq, Repr

/-- The timebase and the cycle counts. -/
structure TimeSt where
  /-- 64 bits, BLK_TIME; 01 R25, 19 R580; 0 at VAON power-up. -/
  blk : W64
  /-- the hidden remainder in units of 5 ns / 10,560, below 10,560; 01 R25; 0 at VAON power-up. -/
  rem : Nat
  /-- CORE cycles in which the CORE clock ran, 12 to an HK cycle; 01 R22; reset 0. -/
  core : Nat
  /-- CORE cycles of a quadrant that were not held, which cs.cycle counts; 15 R475; reset 0. -/
  ran : Tbl Nat
  /-- HK cycles since cold reset; 01 R22; reset 0. -/
  hk : Nat
  /-- BLK_TIME at the last cold reset, from which scrub periods and uniform scrub passes count; 10 R328, 11 R363; reset 0. -/
  coldAt : Nat
deriving DecidableEq, Repr

/-! ## Worker cores (03, 05, 06, 07, 08, 09, 10). -/

/-- Whether a worker core runs, waits or has stopped (R86, R109, R110). -/
inductive RunState where
  | halted | running | wfi | jobgo | stopped
deriving DecidableEq, Repr

/-- A matrix instruction between its issue and its completion (R197, R198). -/
inductive MatKind where
  | mma (a : MmaArgs)
  | zero
  | load (off pitch : Nat)
  | store (off pitch : Nat)
  | conv (dst off scale : Nat)
  | rowRead (vd row : Nat)
  | rowWrite (row : Nat) (data : List Nat)
deriving DecidableEq, Repr

/-- A queued matrix instruction with what it captured at issue (R188, R196). -/
structure MatOp where
  /-- the operation and its operands; R179, R181. -/
  kind : MatKind
  /-- 2 bits, the accumulator named; R178. -/
  acc : Nat
  /-- whether it names a pair; R176. -/
  pair : Bool
  /-- MROWS and NCOLS at issue; R177. -/
  rows : Nat
  cols : Nat
  /-- cs.fpmode at issue, with the stochastic seed taken; R131, R188. -/
  md : FpMode
  /-- its number in program order; R197. -/
  order : Nat
  /-- the CORE cycle in which it completes, once it has started; R198. -/
  done : Nat
deriving DecidableEq, Repr

/-- A hit ring (R259). -/
structure HitRing where
  /-- 64 bits, cs.hrcfg; 08 R259; reset 0. -/
  cfg : W64
  /-- 6 bits, cs.hrptr.HEAD; 08 R259; reset 0. -/
  head : Nat
  /-- 6 bits, cs.hrptr.TAIL; 08 R259; reset 0. -/
  tail : Nat
  /-- 32 bits, packets written since the ring was enabled (SEQ); 08 R257; reset 0. -/
  seq : Nat
  /-- 1 bit, cs.hrstat.BADHEAD; 08 R259; reset 0. -/
  badHead : Bool
  /-- 16 bits, cs.hrstat.DROPPED; 08 R259; reset 0. -/
  dropped : Nat
deriving DecidableEq, Repr

abbrev HitRing.off : HitRing := ⟨0, 0, 0, 0, false, 0⟩

/-- State of a stream channel or the next-layer slot (R277). -/
inductive ChState where
  | idle | waitGroup | running | draining | aborting
deriving DecidableEq, Repr

/-- A channel block with its program, as copied at the start (R269, R272). -/
structure ChanBlock where
  prog : List (BitVec 32)
  dir : Nat
  task : Nat
  irq : Bool
  ahead : Nat
  slots : Nat
  slotLog2 : Nat
  group : Nat
  mseq : Nat
  ringBase : Nat
  crecEn : Bool
  crecOff : Nat
  args : List W64
deriving DecidableEq, Repr

/-- A privileged descriptor (R276). -/
structure PrivDesc where
  src : Nat
  dst : Nat
  ctrl : W64
  crec : Nat
  count : List Nat
  sstride : List Int
  dstride : List Int
deriving DecidableEq, Repr

/-- A next-layer block (R299). -/
structure NextBlock where
  src : Nat
  dst : Nat
  len : Nat
  crecEn : Bool
  crecOff : Nat
deriving DecidableEq, Repr

/-- What a channel runs. -/
inductive ChJob where
  | none
  | prog (b : ChanBlock)
  | desc (d : PrivDesc)
  | next (b : NextBlock)
deriving DecidableEq, Repr

/-- A line request of a channel that has issued and awaits its response (R278, R279). Numbers below 1,024 are tags;
a posted write is numbered 1,024 or above. -/
structure LineReq where
  tag : Nat
  write : Bool
  addr : Nat
  len : Nat
  /-- tile-memory offset of the data for a read into tile memory, or the descriptor's destination address. -/
  dest : Nat
  /-- the tile the bytes belong to; R270. -/
  tile : Nat
  /-- stream byte offset of the line's first byte; R288. -/
  off : Nat
  /-- the bytes a write carries. -/
  data : List Byte
  /-- the poison mark a write carries. -/
  poison : Bool
  /-- a POST on the posted path: the core, pair and side it adds to; R272, R279. -/
  post : Option (Nat × Nat × Bool)
deriving DecidableEq, Repr

/-- A transfer whose requests have not all issued (R275). -/
structure Xfer where
  addr : Nat
  len : Nat
  cursor : Nat
  issued : Nat
  off : Nat
deriving DecidableEq, Repr

/-- How the task of a channel ended: status, faulting stream, cause, offset and address (R283, R285). -/
structure EndInfo where
  status : Nat
  faultCh : Nat
  cause : Nat
  off : Nat
  addr : Nat
  /-- the shadow was discarded; R289. -/
  discarded : Bool
deriving DecidableEq, Repr

/-- A channel of a stream engine, the next-layer slot, or a system DMA engine (R265, R266, R299). -/
structure Channel where
  /-- 3 bits, STATE; 09 R277; reset IDLE. -/
  st : ChState
  /-- the block, descriptor or next-layer block in force; 09 R269, R276, R299; reset none. -/
  job : ChJob
  /-- the shadow block; 09 R289; reset none. -/
  shadow : ChJob
  /-- 1 bit, whether the current run was started from the shadow; 09 R289; reset 0. -/
  fromShadow : Bool
  /-- 6 bits, cs.strptr.HEAD; 09 R303; reset 0. -/
  head : Nat
  /-- 6 bits, cs.strptr.TAIL; 09 R303; reset 0. -/
  tail : Nat
  /-- tiles released by software through HEAD (H), or published through TAIL of an OUT ring; 09 R271; reset 0. -/
  released : Nat
  /-- tiles completed since the start, whose low 32 bits are cs.strstat.TILES; 09 R303; reset 0. -/
  tiles : Nat
  /-- 8 bits, cs.strstat.LAST; 09 R303; reset 0. -/
  last : Nat
  /-- 8 bits, cause of the last fault (cs.nlstat.CAUSE for the slot); 09 R303; reset 0. -/
  cause : Nat
  /-- 1 bit, cs.strstat.BADPTR; 09 R303; reset 0. -/
  badPtr : Bool
  /-- 8 bits, STR_CH_STATUS.RESULT; 09 R304; reset 0. -/
  result : Nat
  /-- 52 bits, STR_CH_DESC.ADDR with bits [6:0] zero; 09 R304; reset 0. -/
  descAddr : Nat
  /-- the program counter, in instructions; 09 R272; reset 0. -/
  pc : Nat
  /-- eight 64-bit program registers a0 to a7; 09 R272; reset 0. -/
  aregs : List W64
  /-- the tile cursor; 09 R272; reset 0. -/
  cursor : Nat
  /-- stream byte offsets at which the tiles not yet complete began, oldest first; 09 R293, R294; reset none. -/
  starts : List Nat
  /-- tiles closed by EMIT or HALT; 09 R270; reset 0. -/
  closed : Nat
  /-- bytes of every transfer begun before the next one; 09 R288; reset 0. -/
  begun : Nat
  /-- the transfer being split into line requests; 09 R275; reset none. -/
  xfer : Option Xfer
  /-- requests issued and not answered; 09 R278, R279; reset none. -/
  reqs : List LineReq
  /-- descriptor lines read and not yet written on: destination, bytes, poison, offset; 09 R276; reset none. -/
  toWrite : List LineReq
  /-- how the run ends, once known; 09 R283; reset none. -/
  fin : Option EndInfo
  /-- attached to a multicast stream as a receiver; 09 R290, R291; reset false. -/
  attached : Bool
  /-- NOC cycles since cold reset when a leader began to wait for its group; 09 R291; reset 0. -/
  since : Nat
  /-- the straggler timer of an attached receiver, in NOC cycles; 09 R293; reset 0. -/
  strag : Nat
deriving DecidableEq, Repr

abbrev Channel.off : Channel :=
  { st := .idle, job := .none, shadow := .none, fromShadow := false, head := 0, tail := 0, released := 0, tiles := 0,
    last := 0, cause := 0, badPtr := false, result := 0, descAddr := 0, pc := 0, aregs := [], cursor := 0, starts := [],
    closed := 0, begun := 0, xfer := Option.none, reqs := [], toWrite := [], fin := Option.none, attached := false,
    since := 0, strag := 0 }

/-- A store waiting in a core's store buffer: its line, the bytes written and their mask (R107, R322). -/
structure SbEntry where
  line : Nat
  mask : BitVec 128
  data : Line128
deriving DecidableEq, Repr

/-- A worker core with its vector and matrix units, stream engine, hit rings and L1 (R75). -/
structure Wrk where
  /-- 64 bits, pc; 03 R75; reset 0 (DESIGN CHOICE, log 3). -/
  pc : W64
  /-- s1 to s31, 64 bits each, by number; 03 R75; reset 0. -/
  sregs : Tbl W64
  /-- 1 bit, privilege mode: true monitor, false job; 03 R75; reset monitor (DESIGN CHOICE, log 3). -/
  monitor : Bool
  /-- 3 bits, WRK_STATUS.STATE with the mode; 03 R110; reset HALTED. -/
  run : RunState
  /-- 8 bits, WRK_STATUS.STOP_CAUSE; 03 R110; reset 0x00. -/
  stopCause : BitVec 8
  /-- 1 bit, WRK_STATUS.JOB_OVERRUN; 03 R110; reset 0. -/
  jobOverrun : Bool
  /-- 5 bits, cs.fpmode; 03 R88; reset 0. -/
  fpmode : BitVec 5
  /-- 7 bits, cs.flags; 03 R89; reset 0. -/
  flags : Flags
  /-- 12 bits, cs.vl; 05 R146; reset 0. -/
  vl : Nat
  /-- 64 bits, cs.srseed; 03 R87; reset 0 (DESIGN CHOICE, log 3). -/
  srseed : W64
  /-- 11 bits, cs.vfidx; 05 R146; reset 0. -/
  vfidx : Nat
  /-- 16 bits, cs.mshape: NCOLSM1 and MROWSM1; 06 R177; reset 0xBFFF. -/
  mshape : BitVec 16
  /-- the count of its quadrant at the last core reset, from which cs.cycle counts; 03 R87; reset 0. -/
  cycleBase : Nat
  /-- 64 bits, cs.instret; 03 R87; reset 0. -/
  instret : W64
  /-- 64 bits, cs.jobid; 03 R87; reset 0 (DESIGN CHOICE, log 3). -/
  jobid : W64
  /-- 3 bits, cs.tstate: PREV_MODE, PREV_IEN, IEN; 03 R79; reset 0. -/
  prevMode : Bool
  prevIen : Bool
  ien : Bool
  /-- 64 bits, cs.tpc; 03 R87; reset 0 (DESIGN CHOICE, log 3). -/
  tpc : W64
  /-- 17 bits, cs.tcode; 03 R87; reset 0 (DESIGN CHOICE, log 3). -/
  tcode : BitVec 17
  /-- 64 bits, cs.tdata; 03 R87; reset 0 (DESIGN CHOICE, log 3). -/
  tdata : W64
  /-- 64 bits, cs.tentry, bits [11:0] zero; 03 R87; reset 0 (DESIGN CHOICE, log 3). -/
  tentry : W64
  /-- 64 bits, cs.mspare; 03 R87; reset 0 (DESIGN CHOICE, log 3). -/
  mspare : W64
  /-- 8 bits, cs.ie; 03 R87; reset 0 (DESIGN CHOICE, log 3). -/
  ie : BitVec 8
  /-- 64 bits, cs.alarm; 03 R87; reset 0 (DESIGN CHOICE, log 3). -/
  alarm : W64
  /-- 1 bit, STOP pending (cs.ip bit 0); 03 R84, R110; reset 0. -/
  killPend : Bool
  /-- 1 bit, WRK_ERR.PEND; 16 R520; reset 0. -/
  errPend : Bool
  /-- 16 bits, WRK_ERR.DETECTOR; 16 R520; reset 0. -/
  errDet : BitVec 16
  /-- 52 bits, WRK_BOOT_PC; 03 R110; reset 0. -/
  bootPc : W64
  /-- 4 bits, WRK_FPDEFAULT.VALUE; 03 R110; reset 0x0. -/
  fpdefault : BitVec 4
  /-- 4 bits, WRK_FPDEFAULT_STG.VALUE; 03 R110; reset 0x0. -/
  fpStg : BitVec 4
  /-- 1 bit, WRK_FPDEFAULT_STG.PEND; 03 R110; reset 0. -/
  fpPend : Bool
  /-- 4 bits, WRK_JOB_HEAD; 03 R110; reset 0x0. -/
  jobHead : BitVec 4
  /-- 4 bits, WRK_JOB_TAIL; 03 R110; reset 0x0. -/
  jobTail : BitVec 4
  /-- WRK_JOB_SLOT[0..7], 64 words of 64 bits by word number; 03 R110; reset 0. -/
  slots : Tbl W64
  /-- whether a job is active: from JOBGO to the end of the job; 03 R109, 02 R64; reset false. -/
  jobActive : Bool
  /-- v0 to v31, 8,192 bits each; 05 R143; reset 0 (DESIGN CHOICE, log 3). -/
  vregs : Tbl VecReg
  /-- m0 to m7, 2,048 bits each; 05 R143; reset 0 (DESIGN CHOICE, log 3). -/
  mregs : Tbl MaskReg
  /-- acc0 to acc3, 256 × 192 elements of 32 bits, element (a, i, j) at 49,152 a + 192 i + j; 06 R175; reset 0 (DESIGN
  CHOICE, log 3). -/
  acc : Tbl (BitVec 32)
  /-- the matrix queue, at most eight instructions, oldest first; 06 R197; reset empty. -/
  mq : List MatOp
  /-- matrix instructions started in the ARRAY engine and not complete; 06 R197; reset empty. -/
  arrayRun : List MatOp
  /-- matrix instructions started in the ACCESS engine and not complete; 06 R197; reset empty. -/
  accessRun : List MatOp
  /-- matrix instructions issued since reset, which numbers them in program order; the model's own field; reset 0. -/
  mseq : Nat
  /-- the CORE cycle from which each engine is free for its next instruction: the start of its last one plus O; 06 R198;
  reset 0. -/
  arrayFree : Nat
  accessFree : Nat
  /-- the CORE cycle in which the last matrix instruction to complete did; 06 R198; reset 0. -/
  matLast : Nat
  /-- the four hit rings; 08 R259; reset off. -/
  rings : Tbl HitRing
  /-- cs.ttroot, cs.ttxs, cs.ttepoch, cs.ttretired, cs.ttlive_a, cs.ttlive_b, 64 bits each by number 0 to 5; 08 R261;
  reset 0. -/
  tt : Tbl W64
  /-- the result code of a tree-table operation that has taken effect and that its instruction has not yet read; 07 R228;
  reset none. -/
  ttRes : Option Nat
  /-- channels 0 to 15 and, at 16, the next-layer slot; 09 R265, R299; reset off. -/
  chans : Tbl Channel
  /-- the channel whose program executed last, from which the round robin goes on; 09 R275; reset 15, so that channel 0
  comes first (DESIGN CHOICE, log 71). -/
  execLast : Nat
  /-- the channel whose request issued last, from which the round robin goes on; 09 R275, R278; reset 15 (DESIGN CHOICE,
  log 71). -/
  genLast : Nat
  /-- 17 bits, cs.stdone; 09 R303; reset 0. -/
  stdone : BitVec 17
  /-- 17 bits, cs.stie; 09 R303; reset 0. -/
  stie : BitVec 17
  /-- 32 semaphore pairs, 16 bits each: FULL of pair p at 2p, EMPTY at 2p + 1; 09 R295; reset 0. -/
  sems : Tbl Nat
  /-- 64 bits, cs.semovf; 09 R303; reset 0. -/
  semovf : W64
  /-- 64 bits, cs.syncie; 09 R303; reset 0. -/
  syncie : W64
  /-- 64 bits, cs.bardone; 09 R303; reset 0. -/
  bardone : W64
  /-- 64 bits, cs.barie; 09 R303; reset 0. -/
  barie : W64
  /-- 32 bits, STR_STRAG_TIMEOUT; 09 R304; reset 0x0001_0000. -/
  stragTimeout : Nat
  /-- requests of a run that a reset ended, whose tags free when their responses return; 09 R307; reset none. -/
  lost : List LineReq
  /-- the store buffer, oldest first; 10 R322; reset empty. -/
  sb : List SbEntry
  /-- the instruction at pc has issued and waits for memory, so that no interrupt comes before its end (R85); the
  model's own field; reset false. -/
  issued : Bool
  /-- parts of an issued store that have entered the store buffer; the model's own field; reset 0. -/
  partsDone : Nat
deriving DecidableEq, Repr

abbrev Wrk.off : Wrk :=
  { pc := 0, sregs := [], monitor := true, run := .halted, stopCause := 0, jobOverrun := false, fpmode := 0, flags := 0,
    vl := 0, srseed := 0, vfidx := 0, mshape := 0xBFFF, cycleBase := 0, instret := 0, jobid := 0, prevMode := false,
    prevIen := false, ien := false, tpc := 0, tcode := 0, tdata := 0, tentry := 0, mspare := 0, ie := 0, alarm := 0,
    killPend := false, errPend := false, errDet := 0, bootPc := 0, fpdefault := 0, fpStg := 0, fpPend := false,
    jobHead := 0, jobTail := 0, slots := [], jobActive := false, vregs := [], mregs := [], acc := [], mq := [],
    arrayRun := [], accessRun := [], mseq := 0, arrayFree := 0, accessFree := 0, matLast := 0,
    rings := [], tt := [], ttRes := none, chans := [], execLast := 15, genLast := 15, stdone := 0,
    stie := 0, sems := [], semovf := 0, syncie := 0, bardone := 0, barie := 0, stragTimeout := 0x10000, lost := [],
    sb := [], issued := false, partsDone := 0 }

/-- A barrier (R296, R305). -/
structure Barrier where
  /-- BAR_MEM0 to BAR_MEM3, 256 bits; 09 R305; reset 0. -/
  mem : BitVec 256
  /-- 4 bits, BAR_CTL.PART; 09 R305; reset 0. -/
  part : Nat
  /-- 1 bit, BAR_CTL.EN; 09 R305; reset 0. -/
  en : Bool
  /-- 1 bit, BAR_CTL.BROKEN; 09 R305; reset 0. -/
  broken : Bool
  /-- 32 bits, BAR_CTL.PHASE; 09 R305; reset 0. -/
  phase : BitVec 32
  /-- members arrived in the current phase; ARRIVED is their number; 09 R296; reset none. -/
  arrived : BitVec 256
deriving DecidableEq, Repr

abbrev Barrier.off : Barrier := ⟨0, 0, false, false, 0, 0⟩

/-- The active multicast stream of a group (R290 to R294). -/
structure McStream where
  leader : Nat
  chan : Nat
  mseq : Nat
  /-- attached receivers: core and channel. -/
  recv : List (Nat × Nat)
deriving DecidableEq, Repr

/-- The multicast state of a group: the active stream, and the number of the last stream started (R291). -/
structure McGroup where
  active : Option McStream
  lastSeq : Option Nat
deriving DecidableEq, Repr

abbrev McGroup.off : McGroup := ⟨none, none⟩

/-! ## Traversal (07, 08). -/

/-- A tree-table entry (R225). -/
structure TreeEnt where
  /-- 64 bits, CUR_ROOT; 07 R225; reset 0. -/
  curRoot : W64
  /-- 64 bits, CUR_XS; 07 R225; reset 0. -/
  curXs : W64
  /-- 64 bits, NEXT_ROOT; 07 R225; reset 0. -/
  nextRoot : W64
  /-- 64 bits, NEXT_XS; 07 R225; reset 0. -/
  nextXs : W64
  /-- 1 bit, NEXT_VALID; 07 R225; reset 0. -/
  nextValid : Bool
  /-- 64 bits, EPOCH; 07 R225; reset 0. -/
  epoch : Nat
  /-- 64 bits, RETIRED; 07 R225; reset 0. -/
  retired : Nat
  /-- 27 bits each, INFLIGHT by epoch; 07 R225; reset 0. -/
  inflight : Tbl Nat
deriving DecidableEq, Repr

abbrev TreeEnt.off : TreeEnt := ⟨0, 0, 0, 0, false, 0, 0, []⟩

/-- The firmware register set of the tree tables (R231). -/
structure TtRegs where
  /-- 4 bits, TRV_TT_SEL.PART; 07 R231; reset 0. -/
  part : Nat
  /-- 10 bits, TRV_TT_SEL.ENTRY; 07 R231; reset 0. -/
  entry : Nat
  /-- 64 bits, TRV_TT_NEXT_ROOT; 07 R231; reset 0. -/
  nextRoot : W64
  /-- 64 bits, TRV_TT_NEXT_XS; 07 R231; reset 0. -/
  nextXs : W64
  /-- 4 bits, TRV_TT_STATUS.RESULT; 07 R231; reset 0. -/
  result : Nat
  /-- 1 bit, TRV_TT_STATUS.CMD_REJECT; 07 R231; reset 0. -/
  cmdReject : Bool
  /-- 1 bit, TRV_TT_STATUS.BUSY; 07 R231; reset 0. -/
  busy : Bool
  /-- TRV_TT_CUR_ROOT, CUR_XS, EPOCH, RETIRED, LIVE_A, LIVE_B, 64 bits each by number 0 to 5; 07 R231; reset 0. -/
  copy : Tbl W64
deriving DecidableEq, Repr

/-- An operation on a tree table that takes effect at the end of the HK cycle (R228). -/
structure TtOp where
  /-- unit identifier of the requester; R228. -/
  unit : Nat
  part : Nat
  entry : Nat
  /-- 1 SETNEXT, 2 SWAP, 3 READ; R227. -/
  op : Nat
  root : W64
  xs : W64
deriving DecidableEq, Repr

/-- An accepted query with its binding (R226, R237). -/
structure QEntry where
  part : Nat
  q : Query
  root : W64
  xs : W64
  epoch : Nat
  /-- ray-store slots it occupies, one or two; R250. -/
  slots : Nat
  /-- CORE cycle count at which it entered its bin; R252. -/
  since : Nat
deriving DecidableEq, Repr

/-- A bin of Saffron (R251). -/
structure Bin where
  /-- the key that its queries share; 08 R251; reset 0. -/
  key : Nat
  /-- its queries in the order they entered, at most 64; 08 R251; reset empty. -/
  qs : List QEntry
deriving DecidableEq, Repr

abbrev Bin.off : Bin := ⟨0, []⟩

/-- A fired bin in a partition's fire queue (R252). -/
structure Fired where
  /-- CORE cycle count at which it fired. -/
  at_ : Nat
  bin : Nat
  qs : List QEntry
deriving DecidableEq, Repr

/-- A spilled query: its record as written, and its binding (R250). -/
structure Spilled where
  e : QEntry
  addr : Nat
deriving DecidableEq, Repr

/-- A queued source description (R255). -/
structure GenRun where
  src : Source
  part : Nat
  core : Nat
  done : Nat
deriving DecidableEq, Repr

/-- Saffron q (R250 to R256). -/
structure Saffron where
  /-- 19 bits, SAF_STATUS.STORE_USED; 08 R263; reset 0. -/
  storeUsed : Nat
  /-- the 4,096 bins; 08 R251; reset empty. -/
  bins : Tbl Bin
  /-- the fire queue of each partition; 08 R252; reset empty. -/
  fire : Tbl (List Fired)
  /-- spilled queries in acceptance order; 08 R250; reset empty. -/
  spill : List Spilled
  /-- 25 bits, SAF_SPILL_USED.RECORDS; 08 R263; reset 0. -/
  spillUsed : Nat
  /-- next record of the spill area to be written; the spec leaves the placing open (log 15); reset 0. -/
  spillNext : Nat
  /-- 48 bits, SAF_SPLIT: share of each type; 08 R253; reset 0. -/
  share : List Nat
  /-- 1 bit, SAF_STATUS.WARM; 08 R263; reset 1. -/
  warm : Bool
  /-- 21 bits, SAF_WARM_COUNT; 08 R263; reset 0. -/
  warmCount : Nat
  /-- accepted queries of the current window, by type; 08 R253; reset 0. -/
  counts : List Nat
  /-- source descriptions, the running one first, at most four; 08 R255; reset empty. -/
  gen : List GenRun
deriving DecidableEq, Repr

abbrev Saffron.off : Saffron :=
  { storeUsed := 0, bins := [], fire := [], spill := [], spillUsed := 0, spillNext := 0, share := [0, 0, 0, 0, 0, 0],
    warm := true, warmCount := 0, counts := [0, 0, 0, 0, 0, 0], gen := [] }

/-- A packet waiting in a traversal unit: destination core and ring, its type, tree, records, and the bindings of
its queries (R257, R258). -/
structure HitPacket where
  core : Nat
  ring : Nat
  qtype : Nat
  tree : Nat
  recs : List HitRec
  binds : List (Nat × Nat × Nat)
deriving DecidableEq, Repr

/-- A bin in a traversal unit (R254, R257). -/
structure HeldBin where
  bin : Nat
  /-- its queries in the order they entered the bin; 08 R257. -/
  qs : List QEntry
  /-- the records of each query that has ended, by its number in `qs`; 08 R257. -/
  recs : Tbl (List HitRec)
  /-- its packets that are still to be formed, once every query has ended; 08 R257, R258. -/
  packs : Option (List HitPacket)
deriving DecidableEq, Repr

/-- A traversal unit (R254, R257, R258). -/
structure TravUnit where
  /-- bins held, at most two, in the order they arrived; 08 R254; reset empty. -/
  held : List HeldBin
  /-- packets of queries that ended at Saffron, not yet waiting; 08 R250, R258; reset empty. -/
  form : List HitPacket
  /-- packets waiting, at most eight; 08 R258; reset empty. -/
  waiting : List HitPacket
deriving DecidableEq, Repr

abbrev TravUnit.off : TravUnit := ⟨[], [], []⟩

/-! ## Memory, caches and coherence (10), vaults (11). -/

/-- The memories of the block and what it sees of the host's, byte by byte in canonical form. -/
structure MemSt where
  /-- 8 bits by device byte address 0x6000_0000 × vault + vault offset, the data bytes of the stacked lines; 11 R353,
  R356; reset 0 (DESIGN CHOICE, log 7). -/
  dram : Tbl Byte
  /-- 9 bits by device line 12,582,912 × vault + L, the poison markers of the nine slices of a stacked line; 11 R358, 10
  R341; reset 0. -/
  poison : Tbl (BitVec 9)
  /-- what is wrong in a stacked line as its tier stores it, by device line: a wrong data or outer check symbol by its
  number 0 to 143, the wrong inner check bits of slice s by 144 + s; 11 R355, R359, 16 R504; reset none. -/
  rawErr : Tbl (List SymErr)
  /-- 8 bits by 0x40_0000 × core + offset, tile memory; 03 R76, 10 R310; reset 0. -/
  tile : Tbl Byte
  /-- 1 bit by 8-byte word of tile memory, its poison mark; 16 R584; reset 0. -/
  tilePoison : Tbl Bool
  /-- 1 bit by 8-byte word of tile memory, an uncorrectable error that no read has found; 16 R584, 06 R202; reset 0. -/
  tileErr : Tbl Bool
  /-- 8 bits by address less 0x8000_0000_0000, host memory as the block reaches it; 10 R312, 13 R418; reset 0 (DESIGN
  CHOICE, log 7). -/
  host : Tbl Byte
  /-- 1 bit by host line (address less 0x8000_0000_0000, over 128), poison that a block writeback brought there; 10 R341;
  reset 0. -/
  hostPoison : Tbl Bool
  /-- 8 bits by offset, cluster SRAM, 8 MiB; 12 R377; reset 0 (DESIGN CHOICE, log 7). -/
  sram : Tbl Byte
  /-- 8 bits by 0x8_0000 × core + offset, the TCMs; 12 R377; reset 0 (DESIGN CHOICE, log 7). -/
  tcm : Tbl Byte
  /-- 1 bit by 8-byte word of cluster SRAM (0 to 2^20 − 1) and of the TCMs (from 2^20), poisoned; 16 R504 detector
  0x0E; reset 0. -/
  clvPoison : Tbl Bool
  /-- 8 bits by offset, boot flash; 17 R529, 18 R564; reset 0xFF (DESIGN CHOICE, log 7). -/
  flash : Tbl Byte
deriving DecidableEq, Repr

/-- The state of a cached line (R337). In an L2 slice E is clean and M is dirty. -/
inductive Mesi where
  | i | s | e | m
deriving DecidableEq, Repr

/-- A way of a cache: the line it holds by number (address / 128), its state, data and poison (R318, R341). -/
structure CLine where
  line : Nat
  st : Mesi
  data : Line128
  poison : Bool
deriving DecidableEq, Repr

abbrev CLine.off : CLine := ⟨0, .i, 0, false⟩

/-- What a home slice has granted to a cache whose fill has not arrived (R321, R336); `gone` marks a grant whose line
a maintenance operation has invalidated since (R334). -/
structure Grant where
  line : Nat
  st : Mesi
  data : Line128
  poison : Bool
  gone : Bool
deriving DecidableEq, Repr

/-- What a fill returned to the access that missed: the line, its bus response, data and poison (R321, R334). -/
structure Fill where
  line : Nat
  code : BusResp
  data : Line128
  poison : Bool
deriving DecidableEq, Repr

/-- A line in an eviction buffer, awaiting its OFFER or WRITEBACK (R325, R352). -/
structure Evicted where
  line : Nat
  dirty : Bool
  data : Line128
  poison : Bool
deriving DecidableEq, Repr

/-- A cache of the block (R318): worker L1, worker instruction cache, L2 slice, node cache or Clove cache. -/
structure Cache where
  /-- the ways, by 16 × set + way; 10 R318; reset invalid. -/
  lines : Tbl CLine
  /-- 2 bits each, ages by 16 × set + way; 10 R320; reset 3 (R329). -/
  ages : Tbl Nat
  /-- 16 bits, WAY_DISABLED; 10 R328, R349, R350; reset 0. -/
  dis : BitVec 16
  /-- corrected errors logged by a way in the scrub period `cePeriod`; 10 R328; reset 0. -/
  ce : Tbl Nat
  /-- number of the scrub period that `ce` counts; 10 R328; reset 0. -/
  cePeriod : Nat
  /-- the line of the outstanding demand miss, and whether it asks for M; 10 R321; reset none. -/
  miss : Option (Nat × Bool)
  /-- the line of the outstanding prefetch, and whether it asks for M; 10 R323, R330; reset none. -/
  pf : Option (Nat × Bool)
  /-- grants whose fills have not arrived; 10 R321, R336; reset none. -/
  grants : List Grant
  /-- the fill buffer: what fills have returned to the access that waits for them; 10 R334; reset empty. -/
  fills : List Fill
  /-- the eviction buffer; 10 R325, R352; reset empty. -/
  evict : List Evicted
  /-- 1 bit, the cache is invalidating itself, as from a cold reset; 10 R329; reset 1. -/
  busy : Bool
deriving DecidableEq, Repr

abbrev Cache.off : Cache :=
  { lines := [], ages := [], dis := 0, ce := [], cePeriod := 0, miss := none, pf := none, grants := [], fills := [],
    evict := [], busy := true }

/-- A directory entry (R335, R340): the line, the tracked caches by unit identifier, the one that holds it in E or M,
and the host copy recorded against each port: 0 none, 1 shared, 2 exclusive. -/
structure DirEnt where
  line : Nat
  sharers : List Nat
  owner : Option Nat
  host0 : Nat
  host1 : Nat
deriving DecidableEq, Repr

abbrev DirEnt.off : DirEnt := ⟨0, [], none, 0, 0⟩

/-- A back-invalidation that awaits its BIRsp (R340, R419). -/
structure BiWait where
  h : Nat
  line : Nat
  /-- BISnpInv rather than BISnpData. -/
  inv : Bool
  /-- BLK_TIME at which it was sent. -/
  since : Nat
deriving DecidableEq, Repr

/-- An L2 slice with its directory (R318, R326, R335, R350). -/
structure Slice where
  /-- the L2 cache; 10 R318; reset invalid. -/
  l2 : Cache
  /-- directory entries by 16 × set + way; 10 R335; reset none. -/
  dir : Tbl DirEnt
  /-- 2 bits each, ages of directory entries; 10 R335; reset 3. -/
  dirAges : Tbl Nat
  /-- 16 bits, L2_STATUS.WAY_LOCKED; 10 R350; reset 0. -/
  locked : BitVec 16
  /-- 16 bits, L2_LOCK_WAYS.WAYS; 10 R350; reset 0. -/
  lockReq : BitVec 16
  /-- 1 bit, L2_LOCK_WAYS.LOCK_REJECT; 10 R350; reset 0. -/
  lockReject : Bool
  /-- 1 bit, L2_LOCK_WAYS.LOCK_BUSY; 10 R350; reset 0. -/
  lockBusy : Bool
  /-- 5 bits, L2_OFFER_THRESH.THRESH; 10 R350; reset 12. -/
  thresh : Nat
  /-- 16 bits, L2_LOCKED_INVAL_COUNT; 10 R350; reset 0. -/
  lockedInval : Nat
  /-- back-invalidations sent and not answered; 10 R340; reset none. -/
  bi : List BiWait
deriving DecidableEq, Repr

abbrev Slice.off : Slice :=
  { l2 := Cache.off, dir := [], dirAges := [], locked := 0, lockReq := 0, lockReject := false, lockBusy := false,
    thresh := 12, lockedInval := 0, bi := [] }

/-- A vault controller (R353 to R373). -/
structure Vlt where
  /-- 3 bits, VLT_STATUS.STATE; 11 R373; reset 0 UNTRAINED. -/
  st : Nat
  /-- 4 bits, VLT_STATUS.CMD_RESULT; 11 R373; reset 0. -/
  cmdResult : Nat
  /-- 2 bits, VLT_STATUS.BAND; 11 R373; reset 0. -/
  band : Nat
  /-- 1 bit, VLT_STATUS.ZERO_BUSY; 11 R373; reset 0. -/
  zeroBusy : Bool
  /-- 4 bits each, VLT_ERASE by tier; 11 R373; reset 0xF. -/
  erase : Tbl Nat
  /-- 8 bits each, VLT_TEMP by tier; 11 R373; reset 0. -/
  temp : Tbl Nat
  /-- BLK_TIME of the last valid temperature frame of a tier; 18 R561; reset 0. -/
  tempAt : Tbl Nat
  /-- 1 bit by tier, no valid frame has come for 3 ms, so that the tier counts as 105 °C; 18 R561; reset 0. -/
  stale : Tbl Bool
  /-- BLK_TIME since which every report has been 2 °C below the lower edge of the band; 11 R367; reset none. -/
  coolSince : Option Nat
  /-- a band change waits for the next refresh slot; 11 R367; reset none. -/
  bandNext : Option Nat
  /-- BLK_TIME at which the refresh window began; 11 R367; reset 0. -/
  winStart : Nat
  /-- 13 bits, VLT_ACT_THRESH.THRESH; 11 R373; reset 0x0800. -/
  actThresh : Nat
  /-- 8 bits, VLT_ERASE_THRESH.THRESH; 11 R373; reset 0x08. -/
  eraseThresh : Nat
  /-- 24 bits, VLT_SCRUB_POS.LINE; 11 R373; reset 0. -/
  scrubLine : Nat
  /-- 16 bits, VLT_SCRUB_POS.PASSES; 11 R373; reset 0. -/
  passes : Nat
  /-- 16 bits, VLT_INNER_CE; 11 R373; reset 0. -/
  innerCe : Nat
  /-- 16 bits, VLT_OUTER_CE; 11 R373; reset 0. -/
  outerCe : Nat
  /-- 16 bits, VLT_UE; 11 R373; reset 0. -/
  ue : Nat
  /-- lines diagnosed by 16 × tier + slice in the scrub period `diagPeriod`; 11 R363; reset 0. -/
  diag : Tbl Nat
  /-- number of the scrub period that `diag` counts; 11 R363; reset 0. -/
  diagPeriod : Nat
  /-- by bank 32 × tier + bank, the open row plus 1, or 0; 11 R371; reset 0. -/
  row : Tbl Nat
  /-- by bank, the activation counts of up to 512 rows; 11 R369; reset empty. -/
  act : Tbl (Tbl Nat)
  /-- numbers of the last slots charged to VAULT_BUDGET, newest first, at most 100; 11 R365; reset none. -/
  charged : List Nat
  /-- the arbitration frame of the last forced scrub slot; 11 R365; reset none. -/
  forcedAt : Option Nat
deriving DecidableEq, Repr

abbrev Vlt.off : Vlt :=
  { st := 0, cmdResult := 0, band := 0, zeroBusy := false, erase := [], temp := [], tempAt := [], stale := [], coolSince := none,
    bandNext := none, winStart := 0, actThresh := 0x800, eraseThresh := 8, scrubLine := 0, passes := 0, innerCe := 0,
    outerCe := 0, ue := 0, diag := [], diagPeriod := 0, row := [], act := [], charged := [], forcedAt := none }

/-- What a command answers to whoever sent it: the bus response and data of a register access (R420), and the line
and poison of a memory read. The model's own observation; no rule reads it. -/
structure Answer where
  code : BusResp
  data : W64
  line : Line128
  poison : Bool
deriving DecidableEq, Repr
/-! ## Clove, tasks and Anise (12). -/

/-- CLV_THREAD_STATUS.STATE (R409); WAIT names what the thread waits in, and for GETTASK the register it names. -/
inductive ThrRun where
  | halted | running | waitTask (rd : Nat) | waitInt | stopped
deriving DecidableEq, Repr

/-- A Clove hardware thread (R376, R384, R409). -/
structure Thr where
  /-- 64 bits, pc; 12 R376; reset 0 (DESIGN CHOICE, log 3). -/
  pc : W64
  /-- g1 to g15, 64 bits each; 12 R376; reset 0 (DESIGN CHOICE, log 3). -/
  g : Tbl W64
  /-- 1 bit, tc.status.TRAP; 12 R384; reset 0. -/
  trap : Bool
  /-- 1 bit, tc.status.PIE; 12 R384; reset 0. -/
  pie : Bool
  /-- 1 bit, tc.status.IE; 12 R384; reset 0. -/
  ie : Bool
  /-- 64 bits, tc.epc; 12 R384; reset 0 (DESIGN CHOICE, log 3). -/
  epc : W64
  /-- 64 bits, tc.cause; 12 R384; reset 0 (DESIGN CHOICE, log 3). -/
  cause : W64
  /-- 64 bits, tc.tval; 12 R384; reset 0 (DESIGN CHOICE, log 3). -/
  tval : W64
  /-- 64 bits, tc.vec; 12 R384; reset 0 (DESIGN CHOICE, log 3). -/
  vec : W64
  /-- 6 bits, tc.ie; 12 R384; reset 0 (DESIGN CHOICE, log 3). -/
  ien : BitVec 6
  /-- 64 bits, tc.timecmp; 12 R384; reset 0 (DESIGN CHOICE, log 3). -/
  timecmp : W64
  /-- 1 bit, tc.mode.FIXED; 12 R384; reset 0. -/
  fixed : Bool
  /-- 64 bits, tc.scratch; 12 R384; reset 0 (DESIGN CHOICE, log 3). -/
  scratch : W64
  /-- 3 bits, CLV_THREAD_STATUS.STATE; 12 R409; reset HALTED. -/
  run : ThrRun
  /-- 8 bits, CLV_THREAD_STATUS.STOP_CAUSE; 12 R409; reset 0. -/
  stopCause : Nat
  /-- 52 bits, CLV_THREAD_START.PC; 12 R409; reset 0. -/
  start : W64
  /-- the task held, tc.task; 12 R384; reset none. -/
  task : Option Nat
  /-- the instruction at pc has issued and waits for memory, so that no interrupt comes before its end (R379, R391);
  the model's own field; reset false. -/
  issued : Bool
  /-- halves of an issued store that have been performed; the model's own field; reset 0. -/
  partsDone : Nat
deriving DecidableEq, Repr

abbrev Thr.off : Thr :=
  { pc := 0, g := [], trap := false, pie := false, ie := false, epc := 0, cause := 0, tval := 0, vec := 0, ien := 0,
    timecmp := 0, fixed := false, scratch := 0, run := .halted, stopCause := 0, start := 0, task := none,
    issued := false, partsDone := 0 }

/-- The states of a task (R395). -/
inductive TaskState where
  | dormant | ready | running | blocked | delayed
deriving DecidableEq, Repr

/-- A task (R395, R400, R408). -/
structure Task where
  /-- 3 bits, STATE; 12 R408; reset DORMANT. -/
  st : TaskState
  /-- 1 bit, WAKE_PENDING; 12 R408; reset 0. -/
  wakePend : Bool
  /-- 5 bits, PRIO; 12 R408; reset 31. -/
  prio : Nat
  /-- 8 bits, AFFINITY; 12 R408; reset 0xFF. -/
  aff : BitVec 8
  /-- 64 bits, CLV_TASK_ARG; 12 R408; reset 0. -/
  arg : W64
  /-- 2 bits, CAUSE of the next task word; 12 R400; reset 0. -/
  cause : Nat
  /-- the flow and sequence number of its entry; 12 R400, R403; reset none. -/
  flow : Option (Nat × Nat)
deriving DecidableEq, Repr

abbrev Task.off : Task :=
  { st := .dormant, wakePend := false, prio := 31, aff := 0xFF, arg := 0, cause := 0, flow := none }

/-- An entry of the delay or timeout list: wake tick, order of entry, task (R405). -/
structure TimerEnt where
  tick : Nat
  seq : Nat
  task : Nat
deriving DecidableEq, Repr

/-- An entry of a flow: none while open, else its value and ABANDONED bit (R403). -/
abbrev FlowEnt := Option (W64 × Bool)

/-- A flow (R403, R404, R408). -/
structure Flow where
  /-- 1 bit, IRQ_EN; 12 R408; reset 0. -/
  irqEn : Bool
  /-- 1 bit, WAKE_EN; 12 R408; reset 0. -/
  wakeEn : Bool
  /-- 1 bit, EN; 12 R408; reset 0. -/
  en : Bool
  /-- 6 bits, WAKE_THREAD; 12 R408; reset 0. -/
  wakeThread : Nat
  /-- 8 bits, WAKE_TASK; 12 R408; reset 0. -/
  wakeTask : Nat
  /-- 16 bits, HEAD_SEQ; NEXT_SEQ is HEAD_SEQ plus the number of entries; 12 R408; reset 0. -/
  head : BitVec 16
  /-- the entries from HEAD_SEQ, at most 64; 12 R403; reset none. -/
  ents : List FlowEnt
deriving DecidableEq, Repr

abbrev Flow.off : Flow :=
  { irqEn := false, wakeEn := false, en := false, wakeThread := 0, wakeTask := 0, head := 0, ents := [] }

/-- The task scheduler with Anise and the interprocessor interrupts. -/
structure SchedSt where
  /-- the 256 tasks; 12 R395; reset Task.off. -/
  tasks : Tbl Task
  /-- the 32 ready lists, first entered first; 12 R396; reset empty. -/
  ready : Tbl (List Nat)
  /-- the threads waiting in GETTASK, in the order they began to wait; 12 R396; reset empty. -/
  waiters : List Nat
  /-- the delay list; 12 R405; reset empty. -/
  delays : List TimerEnt
  /-- the timeout list; 12 R405; reset empty. -/
  timeouts : List TimerEnt
  /-- entries made to either list, which orders them; the model's own field; reset 0. -/
  timerSeq : Nat
  /-- the 16 flows; 12 R403; reset off. -/
  flows : Tbl Flow
  /-- 64 bits, CLV_TICK; 12 R405, R408; reset 0. -/
  tick : Nat
  /-- BLK_TIME div 2,000 at the last tick processed; the model's own field; reset 0. -/
  tickAt : Nat
  /-- tasks have become READY since the waiting threads were last matched (R396); the model's own field; reset false. -/
  due : Bool
  /-- 16 bits, CLV_ANISE_CTRL.EVMASK; 12 R408; reset 0xFFFF. -/
  evmask : BitVec 16
  /-- 8 bits, CLV_ANISE_CTRL.BASE; 12 R408; reset 0. -/
  aniseBase : Nat
  /-- 1 bit, CLV_ANISE_CTRL.STOP; 12 R408; reset 0. -/
  aniseStop : Bool
  /-- 1 bit, CLV_ANISE_CTRL.EN; 12 R408; reset 0. -/
  aniseEn : Bool
  /-- 16 bits, CLV_ANISE_PTR.LOST; 12 R408; reset 0. -/
  aniseLost : Nat
  /-- 12 bits, CLV_ANISE_PTR.WRITE; 12 R408; reset 0. -/
  aniseWrite : BitVec 12
  /-- 12 bits, CLV_ANISE_RD.RD; 12 R408; reset 0. -/
  aniseRd : BitVec 12
  /-- 64 bits, CLV_IPI; 12 R409; reset 0. -/
  ipi : W64
deriving DecidableEq, Repr

/-! ## Host ports and mailboxes (13). -/

/-- A function of a host port with its job rings (R414, R424, R435). -/
structure HostFn where
  /-- 45 bits, HST_SQ_BASE.ADDR with bits [11:0] zero; 13 R435; reset 0. -/
  sqBase : Nat
  /-- 1 bit, HST_SQ_BASE.EN; 13 R435; reset 0. -/
  sqEn : Bool
  /-- 4 bits, HST_SQ_BASE.SIZE_LOG2; 13 R435; reset 4. -/
  sqSize : Nat
  /-- 12 bits, HST_SQ_PTR.HEAD; 13 R435; reset 0. -/
  sqHead : Nat
  /-- 12 bits, HST_SQ_PTR.TAIL; 13 R435; reset 0. -/
  sqTail : Nat
  /-- 45 bits, HST_CQ_BASE.ADDR with bits [11:0] zero; 13 R435; reset 0. -/
  cqBase : Nat
  /-- 1 bit, HST_CQ_BASE.EN; 13 R435; reset 0. -/
  cqEn : Bool
  /-- 4 bits, HST_CQ_BASE.SIZE_LOG2; 13 R435; reset 4. -/
  cqSize : Nat
  /-- 12 bits, HST_CQ_PTR.HEAD; 13 R435; reset 0. -/
  cqHead : Nat
  /-- 12 bits, HST_CQ_PTR.TAIL; 13 R435; reset 0. -/
  cqTail : Nat
  /-- 1 bit, HST_CQ_PTR.PHASE; 13 R435; reset 1. -/
  phase : Bool
  /-- 1 bit, HST_FN_STATUS.PTR_REJECT; 13 R435; reset 0. -/
  ptrReject : Bool
  /-- 1 bit, HST_FN_STATUS.DB; 13 R435; reset 0. -/
  db : Bool
  /-- 1 bit, the function is in D3hot; 13 R432; reset 0. -/
  d3hot : Bool
  /-- 1 bit each, the function's masks of MSI-X vectors 0 and 1; 13 R425, R431; reset 0 (PRESUMED, log 3). -/
  mask0 : Bool
  mask1 : Bool
  /-- MSI-X messages sent on vectors 0 and 1; 13 R425, R431; reset 0. -/
  sent0 : Nat
  sent1 : Nat
  /-- 1 bit, the doorbell of the function was pending when last looked at, so that vector 1 is sent on its rise; 13
  R431; reset 0. -/
  dbSeen : Bool
  /-- the HK cycle of the last pointer write, and the four pointers before that cycle, which the checks use; 13 R428;
  reset 0. -/
  cycle : Nat
  sqHead0 : Nat
  sqTail0 : Nat
  cqHead0 : Nat
  cqTail0 : Nat
  /-- the host has written SQ_PTR.TAIL in that cycle, so that DB stays set; 13 R428; reset false. -/
  tailNow : Bool
deriving DecidableEq, Repr

abbrev HostFn.off : HostFn :=
  { sqBase := 0, sqEn := false, sqSize := 4, sqHead := 0, sqTail := 0, cqBase := 0, cqEn := false, cqSize := 4,
    cqHead := 0, cqTail := 0, phase := true, ptrReject := false, db := false, d3hot := false, mask0 := false,
    mask1 := false, sent0 := 0, sent1 := 0, dbSeen := false, cycle := 0, sqHead0 := 0, sqTail0 := 0, cqHead0 := 0,
    cqTail0 := 0, tailNow := false }

/-- A host port (R411 to R419, R435). -/
structure HostPort where
  /-- 4 bits, HST_PORT_STATUS.VFS; 13 R435; reset 0. -/
  vfs : Nat
  /-- 1 bit, HST_PORT_STATUS.TRAIN_FAIL; 13 R435; reset 0. -/
  trainFail : Bool
  /-- 1 bit, HST_PORT_STATUS.IDE_UP; 13 R435; reset 0. -/
  ideUp : Bool
  /-- 3 bits, HST_PORT_STATUS.RATE; 13 R435; reset 0. -/
  rate : Nat
  /-- 5 bits, HST_PORT_STATUS.WIDTH; 13 R435; reset 0. -/
  width : Nat
  /-- 6 bits, HST_PORT_CTRL.IRQ_THREAD; 13 R435; reset 0. -/
  irqThread : Nat
  /-- 14 bits, HST_PORT_CTRL.BI_TIMEOUT; 13 R435; reset 100. -/
  biTimeout : Nat
  /-- the functions 0 to 16; 13 R414; reset off. -/
  fns : Tbl HostFn
  /-- 64 bits, base of the host range that the HDM decoder maps; 13 R417; reset 0. -/
  hdmBase : W64
  /-- 1 bit, ATS enabled by the host; 13 R418; reset 0. -/
  ats : Bool
  /-- 1 bit, the port holds its PIPE interface in reset until cold reset after ISOLATE; 16 R501; reset 0. -/
  isolated : Bool
  /-- AER reports through the physical function: correctable, uncorrectable non-fatal, uncorrectable fatal; 16 R509,
  R503; reset 0. -/
  aerCor : Nat
  aerNon : Nat
  aerFat : Nat
  /-- ranges of host bus addresses, first and last, whose accesses the host completes with an error; 13 R418; reset none. -/
  refused : List (Nat × Nat)
deriving DecidableEq, Repr

abbrev HostPort.off : HostPort :=
  { vfs := 0, trainFail := false, ideUp := false, rate := 0, width := 0, irqThread := 0, biTimeout := 100, fns := [],
    hdmBase := 0, ats := false, isolated := false, aerCor := 0, aerNon := 0, aerFat := 0, refused := [] }

/-- A mailbox operation that has arrived in the HK cycle and takes effect at its end (R433). -/
inductive MbxOp where
  | clear (post write : Bool)
  | write (w : Nat) (keep val : W64)
  | post (code : Nat)
  | take
deriving DecidableEq, Repr

/-- A mailbox channel (R430). -/
structure Mbx where
  /-- 16 bits, SENDER; 13 R430; reset 0. -/
  sender : BitVec 16
  /-- 1 bit, VALID; 13 R430; reset 0. -/
  valid : Bool
  /-- 47 bits, TAG; 13 R430; reset 0. -/
  tag : BitVec 47
  /-- 64 bits each, DATA of words 1 to 7; 13 R430; reset 0. -/
  data : Tbl W64
  /-- 1 bit, MBX_STATUS.FULL; 13 R430; reset 0. -/
  full : Bool
  /-- 1 bit, MBX_STATUS.POST_REJECT; 13 R430; reset 0. -/
  postReject : Bool
  /-- 1 bit, MBX_STATUS.WRITE_REJECT; 13 R430; reset 0. -/
  writeReject : Bool
  /-- the operations of the HK cycle, in the order in which they arrived; 13 R433; reset none. -/
  ops : List MbxOp
deriving DecidableEq, Repr

abbrev Mbx.off : Mbx := ⟨0, false, 0, [], false, false, false, []⟩
/-! ## Link ports and block groups (14). -/

/-- LNK_STATUS.STATE (R461). -/
inductive LinkRun where
  | disabled | training | up | foreign | down
deriving DecidableEq, Repr

/-- A flit in the replay buffer, as it was sent (R438, R440). -/
structure SentFlit where
  fseq : BitVec 12
  bytes : List Byte
deriving DecidableEq, Repr

/-- A packet on its way out, with the unit identifier of its requester, which selects the port (R445). -/
structure OutPkt where
  pkt : Packet
  unit : Nat
deriving DecidableEq, Repr

/-- A packet in a receive buffer, with the BLK_TIME of its arrival (R439, R455). -/
structure RxPkt where
  pkt : Packet
  at_ : Nat
deriving DecidableEq, Repr

/-- A link port (R436 to R441, R461). -/
structure LinkPort where
  /-- 4 bits, LNK_CTRL.MIN_WIDTH; 14 R461; reset 4. -/
  minWidth : Nat
  /-- 3 bits, LNK_STATUS.STATE; 14 R461; reset DISABLED. -/
  st : LinkRun
  /-- 8 bits, LNK_STATUS.RETIRED; 14 R461; reset 0. -/
  retired : BitVec 8
  /-- 8 bits, the lanes in service, whose number is LNK_STATUS.WIDTH; 14 R461; reset 0. -/
  lanes : BitVec 8
  /-- 6 bits, LNK_STATUS.PEER_BLOCK; 14 R461; reset 0. -/
  peerBlock : Nat
  /-- 5 bits, LNK_STATUS.PEER_PORT; 14 R461; reset 0. -/
  peerPort : Nat
  /-- RESET_LANES was written and the next training returns the lanes; 14 R461; reset 0. -/
  lanesBack : Bool
  /-- 16 bits, LNK_LANE_THRESH.SYMBOLS; 14 R461; reset 0x1000. -/
  laneThresh : Nat
  /-- symbols that FEC has corrected by lane in the millisecond `laneMs`; 14 R441; reset 0. -/
  laneFix : Tbl Nat
  /-- number of the millisecond of BLK_TIME that `laneFix` counts; 14 R441; reset 0. -/
  laneMs : Nat
  /-- 16 bits each, LNK_FEC_CE, LNK_FEC_UE, LNK_RETRY, LNK_FWD_DROP, LNK_RX_DISCARD; 14 R461; reset 0. -/
  fecCe : Nat
  fecUe : Nat
  retry : Nat
  fwdDrop : Nat
  rxDiscard : Nat
  /-- 48 bits, LNK_ETH_MAC; 14 R461; reset 0. -/
  mac : BitVec 48
  /-- 48 bits, LNK_ETH_NEXTHOP; 14 R461; reset 0. -/
  nexthop : BitVec 48
  /-- 128 bits, LNK_ETH_IP_LO and LNK_ETH_IP_HI; 14 R461; reset 0. -/
  ip : BitVec 128
  /-- 16 bits, LNK_ETH_CFG.RTO_US; 14 R461; reset 50. -/
  rto : Nat
  /-- 24 bits, LNK_ETH_CFG.DSCP; 14 R461; reset 0. -/
  dscp : BitVec 24
  /-- 12 bits, LNK_ETH_CFG.PRIO; 14 R461; reset 0. -/
  prio : BitVec 12
  /-- 2 bits, LNK_ETH_CFG.MAXPAY; 14 R461; reset 2. -/
  maxpay : Nat
  /-- 12 bits, FSEQ of the next flit sent; 14 R438; reset 0 (DESIGN CHOICE, log 3). -/
  txSeq : BitVec 12
  /-- 12 bits, FSEQ of the last flit received intact and in order; 14 R438; reset 0xFFF (DESIGN CHOICE, log 3). -/
  rxSeq : BitVec 12
  /-- NAK goes out in the next flit; 14 R440; reset 0. -/
  nak : Bool
  /-- the receiver discards until the replay; 14 R440; reset 0. -/
  discard : Bool
  /-- the bytes of a packet that has not arrived whole; 14 R438; reset none. -/
  rxPart : List Byte
  /-- failed replays in a row of the oldest flit; 14 R440; reset 0. -/
  fails : Nat
  /-- the oldest flit has been replayed since it was sent or last failed; 14 R440; reset 0. -/
  replayed : Bool
  /-- a NAK was received and the replay has not begun; 14 R440; reset 0. -/
  replayDue : Bool
  /-- control code and lane of the next flit; 14 R438; reset 0. -/
  ctl : Nat
  ctlLane : Nat
  /-- the replay buffer; 14 R440; reset empty. -/
  replay : List SentFlit
  /-- flits in the lanes' transmit FIFOs; 18 R568; reset 0. -/
  fifo : Nat
  /-- the bytes of the last frame that an Ethernet port sent; 14 R450; reset none. -/
  frame : List Byte
  /-- packets that wait for credits, for room, or for the pause to end; 14 R439, R452; reset empty. -/
  txq : List OutPkt
  /-- by VC, credits of 64 bytes used at the partner and not returned; 14 R439; reset 0. -/
  credUsed : Tbl Nat
  /-- packets in the receive buffers; 14 R439; reset empty. -/
  rxq : List RxPkt
  /-- by VC, credits freed and not yet returned to the partner; 14 R439; reset 0. -/
  credOwed : Tbl Nat
  /-- 4 bits, VCs that a pause frame stops; 14 R452; reset 0. -/
  paused : BitVec 4
  /-- 4 bits, VCs for which XOFF has been sent; 14 R452; reset 0. -/
  xoff : BitVec 4
deriving DecidableEq, Repr

abbrev LinkPort.off : LinkPort :=
  { minWidth := 4, st := .disabled, retired := 0, lanes := 0, peerBlock := 0, peerPort := 0, lanesBack := false,
    laneThresh := 0x1000, laneFix := [], laneMs := 0, fecCe := 0, fecUe := 0, retry := 0, fwdDrop := 0, rxDiscard := 0, mac := 0, nexthop := 0,
    ip := 0, rto := 50, dscp := 0, prio := 0, maxpay := 2, txSeq := 0, rxSeq := 0xFFF, nak := false, discard := false,
    rxPart := [], fails := 0, replayed := false, fifo := 0, frame := [], replayDue := false, ctl := 0, ctlLane := 0, replay := [], txq := [], credUsed := [], rxq := [], credOwed := [],
    paused := 0, xoff := 0 }

/-- A connection, from this block's side: both the sending state towards a block on a VC and the receiving state from
it (R444, R451). -/
structure Conn where
  /-- 24 bits, the next PSN sent; 14 R444; reset 0. -/
  next : BitVec 24
  /-- 24 bits, the PSN expected; 14 R444; reset 0. -/
  expect : BitVec 24
  /-- packets sent and not acknowledged, at most 1,024, oldest first; 14 R444; reset empty. -/
  unacked : List OutPkt
  /-- packets that wait for room among the 1,024; 14 R444; reset empty. -/
  waiting : List OutPkt
  /-- BLK_TIME since which the oldest unacknowledged packet has waited; 14 R444; reset 0. -/
  since : Nat
  /-- BLK_TIME at which ECE was last set in an ACK; 14 R451; reset none. -/
  eceAt : Option Nat
deriving DecidableEq, Repr

abbrev Conn.off : Conn := ⟨0, 0, [], [], 0, none⟩

/-- The rate limit towards a block, in bytes per second (R451). -/
structure RateSt where
  limit : Nat
  /-- BLK_TIME of the last reduction. -/
  cutAt : Option Nat
  /-- BLK_TIME of the last ECE or increase. -/
  eceAt : Nat
deriving DecidableEq, Repr

abbrev RateSt.off : RateSt := ⟨200000000000, none, 0⟩

/-- Who waits for a peer request (R443, R449): a line of a channel, a worker's load or atomic, a worker's posted
store, a Clove access, or a member's part of a distribution (R460). -/
inductive Requester where
  | stream (src : StreamSrc) (tag : Nat)
  | core (n : Nat)
  | store (n : Nat)
  | thread (h : Nat)
  | dist (b : Nat)
deriving DecidableEq, Repr

/-- A request sent to a peer and not answered (R443, R449): its transport tag, destination, requester, address and
data bytes. -/
structure PeerReq where
  tag : Nat
  dst : Nat
  who : Requester
  addr : Nat
  len : Nat
deriving DecidableEq, Repr

/-- A peer request that its RESP, or the loss of the peer, has completed, until its requester takes it. -/
structure PeerDone where
  who : Requester
  dst : Nat
  addr : Nat
  len : Nat
  code : BusResp
  data : List Byte
  poison : Bool
deriving DecidableEq, Repr

/-- A group barrier (R459, R462). -/
structure Gbar where
  /-- 32 bits, LNK_GBAR_CFG.PHASE; 14 R462; reset 0. -/
  phase : BitVec 32
  /-- 1 bit, LNK_GBAR_CFG.EN; 14 R462; reset 0. -/
  en : Bool
  /-- 6 bits, LNK_GBAR_CFG.LOCAL; 14 R462; reset 0. -/
  loc : Nat
  /-- 64 bits, LNK_GBAR_BLOCKS; 14 R462; reset 0. -/
  blocks : W64
  /-- the phase whose ARRIVE this block has sent and whose release it awaits; 14 R459; reset none. -/
  sent : Option (BitVec 32)
  /-- as manager: the phase being gathered and the blocks whose ARRIVE has come; 14 R459; reset none. -/
  gathering : BitVec 32
  arrived : W64
deriving DecidableEq, Repr

abbrev Gbar.off : Gbar := ⟨0, false, 0, 0, none, 0, 0⟩

/-- STATE of a collective context (R462). -/
inductive CollRun where
  | idle | armed | running
deriving DecidableEq, Repr

/-- A collective context (R453 to R455, R462). -/
structure Coll where
  /-- 46 bits, LNK_COLL_DESC; 14 R462; reset 0. -/
  desc : Nat
  /-- 2 bits, LNK_COLL_STATUS.STATE; 14 R462; reset IDLE. -/
  st : CollRun
  /-- 4 bits, LNK_COLL_STATUS.RESULT; 14 R462; reset 0. -/
  result : Nat
  /-- 8 bits, LNK_COLL_STATUS.FLAGS; 14 R462; reset 0. -/
  flags : Flags
  /-- 24 bits, LNK_COLL_STATUS.DONE; 14 R462; reset 0. -/
  done : Nat
  /-- bytes of SRC that a SEND context has sent; 14 R454; reset 0. -/
  sent : Nat
  /-- the descriptor read at ARM: SRC, DST, LEN, COLL_ID, NEXT, STEP, OP, FMT, IRQ, SEM; 14 R453; reset 0. -/
  src : Nat
  dst : Nat
  len : Nat
  id : Nat
  next : Nat
  step : Nat
  op : Nat
  fmt : Nat
  irq : Bool
  sem : Nat
deriving DecidableEq, Repr

abbrev Coll.off : Coll :=
  { desc := 0, st := .idle, result := 0, flags := 0, done := 0, sent := 0, src := 0, dst := 0, len := 0, id := 0, next := 0,
    step := 0, op := 0, fmt := 0, irq := false, sem := 0 }

/-- The block group, its transport and the collective contexts (R442 to R462). -/
structure GroupSt where
  /-- 32 bits, LNK_GRP_CFG.GROUP_ID; 14 R462; reset 0. -/
  id : BitVec 32
  /-- 6 bits, LNK_GRP_CFG.IRQ_THREAD; 14 R462; reset 0. -/
  irqThread : Nat
  /-- 1 bit, LNK_GRP_CFG.PRIV_IMPORT; 14 R462; reset 0. -/
  privImport : Bool
  /-- 6 bits, LNK_GRP_CFG.SELF; 14 R462; reset 0. -/
  self : Nat
  /-- 1 bit, LNK_GRP_CFG.EN; 14 R462; reset 0. -/
  en : Bool
  /-- 64 bits, LNK_GRP_MEMBERS; 14 R462; reset 0. -/
  members : W64
  /-- 64 bits, LNK_GRP_LIVE; 14 R457, R462; reset 0. -/
  live : W64
  /-- BLK_TIME at which a packet of a block last came; 14 R457; reset 0. -/
  heard : Tbl Nat
  /-- 32 bits, LNK_GRP_STATUS.TERM; 14 R462; reset 0. -/
  term : BitVec 32
  /-- 6 bits, LNK_GRP_STATUS.MANAGER; 14 R462; reset 0. -/
  manager : Nat
  /-- whether MANAGER was elected for TERM; 14 R458; reset 0. -/
  elected : Bool
  /-- the term of the last CLAIM granted; 14 R458; reset none. -/
  granted : Option (BitVec 32)
  /-- the term of this block's own claim, and the blocks whose GRANT has come; 14 R458; reset none. -/
  claiming : Option (BitVec 32)
  votes : W64
  /-- BLK_TIME of that claim; 14 R458; reset 0. -/
  claimAt : Nat
  /-- 1 bit, LNK_GRP_STATUS.IMAGE_RCVD; 14 R462; reset 0. -/
  imageRcvd : Bool
  /-- 1 bit, LNK_GRP_STATUS.DIST_BUSY; 14 R462; reset 0. -/
  distBusy : Bool
  /-- 52 bits, LNK_GRP_STAGE.ADDR with bits [11:0] zero; 14 R462; reset 0. -/
  stageAddr : Nat
  /-- 1 bit, LNK_GRP_STAGE.EN; 14 R462; reset 0. -/
  stageEn : Bool
  /-- the stage words that members advertise; 14 R460; reset 0. -/
  stages : Tbl W64
  /-- 52 bits, LNK_GRP_DIST_SRC with bits [3:0] zero; 14 R462; reset 0 (DESIGN CHOICE, log 3). -/
  distSrc : Nat
  /-- 23 bits, LNK_GRP_DIST_LEN; 14 R462; reset 0 (DESIGN CHOICE, log 3). -/
  distLen : Nat
  /-- 64 bits, LNK_GRP_DIST_DONE; 14 R462; reset 0. -/
  distDone : W64
  /-- by member, bytes of the distribution that its acknowledgements have not covered; 14 R460; reset 0. -/
  distLeft : Tbl Nat
  /-- 2 bits, LNK_GRP_CMD.RESULT; 14 R462; reset 0. -/
  cmdResult : Nat
  /-- 32 bits each, LNK_GRP_ROUTE; 14 R462; reset 0. -/
  route : Tbl (BitVec 32)
  /-- 64 bits each, LNK_GRP_IMPORT; 14 R462; reset 0. -/
  imports : Tbl W64
  /-- 128 bits each, LNK_GRP_PEER_IP; 14 R462; reset 0. -/
  peerIp : Tbl (BitVec 128)
  /-- the 16 group barriers; 14 R459; reset off. -/
  gbars : Tbl Gbar
  /-- the eight collective contexts; 14 R453; reset off. -/
  colls : Tbl Coll
  /-- connections by 4 × block + VC; 14 R444; reset off. -/
  conns : Tbl Conn
  /-- rate limits by block; 14 R451; reset 200 GB/s. -/
  rates : Tbl RateSt
  /-- requests to peers that await their RESP; 14 R449; reset none. -/
  reqs : List PeerReq
  /-- those completed and not yet taken; 14 R449; reset none. -/
  dones : List PeerDone
  /-- 32 bits, the next request TAG; 14 R442; reset 0 (DESIGN CHOICE, log 3). -/
  nextTag : Nat
deriving DecidableEq, Repr

def GroupSt.init : GroupSt :=
  { id := 0, irqThread := 0, privImport := false, self := 0, en := false, members := 0, live := 0, heard := [],
    term := 0, manager := 0, elected := false, granted := none, claiming := none, votes := 0, claimAt := 0, imageRcvd := false,
    distBusy := false, stageAddr := 0, stageEn := false, stages := [], distSrc := 0, distLen := 0, distDone := 0,
    distLeft := [], cmdResult := 0, route := [], imports := [], peerIp := [], gbars := [], colls := [], conns := [],
    rates := [], reqs := [], dones := [], nextTag := 0 }
/-! ## Clocks, Nutmeg and Caraway (15). -/

/-- The standby PLL (R467, R496). -/
inductive Standby where
  | stopped | locking | locked
deriving DecidableEq, Repr

/-- The clock generator (R465 to R469, R496). -/
structure ClkSt where
  /-- 2 bits, CLK_OP_STATUS.CUR_INDEX; 15 R496; reset 0. -/
  cur : Nat
  /-- 8 bits, CLK_OP_STATUS.ROOT_MULT; 15 R496; reset 64. -/
  mult : Nat
  /-- 16 bits, CLK_OP_STATUS.SWITCHES; 15 R496; reset 0. -/
  switches : Nat
  /-- 2 bits, CLK_OP_STATUS.STANDBY; 15 R496; reset 0 stopped. -/
  standby : Standby
  /-- 2 bits, CLK_OP_STG.INDEX; 15 R496; reset 0. -/
  stgIndex : Nat
  /-- 1 bit, CLK_OP_STG.PEND; 15 R496; reset 0. -/
  stgPend : Bool
  /-- the ROOT-derived clocks are held for a relock interval; 15 R467; reset 0. -/
  relock : Bool
  /-- ROOT is locked; 17 R524; reset 0. -/
  rootLocked : Bool
deriving DecidableEq, Repr

/-- A droop calibration entry (R485, R487). -/
structure DCal where
  /-- 1 bit, PRESENT; 15 R496; reset 0. -/
  present : Bool
  /-- 8 bits, G_DROOP; 15 R496; reset 0. -/
  g : Nat
  /-- 16 bits, I_CAL; 15 R496; reset 0. -/
  i : Nat
  /-- BLK_TIME at which the entry was made, from which AGE_S counts; 15 R496; reset 0. -/
  made : Nat
deriving DecidableEq, Repr

abbrev DCal.off : DCal := ⟨false, 0, 0, 0⟩

/-- Nutmeg (R470 to R487, R496). -/
structure NutSt where
  /-- the HK cycle after that in which a mailbox domain last went off, by the code of its agent, or of function 0x1F for a
  host port, so that an access of the same cycle still sees the domain on; 13 R433; reset 0. -/
  offAt : Tbl Nat
  /-- 12 bits, NUT_CAP.CAP_W; 15 R496; reset 2,400. -/
  capW : Nat
  /-- 4 bits, NUT_STATUS.USABLE; 15 R496; reset 0. -/
  usable : BitVec 4
  /-- 1 bit, NUT_STATUS.PD_REJECT; 15 R496; reset 0. -/
  pdReject : Bool
  /-- 1 bit, NUT_STATUS.PLAN_RUNNING; 15 R496; reset 0. -/
  planRunning : Bool
  /-- 1 bit, NUT_STATUS.BASELINE_ONLY; 15 R496; reset 1. -/
  baselineOnly : Bool
  /-- 1 bit, NUT_STATUS.MARGIN_EXHAUSTED; 15 R496; reset 0. -/
  exhausted : Bool
  /-- 1 bit, NUT_STATUS.PROTECT_HOLD; 15 R496; reset 0. -/
  protect : Bool
  /-- 1 bit, NUT_STATUS.STATIC_GB; 15 R496; reset 0. -/
  staticGb : Bool
  /-- 1 bit, NUT_STATUS.TRIP; 15 R496; reset 0. -/
  trip : Bool
  /-- 1 bit, NUT_STATUS.WARN; 15 R496; reset 0. -/
  warn : Bool
  /-- 6 bits, NUT_CFG.IRQ_THREAD; 15 R496; reset 0. -/
  irqThread : Nat
  /-- 8 bits, NUT_CFG.DROOP_TRIP; 15 R496; reset 25. -/
  droopTrip : Nat
  /-- 8 bits, NUT_CFG.WARN; 15 R496; reset 85. -/
  warnT : Nat
  /-- 7 bits, NUT_EVENT; 15 R496; reset 0. -/
  event : BitVec 7
  /-- 256 bits, NUT_PD_REQ; 15 R496; reset 0. -/
  pdReq : BitVec 256
  /-- 256 bits, NUT_PD_STATE; 15 R496; reset 0. -/
  pdState : BitVec 256
  /-- 8 bits, NUT_PD_CLOVE.REQ; 15 R496; reset 0. -/
  clvReq : BitVec 8
  /-- 8 bits, NUT_PD_CLOVE.STATE; 15 R496; reset 0. -/
  clvState : BitVec 8
  /-- NUT_DCAL by entry; 15 R496; reset off. -/
  dcal : Tbl DCal
  /-- mV by rail, the last target voltage written; 15 R472, 18 R554; reset 0, standing for the power-up level. -/
  target : Tbl Nat
  /-- mV by rail, the last voltage read; 15 R472; reset 0 (DESIGN CHOICE, log 3). -/
  mv : Tbl Nat
  /-- A by rail, the last current read; 15 R472; reset 0 (DESIGN CHOICE, log 3). -/
  amps : Tbl Nat
  /-- AVSBus failures in a row; 15 R472; reset 0. -/
  avsFails : Nat
  /-- the CORE domain is held for AVS_FAIL; 15 R472; reset 0. -/
  avsHold : Bool
  /-- the last ten samples of P in mW, newest first; 15 R474; reset none. -/
  power : List Nat
  /-- 3 bits, the level of the cap limiter; 15 R476; reset 0. -/
  capLevel : Nat
  /-- BLK_TIME since which the limiter has stood at 7; 15 R476; reset none. -/
  capSince : Option Nat
  /-- the level 4 hold at 90 °C; 15 R477; reset 0. -/
  hot90 : Bool
  /-- °C of the 64 die sensors and T_die; 15 R477; reset 0xFF, no reading. -/
  die : Tbl Nat
  /-- °C of the four spine sensors; 15 R477; reset 0xFF, no reading. -/
  spine : Tbl Nat
  /-- °C, T_die; 15 R477; reset 0 (DESIGN CHOICE, log 3). -/
  tDie : Nat
  /-- BLK_TIME since which T_die has been below 90 °C; 15 R478; reset none. -/
  coolSince : Option Nat
  /-- BLK_TIME since which every tier has been below 100 °C; 15 R478; reset none. -/
  tierCoolSince : Option Nat
  /-- a TIER_HOT report is in force; 15 R479; reset 0. -/
  tierHot : Bool
  /-- level of the hold for an unusable entry in force: 0, 7 or 8; 15 R483; reset 0. -/
  marginLevel : Nat
  /-- by quadrant, the droop hold; 15 R484; reset 0. -/
  droopHold : Tbl Bool
  /-- by quadrant, the CORE cycle count at which its droop hold ends; 15 R475, R484; reset 0. -/
  droopEnd : Tbl Nat
  /-- by activity (0 the cap limiter, 1 the rail poll, 2 the thermal sensors, 3 the telemetry capture, 4 the heartbeat), the
  number of the BLK_TIME period in which it last took place; 14 R456, 15 R472, R476, R477, R494; reset 0. -/
  polled : Tbl Nat
  /-- °C, T_plan; 15 R480; reset 0 (DESIGN CHOICE, log 3). -/
  tPlan : Nat
  /-- BLK_TIME at which the last plan ended; 15 R481, R494; reset 0 (DESIGN CHOICE, log 3). -/
  lastPlan : Nat
  /-- one further plan is due when the running one ends; 15 R481; reset 0. -/
  planAgain : Bool
  /-- one more than the HK cycle in which a trigger last started a plan; 15 R498; reset 0. -/
  planHk : Nat
  /-- by tile, one more than the HK cycle in which it was last asked off; 15 R498; reset 0. -/
  pdAt : Tbl Nat
  /-- the set-points of a plan wait for a commit to end; 15 R481; reset 0. -/
  planLate : Bool
  /-- mV by entry, the G_age that the set-points keep while `planLate`; 15 R481; reset 0. -/
  gAgeOld : Tbl Nat
  /-- ps by monitor 0 to 267, age[m]; 15 R480, R482; reset 0 (DESIGN CHOICE, log 3). -/
  age : Tbl Nat
  /-- mV by entry, G_age; 15 R480; reset 0 (DESIGN CHOICE, log 3). -/
  gAge : Tbl Nat
  /-- A, I_load; 15 R485; reset 0 (DESIGN CHOICE, log 3). -/
  iLoad : Nat
  /-- A, the largest I_load of the last millisecond; 15 R494; reset 0. -/
  iPeak : Nat
  /-- BLK_TIME since which I_load has been within the calibrated load; 15 R486; reset none. -/
  okSince : Option Nat
  /-- BLK_TIME of the last loss of validity whose burst has not run; 15 R487; reset none. -/
  lossAt : Option Nat
  /-- the running burst: its start and whether a plan asked for it; 15 R487; reset none. -/
  burst : Option (Nat × Bool)
  /-- a plan has asked for a burst at the current load; 15 R487; reset 0. -/
  planBurst : Bool
  /-- energy accumulated since cold reset in units of 100 nJ, one mW for 100 µs; 15 R494; reset 0. -/
  energy : Nat
  /-- s by entry, residency, 32 bits each; 15 R488; reset 0. -/
  opSecs : Tbl Nat
  /-- s by 10 °C band of T_die, residency, 32 bits each; 15 R488; reset 0. -/
  tempSecs : Tbl Nat
deriving DecidableEq, Repr

def NutSt.init : NutSt :=
  { offAt := [], capW := 2400, usable := 0, pdReject := false, planRunning := false, baselineOnly := true, exhausted := false,
    protect := false, staticGb := false, trip := false, warn := false, irqThread := 0, droopTrip := 25, warnT := 85,
    event := 0, pdReq := 0, pdState := 0, clvReq := 0, clvState := 0, dcal := [], target := [], mv := [], amps := [],
    avsFails := 0, avsHold := false, power := [], capLevel := 0, capSince := none, hot90 := false, die := [],
    spine := [], tDie := 0, coolSince := none, tierCoolSince := none, tierHot := false, marginLevel := 0,
    droopHold := [], droopEnd := [], polled := [], tPlan := 0, lastPlan := 0, planAgain := false, planHk := 0, pdAt := [], planLate := false, gAgeOld := [], age := [], gAge := [],
    iLoad := 0, iPeak := 0, okSince := none, lossAt := none, burst := none, planBurst := false,
    energy := 0, opSecs := [], tempSecs := [] }

/-- A record of Caraway before it is written: TYPE, whether it was held in always-on SRAM, its payload, BLK_TIME at
creation, and the times it has been deferred (R490, R492). -/
structure Rec where
  type : Nat
  fromAon : Bool
  payload : List Byte
  time : W64
  defers : Nat
deriving DecidableEq, Repr

/-- What the flash is doing: programming a record at a page, or erasing a block (R491, R493). -/
inductive FlashOp where
  | idle
  | program (page : Nat) (type : Nat) (image : List Byte) (held : Bool)
  | erase (block : Nat)
deriving DecidableEq, Repr

/-- A telemetry capture that an agent has latched (R495). -/
structure TelLatch where
  agent : Agent
  group : Nat
  bytes : List Byte
deriving DecidableEq, Repr

/-- Caraway (R488 to R497). -/
structure CarSt where
  /-- 16 bits, CAR_HOLDUP.MJ; 15 R497; reset 0. -/
  mj : Nat
  /-- BLK_TIME of the last write of CAR_HOLDUP, from which AGE_MS counts; 15 R497; reset none, AGE_MS 0xFFFF. -/
  holdupAt : Option Nat
  /-- 32 bits, CAR_REC_CFG.BASE; 15 R497; reset 0. -/
  recBase : Nat
  /-- 10 bits, CAR_REC_CFG.BLOCKS; 15 R497; reset 0. -/
  recBlocks : Nat
  /-- 1 bit, CAR_REC_CFG.EN; 15 R497; reset 0. -/
  recEn : Bool
  /-- 16 bits, CAR_REC_STATUS.LOST; 15 R497; reset 0. -/
  lost : Nat
  /-- 16 bits, CAR_REC_STATUS.DEFERRALS; 15 R497; reset 0. -/
  deferrals : Nat
  /-- 1 bit, CAR_REC_STATUS.AON_HELD; 15 R497; reset 0. -/
  aonHeld : Bool
  /-- records held in always-on SRAM, at most 16, oldest first; 15 R492; reset none at VAON power-up. -/
  held : List Rec
  /-- records waiting to be written, oldest first; 15 R492; reset none. -/
  recs : List Rec
  /-- what the flash is doing; 15 R491; reset idle. -/
  op : FlashOp
  /-- the newest valid records of the block about to be erased, which are copied forward; 15 R493; reset none. -/
  copies : List (List Byte)
  /-- the block at which the next page begins has been erased; 15 R493; reset 0. -/
  erased : Bool
  /-- a record write has been deferred since the last update of CAR_HOLDUP; 15 R492; reset 0. -/
  deferred : Bool
  /-- BLK_TIME at which the next AGEING record falls due; 15 R488; reset 30 days. -/
  ageDue : Nat
  /-- the next page of the record area; 15 R493; reset 0. -/
  page : Nat
  /-- 64 bits, the highest SEQ in the area; 15 R490; reset 0. -/
  seq : W64
  /-- 8 bits, CAR_BUDGET.TASK; 15 R497; reset 0. -/
  task : Nat
  /-- 16 bits, CAR_BUDGET.CLOVE_USED; 15 R497; reset 0. -/
  cloveUsed : Nat
  /-- CLOVE cycles of the current window in which a thread holds the task; 15 R489; reset 0. -/
  cloveCount : Nat
  /-- BLK_TIME at which the current window began; 15 R489; reset 0. -/
  winStart : Nat
  /-- tc.cycle at which the current window began; 15 R489; reset 0. -/
  winCycle : Nat
  /-- the latest complete capture of each telemetry group; 15 R494; reset zeros. -/
  tele : Tbl (List Byte)
  /-- the captures taken in this HK cycle, by group, complete when it ends; 15 R495; reset none. -/
  teleNow : Tbl (List Byte)
  /-- captures since cold reset; 15 R494; reset 0. -/
  teleSeq : Nat
  /-- whether the hold-up energy permitted a flash operation at the end of the previous HK cycle; 15 R491; reset 0. -/
  mayStart : Bool
  /-- captures latched by agents; 15 R495; reset none. -/
  latches : List TelLatch
deriving DecidableEq, Repr

def CarSt.init : CarSt :=
  { mj := 0, holdupAt := none, recBase := 0, recBlocks := 0, recEn := false, lost := 0, deferrals := 0,
    aonHeld := false, held := [], recs := [], op := .idle, copies := [], erased := false, deferred := false, ageDue := 518400000000000, page := 0, seq := 0,
    task := 0, cloveUsed := 0, cloveCount := 0, winStart := 0, winCycle := 0, tele := [], teleNow := [], teleSeq := 0,
    mayStart := false, latches := [] }
/-! ## Error unit (16). -/

/-- A log record (R510). -/
structure LogRec where
  time : W64
  det : BitVec 16
  unit : BitVec 16
  action : BitVec 8
  flags : BitVec 8
  count : BitVec 16
  addr : W64
  info : W64
deriving DecidableEq, Repr

abbrev LogRec.off : LogRec := ⟨0, 0, 0, 0, 0, 0, 0, 0⟩

/-- What the error unit has still to report of a raised detection: its record, whether ERROR becomes pending and for which
thread, and whether AER reports it (R509). -/
structure ErrReport where
  record : LogRec
  irq : Bool
  thread : Nat
  aer : Bool
deriving DecidableEq, Repr

/-- The snapshot of a counter group that an agent has latched (R515). -/
structure SnapLatch where
  agent : Agent
  group : Nat
  vals : Tbl W64
deriving DecidableEq, Repr

/-- The error unit. -/
structure ErrSt where
  /-- ERR_LOG, 128 records of 32 bytes in always-on SRAM; 16 R511; reset 0 at VAON power-up (DESIGN CHOICE, log 3). -/
  log : Tbl LogRec
  /-- 8 bits, ERR_LOG_PTR.WRITE; 16 R520; 0 at VAON power-up. -/
  write : BitVec 8
  /-- 8 bits, ERR_LOG_PTR.RD; 16 R520; 0 at VAON power-up. -/
  rd : BitVec 8
  /-- 16 bits, ERR_LOG_PTR.LOST; 16 R520; 0 at VAON power-up. -/
  lost : Nat
  /-- whether records were lost since the last one written (OVERFLOW); 16 R512; 0 at VAON power-up. -/
  overflow : Bool
  /-- ERR_CNT, 16 bits each by detector; 16 R520; reset 0. -/
  cnt : Tbl Nat
  /-- by detector, its detections of this HK cycle and the value of ERR_CNT before them; 00 R11, 16 R521; reset none. -/
  cntNow : Tbl (Nat × Nat)
  /-- the raised detections of this HK cycle by (DETECTOR, UNIT), which are reported as it ends; 16 R509; reset none. -/
  reports : List ErrReport
  /-- the policies in force in this HK cycle, where a re-shape has changed them in it; 16 R509, R521; reset none. -/
  policyOld : Option (Tbl (Option PolicyCfg))
  /-- threshold counts, 16 bits each at 256 × unit + detector; 16 R508; reset 0. -/
  thr : Tbl Nat
  /-- 128 bits, ERR_IRQ_PEND and ERR_IRQ_PEND_HI; 16 R520; reset 0. -/
  irq : BitVec 128
  /-- the thread for which a detector's ERROR is pending, by detector; 16 R509; reset 0. -/
  irqThread : Tbl Nat
  /-- 16 bits, ERR_PART_HELD; 16 R520; reset 0. -/
  partHeld : BitVec 16
  /-- ERR_WDT_CFG.PERIOD_US, 32 bits each by Clove core; 16 R520; reset 0. -/
  wdtPeriod : Tbl Nat
  /-- BLK_TIME at which the watchdog of a Clove core expires; 16 R517; reset 0. -/
  wdtDue : Tbl Nat
  /-- 8 bits, the watchdogs that have expired in this HK cycle; 16 R517, R521; reset 0. -/
  wdtOut : BitVec 8
  /-- 16 bits, ERR_INJ_CTRL.UNIT; 16 R520; reset 0. -/
  injUnit : BitVec 16
  /-- 2 bits, ERR_INJ_CTRL.MODE; 16 R520; reset 0. -/
  injMode : Nat
  /-- 16 bits, ERR_INJ_CTRL.DETECTOR; 16 R520; reset 0. -/
  injDet : BitVec 16
  /-- 64 bits, ERR_INJ_ADDR: ADDR [51:7] and MATCH_EN; 16 R520; reset 0. -/
  injAddr : W64
  /-- 32 bits, ERR_INJ_STATUS.FIRED; 16 R520; reset 0. -/
  injFired : Nat
  /-- 4 bits, ERR_INJ_STATUS.RESULT; 16 R520; reset 0. -/
  injResult : Nat
  /-- 1 bit, ERR_INJ_STATUS.ARMED; 16 R520; reset 0. -/
  injArmed : Bool
  /-- whether the unlock has ended in this HK cycle under an armed injection; 16 R519, R521; reset 0. -/
  injEnd : Bool
  /-- by 8 × unit + counter, the events that a PMC has counted in this HK cycle; 16 R514; reset 0. -/
  pmcNow : Tbl Nat
  /-- PMC: OVF in bit 63 and COUNT [47:0], at 8 × unit + counter; 16 R514; reset 0. -/
  pmc : Tbl W64
  /-- ERR_SNAP_SEQ, 64 bits each by group; 16 R520; reset 0. -/
  snapSeq : Tbl W64
  /-- the latest complete capture of each group, by counter; 16 R515; reset empty. -/
  snap : Tbl (Tbl W64)
  /-- 16 bits, groups that ERR_SNAP_CMD has asked for, captured in the next HK cycle; 16 R515; reset 0. -/
  snapDue : BitVec 16
  /-- the captures taken in this HK cycle, by group, complete when it ends; 16 R515; reset none. -/
  snapNow : List (Nat × Tbl W64)
  /-- captures latched by agents; 16 R515; reset none. -/
  latches : List SnapLatch
  /-- detections made within the running command that the error unit has still to handle; the model's own field,
  empty between commands; reset empty. -/
  queue : List Detection
  /-- whether the detection being handled was injected; the model's own field; reset false. -/
  injected : Bool
  /-- injected faults that no record has reported: the detector, and the unit or, for poison, the line; 16 R519; reset none. -/
  injPend : List (Nat × Nat)
deriving DecidableEq, Repr


def ErrSt.init : ErrSt :=
  { log := [], write := 0, rd := 0, lost := 0, overflow := false, cnt := [], cntNow := [], reports := [], policyOld := none, thr := [], irq := 0, irqThread := [],
    partHeld := 0, wdtPeriod := [], wdtDue := [], wdtOut := 0, injUnit := 0, injMode := 0, injDet := 0, injAddr := 0, injFired := 0,
    injResult := 0, injArmed := false, injEnd := false, pmcNow := [], pmc := [], snapSeq := [], snap := [], snapDue := 0, snapNow := [], latches := [], queue := [],
    injected := false, injPend := [] }
/-! ## Boot, security and fuses (17), pins (18). -/

/-- A key slot of the fuses (R536). -/
structure KeySlot where
  digest : BitVec 384
  cls : Nat
  revoked : Bool
deriving DecidableEq, Repr

abbrev KeySlot.off : KeySlot := ⟨0, 0, false⟩

/-- A floor record of 72 bits: a value and a CRC-8 (R537). -/
structure FloorRec where
  value : W64
  crc : Byte
deriving DecidableEq, Repr

/-- The fuses. -/
structure FuseSt where
  /-- the 16 key slots; 17 R536; reset EMPTY (DESIGN CHOICE, log 8). -/
  keys : Tbl KeySlot
  /-- used records of SEC_FW_FLOOR, at most 16, oldest first; 17 R537; reset none. -/
  fwRecs : List FloorRec
  /-- used records of SEC_SHAPE_FLOOR; 17 R537; reset none. -/
  shapeRecs : List FloorRec
  /-- 64 bits, BLK_SERIAL; 19 R581; reset 0 (DESIGN CHOICE, log 8). -/
  serial : W64
  /-- the fuse secret and the key of the PUF; 17 R539; reset empty (DESIGN CHOICE, log 8). -/
  secret : List Byte
  pufKey : List Byte
  /-- mV by rail, FUSE_GB; 15 R471; reset 0 (DESIGN CHOICE, log 8). -/
  gb : Tbl Nat
  /-- FUSE_SENS by entry in 1/1,000 mV per ps; 15 R480; reset 0 (DESIGN CHOICE, log 8). -/
  sens : Tbl Nat
  /-- FUSE_TDRIFT by entry in 1/1,000 mV per °C; 15 R480; reset 0 (DESIGN CHOICE, log 8). -/
  tdrift : Tbl Nat
  /-- ps by monitor, the fused baseline; 15 R482; reset 0 (DESIGN CHOICE, log 8). -/
  baseline : Tbl Nat
deriving DecidableEq, Repr

/-- BLK_STATE.STATE (R548). -/
inductive BlkState where
  | reset | rom | memory | ready | recovery | failed | romFail
deriving DecidableEq, Repr

/-- The boot sequencer (R524 to R534, R548). -/
structure BootSt where
  /-- 3 bits, BLK_STATE.STATE; 17 R548; reset 0 RESET. -/
  st : BlkState
  /-- 8 bits, BLK_STATE.BOOT_COUNT; 17 R548; 0 at VAON power-up. -/
  count : Nat
  /-- 8 bits, BLK_STATE.FAIL_CODE; 17 R548; reset 0. -/
  failCode : Nat
  /-- 4 bits, BLK_STATE.FAIL_STAGE; 17 R548; reset 0. -/
  failStage : Nat
  /-- 3 bits, BLK_STATE.READY_RESULT; 17 R548; reset 0. -/
  readyResult : Nat
  /-- 3 bits, the code of READY on the state at the start of the HK cycle; 17 R527; reset 1, for STATE. -/
  readyCond : Nat
  /-- 1 bit each, BLK_STATE.SHAPE_COPY, FW_COPY, DIR_COPY; 17 R548; reset 0. -/
  shapeCopy : Bool
  fwCopy : Bool
  dirCopy : Bool
  /-- step 1 of the sequence has ended: fuses sensed and PUF read; 17 R524; reset 0. -/
  released : Bool
  /-- whether the PUF reconstruction succeeded; 17 R533; reset 0. -/
  pufOk : Bool
  /-- the boot directory has been read and CAR_REC_CFG written (stage a); 17 R525; reset 0. -/
  dirRead : Bool
  /-- the record scan has completed; 17 R525, R527; reset 0. -/
  scanDone : Bool
  /-- the boot plan has completed; 17 R525, R527; reset 0. -/
  planDone : Bool
  /-- 64 bits, the firmware SVN, fw_svn; 17 R531; reset 0 (DESIGN CHOICE, log 3). -/
  fwSvn : W64
  /-- the shape-signing keys of the key table of the bundle that passed; 17 R530; reset none. -/
  keytab : List (List Byte)
  /-- 1 bit, ZERO_ON_BOOT of the Clove image; 17 R530; reset 0. -/
  zeroOnBoot : Bool
  /-- PWRGOOD and RESET_N are high; 18 R552; reset 1. -/
  pwrgood : Bool
  resetN : Bool
  /-- HALT_BLOCK is in force; 16 R503; reset 0. -/
  halted : Bool
deriving DecidableEq, Repr

def BootSt.init : BootSt :=
  { st := .reset, count := 0, failCode := 0, failStage := 0, readyResult := 0, readyCond := 1, shapeCopy := false, fwCopy := false,
    dirCopy := false, released := false, pufOk := false, dirRead := false, scanDone := false, planDone := false,
    fwSvn := 0, keytab := [], zeroOnBoot := false, pwrgood := true, resetN := true, halted := false }

/-- A fuse command that runs (R538). -/
inductive FuseOp where
  | none | fwFloor (v : W64) | shapeFloor (v : W64) | revoke (k : Nat)
deriving DecidableEq, Repr

/-- The security unit (R535 to R548). -/
structure SecSt where
  /-- 384 bits each, SEC_MEAS slots 0 to 4; 17 R535, R548; reset 0. -/
  meas : Tbl (BitVec 384)
  /-- 64 bits, SEC_FUSE_ARG; 17 R548; reset 0. -/
  fuseArg : W64
  /-- the fuse command that runs, BUSY; 17 R538; reset none. -/
  fuseOp : FuseOp
  /-- 4 bits, SEC_FUSE_STATUS.RESULT; 17 R548; reset 0. -/
  fuseResult : Nat
  /-- whether the shape floor was the floor last named, which RECORDS_LEFT shows; 17 R548; reset 0 (DESIGN CHOICE, log
  3). -/
  shapeLast : Bool
  /-- 256 bits, SEC_DBG_NONCE; 17 R548; reset 0. -/
  nonce : BitVec 256
  /-- 64 bits, SEC_DBG_EXPIRY; 17 R548; reset 0. -/
  expiry : W64
  /-- the bytes written to SEC_DBG_TOKEN, by offset; 17 R548; reset 0. -/
  token : Tbl Byte
  /-- 1 bit, SEC_DBG_STATUS.BUSY; 17 R548; reset 0. -/
  dbgBusy : Bool
  /-- LOCK was written while a check runs, so that it ends what the check grants; 17 R549; reset false. -/
  dbgLock : Bool
  /-- 4 bits, SEC_DBG_STATUS.RESULT; 17 R548; reset 0. -/
  dbgResult : Nat
  /-- 2 bits, SEC_DBG_STATUS.LEVEL; 17 R548; reset 0. -/
  level : Nat
  /-- 1 bit, SEC_DBG_STATUS.KEY_ERASED; 17 R548; reset 0. -/
  keyErased : Bool
  /-- 64 bits each, SEC_SIGN_DIGEST words 0 to 5; 17 R548; reset 0. -/
  signDigest : Tbl W64
  /-- 64 bits each, SEC_SIGN_SIG words 0 to 11; 17 R548; reset 0. -/
  signSig : Tbl W64
  /-- the digest being signed; the model's own field; reset none. -/
  signBuf : List Byte
  /-- 1 bit, SEC_SIGN_STATUS.BUSY; 17 R548; reset 0. -/
  signBusy : Bool
  /-- whether the signature was asked for in this HK cycle; 17 R549; reset 0. -/
  signNew : Bool
  /-- 4 bits, SEC_SIGN_STATUS.RESULT; 17 R548; reset 0. -/
  signResult : Nat
  /-- alias_sk in the key store; 17 R539; reset none, erased. -/
  aliasKey : Option (List Byte)
  /-- whether the key store is locked; 17 R539; reset 0. -/
  locked : Bool
  /-- first 16 bytes of SHA-384 of the DeviceID public key; 17 R545; reset 0. -/
  devId : BitVec 128
deriving DecidableEq, Repr

def SecSt.init : SecSt :=
  { meas := [], fuseArg := 0, fuseOp := .none, fuseResult := 0, shapeLast := false, nonce := 0, expiry := 0,
    token := [], dbgBusy := false, dbgLock := false, dbgResult := 0, level := 0, keyErased := false, signDigest := [], signSig := [], signBuf := [], signBusy := false, signNew := false,
    signResult := 0, aliasKey := Option.none, locked := false, devId := 0 }

/-- The states of the IEEE 1149.1 TAP controller (R567). -/
inductive TapState where
  | testLogicReset | runTestIdle | selectDr | captureDr | shiftDr | exit1Dr | pauseDr | exit2Dr | updateDr
  | selectIr | captureIr | shiftIr | exit1Ir | pauseIr | exit2Ir | updateIr
deriving DecidableEq, Repr

/-- The pins and the interfaces behind them (18). -/
structure PinSt where
  /-- 1 bit, BLK_PIN_STATUS.HOLDUP_EVENT; 18 R572; reset 0. -/
  holdupEvent : Bool
  /-- 1 bit, BLK_PIN_STATUS.HOLDUP_LOW; 18 R572; reset 0. -/
  holdupLow : Bool
  /-- 1 bit, BLK_PIN_STATUS.THERM_CRIT_OUT; 18 R572; reset 0. -/
  critOut : Bool
  /-- 1 bit, BLK_PIN_STATUS.THERM_ALERT_OUT; 18 R572; reset 0. -/
  alertOut : Bool
  /-- 1 bit, BLK_PIN_STATUS.REFCLK_OK; 18 R572; reset 1. -/
  refclkOk : Bool
  /-- the answer of the I3C target to the next private read, nine bytes; 18 R562; reset empty. -/
  i3cOut : List Byte
  /-- MCTP packets handed to firmware, oldest first; 18 R562; reset none. -/
  mctp : List (List Byte)
  /-- in-band interrupts sent with mandatory bytes 0x01 and 0x02; 18 R562; reset 0. -/
  ibiDoorbell : Nat
  ibiState : Nat
  /-- the board's doorbell was pending when last looked at; 18 R562, 13 R431; reset 0. -/
  boardDbSeen : Bool
  /-- the state of the TAP; 18 R567; reset Test-Logic-Reset. -/
  tap : TapState
  /-- the TAP's instruction register in force and its shift register; 18 R567; reset IDCODE (log 9). -/
  tapIr : BitVec 4
  tapIrShift : BitVec 4
  /-- the data register being shifted: its bits, least significant first; 18 R567; reset empty. -/
  tapDr : List Bool
  /-- 1 bit, TDO; none while it is in high impedance; 18 R550, R567; reset none. -/
  tdo : Option Bool
deriving DecidableEq, Repr

def PinSt.init : PinSt :=
  { holdupEvent := false, holdupLow := false, critOut := false, alertOut := false, refclkOk := true, i3cOut := [],
    mctp := [], ibiDoorbell := 0, ibiState := 0, boardDbSeen := false, tap := .testLogicReset, tapIr := 1,
    tapIrShift := 0, tapDr := [], tdo := Option.none }

/-! ## The block. -/

/-- The state of the block. -/
structure State where
  /-- the commands that wait, first in, first out; the model's own queue; reset empty. -/
  pending : List Instr
  /-- the answer of the last command that answers anything; the model's own observation; reset OKAY and zeros. -/
  answer : Answer
  /-- free values drawn so far; the model's own counter (log 1); reset 0. -/
  free : Nat
  /-- the shape-image loader and the settings in force; 02. -/
  shape : ShapeSt
  /-- the mode commit; 02 R70. -/
  commit : CommitSt
  /-- the timebase; 01 R25. -/
  time : TimeSt
  /-- the 256 worker cores; 03. -/
  wrk : Tbl Wrk
  /-- the 64 barriers; 09 R296. -/
  bars : Tbl Barrier
  /-- the multicast groups; 09 R290. -/
  mcast : Tbl McGroup
  /-- the eight system DMA engines; 09 R266. -/
  dma : Tbl Channel
  /-- the tree tables, by 1,024 × partition + entry; 07 R225. -/
  trees : Tbl TreeEnt
  /-- the firmware register set of the tree tables; 07 R231. -/
  ttRegs : TtRegs
  /-- the tree-table operations that take effect at the end of this HK cycle; 07 R228; reset empty. -/
  ttOps : List TtOp
  /-- the four Saffron units; 08. -/
  saf : Tbl Saffron
  /-- the 64 traversal units; 08. -/
  tu : Tbl TravUnit
  /-- traversal units taken out of service by ISOLATE; 16 R501; reset 0. -/
  tuLost : BitVec 64
  /-- the memories; 10, 11. -/
  mem : MemSt
  /-- the L1 data caches of the worker cores; 10 R318. -/
  l1 : Tbl Cache
  /-- the instruction caches of the worker cores; 10 R318. -/
  icache : Tbl Cache
  /-- the L2 slices with their directories; 10 R318, R335. -/
  l2 : Tbl Slice
  /-- the node caches of the traversal units; 10 R318. -/
  node : Tbl Cache
  /-- the Clove caches; 10 R318. -/
  clvCache : Tbl Cache
  /-- the vault controllers; 11. -/
  vlt : Tbl Vlt
  /-- the 64 Clove threads; 12. -/
  thr : Tbl Thr
  /-- the task scheduler; 12. -/
  sched : SchedSt
  /-- the two host ports; 13. -/
  host : Tbl HostPort
  /-- the 64 mailbox channels; 13 R430. -/
  mbx : Tbl Mbx
  /-- 32 bits each, MBX_DB_MASK by agent code; 13 R431; reset 0xFFFF_FFFF. -/
  dbMask : Tbl (BitVec 32)
  /-- the 32 link ports; 14. -/
  link : Tbl LinkPort
  /-- the block group; 14. -/
  grp : GroupSt
  /-- the clock generator; 15. -/
  clk : ClkSt
  /-- Nutmeg; 15. -/
  nut : NutSt
  /-- Caraway; 15. -/
  car : CarSt
  /-- the error unit; 16. -/
  err : ErrSt
  /-- the boot sequencer; 17. -/
  boot : BootSt
  /-- the security unit; 17. -/
  sec : SecSt
  /-- the fuses; 17 R536. -/
  fuse : FuseSt
  /-- the pins; 18. -/
  pins : PinSt
deriving DecidableEq, Repr

/-- The machine right after power-up and cold reset, before the first step of the boot sequence (R522, R524). -/
def State.reset : State :=
  { pending := [], answer := ⟨.okay, 0, 0, false⟩, free := 0,
    shape := { cfg := ShapeCfg.none, srcAddr := 0, srcLen := 0, result := 0, sections := 0, st := .idle, bootSeq := 0,
               reshapeSeq := 0, staged := none },
    commit := { epoch := 0, epochTime := 0, failUnit := 0xFFFF, parts := [], acked := [], withheld := [], result := 0,
                busyReject := false, stageReject := false, active := false, deadline := 0, image := none,
                withOp := false },
    time := { blk := 0, rem := 0, core := 0, ran := [], hk := 0, coldAt := 0 },
    wrk := [], bars := [], mcast := [], dma := [], trees := [],
    ttRegs := { part := 0, entry := 0, nextRoot := 0, nextXs := 0, result := 0, cmdReject := false, busy := false,
                copy := [] },
    ttOps := [], saf := [], tu := [], tuLost := 0,
    mem := { dram := [], poison := [], rawErr := [], tile := [], tilePoison := [], tileErr := [], host := [], hostPoison := [], sram := [], tcm := [],
             clvPoison := [], flash := [] },
    l1 := [], icache := [], l2 := [], node := [], clvCache := [], vlt := [], thr := [],
    sched := { tasks := [], ready := [], waiters := [], delays := [], timeouts := [], timerSeq := 0, flows := [],
               tick := 0, tickAt := 0, due := false, evmask := 0xFFFF, aniseBase := 0, aniseStop := false, aniseEn := false, aniseLost := 0,
               aniseWrite := 0, aniseRd := 0, ipi := 0 },
    host := [], mbx := [], dbMask := [], link := [], grp := GroupSt.init,
    clk := { cur := 0, mult := 64, switches := 0, standby := .stopped, stgIndex := 0, stgPend := false,
             relock := false, rootLocked := false },
    nut := NutSt.init, car := CarSt.init, err := ErrSt.init, boot := BootSt.init, sec := SecSt.init,
    fuse := { keys := [], fwRecs := [], shapeRecs := [], serial := 0, secret := [], pufKey := [], gb := [], sens := [],
              tdrift := [], baseline := [] },
    pins := PinSt.init }

end Sys2Proof.Machine
end

