-- ==== Sys2Proof/Machine/Ops.lean ====
section
/-! DEFINITION. The named operations over the parts of State: reading and changing a numbered unit, raising a
detection, drawing a free value, and the address map with its attributes (R10 to R19, R308 to R319). -/

namespace Sys2Proof.Machine

/-- What every meaning answers. -/
abbrev Out := Host.Outcome State Fault Refusal

/-! ## Numbered units. -/

abbrev State.core (s : State) (n : Nat) : Wrk := Tbl.get Wrk.off s.wrk n
def State.updCore (s : State) (n : Nat) (f : Wrk → Wrk) : State := { s with wrk := Tbl.upd Wrk.off s.wrk n f }
abbrev State.bar (s : State) (b : Nat) : Barrier := Tbl.get Barrier.off s.bars b
def State.updBar (s : State) (b : Nat) (f : Barrier → Barrier) : State :=
  { s with bars := Tbl.upd Barrier.off s.bars b f }
abbrev State.group (s : State) (g : Nat) : McGroup := Tbl.get McGroup.off s.mcast g
def State.updGroup (s : State) (g : Nat) (f : McGroup → McGroup) : State :=
  { s with mcast := Tbl.upd McGroup.off s.mcast g f }
abbrev State.tree (s : State) (p x : Nat) : TreeEnt := Tbl.get TreeEnt.off s.trees (1024 * p + x)
def State.updTree (s : State) (p x : Nat) (f : TreeEnt → TreeEnt) : State :=
  { s with trees := Tbl.upd TreeEnt.off s.trees (1024 * p + x) f }
abbrev State.saffron (s : State) (q : Nat) : Saffron := Tbl.get Saffron.off s.saf q
def State.updSaf (s : State) (q : Nat) (f : Saffron → Saffron) : State := { s with saf := Tbl.upd Saffron.off s.saf q f }
abbrev State.trav (s : State) (m : Nat) : TravUnit := Tbl.get TravUnit.off s.tu m
def State.updTu (s : State) (m : Nat) (f : TravUnit → TravUnit) : State := { s with tu := Tbl.upd TravUnit.off s.tu m f }
abbrev State.slice (s : State) (n : Nat) : Slice := Tbl.get Slice.off s.l2 n
def State.updSlice (s : State) (n : Nat) (f : Slice → Slice) : State := { s with l2 := Tbl.upd Slice.off s.l2 n f }
abbrev State.vault (s : State) (v : Nat) : Vlt := Tbl.get Vlt.off s.vlt v
def State.updVault (s : State) (v : Nat) (f : Vlt → Vlt) : State := { s with vlt := Tbl.upd Vlt.off s.vlt v f }
abbrev State.thread (s : State) (h : Nat) : Thr := Tbl.get Thr.off s.thr h
def State.updThr (s : State) (h : Nat) (f : Thr → Thr) : State := { s with thr := Tbl.upd Thr.off s.thr h f }
abbrev State.hostPort (s : State) (h : Nat) : HostPort := Tbl.get HostPort.off s.host h
def State.updHost (s : State) (h : Nat) (f : HostPort → HostPort) : State :=
  { s with host := Tbl.upd HostPort.off s.host h f }
abbrev State.mbxAt (s : State) (c : Nat) : Mbx := Tbl.get Mbx.off s.mbx c
def State.updMbx (s : State) (c : Nat) (f : Mbx → Mbx) : State := { s with mbx := Tbl.upd Mbx.off s.mbx c f }
abbrev State.port (s : State) (p : Nat) : LinkPort := Tbl.get LinkPort.off s.link p
def State.updPort (s : State) (p : Nat) (f : LinkPort → LinkPort) : State :=
  { s with link := Tbl.upd LinkPort.off s.link p f }

/-- Change the task scheduler. -/
def State.updSched (s : State) (f : SchedSt → SchedSt) : State := { s with sched := f s.sched }
def State.updErr (s : State) (f : ErrSt → ErrSt) : State := { s with err := f s.err }
def State.updNut (s : State) (f : NutSt → NutSt) : State := { s with nut := f s.nut }
def State.updCar (s : State) (f : CarSt → CarSt) : State := { s with car := f s.car }
def State.updGrp (s : State) (f : GroupSt → GroupSt) : State := { s with grp := f s.grp }
def State.updMem (s : State) (f : MemSt → MemSt) : State := { s with mem := f s.mem }

/-- The settings in force. -/
abbrev State.cfg (s : State) : ShapeCfg := s.shape.cfg

/-- BLK_TIME as a number (R25). -/
abbrev State.now (s : State) : Nat := s.time.blk.toNat

/-- Record the answer of a command. -/
def State.reply (s : State) (code : BusResp) (data : W64) : State := { s with answer := ⟨code, data, 0, false⟩ }

/-- Record a line as the answer of a memory read (R341). -/
def State.replyLine (s : State) (code : BusResp) (line : Line128) (poison : Bool) : State :=
  { s with answer := ⟨code, 0, line, poison⟩ }

/-! ## Free values (log 1). -/

/-- Draw a free value. -/
def State.draw (s : State) : W64 × State := (Config.freeValue s.free, { s with free := s.free + 1 })

/-- Draw `n` free bytes. -/
def State.drawBytes (s : State) : Nat → List Byte × State
  | 0 => ([], s)
  | n + 1 =>
    let r := State.drawBytes { s with free := s.free + 1 } n
    ((Config.freeValue s.free).setWidth 8 :: r.1, r.2)

/-- Draw a free choice below `n`. -/
def State.choose (s : State) (n : Nat) : Nat × State :=
  (Config.freeChoice s.free n % n, { s with free := s.free + 1 })

/-! ## Detections (R508). The error unit handles them when the command's own effects are made. -/

/-- A detection without flags of its own. -/
def mkDet (det unit addr info : Nat) : Detection :=
  ⟨BitVec.ofNat 16 det, BitVec.ofNat 16 unit, BitVec.ofNat 64 addr, BitVec.ofNat 64 info, false, false, false⟩

/-- Hand a detection to the error unit. -/
def State.raiseDet (s : State) (d : Detection) : State := s.updErr fun e => { e with queue := e.queue ++ [d] }

/-- Raise detector `det` of `unit`. -/
def State.raise (s : State) (det unit addr info : Nat) : State := s.raiseDet (mkDet det unit addr info)

/-! ## Partitions, segments and regions (R45, R47, R314, R315). -/

/-- The partition of a worker core, none when no enabled partition holds it. -/
def State.partOf (s : State) (n : Nat) : Option Nat := cfgCorePart s.cfg n

/-- Whether a byte lies in a segment of partition `p`, and in a writable one (R314). -/
def segHas (c : ShapeCfg) (p a : Nat) (write : Bool) : Bool :=
  (List.range 16).any fun i =>
    let w := Tbl.get SpanWord.off (c.partOf p).seg i
    w.valid && decide (w.lo ≤ a) && decide (a ≤ w.hi) && (!write || w.writable)

/-- Whether every byte of a range lies in a segment of `p` (R314). A range is checked at its bytes' 4 KiB pages,
since segments start and end at page edges (R45). -/
def segRange (c : ShapeCfg) (p a len : Nat) (write : Bool) : Bool :=
  len == 0 || (segHas c p a write && segHas c p (a + len - 1) write
    && (List.range ((a + len - 1) / 4096 - a / 4096)).all fun i => segHas c p ((a / 4096 + 1 + i) * 4096) write)

/-- The attributes of an address (R315). -/
structure Attr where
  wpol : Nat
  exec : Bool
  share : Bool
  lock : Bool
  stream : Bool
deriving DecidableEq, Repr

/-- The region an address lies in and its attributes (R315). -/
def attrOf (c : ShapeCfg) (a : Nat) : Attr :=
  match (List.range 64).find? fun r =>
      let w := c.regionOf r
      w.valid && decide (w.lo ≤ a) && decide (a ≤ w.hi) with
  | some r => let w := c.regionOf r
              ⟨w.wpol, w.exec, w.share, w.lock, w.stream⟩
  | none => ⟨0, false, true, false, false⟩

/-! ## The address map (R308 to R313). -/

/-- Where an address leads. -/
inductive Space where
  | stacked
  | tile (n : Nat)
  | peer (b : Nat)
  | host (h : Nat)
  | window
  | none
deriving DecidableEq, Repr

/-- The row of the address map (R308). -/
def spaceOf (a : Nat) : Space :=
  if a < 0x60_0000_0000 then .stacked
  else if 0x800_0000_0000 ≤ a ∧ a < 0x800_4000_0000 then .tile ((a - 0x800_0000_0000) / 0x40_0000)
  else if 0x1000_0000_0000 ≤ a ∧ a < 0x3000_0000_0000 then .peer ((a - 0x1000_0000_0000) / 0x80_0000_0000)
  else if 0x8000_0000_0000 ≤ a ∧ a < 0xA000_0000_0000 then .host 0
  else if 0xA000_0000_0000 ≤ a ∧ a < 0xC000_0000_0000 then .host 1
  else if 0xF000_0000_0000 ≤ a ∧ a < 0xF000_1000_0000 then .window
  else .none

/-- Memory in the sense of R267: stacked memory, tile memory, the peer windows and host memory (R308). -/
def isMemory (a : Nat) : Bool :=
  match spaceOf a with
  | .window | .none => false
  | _ => true

/-- The vault and vault offset of a stacked-memory address (R356). -/
def vaultMap (c : ShapeCfg) (a : Nat) : Nat × Nat :=
  if c.blockStripe = 1 then
    let p := a / 4096
    (p % 256, p / 256 * 4096 + a % 4096)
  else
    let q := a / 0x18_0000_0000
    if c.qmode.getD q 0 = 0 then (a / 0x6000_0000, a % 0x6000_0000)
    else
      let o := a - q * 0x18_0000_0000
      let p := o / 4096
      (64 * q + p % 64, p / 64 * 4096 + o % 4096)

/-- The stacked-memory address of a vault offset, the inverse of `vaultMap` (R356). -/
def vaultAddr (c : ShapeCfg) (v o : Nat) : Nat :=
  if c.blockStripe = 1 then (o / 4096 * 256 + v) * 4096 + o % 4096
  else
    let q := v / 64
    if c.qmode.getD q 0 = 0 then v * 0x6000_0000 + o
    else q * 0x18_0000_0000 + (o / 4096 * 64 + v % 64) * 4096 + o % 4096

/-- Device byte address: the vault's bytes one after another. -/
def devAddr (c : ShapeCfg) (a : Nat) : Nat := (vaultMap c a).1 * 0x6000_0000 + (vaultMap c a).2

/-- The home slice of the line with number `l` (R309, R319). -/
def homeOf (c : ShapeCfg) (l : Nat) : Nat :=
  let a := 128 * l
  if a < stackedBytes then (vaultMap c a).1 else field a 14 7 ^^^ field a 22 15

/-- The L2 set of the line (R319). -/
def l2Set (c : ShapeCfg) (l : Nat) : Nat :=
  let a := 128 * l
  if a < stackedBytes then field (vaultMap c a).2 15 7 else field a 23 15

/-- Whether the tile of core `n` is off (R473). -/
def State.tileOff (s : State) (n : Nat) : Bool := s.nut.pdState.getLsbD n

/-- Whether Clove core `c` is off (R473). -/
def State.clvOff (s : State) (c : Nat) : Bool := s.nut.clvState.getLsbD c

/-- The tile that holds TUm (R18). -/
def tuTile (m : Nat) : Nat := 64 * (m / 16) + 16 * (m % 16 / 4) + 2 * (m % 4)

/-- The traversal unit of tile Tn, where it has one (R18). -/
def tileTu (n : Nat) : Option Nat :=
  let i := n % 64
  if i % 2 = 0 ∧ i / 8 % 2 = 0 then some (16 * (n / 64) + 4 * (i / 16) + i % 8 / 2) else none

/-- Whether host port `h` is enabled (R55). -/
def State.hostEnabled (s : State) (h : Nat) : Bool := (s.cfg.hostOf h).enable == 1

/-- CXL_CACHE of a host port (R55). -/
def State.cxlCache (s : State) (h : Nat) : Bool := bitOf (s.cfg.hostOf h).flags 0

/-- The link of a host port is up (R435). -/
def State.hostUp (s : State) (h : Nat) : Bool := s.hostEnabled h && (s.hostPort h).width != 0 && !(s.hostPort h).isolated

/-- Whether host port `h` carries CXL.cache and CXL.mem traffic: the link is up, the block is READY (R526), IDE is
established where it is required (R413), and the block is not halted (R503). -/
def State.cxlOpen (s : State) (h : Nat) : Bool :=
  s.hostUp h && s.boot.st == .ready && (!(bitOf (s.cfg.hostOf h).flags 2) || (s.hostPort h).ideUp)

/-- Whether a cache may hold a line of this address (R310, R312, R316). -/
def State.cacheable (s : State) (a : Nat) : Bool :=
  match spaceOf a with
  | .stacked => (attrOf s.cfg a).wpol != 3
  | .host h => s.cxlCache h && (attrOf s.cfg a).wpol != 3
  | _ => false

/-- Whether a line is held privately (R337): SHARE = 0 in stacked memory. -/
def State.isPrivate (s : State) (l : Nat) : Bool :=
  spaceOf (128 * l) == .stacked && !(attrOf s.cfg (128 * l)).share

/-! ## Lines as bytes. -/

/-- The bits of the bytes that a mask names. -/
def expandMask (m : BitVec 128) : Line128 :=
  BitVec.ofNat 1024 (bytesToNat ((List.range 128).map fun i => if m.getLsbD i then 0xFF else 0))

/-- Write the bytes that `m` names over a line. -/
def mergeLine (old : Line128) (m : BitVec 128) (new : Line128) : Line128 :=
  (old &&& ~~~ (expandMask m)) ||| (new &&& expandMask m)

/-- The mask of `n` bytes from offset `o`. -/
def byteMask (o n : Nat) : BitVec 128 := BitVec.ofNat 128 ((2 ^ n - 1) <<< o)

/-- The bytes of a line. -/
def lineBytes (d : Line128) : List Byte := natToBytes d.toNat 128

/-- A line from its bytes. -/
def lineOf (b : List Byte) : Line128 := BitVec.ofNat 1024 (bytesToNat b)

/-- `n` bytes of a line from offset `o`. -/
def lineSlice (d : Line128) (o n : Nat) : List Byte := (lineBytes d).drop o |>.take n

/-- Spread bytes over the lines they touch: line number, mask and data for each (R28). -/
def splitLines (a : Nat) (bs : List Byte) : List (Nat × BitVec 128 × Line128) :=
  if bs.isEmpty then [] else
  (List.range ((a + bs.length - 1) / 128 - a / 128 + 1)).map fun i =>
    let l := a / 128 + i
    let lo := if i = 0 then a % 128 else 0
    let part := if i = 0 then bs.take (128 - a % 128) else (bs.drop (128 * i - a % 128)).take 128
    (l, byteMask lo part.length, BitVec.ofNat 1024 (bytesToNat part <<< (8 * lo)))

/-! ## Performance counters (R513, R514). -/

/-- Add to a counter: past 2^48 − 1 it wraps, sets OVF and, with IRQ_ON_WRAP, raises detector 0x40. -/
def State.addPmc (s : State) (u i k : Nat) : State :=
  let v := (Tbl.get 0 s.err.pmc (8 * u + i)).toNat
  let c := s.cfg.counterOf u i
  if 2 ^ 48 ≤ v % 2 ^ 48 + k then
    let s1 := s.updErr fun e =>
      { e with pmc := Tbl.set 0 e.pmc (8 * u + i) (BitVec.ofNat 64 (2 ^ 63 + (v % 2 ^ 48 + k) % 2 ^ 48)),
               pmcNow := Tbl.upd 0 e.pmcNow (8 * u + i) (· + k) }
    if bitOf c.flags 0 then s1.raise 0x40 u 0 i else s1
  else s.updErr fun e =>
    { e with pmc := Tbl.set 0 e.pmc (8 * u + i) (BitVec.ofNat 64 (v + k)), pmcNow := Tbl.upd 0 e.pmcNow (8 * u + i) (· + k) }

/-- Count `k` events of a unit on every counter that section 0x0E gives it (R58, R514). -/
def State.countBy (s : State) (u ev k : Nat) : State :=
  if s.cfg.counters.isEmpty || k == 0 then s else
  (List.range 8).foldl (fun t i =>
    let c := s.cfg.counterOf u i
    if c.used && c.event == ev then t.addPmc u i k else t) s

/-- Count an event of a unit. -/
def State.count (s : State) (u ev : Nat) : State := s.countBy u ev 1

/-! ## Memory behind the caches. -/

/-- The poison markers of a stacked line by its device line: those of the slices that are not erased (R360, R362). -/
def State.marked (s : State) (dev : Nat) : Bool :=
  let sl := Tbl.get 0xF (Tbl.get Vlt.off s.vlt (dev / 12582912)).erase (dev % 12582912 % 8)
  Tbl.get 0 s.mem.poison dev &&& ~~~(BitVec.ofNat 9 (2 ^ sl)) != 0

/-- A line as its target stores it, with its poison: stacked memory before its codes are applied, or host memory (R308,
R341). -/
def State.rawLine (s : State) (l : Nat) : Line128 × Bool :=
  let a := 128 * l
  if a < stackedBytes then
    let d := devAddr s.cfg a
    (lineOf (Tbl.getMany 0 s.mem.dram d 128), s.marked (d / 128))
  else if 0x8000_0000_0000 ≤ a then
    let h := a - 0x8000_0000_0000
    (lineOf (Tbl.getMany 0 s.mem.host h 128), Tbl.get false s.mem.hostPoison (h / 128))
  else (0, false)

/-- Write bytes of a line at its target, both codes afresh. A full write sets the poison as told, a partial write onto a
poisoned line leaves it poisoned (R341, R361). -/
def State.rawWrite (s : State) (l : Nat) (m : BitVec 128) (d : Line128) (poison : Bool) : State :=
  let a := 128 * l
  let old := s.rawLine l
  let bytes := lineBytes (mergeLine old.1 m d)
  let bad := poison || (old.2 && m != BitVec.allOnes 128)
  if a < stackedBytes then
    let v := devAddr s.cfg a
    s.updMem fun x =>
      { x with dram := Tbl.setMany 0 x.dram v bytes,
               poison := Tbl.set 0 x.poison (v / 128) (if bad then 0x1FF else 0),
               rawErr := Tbl.set [] x.rawErr (v / 128) [] }
  else if 0x8000_0000_0000 ≤ a then
    let h := a - 0x8000_0000_0000
    s.updMem fun x =>
      { x with host := Tbl.setMany 0 x.host h bytes, hostPoison := Tbl.set false x.hostPoison (h / 128) bad }
  else s

/-! ## Tile memory (R310, R584). -/

/-- Whether word `w` of all tile memory is poisoned, or holds an uncorrectable error that a read finds now. -/
def MemSt.wordBad (m : MemSt) (w : Nat) : Bool := Tbl.get false m.tilePoison w || Tbl.get false m.tileErr w

/-- The 8-byte words of all tile memory that a range of core `n` touches. -/
def tileWords (n off len : Nat) : List Nat :=
  if len = 0 then [] else (List.range ((off + len - 1) / 8 - off / 8 + 1)).map (0x8_0000 * n + off / 8 + ·)

/-- Bytes of the tile memory of core `n`, and whether one lies in a poisoned word. -/
def State.tileBytes (s : State) (n off len : Nat) : List Byte × Bool :=
  (Tbl.getMany 0 s.mem.tile (0x40_0000 * n + off) len, (tileWords n off len).any s.mem.wordBad)

/-- Whether a poisoned word covers byte `off` of the tile memory of core `n`. -/
def State.tileBad (s : State) (n off : Nat) : Bool := s.mem.wordBad (0x8_0000 * n + off / 8)

/-- A read finds the uncorrectable errors of its words: each is marked poisoned and raises detector 0x04 once (R584). -/
def State.tileFind (s : State) (n off len : Nat) : State :=
  if s.mem.tileErr.isEmpty then s else
  ((tileWords n off len).filter fun w => Tbl.get false s.mem.tileErr w).foldl (fun t w =>
    (t.updMem fun x => { x with tileErr := Tbl.set false x.tileErr w false, tilePoison := Tbl.set false x.tilePoison w true
      }).raise 0x04 n (0x800_0000_0000 + 8 * w) (8 * (w % 0x8_0000))) s

/-- Write bytes to tile memory: a word covered whole loses its poison mark and its error, a word written in part keeps
them, and poisoned data poisons every word it touches (R584, R341). -/
def State.tileWrite (s : State) (n off : Nat) (bs : List Byte) (poison : Bool) : State :=
  if bs.isEmpty then s else
  let last := off + bs.length
  let whole (w : Nat) : Bool := decide (off ≤ 8 * w) && decide (8 * w + 8 ≤ last)
  let words := (List.range ((last - 1) / 8 - off / 8 + 1)).map (off / 8 + ·)
  s.updMem fun x =>
    { x with tile := Tbl.setMany 0 x.tile (0x40_0000 * n + off) bs,
             tilePoison := words.foldl (fun t w =>
               Tbl.set false t (0x8_0000 * n + w) (poison || (Tbl.get false t (0x8_0000 * n + w) && !whole w))) x.tilePoison,
             tileErr := if x.tileErr.isEmpty then x.tileErr else words.foldl (fun t w =>
               Tbl.set false t (0x8_0000 * n + w) (Tbl.get false t (0x8_0000 * n + w) && !whole w)) x.tileErr }

end Sys2Proof.Machine
end

