-- ==== Sys2Proof/Machine/VaultCode.lean ====
section
/-! DEFINITION. The two error codes of a vault line, on the pattern of wrong symbols: the inner SEC code of a slice
and the outer RS(144,128) code over GF(2^8) (R358, R359, R362). -/

namespace Sys2Proof.Machine

/-- Multiply by α in GF(2^8), with x^8 + x^4 + x^3 + x^2 + 1. -/
def gfTwice (a : Nat) : Nat := if a < 128 then 2 * a else (2 * a) ^^^ 0x11D

/-- Product in GF(2^8). -/
def gfMul (a b : Nat) : Nat :=
  ((List.range 8).foldl (fun (r : Nat × Nat) i => (if b.testBit i then r.1 ^^^ r.2 else r.1, gfTwice r.2)) (0, a)).1

/-- α^k. -/
def gfPow (k : Nat) : Nat := (List.range (k % 255)).foldl (fun a _ => gfTwice a) 1

/-- The inverse, a^254; 0 for 0. -/
def gfInv (a : Nat) : Nat := (List.range 253).foldl (fun x _ => gfMul x a) a

/-- A pattern of wrong symbols: symbol number and wrong bits. -/
abbrev ErrPat := List (Nat × Nat)

/-- Add a wrong symbol to a pattern; errors of one symbol add bitwise. -/
def patAdd (p : ErrPat) (k b : Nat) : ErrPat :=
  match p with
  | [] => if b = 0 then [] else [(k, b)]
  | (j, x) :: r =>
    if j = k then (if x ^^^ b = 0 then r else (j, x ^^^ b) :: r) else (j, x) :: patAdd r k b

/-- The pattern of a list of wrong symbols: 0 to 143 are data and outer check symbols, 144 + s the inner check bits of
slice s (R355); numbers beyond are left out. -/
def patOf (hs : List SymErr) : ErrPat :=
  hs.foldl (fun p h => if h.sym < 153 then patAdd p h.sym h.bits.toNat else p) []

/-- The slice a number of a pattern belongs to (R355). -/
def symSlice (k : Nat) : Nat := if k < 144 then k / 16 else k - 144

/-- Bits set in a byte. -/
def ones8 (b : Nat) : Nat := (List.range 8).foldl (fun a i => a + (if b.testBit i then 1 else 0)) 0

/-- What the inner code of slice `sl` leaves of a pattern, and whether it corrected a bit: one wrong bit among the slice's
136 is corrected; of more, the code may flip one bit of its own, which `flip` names (0 for none, else bit `flip` − 1 of
the 136, whose last eight are check bits; R358, log 11). -/
def innerSlice (p : ErrPat) (sl flip : Nat) : ErrPat × Bool :=
  let here := p.filter fun e => symSlice e.1 == sl
  let bits := here.foldl (fun a e => a + ones8 e.2) 0
  if bits = 0 then (p, false)
  else if bits = 1 then (p.filter (fun e => symSlice e.1 != sl), true)
  else if flip = 0 then (p, false)
  else if flip ≤ 128 then (patAdd p (16 * sl + (flip - 1) / 8 % 16) (2 ^ ((flip - 1) % 8)), false)
  else (patAdd p (144 + sl) (2 ^ ((flip - 1) % 8)), false)

/-- What the controller receives: the data and outer check symbols, without the inner check bits. -/
def outerPart (p : ErrPat) : ErrPat := p.filter fun e => decide (e.1 < 144)

/-- The 16 syndromes of a pattern (R359): symbol k stands at x^(143 − k). -/
def syndromes (p : ErrPat) : List Nat :=
  (List.range 16).map fun j => p.foldl (fun a e => a ^^^ gfMul e.2 (gfPow (j * (143 - e.1)))) 0

/-- Evaluate a polynomial, lowest coefficient first. -/
def polyEval (c : List Nat) (x : Nat) : Nat := c.foldr (fun a r => a ^^^ gfMul x r) 0

/-- Product of two polynomials. -/
def polyMul (a b : List Nat) : List Nat :=
  (List.range (a.length + b.length - 1)).map fun k =>
    (List.range (k + 1)).foldl (fun s i => s ^^^ gfMul (a.getD i 0) (b.getD (k - i) 0)) 0

/-- One step of the Berlekamp–Massey search: locator, previous locator, its discrepancy, length and gap. -/
def bmStep (syn : List Nat) (st : List Nat × List Nat × Nat × Nat × Nat) (n : Nat) : List Nat × List Nat × Nat × Nat × Nat :=
  match st with
  | (c, b, d0, len, gap) =>
    let d := (List.range (len + 1)).foldl (fun a i => a ^^^ gfMul (c.getD i 0) (syn.getD (n - i) 0)) 0
    if d = 0 then (c, b, d0, len, gap + 1)
    else
      let k := gfMul d (gfInv d0)
      let width := max c.length (b.length + gap)
      let c' := (List.range width).map fun i => c.getD i 0 ^^^ (if i < gap then 0 else gfMul k (b.getD (i - gap) 0))
      if 2 * len ≤ n then (c', c, d, n + 1 - len, 1) else (c', b, d0, len, gap + 1)

/-- Error values at given symbols that have the given syndromes, by Forney's formula. -/
def forney (syn : List Nat) (syms : List Nat) : ErrPat :=
  let xs := syms.map fun k => gfPow (143 - k)
  let loc := xs.foldl (fun p x => polyMul p [1, x]) [1]
  let ev := (polyMul syn loc).take 16
  syms.map fun k =>
    let x := gfPow (143 - k)
    let xi := gfInv x
    let dv := polyEval ((List.range (loc.length - 1)).map fun i => if i % 2 = 0 then loc.getD (i + 1) 0 else 0) xi
    (k, gfMul x (gfMul (polyEval ev xi) (gfInv dv)))

/-- The correction the outer code makes for a pattern: none when it finds no codeword within 8 symbols (R359). -/
def outerDecode (p : ErrPat) : Option ErrPat :=
  if p.isEmpty then some []
  else if p.length ≤ 8 then some p
  else
    let syn := syndromes p
    if syn.all (· == 0) then some []
    else
      let r := (List.range 16).foldl (bmStep syn) ([1], [1], 1, 0, 1)
      let len := r.2.2.2.1
      let syms := (List.range 144).filter fun k => polyEval r.1 (gfInv (gfPow (143 - k))) == 0
      if 8 < len ∨ syms.length ≠ len then none
      else
        let f := forney syn syms
        if syndromes f = syn then some f else none

/-- The correction made with a slice erased: its 16 symbols take the values that make a codeword (R362). -/
def erasedDecode (p : ErrPat) (sl : Nat) : ErrPat :=
  if p.isEmpty then [] else forney (syndromes p) ((List.range 16).map (16 * sl + ·))

/-- What is still wrong after a correction. -/
def patDiff (p f : ErrPat) : ErrPat := f.foldl (fun a e => patAdd a e.1 e.2) p

end Sys2Proof.Machine
end

