-- ==== Sys2Proof/Machine/VaultOps.lean ====
section
/-! DEFINITION. What a vault controller does: reading and writing a line through both codes, erasure diagnosis, slots charged
to the background budget, activation tracking, refresh bands and temperature (R354 to R373). -/

namespace Sys2Proof.Machine

/-- Lines of a vault (R353). -/
def vaultLines : Nat := 12582912

/-- Tier, bank within the vault, column and row of a vault line (R354). -/
def lineTier (l : Nat) : Nat := l % 8
def lineBank (l : Nat) : Nat := 32 * (l % 8) + l / 8 % 32
def lineCol (l : Nat) : Nat := l / 256 % 16
def lineRow (l : Nat) : Nat := l / 4096

/-- The line number of a vault line in the address map (R356). -/
def State.vaultLine (s : State) (v l : Nat) : Nat := vaultAddr s.cfg v (128 * l) / 128

/-- Length of a scrub period in BLK_TIME units (R57, R328). -/
def State.scrubUnits (s : State) : Nat := s.cfg.budget.scrubHours * 3600 * 200000000

/-- BLK_TIME units since the cold reset; BLK_TIME may have wrapped in between (R513). -/
def State.sinceCold (s : State) : Nat := (s.now + 2 ^ 64 - s.time.coldAt) % 2 ^ 64

/-- The scrub period in which BLK_TIME lies, counted from the cold reset (R328, R363). -/
def State.scrubPeriod (s : State) : Nat := s.sinceCold / max 1 s.scrubUnits

/-- Count one on a 16-bit error counter; the step to 0xFFFF raises detector 0x41 (R513). -/
def State.satCount (s : State) (old unit info : Nat) : Nat × State :=
  (min (old + 1) 0xFFFF, if old = 0xFFFE then s.raise 0x41 unit 0 info else s)

/-- Place a record for Caraway to write (R488). -/
def State.carRecord (s : State) (type : Nat) (payload : List Byte) : State :=
  s.updCar fun c => { c with recs := c.recs ++ [⟨type, false, payload, s.time.blk, 0⟩] }

/-- The ERASURE payload: VLT_ERASE of every vault, 4 B each (R490; the layout is the model's, log 16). -/
def State.erasePayload (s : State) : List Byte :=
  (List.range 256).flatMap fun v =>
    natToBytes ((List.range 8).foldl (fun a t => a + Tbl.get 0xF (s.vault v).erase t * 16 ^ t) 0) 4

/-- Mark a slice erased and record it (R363). -/
def State.eraseSlice (s : State) (v t sl : Nat) : State :=
  let s1 := s.updVault v fun x => { x with erase := Tbl.set 0xF x.erase t sl }
  s1.carRecord 2 s1.erasePayload

/-- The activation of a row: the table counts it by the Misra–Gries rule, and a count that reaches the threshold
refreshes the neighbours and returns to zero (R369). -/
def State.activate (s : State) (v bank row : Nat) : State :=
  let x := s.vault v
  let t := Tbl.get [] x.act bank
  let c := Tbl.get 0 t row
  let t1 : Tbl Nat :=
    if c ≠ 0 ∨ t.length < 512 then Tbl.set 0 t row (c + 1)
    else (t.map fun e => (e.1, e.2 - 1)).filter fun e => e.2 != 0
  if x.actThresh ≤ Tbl.get 0 t1 row then
    (s.updVault v fun x => { x with act := Tbl.set [] x.act bank (Tbl.set 0 t1 row 0) }).count (0x300 + v) 7
  else s.updVault v fun x => { x with act := Tbl.set [] x.act bank t1 }

/-- An access to a line opens its row where another or none was open (R369, R371). -/
def State.openRow (s : State) (v l : Nat) (read : Bool) : State :=
  let b := lineBank l
  let r := lineRow l
  let was := Tbl.get 0 (s.vault v).row b
  if was = r + 1 then (if read then s.count (0x300 + v) 4 else s)
  else
    let s1 := (s.updVault v fun x => { x with row := Tbl.set 0 x.row b (r + 1) }).activate v b r
    if read && was != 0 then s1.count (0x300 + v) 5 else s1

/-- What a decode found (R360). -/
inductive Decoded where
  | poisoned (left : ErrPat)
  | data (left : ErrPat) (fixed : Nat) (inner : Bool)
  | bad (left : ErrPat)
deriving DecidableEq, Repr

/-- Apply the inner code to the nine slices, counting each correction (R358, R360). -/
def State.innerPass (s : State) (v t : Nat) (p : ErrPat) : ErrPat × Bool × State :=
  (List.range 9).foldl (fun (a : ErrPat × Bool × State) sl =>
    let here := a.1.filter fun e => symSlice e.1 == sl
    let many := decide (1 < here.foldl (fun n e => n + ones8 e.2) 0)
    let c := if many then a.2.2.choose 137 else (0, a.2.2)
    let r := innerSlice a.1 sl c.1
    if r.2 then
      let k := c.2.satCount (c.2.vault v).innerCe (0x300 + v) 0x10
      (r.1, true, (k.2.updVault v fun x => { x with innerCe := k.1 }).raise 0x10 (0x300 + v) 0 (t + 16 * sl))
    else (r.1, a.2.1, c.2)) (p, false, s)

/-- Count a diagnosis of a slice, and mark it when the count has reached the threshold, which a write of VLT_ERASE_THRESH
may have lowered meanwhile (R363). -/
def State.diagnose (s : State) (v t sl : Nat) : State :=
  let x := s.vault v
  let d := if x.diagPeriod = s.scrubPeriod then x.diag else []
  let n := Tbl.get 0 d (16 * t + sl) + 1
  let s1 := s.updVault v fun x => { x with diagPeriod := s.scrubPeriod, diag := Tbl.set 0 d (16 * t + sl) n }
  if x.eraseThresh ≤ n then
    if Tbl.get 0xF x.erase t = 0xF then s1.eraseSlice v t sl
    else if Tbl.get 0xF x.erase t = sl then s1
    else s1.raiseDet { mkDet 0x14 (0x300 + v) 0 (t + 16 * sl) with tierDegraded := true }
  else s1

/-- Decode a line of a vault with the wrong symbols that this read finds (R360 to R362). -/
def State.vaultDecode (s : State) (v l : Nat) (hit : List SymErr) : Decoded × State :=
  let dev := vaultLines * v + l
  let t := lineTier l
  let p := patOf (Tbl.get [] s.mem.rawErr dev ++ hit)
  if s.marked dev then (.poisoned (outerPart ((List.range 9).foldl (fun a sl => (innerSlice a sl 0).1) p)), s)
  else
    if p.isEmpty then (.data [] 0 false, s)
    else
      let r0 := s.innerPass v t p
      let r := (outerPart r0.1, r0.2)
      let sl := Tbl.get 0xF (s.vault v).erase t
      if sl ≠ 0xF then (.data (patDiff r.1 (erasedDecode r.1 sl)) 0 r.2.1, r.2.2)
      else
        match outerDecode r.1 with
        | none =>
          let k := r.2.2.satCount (s.vault v).ue (0x300 + v) 0x12
          (.bad r.1, (k.2.updVault v fun x => { x with ue := k.1 }).raise 0x12 (0x300 + v) (vaultAddr s.cfg v (128 * l)) l)
        | some f =>
          let f := f.filter fun e => e.2 != 0
          if f.isEmpty then (.data r.1 0 r.2.1, r.2.2)
          else
            let k := r.2.2.satCount (s.vault v).outerCe (0x300 + v) 0x11
            let s1 := (k.2.updVault v fun x => { x with outerCe := k.1 }).raise 0x11 (0x300 + v)
              (vaultAddr s.cfg v (128 * l)) f.length
            let slices := (f.map fun e => e.1 / 16).eraseDups
            let s2 := if 2 ≤ f.length ∧ slices.length = 1 then s1.diagnose v t (slices.headD 0) else s1
            (.data (patDiff r.1 f) f.length r.2.1, s2)

/-- A line with wrong data symbols. -/
def spoil (d : Line128) (p : ErrPat) : Line128 :=
  p.foldl (fun a e => if e.1 < 128 then a ^^^ (BitVec.ofNat 1024 (e.2 <<< (8 * e.1))) else a) d

/-- The data a decode delivers, with poison; what it could not correct stands in it as read (R360). -/
def State.decodedLine (s : State) (v l : Nat) (d : Decoded) : Line128 × Bool :=
  let raw := (s.rawLine (s.vaultLine v l)).1
  match d with
  | .poisoned left => (spoil raw left, true)
  | .data left _ _ => (spoil raw left, false)
  | .bad left => (spoil raw left, true)

/-- Whether a decode found the line uncorrectable. -/
def Decoded.isBad : Decoded → Bool
  | .bad _ => true
  | _ => false

/-- Write a whole vault line, both codes afresh (R361). -/
def State.vaultPut (s : State) (v l : Nat) (d : Line128) (poison : Bool) : State :=
  s.rawWrite (s.vaultLine v l) (BitVec.allOnes 128) d poison

/-- A read of a line, with the write-back that an uncorrectable line draws (R360). -/
def State.vaultFetch (s : State) (v l : Nat) (hit : List SymErr) : (Line128 × Bool) × Decoded × State :=
  let r := (s.openRow v l true).vaultDecode v l hit
  let d := r.2.decodedLine v l r.1
  let s1 := r.2.count (0x300 + v) 1
  (d, r.1, if r.1.isBad then s1.vaultPut v l d.1 true else s1)

/-- A whole line written at the controller (R361). -/
def State.vaultStore (s : State) (v l : Nat) (d : Line128) (poison : Bool) : State :=
  ((s.openRow v l false).vaultPut v l d poison).count (0x300 + v) 2

/-- A write of fewer than 128 B: read, decode, merge and write, poisoned where the read was or the bytes are (R361). A mask
that takes every byte is a write of the whole line. The flag says whether the read was poisoned. -/
def State.vaultMerge (s : State) (v l : Nat) (m : BitVec 128) (d : Line128) (poison : Bool) (hit : List SymErr) : State × Bool :=
  if m = BitVec.allOnes 128 then (s.vaultStore v l d poison, false)
  else
    let r := s.vaultFetch v l hit
    (((r.2.2.vaultPut v l (mergeLine r.1.1 m d) (r.1.2 || poison)).count (0x300 + v) 2).count (0x300 + v) 3, r.1.2)

/-- Whether the controller serves requests: trained, and not writing zeros (R373, R375). -/
def State.vaultOpen (s : State) (v l : Nat) : Bool :=
  (s.vault v).st == 2 && !(s.vault v).zeroBusy && decide (l < vaultLines)

/-! ## What lies behind the home slices and the uncached accesses: the vaults and the host. -/

/-- A line read at its target: a stacked line by its vault controller, a host line from the host (R308, R316, R360). -/
def State.memRead (s : State) (l : Nat) : (Line128 × Bool) × State :=
  if 128 * l < stackedBytes then
    let x := vaultMap s.cfg (128 * l)
    let r := s.vaultFetch x.1 (x.2 / 128) []
    (r.1, r.2.2)
  else (s.rawLine l, s)

/-- Bytes of a line written at its target, and whether a partial write met poison (R316, R341, R361). -/
def State.memWrite (s : State) (l : Nat) (m : BitVec 128) (d : Line128) (poison : Bool) : State × Bool :=
  if 128 * l < stackedBytes then
    let x := vaultMap s.cfg (128 * l)
    s.vaultMerge x.1 (x.2 / 128) m d poison []
  else (s.rawWrite l m d poison, (s.rawLine l).2 && m != BitVec.allOnes 128)

/-- A whole line written at its target. -/
abbrev State.memPut (s : State) (l : Nat) (d : Line128) (poison : Bool) : State :=
  (s.memWrite l (BitVec.allOnes 128) d poison).1

/-- Whether the vault of a stacked line takes no request because it writes zeros (R375). -/
def State.zeroing (s : State) (l : Nat) : Bool :=
  decide (128 * l < stackedBytes) && (s.vault (vaultMap s.cfg (128 * l)).1).zeroBusy

/-! ## Slots charged to the background budget (R50, R365). -/

/-- The next arbitration slot: one a MEM cycle, six an HK cycle, after the last one that was charged (R22, R50); none where
those of this HK cycle are taken. -/
def State.nextSlot (s : State) (v : Nat) : Option Nat :=
  let n := match (s.vault v).charged with
    | [] => 6 * s.time.hk
    | x :: _ => max (6 * s.time.hk) (x + 1)
  if n < 6 * s.time.hk + 6 then some n else none

/-- Whether the charged slots among the last 1,000 before slot `n` number fewer than VAULT_BUDGET (R365). -/
def State.slotLeft (s : State) (v n : Nat) : Bool :=
  decide ((((s.vault v).charged.filter fun x => decide (n < x + 1000))).length < s.cfg.budget.vault)

/-- Charge slot `n` to the budget. -/
def State.charge (s : State) (v n : Nat) : State := s.updVault v fun x => { x with charged := (n :: x.charged).take 100 }

/-- Lines by which the scrub has fallen behind the position that a uniform pass would have reached (R364, R365). -/
def State.scrubLag (s : State) (v : Nat) : Nat :=
  s.sinceCold * vaultLines / max 1 s.scrubUnits - ((s.vault v).passes * vaultLines + (s.vault v).scrubLine)

/-- The slot that a scrub of vault `v` may take. Where a class of R281 claims the slot it is a forced one, at most one a
frame of 20 slots and only while the lag is more than 65,536 lines; either kind is within the budget (R365). -/
def State.scrubSlot (s : State) (v : Nat) (claimed : Bool) : Option Nat :=
  match s.nextSlot v with
  | none => none
  | some n =>
    if !s.slotLeft v n then none
    else if claimed && (decide (s.scrubLag v ≤ 65536) || (s.vault v).forcedAt == some (n / 20)) then none
    else some n

/-! ## Refresh and temperature (R366, R367). -/

/-- The band of a temperature (R366). -/
def bandOf (t : Nat) : Nat := if t < 85 then 0 else if t < 95 then 1 else if t < 105 then 2 else 3

/-- Lower edge of a band in °C. -/
def bandEdge (b : Nat) : Nat := if b = 0 then 0 else if b = 1 then 85 else if b = 2 then 95 else 105

/-- Refresh period of a band in BLK_TIME units. -/
def bandPeriod (b : Nat) : Nat := if b = 0 then 6400000 else if b = 1 then 3200000 else 1600000

/-- The hottest of the eight tiers; a tier without valid frames counts as 105 °C (R366, R561). -/
def Vlt.hottest (x : Vlt) : Nat :=
  (List.range 8).foldl (fun a t => max a (if Tbl.get false x.stale t then 105 else Tbl.get 0 x.temp t)) 0

/-- A trip of the CORE clock (R477, R479): the event, the alert and the gate. -/
def State.tripNow (s : State) : State :=
  { s with nut := { s.nut with trip := true, event := s.nut.event ||| 0x02, coolSince := none, tierCoolSince := none },
           pins := { s.pins with alertOut := true } }

/-- A controller looks at its tiers: a rise takes effect at once, with a new refresh window at the next slot; the time
for which a fall has been possible is kept; band 3 reports TIER_HOT (R366, R367, R479). -/
def State.vaultTemps (s : State) (v t : Nat) : State :=
  let x := s.vault v
  let hot := x.hottest
  let b := bandOf hot
  let s1 := s.updVault v fun x =>
    { x with band := max b x.band,
             bandNext := if x.band < b then some b else x.bandNext,
             coolSince := if 0 < x.band ∧ hot + 2 ≤ bandEdge x.band then (x.coolSince.or (some s.now)) else none }
  if b = 3 ∧ x.band < 3 then
    ({ s1 with nut := { s1.nut with tierHot := true } }.tripNow).raise 0x32 0x496 0 t
  else if b = 3 then { s1 with nut := { s1.nut with tierHot := true, tierCoolSince := none } }
  else s1

/-- The hottest tier of the block (R478, R494). -/
def State.tierMax (s : State) : Nat := s.vlt.foldl (fun a e => max a e.2.hottest) 0

end Sys2Proof.Machine
end

