-- ==== Sys2Proof/Machine/Coherence.lean ====
section
/-! DEFINITION. Caches, directories and the home slice: ages and victims, coherence requests, home writes, offers,
back-invalidation and maintenance (R318 to R341). Lines are named by their number, address / 128. -/

namespace Sys2Proof

/-- The unit identifier of a cache's owner (R44). -/
def Cacher.unit : Cacher → Nat
  | .l1 n => n.val
  | .clv c => 0x450 + c.val
  | .node m => 0x400 + m.val

/-- Ways of a cache (R318). -/
def Cacher.ways : Cacher → Nat
  | .l1 _ => 8
  | .clv _ => 4
  | .node _ => 16

/-- The set of a line (R318). -/
def Cacher.set : Cacher → Nat → Nat
  | .l1 _, l => l % 128
  | .clv _, l => l % 128
  | .node _, l => l % 2048

end Sys2Proof

namespace Sys2Proof.Machine

/-! ## Caches (R318 to R321). -/

/-- The cache of a unit identifier. -/
def cacherOf (u : Nat) : Cacher :=
  if u < 0x100 then .l1 (Fin.ofNat 256 u)
  else if u < 0x440 then .node (Fin.ofNat 64 (u - 0x400))
  else .clv (Fin.ofNat 8 (u - 0x450))

def State.cacheOf (s : State) : Cacher → Cache
  | .l1 n => Tbl.get Cache.off s.l1 n
  | .clv c => Tbl.get Cache.off s.clvCache c
  | .node m => Tbl.get Cache.off s.node m

def State.updCache (s : State) (r : Cacher) (f : Cache → Cache) : State :=
  match r with
  | .l1 n => { s with l1 := Tbl.upd Cache.off s.l1 n f }
  | .clv c => { s with clvCache := Tbl.upd Cache.off s.clvCache c f }
  | .node m => { s with node := Tbl.upd Cache.off s.node m f }

/-- Whether a cache runs hit-under-miss (R46, R321). -/
def State.hitUnderMiss (s : State) : Cacher → Bool
  | .l1 n => s.cfg.l1Mode.getLsbD n
  | .clv c => s.cfg.clvMode.getLsbD c
  | .node m => s.cfg.nodeMode.getLsbD m

abbrev Cache.way (c : Cache) (set w : Nat) : CLine := Tbl.get CLine.off c.lines (16 * set + w)
abbrev Cache.age (c : Cache) (set w : Nat) : Nat := Tbl.get 3 c.ages (16 * set + w)
def Cache.setWay (c : Cache) (set w : Nat) (x : CLine) : Cache :=
  { c with lines := Tbl.set CLine.off c.lines (16 * set + w) x }
def Cache.setAge (c : Cache) (set w a : Nat) : Cache := { c with ages := Tbl.set 3 c.ages (16 * set + w) a }

/-- The enabled way that holds a line. -/
def Cache.find (c : Cache) (set ways l : Nat) : Option Nat :=
  (List.range ways).find? fun w => !c.dis.getLsbD w && (c.way set w).st != .i && (c.way set w).line == l

/-- The line as a cache holds it. -/
def Cache.line? (c : Cache) (set ways l : Nat) : Option CLine := (c.find set ways l).map (c.way set)

/-- The victim of a fill among the eligible ways, with the ages after the choice (R320). -/
def Cache.victim (c : Cache) (set : Nat) (elig : List Nat) : Option (Nat × Cache) :=
  match elig with
  | [] => none
  | _ =>
    match elig.find? fun w => (c.way set w).st == .i with
    | some w => some (w, c)
    | none =>
      let top := elig.foldl (fun a w => max a (c.age set w)) 0
      let c' := elig.foldl (fun x w => x.setAge set w (c.age set w + (3 - top))) c
      (elig.find? fun w => c'.age set w == 3).map fun w => (w, c')

/-- Install a line at an age, and the valid line it displaces (R320). A line already present is replaced. -/
def Cache.install (c : Cache) (set ways : Nat) (elig : List Nat) (x : CLine) (age : Nat) : Cache × Option CLine :=
  match c.find set ways x.line with
  | some w => ((c.setWay set w x).setAge set w age, none)
  | none =>
    match c.victim set elig with
    | none => (c, none)
    | some (w, c1) =>
      let old := c1.way set w
      ((c1.setWay set w x).setAge set w age, if old.st = .i then none else some old)

/-- Remove a line from a cache. -/
def Cache.drop (c : Cache) (set ways l : Nat) : Cache :=
  match c.find set ways l with
  | some w => c.setWay set w CLine.off
  | none => c

/-- Change a line in place. -/
def Cache.modify (c : Cache) (set ways l : Nat) (f : CLine → CLine) : Cache :=
  match c.find set ways l with
  | some w => c.setWay set w (f (c.way set w))
  | none => c

/-- A hit sets the age to 0 (R320). -/
def Cache.touch (c : Cache) (set ways l : Nat) : Cache :=
  match c.find set ways l with
  | some w => c.setAge set w 0
  | none => c

/-- Whether a cache holds a line at age 0, so that a hit changes nothing (R320). -/
def Cache.fresh? (c : Cache) (set ways l : Nat) : Bool :=
  match c.find set ways l with
  | some w => c.age set w == 0
  | none => false

/-- The line in the cache of `r`. -/
def State.held (s : State) (r : Cacher) (l : Nat) : Option CLine := (s.cacheOf r).line? (r.set l) r.ways l

/-! ## The directory (R335). -/

/-- The directory set of a line; which bits select it the spec does not say (log 10). -/
def dirSetOf (l : Nat) : Nat := Config.dirSet l % 2048

/-- The host copy recorded against a port: 0 none, 1 shared, 2 exclusive (R340). -/
def DirEnt.host (e : DirEnt) (h : Nat) : Nat := if h = 0 then e.host0 else e.host1

/-- Record a host copy against a port. -/
def DirEnt.setHost (e : DirEnt) (h k : Nat) : DirEnt := if h = 0 then { e with host0 := k } else { e with host1 := k }

def DirEnt.empty (e : DirEnt) : Bool := e.sharers.isEmpty && e.owner.isNone && e.host0 == 0 && e.host1 == 0

/-- Every cache tracked for a line. -/
def DirEnt.units (e : DirEnt) : List Nat := e.sharers ++ e.owner.toList

/-- An entry that no longer tracks the cache `u`. -/
def DirEnt.forget (e : DirEnt) (u : Nat) : DirEnt :=
  { e with sharers := e.sharers.filter (· != u), owner := if e.owner = some u then none else e.owner }

/-- The way that holds a line's entry. -/
def Slice.dirWay (x : Slice) (l : Nat) : Option Nat :=
  (List.range 16).find? fun w =>
    let e := Tbl.get DirEnt.off x.dir (16 * dirSetOf l + w)
    !e.empty && e.line == l

/-- The entry of a line; the empty entry where it has none. -/
def State.dirEnt (s : State) (l : Nat) : DirEnt :=
  let x := s.slice (homeOf s.cfg l)
  match x.dirWay l with
  | some w => Tbl.get DirEnt.off x.dir (16 * dirSetOf l + w)
  | none => DirEnt.off

/-- Write an entry in the way that holds the line; an empty entry frees it. -/
def State.dirSet (s : State) (l : Nat) (e : DirEnt) : State :=
  let n := homeOf s.cfg l
  match (s.slice n).dirWay l with
  | some w => s.updSlice n fun x =>
      { x with dir := Tbl.set DirEnt.off x.dir (16 * dirSetOf l + w) (if e.empty then DirEnt.off else e),
               dirAges := Tbl.set 3 x.dirAges (16 * dirSetOf l + w) 0 }
  | none => s

/-- Change the entry of a line. -/
def State.dirMap (s : State) (l : Nat) (f : DirEnt → DirEnt) : State := s.dirSet l (f (s.dirEnt l))

/-- Record copies of a line in the way made for it, at insertion age 1 (R335). -/
def State.dirPut (s : State) (l w : Nat) (e : DirEnt) : State :=
  s.updSlice (homeOf s.cfg l) fun x =>
    { x with dir := Tbl.set DirEnt.off x.dir (16 * dirSetOf l + w) (if e.empty then DirEnt.off else e),
             dirAges := Tbl.set 3 x.dirAges (16 * dirSetOf l + w) (if (x.dirWay l).isSome then 0 else 1) }

/-! ## Copies in caches. -/

/-- What a cache has of a line: a held copy, or one in its eviction buffer (R352). -/
def State.copyData (s : State) (r : Cacher) (l : Nat) : Option (Line128 × Bool) :=
  ((s.held r l).map fun x => (x.data, x.poison)).or
    (((s.cacheOf r).evict.find? fun e => e.line == l).map fun e => (e.data, e.poison))

/-- The dirty data that a cache has of a line. -/
def State.dirtyData (s : State) (r : Cacher) (l : Nat) : Option (Line128 × Bool) :=
  ((s.held r l).bind fun x => if x.st = .m then some (x.data, x.poison) else none).or
    (((s.cacheOf r).evict.find? fun e => e.line == l && e.dirty).map fun e => (e.data, e.poison))

/-- Invalidate the copy of a line in a cache, its eviction buffer and its fills in flight; its dirty data, where it
had any (R334, R337, R352). -/
def State.takeCopy (s : State) (r : Cacher) (l : Nat) : State × Option (Line128 × Bool) :=
  (s.updCache r fun c =>
    { c.drop (r.set l) r.ways l with
      evict := c.evict.filter (fun e => e.line != l),
      grants := c.grants.map fun g => if g.line = l then { g with gone := true } else g }, s.dirtyData r l)

/-- Make the copy of a line in a cache shared; its dirty data, where it had any (R337, R352). -/
def State.shareCopy (s : State) (r : Cacher) (l : Nat) : State × Option (Line128 × Bool) :=
  (s.updCache r fun c =>
    { c.modify (r.set l) r.ways l (fun x => { x with st := .s }) with
      evict := c.evict.map (fun e => if e.line = l then { e with dirty := false } else e),
      grants := c.grants.map fun g => if g.line = l then { g with st := .s } else g }, s.dirtyData r l)

/-- What the cache that the directory names as owner has of a line; it supplies the data (R337). -/
def State.ownerData (s : State) (l : Nat) : Option (Line128 × Bool) :=
  (s.dirEnt l).owner.bind fun u => s.copyData (cacherOf u) l

/-- A write to a SHARE = 0 line that reaches home invalidates the node-cache copies, the only ones tracked (R338). -/
def State.dropNodes (s : State) (l : Nat) : State :=
  if s.isPrivate l then
    ((s.dirEnt l).units.foldl (fun t u => (t.takeCopy (cacherOf u) l).1) s).dirMap l fun _ => DirEnt.off
  else s

/-! ## The L2 slice and what lies behind it. -/

/-- The line in its home slice. -/
def State.l2Line (s : State) (l : Nat) : Option CLine :=
  (s.slice (homeOf s.cfg l)).l2.line? (l2Set s.cfg l) 16 l

/-- Data and poison of a line at its home: the slice's copy, or what its target delivers (R360). -/
def State.homeFetch (s : State) (l : Nat) : (Line128 × Bool) × State :=
  match s.l2Line l with
  | some x => ((x.data, x.poison), s)
  | none => s.memRead l

/-- The data and poison that a read at home would deliver. -/
abbrev State.homeData (s : State) (l : Nat) : Line128 × Bool := (s.homeFetch l).1

/-- Ways of a slice for an ordinary fill: enabled, not locked and not draining (R320, R326, R352). -/
def Slice.open (x : Slice) : List Nat :=
  (List.range 16).filter fun w => !x.l2.dis.getLsbD w && !x.locked.getLsbD w && !x.lockReq.getLsbD w

/-- Ways of a slice for an LFILL: enabled and locked (R320, R327). -/
def Slice.lockable (x : Slice) : List Nat :=
  (List.range 16).filter fun w => !x.l2.dis.getLsbD w && x.locked.getLsbD w

/-- The insertion age: 3 for a line of a STREAM region (R320). -/
def State.insAge (s : State) (l a : Nat) : Nat := if (attrOf s.cfg (128 * l)).stream then 3 else a

/-- Whether the slice allocates a line that a demand miss or a home write brings: no STREAM region and no WPOL 11, and a
way for it (R316, R324, R325). -/
def State.l2Allocates (s : State) (l : Nat) : Bool :=
  !(attrOf s.cfg (128 * l)).stream && (attrOf s.cfg (128 * l)).wpol != 3 && !(s.slice (homeOf s.cfg l)).open.isEmpty

/-- Change the line that a slice holds, in place. -/
def State.l2Modify (s : State) (l : Nat) (f : CLine → CLine) : State :=
  s.updSlice (homeOf s.cfg l) fun y => { y with l2 := y.l2.modify (l2Set s.cfg l) 16 l f }

/-- Set the age of the line that a slice holds. -/
def State.l2SetAge (s : State) (l a : Nat) : State :=
  s.updSlice (homeOf s.cfg l) fun y =>
    match y.l2.find (l2Set s.cfg l) 16 l with
    | some w => { y with l2 := y.l2.setAge (l2Set s.cfg l) w a }
    | none => y

/-- Install a line in its home slice; a displaced dirty line goes to memory (R320, R324). -/
def State.l2Install (s : State) (l : Nat) (elig : List Nat) (x : CLine) (age : Nat) : State :=
  let n := homeOf s.cfg l
  let r := (s.slice n).l2.install (l2Set s.cfg l) 16 elig x age
  let s1 := s.updSlice n fun y => { y with l2 := r.1 }
  match r.2 with
  | some old => if old.st = .m then s1.memPut old.line old.data old.poison else s1
  | none => s1

/-- An access that finds its line in the slice: a hit, unless it is the one whose miss brought the line (R320, R351). -/
def State.l2Hit (s : State) (l : Nat) : State :=
  let n := homeOf s.cfg l
  if (s.slice n).l2.fills.any (fun f => f.line == l) then
    s.updSlice n fun y => { y with l2 := { y.l2 with fills := y.l2.fills.filter fun f => f.line != l } }
  else (s.l2SetAge l 0).count (0x200 + n) 1

/-- The line for a request at home, `own` being what its owner supplies; on a miss the slice allocates it where `alloc`, and
else the read passes through (R320, R321, R337, R351). -/
def State.l2Serve (s : State) (l : Nat) (own : Option (Line128 × Bool)) (alloc : Bool) : (Line128 × Bool) × State :=
  match s.l2Line l with
  | some x => (own.getD (x.data, x.poison), s.l2Hit l)
  | none =>
    let n := homeOf s.cfg l
    let s1 := s.count (0x200 + n) (if alloc then 2 else 3)
    let r := match own with
      | some d => (d, s1)
      | none => s1.memRead l
    (r.1, if alloc then r.2.l2Install l (s.slice n).open ⟨l, .e, r.1.1, r.1.2⟩ 1 else r.2)

/-- The slice sends a miss, unless one is outstanding; `lock` marks the miss of an LFILL (R321, R327). -/
def State.l2Miss (s : State) (l : Nat) (lock : Bool) : State :=
  let n := homeOf s.cfg l
  if (s.slice n).l2.miss.isSome then s
  else (s.updSlice n fun y => { y with l2 := { y.l2 with miss := some (l, lock) } }).count (0x200 + n) 2

/-- A line that the vault has read arrives at the slice that missed it, and is installed (R320, R321, R327). -/
def State.l2Arrive (s : State) (n l : Nat) (d : Line128 × Bool) : State :=
  match (s.slice n).l2.miss with
  | none => s
  | some (k, lock) =>
    if k ≠ l ∨ homeOf s.cfg l ≠ n then s
    else
      let s1 := s.updSlice n fun y =>
        { y with l2 := { y.l2 with miss := none, fills := y.l2.fills ++ [⟨l, .okay, d.1, d.2⟩] } }
      if (s1.l2Line l).isSome then s1
      else s1.l2Install l (if lock then (s1.slice n).lockable else (s1.slice n).open) ⟨l, .e, d.1, d.2⟩
        (s1.insAge l (if lock then 0 else 1))

/-- Whether the slice declines to allocate: every enabled way locked, a STREAM region, or a full bank queue
(R325). -/
def State.declines (s : State) (l bankQueue : Nat) : Bool :=
  let x := s.slice (homeOf s.cfg l)
  x.open.isEmpty || (attrOf s.cfg (128 * l)).stream || (decide (x.thresh < 16) && decide (x.thresh < bankQueue))

/-- A dirty line arrives at home: the slice updates its copy or allocates one, or writes the vault (R320, R325). -/
def State.homePut (s : State) (l : Nat) (d : Line128) (poison : Bool) (bankQueue : Nat) : State :=
  let s := s.dropNodes l
  match s.l2Line l with
  | some _ => (s.l2Modify l fun _ => ⟨l, .m, d, poison⟩).l2SetAge l (s.insAge l 1)
  | none =>
    if s.declines l bankQueue then s.memPut l d poison
    else s.l2Install l (s.slice (homeOf s.cfg l)).open ⟨l, .m, d, poison⟩ 1

/-- Bring dirty data that a copy gave up to its home. -/
def State.land (r : State × Option (Line128 × Bool)) (l : Nat) : State :=
  match r.2 with
  | some d => r.1.homePut l d.1 d.2 0
  | none => r.1

/-- Invalidate every tracked copy in the caches of the block other than `but`; dirty data lands at home. -/
def State.killCopies (s : State) (l : Nat) (but : Option Nat) : State :=
  let e := s.dirEnt l
  let s1 := ((e.units.filter fun u => some u != but)).foldl (fun t u => State.land (t.takeCopy (cacherOf u) l) l) s
  s1.dirMap l fun e => { e with sharers := e.sharers.filter (fun u => some u == but),
                                owner := if e.owner == but then e.owner else none }

/-- The owner of a line, where there is one, becomes a sharer; dirty data lands at home (R337). -/
def State.shareOwner (s : State) (l : Nat) : State :=
  match (s.dirEnt l).owner with
  | none => s
  | some u =>
    (State.land (s.shareCopy (cacherOf u) l) l).dirMap l fun e => { e with sharers := (u :: e.sharers).eraseDups, owner := none }

/-! ## Back-invalidation of host copies (R340). -/

/-- Send a back-invalidation to a port that holds a line, unless one is out. -/
def State.sendBi (s : State) (l h : Nat) (inv : Bool) : State :=
  let n := homeOf s.cfg l
  if (s.slice n).bi.any (fun b => b.line == l && b.h == h) then s
  else (s.updSlice n fun x => { x with bi := x.bi ++ [⟨h, l, inv, s.now⟩] }).count (0x200 + n) 7

/-- The ports, other than `but`, whose copy of a line stands in the way: any copy of a write, an exclusive one of a read. -/
def DirEnt.holders (e : DirEnt) (write : Bool) (but : Option Nat) : List Nat :=
  [0, 1].filter fun h => some h != but && (if write then e.host h != 0 else e.host h == 2)

/-- The state in which back-invalidations go to the ports that stand in the way; none where none does. -/
def State.recall (s : State) (l : Nat) (write : Bool) (but : Option Nat) : Option State :=
  match (s.dirEnt l).holders write but with
  | [] => none
  | hs => some (hs.foldl (fun t h => t.sendBi l h write) s)

/-- Whether a participant has applied its setting in the commit that is under way, and so starts no new work (R71). -/
def State.appliedUnit (s : State) (u : Nat) : Bool := s.commit.active && s.commit.acked.contains u

/-- The home slice of a line, and the vault behind it on a miss, serve no new request while they hold a commit's new
setting (R71 step 4). -/
def State.homeHeld (s : State) (l : Nat) : Bool :=
  let n := homeOf s.cfg l
  s.appliedUnit (0x200 + n) || (s.appliedUnit (0x300 + n) && decide (128 * l < stackedBytes) && (s.l2Line l).isNone)

/-- Whether a request waits at home whatever it asks: the slice invalidates itself (R329), holds a commit's new setting (R71),
blocks on a miss (R321), awaits a host's answer for the line (R340, R352), or misses while its vault writes zeros
(R375) or has not been trained (R524). -/
def State.homeStall (s : State) (l : Nat) : Bool :=
  let n := homeOf s.cfg l
  let x := s.slice n
  x.l2.busy || s.homeHeld l || x.bi.any (fun b => b.line == l) || (x.l2.miss.isSome && !s.cfg.l2Mode.getLsbD n)
    || (((s.vault n).zeroBusy || decide ((s.vault n).st < 2)) && decide (128 * l < stackedBytes) && (s.l2Line l).isNone)

/-- Whether a request that allocates must first have its line read from the vault: neither the slice nor an owner has it.
A host line is filled at once (log 65). -/
def State.needsFill (s : State) (l : Nat) : Bool :=
  decide (128 * l < stackedBytes) && (s.l2Line l).isNone && (s.ownerData l).isNone && s.l2Allocates l

/-- The state in which a request at home waits: the slice takes none now, the host must give up its copy first (R340), or
the line must come from the vault (R321; not for a request that allocates nothing or brings the whole line, `fetch`
false). None where it may be served. A write waits for any host copy, a read for an exclusive one. -/
def State.homeWait (s : State) (l : Nat) (write : Bool) (fetch : Bool := true) : Option State :=
  if s.homeStall l then some s
  else match s.recall l write none with
    | some t => some t
    | none => if fetch && s.needsFill l then some (s.l2Miss l false) else none

/-- Make room for an entry of a line, invalidating what the victim entry tracks (R335). Either the state in which
the request waits for the host to give up the victim's line, or the state with the way, whose entry is free. -/
def State.dirRoom (s : State) (l : Nat) : Except State (Nat × State) :=
  let n := homeOf s.cfg l
  let x := s.slice n
  let k := 16 * dirSetOf l
  match x.dirWay l with
  | some w => .ok (w, s)
  | none =>
    match (List.range 16).find? fun w => (Tbl.get DirEnt.off x.dir (k + w)).empty with
    | some w => .ok (w, s)
    | none =>
      let top := (List.range 16).foldl (fun a w => max a (Tbl.get 3 x.dirAges (k + w))) 0
      let ages := (List.range 16).foldl (fun t w => Tbl.set 3 t (k + w) (Tbl.get 3 x.dirAges (k + w) + (3 - top))) x.dirAges
      let w := ((List.range 16).find? fun w => Tbl.get 3 ages (k + w) == 3).getD 0
      let e := Tbl.get DirEnt.off x.dir (k + w)
      if x.bi.any (fun b => b.line == e.line) then .error s
      else
        let s1 := ((s.killCopies e.line none).count (0x200 + n) 6).updSlice n fun y => { y with dirAges := ages }
        match s1.recall e.line true none with
        | some t => .error t
        | none => .ok (w, s1)

/-! ## Requests at home (R336 to R340). -/

/-- Append a grant for a cache. -/
def State.grant (s : State) (r : Cacher) (l : Nat) (st : Mesi) (d : Line128 × Bool) : State :=
  s.updCache r fun c => { c with grants := c.grants.filter (fun g => g.line != l || g.gone) ++ [⟨l, st, d.1, d.2, false⟩] }

/-- GetS of a node cache: it holds lines in S only, always tracked, and allocates nothing in the slice (R321, R338). -/
def State.getSNode (s : State) (r : Cacher) (l : Nat) : State :=
  match s.homeWait l false false with
  | some w => w
  | none =>
    match s.dirRoom l with
    | .error w => w
    | .ok (w, s1) =>
      let x := s1.l2Serve l (s1.ownerData l) false
      let s2 := x.2.shareOwner l
      let e := (s2.dirEnt l).forget r.unit
      (s2.dirPut l w { e with line := l, sharers := r.unit :: e.sharers }).grant r l .s x.1

/-- GetS of an L1 or a Clove cache: E where no other copy exists, else S; a SHARE = 0 line is granted in E, untracked
(R337). -/
def State.getS (s : State) (r : Cacher) (l : Nat) : State :=
  match s.homeWait l false with
  | some w => w
  | none =>
    if s.isPrivate l then
      let x := s.l2Serve l none (s.l2Allocates l)
      x.2.grant r l .e x.1
    else match s.dirRoom l with
      | .error w => w
      | .ok (w, s1) =>
        let s1 := s1.dirMap l fun e => e.forget r.unit
        let x := s1.l2Serve l (s1.ownerData l) (s1.l2Allocates l)
        let s2 := x.2.shareOwner l
        let e := s2.dirEnt l
        if e.empty then (s2.dirPut l w ⟨l, [], some r.unit, 0, 0⟩).grant r l .e x.1
        else (s2.dirPut l w { e with line := l, sharers := r.unit :: e.sharers }).grant r l .s x.1

/-- GetM at the home slice. -/
def State.getM (s : State) (r : Cacher) (l : Nat) : State :=
  match s.homeWait l true with
  | some w => w
  | none =>
    if s.isPrivate l then
      let x := s.l2Serve l none (s.l2Allocates l)
      x.2.grant r l .m x.1
    else match s.dirRoom l with
      | .error w => w
      | .ok (w, s1) =>
        let x := s1.l2Serve l (s1.ownerData l) (s1.l2Allocates l)
        ((x.2.killCopies l (some r.unit)).dirPut l w ⟨l, [], some r.unit, 0, 0⟩).grant r l .m x.1

/-- Upgrade at the home slice: the S copy of `r` becomes M. -/
def State.upgradeLine (s : State) (r : Cacher) (l : Nat) : State :=
  match s.homeWait l true false with
  | some w => w
  | none =>
    match s.held r l with
    | some x =>
      if x.st = .s then
        ((s.killCopies l (some r.unit)).dirMap l fun _ => ⟨l, [], some r.unit, 0, 0⟩).updCache r fun c =>
          c.modify (r.set l) r.ways l fun y => { y with st := .m }
      else s
    | none => s

/-- A store at the home slice, once no host copy stands in the way (R324): every other tracked copy is invalidated,
the slice's copy is updated or allocated at age 1, or the vault written; under WPOL 11 the slice allocates none, and a copy
that it holds and memory both take the data (log 65). The copy that `keep` names is left. The flag says whether a
partial write met poison (R341, R516). -/
def State.homeStore (s : State) (l : Nat) (m : BitVec 128) (d : Line128) (poison : Bool) (keep : Option Nat) : State × Bool :=
  let s1 := s.killCopies l keep
  let whole := m == BitVec.allOnes 128
  match s1.l2Line l with
  | some x =>
    let line := mergeLine x.data m d
    let bad := poison || (x.poison && !whole)
    let s2 := s1.l2Hit l
    if (attrOf s1.cfg (128 * l)).wpol = 3 then
      ((s2.l2Modify l fun _ => ⟨l, .e, line, bad⟩).memPut l line bad, x.poison && !whole)
    else (s2.l2Modify l fun _ => ⟨l, .m, line, bad⟩, x.poison && !whole)
  | none =>
    if !s1.l2Allocates l then s1.memWrite l m d poison
    else
      let s2 := s1.count (0x200 + homeOf s1.cfg l) 2
      let old := if whole then ((d, false), s2) else s2.memRead l
      let bad := poison || (old.1.2 && !whole)
      (old.2.l2Install l (s1.slice (homeOf s1.cfg l)).open ⟨l, .m, mergeLine old.1.1 m d, bad⟩ 1, old.1.2 && !whole)

/-- A home write by unit `u`: a partial write into a poisoned line raises detector 0x3F at `a` (R516). -/
def State.homeStoreBy (s : State) (u a l : Nat) (m : BitVec 128) (d : Line128) (poison : Bool) (keep : Option Nat) : State :=
  let r := s.homeStore l m d poison keep
  if r.2 then r.1.raise 0x3F u a 7 else r.1

/-- A write at its target by unit `u`, past every cache: a partial write into a poisoned line raises detector 0x3F (R516). -/
def State.memStoreBy (s : State) (u a l : Nat) (m : BitVec 128) (d : Line128) (poison : Bool) : State :=
  let r := s.memWrite l m d poison
  if r.2 then r.1.raise 0x3F u a 7 else r.1

/-- A non-allocating read at the home slice (R321, R338): an owner supplies the data, and one in M or E moves to S. -/
def State.homeRead (s : State) (l : Nat) : State × Line128 × Bool :=
  let x := s.l2Serve l (s.ownerData l) false
  (x.2.shareOwner l, x.1)

/-- A fill arrives: the oldest grant of the cache is installed, unless a maintenance operation has overtaken it, and
the access that waits takes the data from the fill buffer (R320, R321, R323, R334). -/
def State.fill (s : State) (r : Cacher) (code : BusResp) : State :=
  let c := s.cacheOf r
  match c.grants with
  | [] =>
    match c.miss with
    | some (l, _) =>
      if code = .okay ∨ code = .poison then s
      else s.updCache r fun c => { c with miss := none, fills := c.fills ++ [⟨l, code, 0, false⟩] }
    | none => if code = .okay ∨ code = .poison then s else s.updCache r fun c => { c with pf := none }
  | g0 :: rest =>
    let g := { g0 with poison := g0.poison || code == BusResp.poison }
    let code : BusResp := if code = .poison then .okay else code
    let demand := (c.miss.map (·.1)) == some g.line
    let pref := (c.pf.map (·.1)) == some g.line
    let age := s.insAge g.line (if demand || !pref then 1 else 2)
    let keep := code == .okay && !g.gone && (demand || !pref || !g.poison)
    let done (x : Cache) : Cache :=
      { x with grants := rest,
               miss := if demand then none else x.miss,
               pf := if pref then none else x.pf,
               fills := if demand then x.fills ++ [⟨g.line, code, g.data, g.poison⟩] else x.fills }
    if keep then
      let elig := (List.range r.ways).filter fun w => !c.dis.getLsbD w
      let x := (done c).install (r.set g.line) r.ways elig ⟨g.line, g.st, g.data, g.poison⟩ age
      s.updCache r fun _ =>
        match x.2 with
        | some old => { x.1 with evict := x.1.evict ++ [⟨old.line, old.st == .m, old.data, old.poison⟩] }
        | none => x.1
    else
      let s1 := s.updCache r done
      if g.gone then s1 else s1.dirMap g.line fun e => e.forget r.unit

/-- An evicted line reaches its home (R325, R352); it waits where the slice takes no request. -/
def State.evictHome (s : State) (r : Cacher) (l : Nat) (dirty : Bool) (bankQueue : Nat) : State :=
  match (s.cacheOf r).evict.find? fun e => e.line == l && e.dirty == dirty with
  | none => s
  | some ev =>
    if s.homeStall l then s else
    let s1 := s.updCache r fun c => { c with evict := c.evict.erase ev }
    let tracked := s.isPrivate l || (s1.dirEnt l).units.contains r.unit
    let s2 := s1.dirMap l fun e => e.forget r.unit
    let n := homeOf s.cfg l
    if !tracked then s2
    else if dirty then s2.homePut l ev.data ev.poison bankQueue
    else if s2.declines l bankQueue then s2.count (0x200 + n) 5
    else
      let s3 := s2.count (0x200 + n) 4
      match s3.l2Line l with
      | some _ => s3.l2SetAge l 1
      | none => s3.l2Install l (s3.slice n).open ⟨l, .e, ev.data, ev.poison⟩ 1

/-! ## Maintenance by address (R330 to R334). -/

/-- Whether a maintenance operation has anything to act on: lines of stacked memory and host memory (R331). -/
def maintains (l : Nat) : Bool :=
  match spaceOf (128 * l) with
  | .stacked | .host _ => true
  | _ => false

/-- Drop the line from its home slice, counting a locked way (R333); dirty data is written first where `save`. -/
def State.l2Drop (s : State) (l : Nat) (save : Bool) : State :=
  let n := homeOf s.cfg l
  let set := l2Set s.cfg l
  match (s.slice n).l2.find set 16 l with
  | none => s
  | some w =>
    let x := (s.slice n).l2.way set w
    let s1 := if save && x.st == .m then s.memPut l x.data x.poison else s
    s1.updSlice n fun y =>
      { y with l2 := y.l2.setWay set w CLine.off,
               lockedInval := if y.locked.getLsbD w then min (y.lockedInval + 1) 0xFFFF else y.lockedInval }

/-- Dirty data of the home slice goes to memory; its copy stays, clean. -/
def State.l2Clean (s : State) (l : Nat) : State :=
  match s.l2Line l with
  | some x => if x.st = .m then (s.memPut l x.data x.poison).l2Modify l fun y => { y with st := .e } else s
  | none => s

/-- The caches in scope of an operation by `r` (R331). -/
def State.scope (s : State) (r : Cacher) (l : Nat) : List Nat :=
  if s.isPrivate l then [r.unit] else (r.unit :: (s.dirEnt l).units).eraseDups

/-- CLEAN of one line in one cache. -/
def State.cleanCopy (s : State) (q : Cacher) (l : Nat) : State :=
  let t := s.updCache q fun c =>
    { c.modify (q.set l) q.ways l (fun x => if x.st = .m then { x with st := .e } else x) with
      evict := c.evict.map (fun e => if e.line = l then { e with dirty := false } else e),
      grants := c.grants.map fun g => if g.line = l ∧ g.st = .m then { g with st := .e } else g }
  match s.dirtyData q l with
  | none => t
  | some v =>
    let t := t.dropNodes l
    if (t.l2Line l).isSome then t.l2Modify l fun _ => ⟨l, .m, v.1, v.2⟩ else t.memPut l v.1 v.2

/-- CLEAN of one line: dirty data in scope is written to memory, and the copies remain, clean. -/
def State.cleanLine (s : State) (r : Cacher) (l : Nat) : State :=
  if !maintains l then s
  else ((s.scope r l).foldl (fun t u => t.cleanCopy (cacherOf u) l) s).l2Clean l

/-- Invalidate every copy in scope; dirty data is written to memory where `save`, and lost otherwise. -/
def State.invalLine (s : State) (r : Cacher) (l : Nat) (save : Bool) : State :=
  if !maintains l then s else
  let s0 := if save then s.cleanLine r l else s
  let s1 := (s0.scope r l).foldl (fun t u => (t.takeCopy (cacherOf u) l).1) s0
  let s2 := if s1.isPrivate l then s1 else s1.dirMap l fun _ => DirEnt.off
  s2.l2Drop l save

/-- Whether an operation that invalidates the host's copy must wait for it (R331, R340). -/
def State.maintWait (s : State) (l : Nat) (inval : Bool) : Option State :=
  if maintains l then s.homeWait l inval false else none

/-- A line of zeros in M in the cache of `r`, whatever it held of the line (R330). -/
def State.zeroPut (s : State) (r : Cacher) (l : Nat) : State :=
  let c := s.cacheOf r
  let elig := (List.range r.ways).filter fun w => !c.dis.getLsbD w
  let x := c.install (r.set l) r.ways elig ⟨l, .m, 0, false⟩ (s.insAge l 1)
  let ev : List Evicted := match x.2 with
    | some old => x.1.evict ++ [⟨old.line, old.st == .m, old.data, old.poison⟩]
    | none => x.1.evict
  s.updCache r fun _ =>
    { x.1 with evict := ev.filter (fun e => e.line != l),
               grants := x.1.grants.map fun g => if g.line = l then { g with gone := true } else g }

/-- ZERO of one line by `r` (R330), or the state in which it waits for room in the directory (R335). Under WPOL 00 every
other copy goes, that of the home slice too; else zeros are home-written, or written over CXL.io where the line is not cached
(R312). -/
def State.zeroLine (s : State) (r : Cacher) (l : Nat) : Except State State :=
  let wb := (attrOf s.cfg (128 * l)).wpol == 0 && s.cacheable (128 * l)
  let s1 := s.killCopies l (if wb then some r.unit else none)
  if !wb then
    let s2 := (s1.takeCopy r l).1
    .ok (if spaceOf (128 * l) == .stacked || s.cacheable (128 * l) then (s2.homeStore l (BitVec.allOnes 128) 0 false none).1
      else (s2.memWrite l (BitVec.allOnes 128) 0 false).1)
  else
    let s2 := s1.l2Drop l false
    if s.isPrivate l then .ok (s2.zeroPut r l)
    else match s2.dirRoom l with
      | .ok (w, s3) => .ok ((s3.zeroPut r l).dirPut l w ⟨l, [], some r.unit, 0, 0⟩)
      | .error w => .error w

/-- The state in which an LFILL waits: as any read at home, or for the vault to read the line (R321, R327). -/
def State.lfillWait (s : State) (l : Nat) : Option State :=
  match s.homeWait l false false with
  | some t => some t
  | none =>
    let x := s.slice (homeOf s.cfg l)
    if (attrOf s.cfg (128 * l)).lock && !x.lockable.isEmpty && decide (128 * l < stackedBytes) && (s.l2Line l).isNone
        && (s.ownerData l).isNone then some (s.l2Miss l true)
    else none

/-- LFILL of one line (R327): the result, and the state. -/
def State.lfillLine (s : State) (l : Nat) : Nat × State :=
  let n := homeOf s.cfg l
  let set := l2Set s.cfg l
  let elig := (s.slice n).lockable
  if !(attrOf s.cfg (128 * l)).lock then (2, s)
  else if elig.isEmpty then (1, s)
  else
    let s1 := s.shareOwner l
    match (s1.slice n).l2.find set 16 l with
    | some w =>
      if (s1.slice n).locked.getLsbD w then (0, s1.l2Hit l)
      else
        let old := (s1.slice n).l2.way set w
        (0, (s1.updSlice n fun y => { y with l2 := y.l2.setWay set w CLine.off }).l2Install l elig old (s.insAge l 0))
    | none =>
      let d := s1.memRead l
      (0, d.2.l2Install l elig ⟨l, .e, d.1.1, d.1.2⟩ (s.insAge l 0))

/-- Ask for a prefetch of a line, where the cache has none outstanding and does not hold it (R323, R330). -/
def State.prefetch (s : State) (r : Cacher) (l : Nat) (write : Bool) : State :=
  let c := s.cacheOf r
  if c.pf.isSome || (s.held r l).isSome || (c.miss.map (·.1)) == some l || c.grants.any (fun g => g.line == l) || c.busy
      || !(s.cacheable (128 * l)) then s
  else (s.updCache r fun c => { c with pf := some (l, write) }).count r.unit 0x104

end Sys2Proof.Machine
end

