-- ==== Sys2Proof/Machine/Operands.lean ====
section
/-! DEFINITION. Integer operations of the worker and Clove instruction sets on operand values: register operations,
multiply and divide, branch conditions, load extension and atomics (R93 to R98, R381, R382). -/

namespace Sys2Proof.Machine

/-- Sign-extend the low 32 bits. -/
def sx32 (v : W64) : W64 := (v.setWidth 32).signExtend 64

/-- Leading zeros below bit `n`. -/
def leadZeros (v : W64) : Nat → Nat
  | 0 => 0
  | n + 1 => if v.getLsbD n then 0 else leadZeros v n + 1

/-- Trailing zeros, at most 64. -/
def trailZeros (v : W64) : Nat := ((List.range 64).find? fun i => v.getLsbD i).getD 64

/-- One bits. -/
def popCount (v : W64) : Nat := (List.range 64).foldl (fun a i => a + b2n (v.getLsbD i)) 0

/-- Rotate right. -/
def rotRight (v : W64) (k : Nat) : W64 := (v >>> (k % 64)) ||| (v <<< (64 - k % 64))

/-- All ones where the condition holds, else zero. -/
def maskOf (b : Bool) : W64 := if b then BitVec.allOnes 64 else 0

/-- The integer operation of a code; none for an unassigned code (R93). -/
def intOp (code : Nat) (a b : W64) : Option W64 :=
  match code with
  | 0x00 => some (a + b)
  | 0x01 => some (a - b)
  | 0x02 => some (a &&& b)
  | 0x03 => some (a ||| b)
  | 0x04 => some (a ^^^ b)
  | 0x05 => some (a &&& ~~~b)
  | 0x06 => some (a ||| ~~~b)
  | 0x07 => some (a <<< (b.toNat % 64))
  | 0x08 => some (a >>> (b.toNat % 64))
  | 0x09 => some (a.sshiftRight (b.toNat % 64))
  | 0x0A => some (rotRight a (b.toNat % 64))
  | 0x0B => some (maskOf (a.slt b))
  | 0x0C => some (maskOf (a.ult b))
  | 0x0D => some (if a.slt b then a else b)
  | 0x0E => some (if a.slt b then b else a)
  | 0x0F => some (if a.ult b then a else b)
  | 0x10 => some (if a.ult b then b else a)
  | 0x11 => some (BitVec.ofNat 64 (leadZeros a 64))
  | 0x12 => some (BitVec.ofNat 64 (trailZeros a))
  | 0x13 => some (BitVec.ofNat 64 (popCount a))
  | 0x18 => some (sx32 (a + b))
  | 0x19 => some (sx32 (a - b))
  | 0x1A => some (sx32 (a <<< (b.toNat % 32)))
  | 0x1B => some (((a.setWidth 32) >>> (b.toNat % 32)).signExtend 64)
  | 0x1C => some (((a.setWidth 32).sshiftRight (b.toNat % 32)).signExtend 64)
  | _ => none

/-- Codes that take one operand, so that rb is 0 (R93). -/
def intOpUnary (code : Nat) : Bool := code == 0x11 || code == 0x12 || code == 0x13

/-- The immediate forms that exist (R93). -/
def intImmCode (code : Nat) : Bool :=
  [0x00, 0x02, 0x03, 0x04, 0x07, 0x08, 0x09, 0x0A, 0x0B, 0x0C, 0x18, 0x1A, 0x1B, 0x1C].contains code

/-- Whether the immediate of a shift form has its reserved bits zero (R93). -/
def intImmShiftOk (code : Nat) (imm : BitVec 12) : Bool :=
  if [0x07, 0x08, 0x09, 0x0A].contains code then imm.toNat / 64 == 0
  else if [0x1A, 0x1B, 0x1C].contains code then imm.toNat / 32 == 0
  else true

/-- Signed quotient at width `w`, saturating (R94). -/
def divS {w : Nat} (a b : BitVec w) : BitVec w :=
  if b = 0 then (if a.msb then BitVec.intMin w else BitVec.intMax w)
  else if a = BitVec.intMin w ∧ b = BitVec.allOnes w then BitVec.intMax w
  else BitVec.ofInt w (a.toInt.tdiv b.toInt)

/-- Signed remainder at width `w` (R94). -/
def remS {w : Nat} (a b : BitVec w) : BitVec w :=
  if b = 0 then a
  else if a = BitVec.intMin w ∧ b = BitVec.allOnes w then 0
  else BitVec.ofInt w (a.toInt.tmod b.toInt)

/-- Unsigned quotient (R94). -/
def divU {w : Nat} (a b : BitVec w) : BitVec w := if b = 0 then BitVec.allOnes w else a / b

/-- Unsigned remainder (R94). -/
def remU {w : Nat} (a b : BitVec w) : BitVec w := if b = 0 then a else a % b

/-- The multiply or divide of a code; none for an unassigned code (R94). -/
def mulDiv (code : Nat) (a b : W64) : Option W64 :=
  let a32 : BitVec 32 := a.setWidth 32
  let b32 : BitVec 32 := b.setWidth 32
  match code with
  | 0x00 => some (a * b)
  | 0x01 => some (BitVec.ofInt 64 (a.toInt * b.toInt / 2 ^ 64))
  | 0x02 => some (BitVec.ofNat 64 (a.toNat * b.toNat / 2 ^ 64))
  | 0x03 => some (BitVec.ofInt 64 (a.toInt * (b.toNat : Int) / 2 ^ 64))
  | 0x04 => some (divS a b)
  | 0x05 => some (divU a b)
  | 0x06 => some (remS a b)
  | 0x07 => some (remU a b)
  | 0x08 => some ((a32 * b32).signExtend 64)
  | 0x0C => some ((divS a32 b32).signExtend 64)
  | 0x0D => some ((divU a32 b32).signExtend 64)
  | 0x0E => some ((remS a32 b32).signExtend 64)
  | 0x0F => some ((remU a32 b32).signExtend 64)
  | _ => none

/-- A branch condition; none for conditions 6 and 7 (R96). -/
def branchCond (cond : Nat) (a b : W64) : Option Bool :=
  match cond with
  | 0 => some (a == b)
  | 1 => some (a != b)
  | 2 => some (a.slt b)
  | 3 => some (!(a.slt b))
  | 4 => some (a.ult b)
  | 5 => some (!(a.ult b))
  | _ => none

/-- Bytes of a load or store size code (R97). -/
def sizeBytes (sz : Nat) : Nat := if sz = 7 then 16 else 2 ^ (sz / 2)

/-- The value a load of a size code gives for its bytes, up to 8 (R97). -/
def loadValue (sz : Nat) (bs : List Byte) : W64 :=
  let v : W64 := BitVec.ofNat 64 (bytesToNat (bs.take 8))
  match sz with
  | 0 => (v.setWidth 8).signExtend 64
  | 2 => (v.setWidth 16).signExtend 64
  | 4 => (v.setWidth 32).signExtend 64
  | _ => v

/-- The new value an atomic stores, none where a CAS does not match; none of the outer option for an unassigned OP
(R98). `w` is 4 or 8 bytes, `cmp` the compare value. -/
def atomicNew (op w : Nat) (old b cmp : W64) : Option (Option W64) :=
  let f {n : Nat} (o b c : BitVec n) : Option (Option (BitVec n)) :=
    match op with
    | 0x00 => some (some b)
    | 0x01 => some (some (o + b))
    | 0x02 => some (some (o &&& b))
    | 0x03 => some (some (o ||| b))
    | 0x04 => some (some (o ^^^ b))
    | 0x05 => some (some (if o.slt b then o else b))
    | 0x06 => some (some (if o.slt b then b else o))
    | 0x07 => some (some (if o.ult b then o else b))
    | 0x08 => some (some (if o.ult b then b else o))
    | 0x09 => some (if o = c then some b else none)
    | _ => none
  if w = 4 then (f (old.setWidth 32) (b.setWidth 32) (cmp.setWidth 32)).map fun r => r.map fun v => v.setWidth 64
  else f old b cmp

/-- The old value an atomic returns (R98). -/
def atomicOld (w : Nat) (old : W64) : W64 := if w = 4 then sx32 old else old

/-- Whether fn12 of an atomic is assigned, and its size in bytes (R98). -/
def atomicSize (fn : BitVec 12) : Option Nat :=
  let v := fn.toNat
  if field v 7 5 ≠ 0 ∨ 9 < field v 4 0 then none
  else if field v 9 8 = 2 then some 4
  else if field v 9 8 = 3 then some 8
  else none

end Sys2Proof.Machine
end

