-- ==== Sys2Proof/Machine/Clocks.lean ====
section
/-! DEFINITION. When a unit runs: hold levels, gated clocks, the holds of a mode commit and of a held partition
(R65, R71, R475, R478, R502). -/

namespace Sys2Proof.Machine

/-- The hold level of a quadrant: the highest that any rule demands (R475, R476, R477, R483, R484, R486, R553). -/
def State.holdLevel (s : State) (q : Nat) : Nat :=
  max s.nut.capLevel (max (if s.nut.hot90 then 4 else 0) (max (if s.nut.protect then 4 else 0)
    (max s.nut.marginLevel (if s.pins.holdupLow || Tbl.get false s.nut.droopHold q then 8 else 0))))

/-- NUT_STATUS.HOLD_LEVEL: the highest level in force (R475, R496). -/
def State.topLevel (s : State) : Nat := (List.range 4).foldl (fun a q => max a (s.holdLevel q)) 0

/-- Whether the CORE clock of a quadrant reaches its units: no trip, no AVS failure, no relock, and the block not
halted (R467, R472, R478, R503). -/
def State.coreClock (s : State) : Bool := !s.nut.trip && !s.nut.avsHold && !s.clk.relock && !s.boot.halted

/-- Whether some CORE cycle of quadrant `q` is not held, so that workers issue and engines advance (R475). -/
def State.coreRuns (s : State) (q : Nat) : Bool := s.coreClock && decide (s.holdLevel q < 8)

/-- The partitions that a loaded or committing re-shape holds (R65). -/
def State.shapeHeld (s : State) : BitVec 16 :=
  (match s.shape.staged with | some i => i.held | none => 0) ||| (match s.commit.image with | some i => i.held | none => 0)

/-- Whether a partition is held (R65, R502). -/
def State.partHeld (s : State) (p : Nat) : Bool := (s.shapeHeld ||| s.err.partHeld).getLsbD p

/-- Whether core `n` holds work (R65, R71 step 4, R502). -/
def State.coreHeld (s : State) (n : Nat) : Bool :=
  s.appliedUnit n || match s.partOf n with | some p => s.partHeld p | none => false

/-- Whether stream engine `n` accepts no new transfer (R65, R71 step 4, R502). -/
def State.engineHeld (s : State) (n : Nat) : Bool :=
  s.appliedUnit (0x100 + n) || match s.partOf n with | some p => s.partHeld p | none => false

/-- Whether core `n` can issue an instruction: it runs, its tile is on and its clock is not held (R83, R473, R475). -/
def State.canIssue (s : State) (n : Nat) : Bool :=
  (s.core n).run == .running && !s.tileOff n && s.coreRuns (n / 64)

/-- A cache starts no new request while it holds a commit's new setting (R71 step 4). -/
def State.cacheHeld (s : State) (r : Cacher) : Bool := s.appliedUnit r.unit

end Sys2Proof.Machine
end

