-- ==== Sys2Proof/Machine/PowerOps.lean ====
section
/-! DEFINITION. Nutmeg and the clock generator: set-points, operating-point changes, the cap limiter, thermal limits,
the margin planner, droop and the power domains (R465 to R487). -/

namespace Sys2Proof.Machine

/-- BLK_TIME units in a microsecond, a millisecond and a second (R25). -/
def usUnits : Nat := 200
def msUnits : Nat := 200000
def secUnits : Nat := 200000000

/-- Whether BLK_TIME stands at a multiple of `n` units; an HK cycle adds at most 2 units (R25). -/
def State.atTick (s : State) (n : Nat) : Bool := decide (s.now % n < 2)

/-- Whether a periodic activity of Nutmeg has yet to take place in the period of `n` units that BLK_TIME is in; a period is
held to begin at a multiple of its length (log 66). -/
def State.pollDue (s : State) (k n : Nat) : Bool := Tbl.get 0 s.nut.polled k != s.now / n

/-- The activity has taken place. -/
def State.polledNow (s : State) (k n : Nat) : State := s.updNut fun x => { x with polled := Tbl.set 0 x.polled k (s.now / n) }

/-- The least multiple of 5 not below `n` (R471). -/
def ceil5 (n : Nat) : Nat := (n + 4) / 5 * 5

/-- The calibration entry of operating point `i` (R485). -/
abbrev State.dcalOf (s : State) (i : Nat) : DCal := Tbl.get DCal.off s.nut.dcal i

/-- Whether a load lies within the calibrated load of an entry: I_load ≤ 1.25 × I_cal (R485). -/
def DCal.covers (d : DCal) (iLoad : Nat) : Bool := d.present && decide (4 * iLoad ≤ 5 * d.i)

/-- G_droop_eff of an entry (R485, R486). -/
def State.gDroopEff (s : State) (i : Nat) : Nat :=
  if s.nut.staticGb || !(s.dcalOf i).covers s.nut.iLoad then 45 else (s.dcalOf i).g

/-- G_age as the set-points take it: that of a plan which ended during a commit comes in after it (R481). -/
def NutSt.ageNow (n : NutSt) : Tbl Nat := if n.planLate then n.gAgeOld else n.gAge

/-- The set-points of entry `i` under a G_age and a droop guard-band: VCORE, VSRAM, VNOC, VMEMIF in mV (R471). -/
def State.setPointsWith (s : State) (age : Tbl Nat) (i droop : Nat) : List Nat :=
  let e := s.cfg.opAt i
  let gb (r : Nat) : Nat := Tbl.get 0 s.fuse.gb r
  let vc := ceil5 (e.vcore + gb 0 + Tbl.get 0 age i + droop)
  [vc, max (ceil5 (e.vsram + gb 1)) (vc + 50), ceil5 (e.vnoc + gb 2), ceil5 (e.vmemif + gb 3)]

/-- The set-points of entry `i` (R471); VCORE stands at 800 mV while the margin of the entry in force is exhausted
(R483). -/
def State.setPoints (s : State) (i : Nat) : List Nat :=
  let v := s.setPointsWith s.nut.ageNow i (s.gDroopEff i)
  if s.nut.exhausted && i == s.clk.cur then [800, max (v.getD 1 0) 850, v.getD 2 0, v.getD 3 0] else v

/-- Whether entry `i` is usable (R483). -/
def State.opUsable (s : State) (i : Nat) : Bool := decide ((s.setPointsWith s.nut.gAge i 45).getD 0 0 ≤ 800)

/-- Raise an event of NUT_EVENT with its detector (R496, R506). -/
def State.nutEvent (s : State) (bit det info : Nat) : State :=
  (s.updNut fun n => { n with event := n.event ||| BitVec.ofNat 7 (2 ^ bit) }).raise det 0x491 0 info

/-- The entry in force is checked against the margin: it ceases to be usable, or a usable one is in force (R483). -/
def State.checkMargin (s : State) : State :=
  if s.opUsable s.clk.cur then s.updNut fun n => { n with exhausted := false, marginLevel := 0 }
  else
    let e := s.cfg.opAt s.clk.cur
    let bare := ceil5 (e.vcore + Tbl.get 0 s.fuse.gb 0 + Tbl.get 0 s.nut.gAge s.clk.cur)
    let s1 := s.updNut fun n => { n with exhausted := true, marginLevel := if 800 < bare then 8 else 7 }
    if s.nut.exhausted then s1 else s1.nutEvent 4 0x36 s.clk.cur

/-- I_load takes a value: its peak, and the time for which it has stayed within the calibrated load (R485, R486). -/
def State.noteLoad (s : State) (i : Nat) : State :=
  let ok := (s.dcalOf s.clk.cur).covers i
  s.updNut fun n => { n with iLoad := i, iPeak := max n.iPeak i, okSince := if ok then n.okSince.or (some s.now) else none }

/-! ## Operating-point changes (R466, R467). -/

/-- A write of CLK_OP_STG.INDEX (R466). -/
def State.opStage (s : State) (val : W64) : State :=
  let i := val.toNat % 4
  if s.commit.active then { s with commit := { s.commit with stageReject := true } }
  else if s.cfg.op.count ≤ i ∨ !s.nut.usable.getLsbD i then s
  else if i = s.clk.cur then { s with clk := { s.clk with stgIndex := i, stgPend := false, standby := .stopped } }
  else { s with clk := { s.clk with stgIndex := i, stgPend := true, standby := .locking } }

/-- Whether the staged change raises ROOT (R467). -/
def State.opRise (s : State) : Bool := decide (s.clk.mult < (s.cfg.opAt s.clk.stgIndex).mult)

/-- Whether every rail reads back at or above its set-point for the staged entry less 2.5 mV (R467 step 2). -/
def State.railsUp (s : State) : Bool :=
  (List.range 4).all fun r => decide (2 * (s.setPoints s.clk.stgIndex).getD r 0 ≤ 2 * Tbl.get 0 s.nut.mv r + 5)

/-- The quiescent boundaries of the clock generator and of Nutmeg (R467 steps 1 and 2). -/
def State.clockBoundary (s : State) : Bool := s.clk.standby == .locked
def State.nutBoundary (s : State) : Bool := !s.opRise || s.railsUp

/-- The clocks resume at the staged entry (R467 steps 3 and 6). -/
def State.resumeClocks (s : State) : State :=
  let e := s.cfg.opAt s.clk.stgIndex
  { s with clk := { s.clk with relock := false, cur := s.clk.stgIndex, mult := e.mult,
                               switches := min (s.clk.switches + 1) 0xFFFF, standby := .stopped } }

/-! ## Rails (R472, R474, R476). -/

/-- The AVSBus fails three times in a row, which holds the CORE domain; or a read succeeds and releases it (R472). -/
def State.avsFail (s : State) (rail : Nat) : State :=
  let s1 := s.updNut fun n => { n with avsFails := n.avsFails + 1 }
  if s.nut.avsFails + 1 = 3 then (s1.updNut fun n => { n with avsHold := true }).nutEvent 6 0x35 rail else s1

/-- A voltage reading: PROTECT_HOLD ends once VCORE has reached its new set-point (R486 step 3). -/
def State.avsVolts (s : State) (rail v : Nat) : State :=
  let s1 := s.updNut fun n => { n with mv := Tbl.set 0 n.mv rail v, avsFails := 0, avsHold := false }
  if rail = 0 ∧ s.nut.protect ∧ 2 * (s1.setPoints s1.clk.cur).getD 0 0 ≤ 2 * v + 5 then
    s1.updNut fun n => { n with protect := false }
  else s1

/-- A current reading. -/
def State.avsAmps (s : State) (rail v : Nat) : State :=
  let s1 := s.updNut fun n => { n with amps := Tbl.set 0 n.amps rail v, avsFails := 0, avsHold := false }
  if rail = 0 ∧ s.nut.iLoad < v then s1.noteLoad v else s1

/-- The set-point to which Nutmeg takes a rail: that of the staged entry while a commit raises ROOT, else that of the entry in
force; none before an image names entries, and while the clocks relock (R467 steps 2 and 5, R468, R471). -/
def State.railGoal (s : State) (rail : Nat) : Option Nat :=
  if s.cfg.op.count = 0 ∨ s.clk.relock then none
  else (s.setPoints (if s.commit.active && s.commit.withOp && s.opRise then s.clk.stgIndex else s.clk.cur))[rail]?

/-- Whether Nutmeg writes a target voltage now: VSRAM is raised before VCORE and lowered after it (R471). -/
def State.railMay (s : State) (rail val : Nat) : Bool :=
  let at_ (r : Nat) : Nat := Tbl.get 0 s.nut.target r
  s.railGoal rail == some val
    && !(rail == 0 && decide (at_ 0 < val) && decide (at_ 1 < (s.railGoal 1).getD 0))
    && !(rail == 1 && decide (val < at_ 1) && decide ((s.railGoal 0).getD 0 < at_ 0))

/-- One AVSBus transaction (R472). -/
def State.avsDo (s : State) (rail : Nat) (cmd : AvsCmd) (ok : Bool) (val : Nat) : State :=
  if !ok then s.avsFail rail
  else match cmd with
    | .write => if !s.railMay rail val then s else s.updNut fun n => { n with target := Tbl.set 0 n.target rail val, avsFails := 0 }
    | .readMv => s.avsVolts rail val
    | .readAmps => s.avsAmps rail val

/-- P in mW: V × I over the four rails and 15 W for VAON (R474). -/
def State.powerNow (s : State) : Nat :=
  (List.range 4).foldl (fun a r => a + Tbl.get 0 s.nut.mv r * Tbl.get 0 s.nut.amps r) 15000

/-- P_avg in mW, the mean of the last ten samples (R474). -/
def State.powerAvg (s : State) : Nat := s.nut.power.sum / max 1 s.nut.power.length

/-- The cap limiter takes its sample and moves its level, every 100 µs (R474, R476). -/
def State.capStep (s : State) : State :=
  let p := s.powerNow
  let s1 := s.updNut fun n => { n with power := (p :: n.power).take 10, energy := n.energy + p }
  let sum := s1.nut.power.sum
  let cap := s1.nut.capW * 1000 * s1.nut.power.length
  let old := s.nut.capLevel
  let new := if cap < sum then min (old + 1) 7 else if 100 * sum < 97 * cap then old - 1 else old
  s1.updNut fun n => { n with capLevel := new,
                              capSince := if new < 7 then none else if old < 7 then some s.now else n.capSince }

def State.capEval (s : State) : State :=
  if s.pollDue 0 (100 * usUnits) then s.capStep.polledNow 0 (100 * usUnits) else s

/-- The cap limiter has stood at 7 for 10 ms (R476). -/
def State.capSustain (s : State) : State :=
  match s.nut.capSince with
  | some t => if t + 10 * msUnits ≤ s.now ∧ s.nut.capLevel = 7 then
      (s.updNut fun n => { n with capSince := none }).nutEvent 3 0x37 0 else s
  | none => s

/-- A write of NUT_CAP (R496). -/
def State.capWrite (s : State) (val : W64) : State :=
  let w := val.toNat % 4096
  if 1000 ≤ w ∧ w ≤ 2400 then s.updNut fun n => { n with capW := w } else s

/-! ## Thermal limits (R477, R478, R566). -/

/-- THERM_ALERT_N is released once T_die is below WARN − 2 °C with no trip in force (R566). -/
def State.alertCheck (s : State) : State :=
  if s.nut.tDie + 2 < s.nut.warnT ∧ !s.nut.trip then { s with pins := { s.pins with alertOut := false } } else s

/-- Time since which every tier has been below 100 °C (R478). -/
def State.tierCool (s : State) : State :=
  s.updNut fun n => { n with tierCoolSince := if s.tierMax < 100 then n.tierCoolSince.or (some s.now) else none }

/-- A sample of the sensors: warning, 90 °C hold, trip and critical (R477). An event is raised when its threshold is
first met (DEDUCED, log 21). -/
def State.thermal (s : State) (die spine : List Nat) : State :=
  let all := die.take 64 ++ spine.take 4
  let hot := all.foldl max 0
  let at_ := (all.findIdx? (· == hot)).getD 0
  let was := s.nut.tDie
  let s1 := s.updNut fun n =>
    { n with die := Tbl.setMany 0xFF n.die 0 (die.take 64), spine := Tbl.setMany 0xFF n.spine 0 (spine.take 4), tDie := hot,
             warn := decide (n.warnT ≤ hot),
             event := if n.warnT ≤ hot ∧ !n.warn then n.event ||| 1 else n.event,
             hot90 := if 90 ≤ hot then true else if hot < 88 then false else n.hot90,
             coolSince := if hot < 90 then n.coolSince.or (some s.now) else none }
  let s2 := if s.nut.warnT ≤ hot then { s1 with pins := { s1.pins with alertOut := true } } else s1
  let s3 := if 95 ≤ hot then s2.tripNow else s2
  let s4 := if 95 ≤ hot ∧ (was < 95 ∨ !s.nut.trip) then s3.raise 0x30 0x491 0 at_ else s3
  let s5 := if 105 ≤ hot then
      let t := { s4 with pins := { s4.pins with critOut := true } }
      if was < 105 then t.nutEvent 2 0x31 at_ else t
    else s4
  s5.tierCool.alertCheck

/-- The CORE clock resumes (R478). -/
def State.untrip (s : State) : State :=
  let long (t : Option Nat) : Bool := match t with | some x => decide (x + msUnits ≤ s.now) | none => false
  if s.nut.trip && long s.nut.coolSince && long s.nut.tierCoolSince then
    (s.updNut fun n => { n with trip := false, tierHot := false }).alertCheck
  else s

/-! ## The margin planner (R480 to R483). -/

/-- A plan is asked for: one runs, or one more follows the running one (R481), or the one that Nutmeg holds while it has a
commit's new setting (R71). -/
def State.planAsk (s : State) : State :=
  if s.nut.planRunning || s.appliedUnit 0x491 then s.updNut fun n => { n with planAgain := true } else s.updNut fun n => { n with planRunning := true }

/-- Whether a trigger of R481 falls now. -/
def State.planDue (s : State) : Bool :=
  (!s.boot.planDone && s.boot.scanDone) || decide (s.nut.lastPlan + 86400 * secUnits ≤ s.now)
    || (s.atTick (10 * msUnits) && decide (10 ≤ max (s.nut.tDie - s.nut.tPlan) (s.nut.tPlan - s.nut.tDie)))

/-- The PLAN payload: G_age of every entry and the usable entries (R490; the layout is the model's, log 16). -/
def State.planPayload (s : State) : List Byte :=
  ((List.range 4).flatMap fun i => natToBytes (Tbl.get 0 s.nut.gAge i) 2) ++ natToBytes s.nut.usable.toNat 2
    ++ natToBytes s.nut.tPlan 2

/-- The AGEING payload (R488; the order after age[m] is the model's, log 16). -/
def State.agePayload (s : State) : List Byte :=
  ((List.range 268).flatMap fun m => natToBytes (Tbl.get 0 s.nut.age m) 2)
    ++ ((List.range 4).flatMap fun i => natToBytes (Tbl.get 0 s.nut.opSecs i) 4)
    ++ ((List.range 26).flatMap fun b => natToBytes (Tbl.get 0 s.nut.tempSecs b) 4)

/-- The age of a monitor after a plan measures its shift (R480). -/
def aged (old : Nat) (shift : Int) : Nat := max old shift.toNat

/-- A plan ends (R480, R481, R483). -/
def State.planEnd (s : State) (shift : List Int) : State :=
  if !s.nut.planRunning then s else
  let age := (List.range 268).foldl (fun t m => Tbl.set 0 t m (aged (Tbl.get 0 t m) (shift.getD m 0))) s.nut.age
  let w := (List.range 268).foldl (fun a m => max a (Tbl.get 0 age m)) 0
  let gAge := (List.range 4).foldl (fun t i =>
    Tbl.set 0 t i ((Tbl.get 0 s.fuse.sens i * w + Tbl.get 0 s.fuse.tdrift i * 10 + 4999) / 5000 * 5)) s.nut.gAge
  let s1 := s.updNut fun n => { n with age := age, gAge := gAge, tPlan := n.tDie, lastPlan := s.now, planBurst := true,
                                       planRunning := n.planAgain, planAgain := false, planLate := s.commit.active,
                                       gAgeOld := if n.planLate then n.gAgeOld else s.nut.gAge }
  let s2 := s1.updNut fun n =>
    { n with usable := (List.range 4).foldl (fun (a : BitVec 4) i =>
        if i < s1.cfg.op.count ∧ s1.opUsable i then a ||| BitVec.ofNat 4 (2 ^ i) else a) 0 }
  let s3 := { s2 with boot := { s2.boot with planDone := true } }.carRecord 5 s2.planPayload
  let s4 := if s.nut.baselineOnly then s3.carRecord 1 s3.agePayload else s3
  if s.cfg.op.count = 0 then s4 else s4.checkMargin

/-! ## Droop (R484 to R487). -/

/-- A droop sample below the trip level holds its quadrant from the second CORE cycle on, for 64 (R484). -/
def State.droop (s : State) (sensor halfMv : Nat) : State :=
  if halfMv < 2 * ((s.setPoints s.clk.cur).getD 0 0 - s.nut.droopTrip) then
    (s.updNut fun n =>
      { n with droopHold := Tbl.set false n.droopHold (sensor / 16) true,
               droopEnd := Tbl.set 0 n.droopEnd (sensor / 16) (s.time.core + 66) }).raise 0x33 0x491 0 sensor
  else s

/-- The droop hold of a quadrant ends. -/
def State.droopExpire (s : State) (q : Nat) : State :=
  if Tbl.get 0 s.nut.droopEnd q ≤ s.time.core then s.updNut fun n => { n with droopHold := Tbl.set false n.droopHold q false }
  else s

/-- I_load exceeds the calibrated load (R486). -/
def State.validityLoss (s : State) (iLoad : Nat) : State :=
  let d := s.dcalOf s.clk.cur
  if d.present && !d.covers iLoad && (d.covers s.nut.iLoad || !s.nut.staticGb) then
    (s.noteLoad iLoad).updNut fun n => { n with staticGb := true, protect := true, lossAt := some s.now }
  else s

/-- The static guard-band is released (R486). -/
def State.gbRelease (s : State) (iLoad : Nat) : State :=
  let d := s.dcalOf s.clk.cur
  let s1 := s.noteLoad iLoad
  match s1.nut.okSince with
  | some t => if s.nut.staticGb ∧ max t d.made + 10 * msUnits ≤ s.now then s1.updNut fun n => { n with staticGb := false } else s1
  | none => s1

/-- Whether a burst that follows a loss of validity may start now (R487). -/
def State.burstDue (s : State) (iLoad : Nat) : Bool :=
  match s.nut.lossAt with
  | some t => s.atTick (10 * msUnits) && decide (t + secUnits ≤ s.now) && decide (s.now < t + 10 * secUnits)
      && decide (5 * (s.dcalOf s.clk.cur).i < 4 * iLoad)
  | none => false

/-- A calibration burst starts; it waits for gated or relocking clocks (R487, R498). -/
def State.burstStart (s : State) (iLoad : Nat) : State :=
  if s.nut.burst.isSome || !s.coreClock || s.appliedUnit 0x491 then s
  else if s.burstDue iLoad then
    (s.noteLoad iLoad).updNut fun n => { n with burst := some (s.now, false), lossAt := none, staticGb := true }
  else if s.nut.planBurst then
    (s.noteLoad iLoad).updNut fun n => { n with burst := some (s.now, true), planBurst := false, staticGb := true }
  else s

/-- The DROOP_CAL payload: every entry (R490; the layout is the model's, log 16). -/
def State.dcalPayload (s : State) : List Byte :=
  (List.range 4).flatMap fun i =>
    let d := s.dcalOf i
    natToBytes d.i 2 ++ natToBytes d.g 1 ++ natToBytes (b2n d.present) 1

/-- A calibration burst ends (R487). -/
def State.burstEnd (s : State) (d iMax : Nat) : State :=
  match s.nut.burst with
  | none => s
  | some (t, byPlan) =>
    if s.now < t + msUnits then s else
    let old := s.dcalOf s.clk.cur
    let s1 := s.updNut fun n => { n with burst := none }
    let s2 := if 45 < d + 10 then s1.nutEvent 5 0x34 d else s1
    if byPlan ∧ old.present ∧ iMax < old.i ∧ s.now ≤ old.made + 2592000 * secUnits then s2
    else
      let s3 := s2.updNut fun n =>
        { n with dcal := Tbl.set DCal.off n.dcal s.clk.cur ⟨true, min 45 (ceil5 (d + 10)), iMax, s.now⟩ }
      (s3.noteLoad s3.nut.iLoad).carRecord 4 s3.dcalPayload

/-! ## Power domains (R473). -/

/-- Whether every channel of a stream engine and its next-layer slot is IDLE. -/
def State.chansIdle (s : State) (n : Nat) : Bool := (s.core n).chans.all fun e => e.2.st == .idle

/-- Whether TILE n may be asked off (R473). -/
def State.tileMayOff (s : State) (n : Nat) : Bool :=
  let w := s.core n
  (w.run == .halted || w.run == .stopped) && w.jobHead == w.jobTail && s.chansIdle n
    && (match tileTu n with | some m => s.cfg.tuOwner m == 0xFF | none => true)

/-- Whether CLOVE c may be asked off (R473). -/
def State.clvMayOff (s : State) (c : Nat) : Bool :=
  c != 0 && (List.range 8).all fun i => (s.thread (8 * c + i)).run == .halted

/-- A write of NUT_PD_REQ[j]: each bit that asks a domain off is accepted or ignored with PD_REJECT (R473). -/
def State.pdTiles (s : State) (j : Nat) (val : W64) : State :=
  (List.range 64).foldl (fun t i =>
    let n := 64 * j + i
    let want := val.getLsbD i
    if !want then t.updNut fun x => { x with pdReq := x.pdReq &&& ~~~(BitVec.ofNat 256 (2 ^ n)) }
    else if t.nut.pdReq.getLsbD n then t
    else if t.tileMayOff n then t.updNut fun x =>
      { x with pdReq := x.pdReq ||| BitVec.ofNat 256 (2 ^ n), pdAt := Tbl.set 0 x.pdAt n (t.time.hk + 1) }
    else t.updNut fun x => { x with pdReject := true }) s

/-- A write of NUT_PD_CLOVE.REQ; bit 0 reads 0 and ignores writes (R473, R496). -/
def State.pdClove (s : State) (val : W64) : State :=
  (List.range 7).foldl (fun t i =>
    let c := i + 1
    let want := val.getLsbD c
    if !want then t.updNut fun x => { x with clvReq := x.clvReq &&& ~~~(BitVec.ofNat 8 (2 ^ c)) }
    else if t.nut.clvReq.getLsbD c then t
    else if t.clvMayOff c then t.updNut fun x => { x with clvReq := x.clvReq ||| BitVec.ofNat 8 (2 ^ c) }
    else t.updNut fun x => { x with pdReject := true }) s

/-- Take units out of what is staged and out of a commit: an off unit is no participant (R473). -/
def State.unstage (s : State) (us : List Nat) : State :=
  let f (i : StagedImage) : StagedImage := { i with units := i.units.filter fun u => !us.contains u }
  { s with shape := { s.shape with staged := s.shape.staged.map f },
           commit := { s.commit with parts := s.commit.parts.filter (fun u => !us.contains u),
                                     acked := s.commit.acked.filter (fun u => !us.contains u),
                                     image := s.commit.image.map f } }

/-- The units of TILE n that its power domain holds (R473). -/
def tileUnits (n : Nat) : List Nat := [n, 0x100 + n] ++ ((tileTu n).map (0x400 + ·)).toList

/-- A cache whose power returns: every line is invalid, and disabled ways stay so (R329, R473). -/
def Cache.wiped (c : Cache) : Cache := { Cache.off with dis := c.dis, busy := false }

/-- The contents of TILE n return to reset values: core, tile memory, L1, stream engine and traversal unit (R473). -/
def State.tileReset (s : State) (n : Nat) : State :=
  let fp := match s.partOf n with | some p => BitVec.ofNat 4 (s.cfg.partOf p).fpdefault | none => 0
  let s1 := { (s.updCore n fun _ => { Wrk.off with fpdefault := fp }) with
    l1 := Tbl.upd Cache.off s.l1 n Cache.wiped, icache := Tbl.upd Cache.off s.icache n Cache.wiped }
  let s2 := s1.updMem fun x => { x with tile := Tbl.cut (0x40_0000 * n) (0x40_0000 * (n + 1)) x.tile,
                                        tilePoison := Tbl.cut (0x8_0000 * n) (0x8_0000 * (n + 1)) x.tilePoison,
                                        tileErr := Tbl.cut (0x8_0000 * n) (0x8_0000 * (n + 1)) x.tileErr }
  match tileTu n with
  | some m => { s2 with tu := Tbl.set TravUnit.off s2.tu m TravUnit.off, node := Tbl.upd Cache.off s2.node m Cache.wiped }
  | none => s2

/-- The contents of CLOVE c return to reset values (R473). -/
def State.clvReset (s : State) (c : Nat) : State :=
  let s1 := { s with thr := Tbl.cut (8 * c) (8 * c + 8) s.thr, clvCache := Tbl.upd Cache.off s.clvCache c Cache.wiped }
  s1.updMem fun x =>
    { x with tcm := Tbl.cut (0x8_0000 * c) (0x8_0000 * (c + 1)) x.tcm,
             clvPoison := Tbl.cut (0x10_0000 + 0x1_0000 * c) (0x10_0000 + 0x1_0000 * (c + 1)) x.clvPoison }

end Sys2Proof.Machine
end

