-- ==== Sys2Proof/Machine/CarOps.lean ====
section
/-! DEFINITION. Caraway: flash records, the hold-up condition, the record scan, telemetry and the Clove budget (R488 to
R497). -/

namespace Sys2Proof.Machine

/-! ## Records (R490 to R493). -/

/-- CRC-32C of bytes, reflected, with initial value and final inversion of all ones (R490; RFC 3720). -/
def crc32c (bs : List Byte) : Nat :=
  let step (c : BitVec 32) : BitVec 32 := if c.getLsbD 0 then (c >>> 1) ^^^ 0x82F63B78 else c >>> 1
  let byte (c : BitVec 32) (b : Byte) : BitVec 32 := (List.range 8).foldl (fun x _ => step x) (c ^^^ b.setWidth 32)
  (~~~ (bs.foldl byte (BitVec.allOnes 32))).toNat

/-- Pad or cut to `n` bytes. -/
def padTo (n : Nat) (bs : List Byte) : List Byte := bs.take n ++ List.replicate (n - bs.length) 0

/-- The 4 KiB image of a record (R490). -/
def recImage (r : Rec) (seq : Nat) : List Byte :=
  let head := natToBytes 0xCA7A4EC0 4 ++ natToBytes r.type 1 ++ natToBytes (b2n r.fromAon) 1
    ++ natToBytes r.payload.length 2 ++ natToBytes seq 8 ++ natToBytes r.time.toNat 8
  let tail := padTo 4068 (List.replicate 36 0 ++ r.payload)
  head ++ natToBytes (crc32c (head ++ tail)) 4 ++ tail

/-- Pages of the record area (R490). -/
def State.recPages (s : State) : Nat := 16 * s.car.recBlocks

/-- Flash offset of a page. -/
def State.pageAt (s : State) (p : Nat) : Nat := 65536 * s.car.recBase + 4096 * p

/-- The page as it stands in flash. -/
def State.pageBytes (s : State) (p : Nat) : List Byte := Tbl.getMany 0xFF s.mem.flash (s.pageAt p) 4096

/-- Whether a page holds a record whose MAGIC and CRC are right (R493). -/
def recValid (b : List Byte) : Bool :=
  le b 0 4 == 0xCA7A4EC0 && le b 24 4 == crc32c (b.take 24 ++ b.drop 28)

/-- The valid records of the area: page, SEQ and TYPE (R493). -/
def State.recScan (s : State) : List (Nat × Nat × Nat) :=
  (List.range s.recPages).filterMap fun p =>
    let b := s.pageBytes p
    if recValid b then some (p, le b 8 8, le b 4 1) else none

/-- The newest valid record of a type. -/
def newestOf (l : List (Nat × Nat × Nat)) (type : Nat) : Option (Nat × Nat × Nat) :=
  (l.filter fun e => e.2.2 == type).foldl (fun a e =>
    match a with | some x => if x.2.1 < e.2.1 then some e else a | none => some e) none

/-- The records of a block that are the newest of their type (R493). -/
def State.blockKeeps (s : State) (blk : Nat) : List (List Byte) :=
  let l := s.recScan
  (l.filter fun e => e.1 / 16 == blk && newestOf l e.2.2 == some e).map fun e => s.pageBytes e.1

/-- Whether the hold-up energy permits a flash program or an erase (R491). -/
def State.holdupOk (s : State) : Bool :=
  decide (150 ≤ s.car.mj) && match s.car.holdupAt with | some t => decide (s.now < t + 30 * msUnits) | none => false

/-- The start decision takes the energy as it stood at the end of the previous HK cycle (R491, R498). -/
abbrev State.flashMay (s : State) : Bool := s.car.mayStart

/-- A record goes to always-on SRAM after its 16th deferral, or is lost (R492). -/
def CarSt.hold (c : CarSt) (r : Rec) : CarSt :=
  let r := { r with fromAon := true }
  if c.held.length < 16 then { c with held := c.held ++ [r], aonHeld := true }
  else match c.held.find? (fun x => x.type == r.type) with
    | some old => { c with held := c.held.erase old ++ [r], aonHeld := true }
    | none => { c with lost := min (c.lost + 1) 0xFFFF }

/-- A record write is deferred until the next update of CAR_HOLDUP (R492). -/
def State.recDefer (s : State) : State :=
  match s.car.recs with
  | [] => s
  | r :: rest =>
    if s.car.deferred then s else
    let r := { r with defers := r.defers + 1 }
    s.updCar fun c =>
      let c := { c with deferred := true, deferrals := min (c.deferrals + 1) 0xFFFF }
      if 16 ≤ r.defers then ({ c with recs := rest }).hold r else { c with recs := r :: rest }

/-- Caraway starts the next flash operation: at the first page of a block it takes the records to keep and erases the
block, then it programs those records, then held records and new ones (R491 to R493; log 17). It starts nothing while it holds
a commit's new setting (R71). -/
def State.recStart (s : State) : State :=
  if s.car.op ≠ .idle ∨ s.appliedUnit 0x492 ∨ !s.car.recEn ∨ s.car.recBlocks = 0 ∨ (s.car.copies = [] ∧ s.car.held = [] ∧ s.car.recs = []) then s
  else if !s.flashMay then s.recDefer
  else if s.car.page % 16 = 0 ∧ !s.car.erased then
    s.updCar fun c => { c with op := .erase (c.page / 16), copies := s.blockKeeps (c.page / 16) }
  else match s.car.copies, s.car.held, s.car.recs with
    | img :: rest, _, _ => s.updCar fun c => { c with op := .program c.page (le img 4 1) img false, copies := rest }
    | [], r :: _, _ =>
      s.updCar fun c => { c with op := .program c.page r.type (recImage r (c.seq.toNat + 1)) true, seq := c.seq + 1 }
    | [], [], r :: rest =>
      s.updCar fun c => { c with op := .program c.page r.type (recImage r (c.seq.toNat + 1)) false, seq := c.seq + 1, recs := rest }
    | [], [], [] => s

/-- A flash operation completes (R491). -/
def State.flashDone (s : State) : State :=
  match s.car.op with
  | .idle => s
  | .erase b =>
    (s.updMem fun m => { m with flash := Tbl.cut (s.pageAt (16 * b)) (s.pageAt (16 * b + 16)) m.flash }).updCar fun c =>
      { c with op := .idle, erased := true }
  | .program p t img held =>
    let s1 := (s.updMem fun m => { m with flash := Tbl.setMany 0xFF m.flash (s.pageAt p) img }).updCar fun c =>
      { c with op := .idle, erased := false, page := (p + 1) % max 1 (16 * c.recBlocks),
               held := if held then c.held.eraseP fun r => recImage r (le img 8 8) == img else c.held }
    if t = 1 then s1.updNut fun n => { n with baselineOnly := false } else s1

/-- The board writes CAR_HOLDUP (R491, R492). -/
def State.holdupWrite (s : State) (mj : Nat) : State :=
  s.updCar fun c => { c with mj := mj, holdupAt := some s.now, deferred := false }

/-- The record scan at cold reset: the next page, the highest SEQ, and age[m] from the newest AGEING record, raised to
the fused baseline (R482, R492, R493). -/
def State.recScanDone (s : State) : State :=
  let l := s.recScan
  let top : Option (Nat × Nat × Nat) := l.foldl (fun a e =>
    match a with | some x => if x.2.1 < e.2.1 then some e else a | none => some e) none
  let base (m : Nat) : Nat := Tbl.get 0 s.fuse.baseline m
  let ageRec := newestOf l 1
  let age := (List.range 268).foldl (fun t m =>
    Tbl.set 0 t m (match ageRec with | some e => max (base m) (le (s.pageBytes e.1) (64 + 2 * m) 2) | none => base m)) []
  let s1 := s.updCar fun c =>
    { c with seq := BitVec.ofNat 64 (match top with | some e => e.2.1 | none => 0),
             page := (match top with | some e => (e.1 + 1) % max 1 (16 * c.recBlocks) | none => 0), erased := false, copies := [] }
  let s2 := s1.updNut fun n => { n with age := age, baselineOnly := ageRec.isNone }
  { s2 with boot := { s2.boot with scanDone := true } }

/-- The AGEING record falls due (R488). -/
def State.ageDueNow (s : State) : State :=
  if s.car.ageDue ≤ s.now then
    (s.updCar fun c => { c with ageDue := c.ageDue + 2592000 * secUnits }).carRecord 1 s.agePayload
  else s

/-! ## Telemetry (R494, R495). -/

/-- The THERMAL group. -/
def State.teleThermal (s : State) (seq : Nat) : List Byte :=
  let n := s.nut
  let flags := b2n n.warn + 2 * b2n n.hot90 + 4 * b2n n.trip + 8 * b2n (decide (105 ≤ n.tDie)) + 16 * b2n n.tierHot
  padTo 256 (natToBytes seq 8 ++ ((List.range 64).flatMap fun i => natToBytes (Tbl.get 0xFF n.die i) 1)
    ++ ((List.range 4).flatMap fun i => natToBytes (Tbl.get 0xFF n.spine i) 1) ++ natToBytes n.tDie 1
    ++ natToBytes s.tierMax 1 ++ natToBytes flags 1 ++ [0] ++ natToBytes s.now 8)

/-- The POWER group; ENERGY_MJ counts units of 100 nJ down to mJ and saturates. -/
def State.telePower (s : State) (seq : Nat) : List Byte :=
  let n := s.nut
  padTo 256 (natToBytes seq 8 ++ natToBytes s.now 8 ++ ((List.range 4).flatMap fun r => natToBytes (Tbl.get 0 n.mv r) 2)
    ++ ((List.range 4).flatMap fun r => natToBytes (Tbl.get 0 n.amps r) 2) ++ natToBytes (s.powerAvg / 1000) 2
    ++ natToBytes n.capW 2 ++ natToBytes s.topLevel 1 ++ natToBytes s.clk.cur 1 ++ [0, 0]
    ++ natToBytes (min (n.energy / 10000) (2 ^ 64 - 1)) 8)

/-- The MARGIN group. -/
def State.teleMargin (s : State) (seq : Nat) : List Byte :=
  let n := s.nut
  let sp := s.setPoints s.clk.cur
  let flags := b2n n.staticGb + 2 * b2n n.protect + 4 * b2n n.exhausted + 8 * b2n n.baselineOnly
  padTo 256 (natToBytes seq 8 ++ natToBytes s.now 8 ++ ((List.range 4).flatMap fun r => natToBytes (sp.getD r 0) 2)
    ++ natToBytes (Tbl.get 0 n.gAge s.clk.cur) 2 ++ natToBytes (s.gDroopEff s.clk.cur) 2
    ++ natToBytes (s.dcalOf s.clk.cur).i 2 ++ natToBytes n.iPeak 2 ++ natToBytes flags 1 ++ List.replicate 7 0
    ++ natToBytes n.lastPlan 8)

/-- Count one second of residency on each whole second (R488). -/
def State.residency (s : State) : State :=
  if s.now / msUnits % 1000 ≠ 0 then s else
  let add (v : Nat) : Nat := min (v + 1) 0xFFFFFFFF
  s.updNut fun n => { n with opSecs := Tbl.upd 0 n.opSecs s.clk.cur add, tempSecs := Tbl.upd 0 n.tempSecs (n.tDie / 10) add }

/-- Caraway captures the three groups (R494). -/
def State.teleCapture (s : State) : State :=
  if !s.atTick msUnits || !s.pollDue 3 msUnits then s else
  let q := s.car.teleSeq + 1
  let s1 := s.updCar fun c =>
    { c with teleSeq := q,
             teleNow := Tbl.put 0 (s.teleThermal q) (Tbl.put 1 (s.telePower q) (Tbl.put 2 (s.teleMargin q) [])) }
  ((s1.updNut fun n => { n with iPeak := n.iLoad }).polledNow 3 msUnits).residency

/-- An HK cycle ends: its captures are complete, and the hold-up energy is taken for the decisions of the next (R491,
R495). -/
def State.carTick (s : State) : State :=
  s.updCar fun c =>
    { c with mayStart := s.holdupOk, teleNow := [], tele := if c.teleNow.isEmpty then c.tele else c.teleNow }

/-- The capture that an agent has latched. -/
def State.teleHeld (s : State) (a : Agent) (g : Nat) : Option TelLatch :=
  s.car.latches.find? fun l => l.agent == a && l.group == g

/-- A read of a telemetry word: word 0, or a first read, latches the latest capture (R495). -/
def State.teleRead (s : State) (a : Agent) (g word : Nat) : State × W64 :=
  let latest := padTo 256 (Tbl.get [] s.car.tele g)
  let (s1, b) := match s.teleHeld a g with
    | some l => if word = 0 then (s.updCar fun c => { c with latches := c.latches.erase l ++ [⟨a, g, latest⟩] }, latest)
                else (s, l.bytes)
    | none => (s.updCar fun c => { c with latches := c.latches ++ [⟨a, g, latest⟩] }, latest)
  (s1, BitVec.ofNat 64 (le b (8 * word) 8))

/-! ## The Clove budget (R489). -/

/-- The window ends: the share of the CLOVE cycles in which a thread held the task, per mille of 64 threads × the
window's cycles. -/
def State.budgetWindow (s : State) : State :=
  if s.now < s.car.winStart + 100 * msUnits then s else
  let cyc := 64 * (3 * s.time.hk - s.car.winCycle)
  s.updCar fun c => { c with cloveUsed := min (1000 * c.cloveCount / max 1 cyc) 0xFFFF, cloveCount := 0, winStart := s.now,
                             winCycle := 3 * s.time.hk }

/-- Whether Caraway may ready its task: the count of the window does not exceed the budget (R489). -/
def State.budgetLeft (s : State) : Bool :=
  decide (1000 * s.car.cloveCount ≤ s.cfg.budget.clove * 64 * (s.clk.mult * 625000))

end Sys2Proof.Machine
end

