-- ==== Sys2Proof/Machine/SyncOps.lean ====
section
/-! DEFINITION. Semaphores and the barrier network (R295 to R298). -/

namespace Sys2Proof.Machine

/-! ## Semaphores (R295). -/

/-- The semaphore of a pair: FULL at 2p, EMPTY at 2p + 1. -/
def semKey (pair : Nat) (empty : Bool) : Nat := 2 * pair + b2n empty

/-- A post: adds 1, or at 0xFFFF sets the bit of cs.semovf. -/
def Wrk.semPost (w : Wrk) (pair : Nat) (empty : Bool) : Wrk :=
  let v := Tbl.get 0 w.sems (semKey pair empty)
  if v = 0xFFFF then { w with semovf := w.semovf ||| BitVec.ofNat 64 (2 ^ (pair + if empty then 32 else 0)) }
  else { w with sems := Tbl.set 0 w.sems (semKey pair empty) (v + 1) }

/-- A wait that finds the count above 0 removes 1; none where it is 0. -/
def Wrk.semTake (w : Wrk) (pair : Nat) (empty : Bool) : Option (Nat × Wrk) :=
  let v := Tbl.get 0 w.sems (semKey pair empty)
  if v = 0 then none else some (v - 1, { w with sems := Tbl.set 0 w.sems (semKey pair empty) (v - 1) })

/-- Post a semaphore of core `n`; the tile of an off core holds none. -/
def State.semPost (s : State) (n pair : Nat) (empty : Bool) : State :=
  if s.tileOff n then s else s.updCore n fun w => w.semPost pair empty

/-! ## Barriers (R296 to R298). -/

/-- Whether core `n` is a member of a barrier. -/
def Barrier.has (b : Barrier) (n : Nat) : Bool := b.mem.getLsbD n

/-- Every member has arrived. -/
def Barrier.full (b : Barrier) : Bool := b.mem != 0 && b.arrived &&& b.mem == b.mem

/-- A core arrives in the current phase (R297). -/
def State.barMark (s : State) (n b : Nat) : State :=
  s.updBar b fun x => { x with arrived := x.arrived ||| BitVec.ofNat 256 (2 ^ n) }

/-- A phase completes: PHASE increments and each member's bit of cs.bardone is set (R296). -/
def State.barComplete (s : State) (b : Nat) : State :=
  let x := s.bar b
  let s1 := s.updBar b fun x => { x with phase := x.phase + 1, arrived := 0 }
  ((List.range 256).filter x.has).foldl (fun t n =>
    t.updCore n fun w => { w with bardone := w.bardone ||| BitVec.ofNat 64 (2 ^ b) }) s1

/-- A barrier becomes BROKEN (R298). -/
def State.barBreak (s : State) (b : Nat) : State := s.updBar b fun x => { x with broken := true }

/-- Every barrier of which core `n` is a member becomes BROKEN: the core is reset or stopped (R298). -/
def State.breakOf (s : State) (n : Nat) : State :=
  (List.range 64).foldl (fun t b => if (t.bar b).has n then t.barBreak b else t) s

/-- A write of BAR_CTL: EN is set or cleared, PART is written while EN = 0, and clearing EN with arrivals pending
breaks the barrier. Writing EN = 1 after EN = 0 clears BROKEN and the arrivals (R298, R305). -/
def State.barCtl (s : State) (b : Nat) (val : W64) : State :=
  let en := val.getLsbD 0
  s.updBar b fun x =>
    let x1 := if x.en then x else { x with part := field val.toNat 19 16 }
    if x.en && !en then { x1 with en := false, broken := x1.broken || x1.arrived != 0 }
    else if !x.en && en then { x1 with en := true, broken := false, arrived := 0 }
    else x1

/-- A write of BAR_MEMj, ignored while EN = 1 (R305). -/
def State.barMem (s : State) (b j : Nat) (val : W64) : State :=
  s.updBar b fun x =>
    if x.en then x
    else { x with mem := (x.mem &&& ~~~(BitVec.ofNat 256 ((2 ^ 64 - 1) <<< (64 * j)))) ||| BitVec.ofNat 256 (val.toNat <<< (64 * j)) }

/-- ARRIVED, saturating at 255 (R305). -/
def Barrier.count (b : Barrier) : Nat := min 255 (popBits b.arrived.toNat 256)

end Sys2Proof.Machine
end

