-- ==== Sys2Proof/Machine/MemOps.lean ====
section
/-! DEFINITION. Reads and writes of memory by agents that allocate in no cache of their own: stream and DMA engines,
the transport, Saffron, the traversal units and the host ports (R308 to R317, R324, R338). -/

namespace Sys2Proof.Machine

/-- What an access to one line meets: it waits in the given state, or it ends with a response, bytes and poison. -/
inductive BusRes where
  | wait (s : State)
  | done (s : State) (code : BusResp) (bytes : List Byte) (poison : Bool)

/-- The bus response of an address before anything is read or written: where nothing answers, a port that is disabled,
a host whose link is down or that completes the access with an error, or a tile that is off (R308, R312, R418, R420,
R473). -/
def State.busCode (s : State) (a : Nat) : BusResp :=
  match spaceOf a with
  | .stacked => .okay
  | .tile n => if s.tileOff n then .domainOff else .okay
  | .host h =>
    if !s.hostEnabled h then .decode else if !s.hostUp h then .domainOff
    else
      let x := (a - 0x8000_0000_0000) % 0x2000_0000_0000
      if (s.hostPort h).refused.any fun r => decide (r.1 ≤ x ∧ x ≤ r.2) then .perm else .okay
  | _ => .decode

/-- Whether an access to an address is served at its home slice: a cacheable address (R312, R316). -/
abbrev State.atHome (s : State) (a : Nat) : Bool := s.cacheable a

/-- The state in which an access to bytes of one line, address and length, waits: at its home slice, or for its vault. A
home write of a whole line needs no fill (R321, R324, R375). -/
def State.pieceWait (s : State) (p : Nat × Nat) (write : Bool) : Option State :=
  if s.busCode p.1 ≠ .okay then none
  else if s.atHome p.1 then s.homeWait (p.1 / 128) write (write && p.2 != 128)
  else if s.zeroing (p.1 / 128) then some s else none

/-- A read of bytes of one line that does not wait (R338): at the home slice, or for uncached addresses at the target. -/
def State.busReadNow (s : State) (a len : Nat) : State × BusResp × List Byte × Bool :=
  let l := a / 128
  if s.busCode a ≠ .okay then (s, s.busCode a, [], false)
  else match spaceOf a with
    | .tile n => let r := s.tileBytes n (a % 0x40_0000) len
                 (s.tileFind n (a % 0x40_0000) len, .okay, r.1, r.2)
    | _ =>
      if s.atHome a then
        let r := s.homeRead l
        (r.1, .okay, lineSlice r.2.1 (a % 128) len, r.2.2)
      else
        let r := s.memRead l
        (r.2, .okay, lineSlice r.1.1 (a % 128) len, r.1.2)

/-- A write of bytes of one line that does not wait: a home write, or at the target (R324). A partial write into a poisoned
line raises detector 0x3F (R516). `u` is the writer. -/
def State.busWriteNow (s : State) (u a : Nat) (bs : List Byte) (poison : Bool) : State × BusResp :=
  let l := a / 128
  let m := byteMask (a % 128) bs.length
  let d : Line128 := BitVec.ofNat 1024 (bytesToNat bs <<< (8 * (a % 128)))
  if s.busCode a ≠ .okay then (s, s.busCode a)
  else match spaceOf a with
    | .tile n => (s.tileWrite n (a % 0x40_0000) bs poison, .okay)
    | _ =>
      if s.atHome a then (s.homeStoreBy u (128 * l) l m d poison none, .okay)
      else (s.memStoreBy u (128 * l) l m d poison, .okay)

/-- A read of bytes of one line (R338). -/
def State.busRead (s : State) (a len : Nat) : BusRes :=
  match s.pieceWait (a, len) false with
  | some w => .wait w
  | none => let r := s.busReadNow a len
            .done r.1 r.2.1 r.2.2.1 r.2.2.2

/-- A write of bytes of one line. -/
def State.busWrite (s : State) (u a : Nat) (bs : List Byte) (poison : Bool) : BusRes :=
  match s.pieceWait (a, bs.length) true with
  | some w => .wait w
  | none => let r := s.busWriteNow u a bs poison
            .done r.1 r.2 [] false

/-- The pieces of a byte range that lie in one line each: address and length. -/
def linePieces (a len : Nat) : List (Nat × Nat) :=
  if len = 0 then [] else
  (List.range ((a + len - 1) / 128 - a / 128 + 1)).map fun i =>
    let lo := max a (128 * (a / 128 + i))
    (lo, min (a + len) (128 * (a / 128 + i + 1)) - lo)

/-- The state in which a range access waits at its first line that must, none where every line may be served. -/
def State.rangeWait (s : State) (a len : Nat) (write : Bool) : Option State :=
  (linePieces a len).findSome? fun p => s.pieceWait p write

/-- A read of a range of bytes once no line waits: the first response that is not OKAY ends it. -/
def State.rangeRead (s : State) (a len : Nat) : State × BusResp × List Byte × Bool :=
  (linePieces a len).foldl (fun (r : State × BusResp × List Byte × Bool) p =>
    if r.2.1 ≠ .okay then r else
    let x := r.1.busReadNow p.1 p.2
    (x.1, x.2.1, r.2.2.1 ++ x.2.2.1, r.2.2.2 || x.2.2.2)) (s, .okay, [], false)

/-- A write of a range of bytes once no line waits. -/
def State.rangeWrite (s : State) (u a : Nat) (bs : List Byte) (poison : Bool) : State × BusResp :=
  (linePieces a bs.length).foldl (fun (r : State × BusResp) p =>
    if r.2 ≠ .okay then r else r.1.busWriteNow u p.1 ((bs.drop (p.1 - a)).take p.2) poison) (s, .okay)

/-- Whether every byte of a range lies where memory answers. -/
def State.rangeOkay (s : State) (a len : Nat) : Bool :=
  (linePieces a len).all fun p => s.busCode p.1 == .okay

end Sys2Proof.Machine
end

