-- ==== Sys2Proof/Machine/LinkOps.lean ====
section
/-! DEFINITION. Link ports and their flits, the transport, the block group with its manager and barriers, and the
collective contexts (R436 to R464). -/

namespace Sys2Proof

/-- Bytes of a packet: the header and its data padded to 16 B (R442). -/
def Packet.size (k : Packet) : Nat := 32 + (k.data.length + 15) / 16 * 16

/-- Credits a packet occupies (R439). -/
def Packet.credits (k : Packet) : Nat := (k.size + 63) / 64

/-- The data of a heartbeat: the live mask, the manager, the term and the stage of its sender (R457; log 16). -/
def beatBody (live : W64) (mgr : Nat) (term : BitVec 32) (stage : Nat) : List Byte :=
  natToBytes live.toNat 8 ++ natToBytes mgr 1 ++ natToBytes term.toNat 4 ++ natToBytes stage 8

/-- A packet whose data begin with those of a heartbeat, as far as its length goes. -/
def Packet.beat (k : Packet) (live : W64) (mgr : Nat) (term : BitVec 32) (stage : Nat) : Packet :=
  { k with data := (beatBody live mgr term stage ++ k.data.drop 21).take k.data.length }

/-- Whether packets of an opcode carry LEN bytes of data: all but GET, ACK and NACK (R442). -/
def opData (op : Nat) : Bool := op != 2 && op != 0x11 && op != 0x12

/-- The opcodes (R442). -/
def opListed (op : Nat) : Bool := [1, 2, 3, 4, 0x10, 0x11, 0x12, 0x18, 0x19, 0x1A, 0x1B, 0x1C, 0x1D].contains op

end Sys2Proof

namespace Sys2Proof.Machine

/-! ## Packets, flits and frames as bytes (R438, R442, R450). -/

/-- A packet as bytes (R442). -/
def packetBytes (k : Packet) : List Byte :=
  natToBytes (k.op + 32) 1 ++ natToBytes (k.vc + 4 * b2n k.ece + 8 * b2n k.poison) 1 ++ natToBytes k.src.val 1
    ++ natToBytes k.dst.val 1 ++ natToBytes k.part 1 ++ natToBytes k.hops 1 ++ natToBytes k.len 2 ++ natToBytes k.psn 4
    ++ natToBytes k.tag 4 ++ natToBytes k.addr 8 ++ natToBytes k.attr 4 ++ [0, 0, 0, 0]
    ++ padTo ((k.data.length + 15) / 16 * 16) k.data

/-- The bytes that a packet takes up, by its header (R442). -/
def headSize (b : List Byte) : Nat := 32 + (if opData (le b 0 1 % 32) then (le b 6 2 + 15) / 16 * 16 else 0)

/-- The packet that bytes hold; none where its header is malformed (R442). -/
def packetOf (b : List Byte) : Option Packet :=
  let op := le b 0 1 % 32
  let len := le b 6 2
  if le b 0 1 / 32 = 1 ∧ opListed op ∧ le b 1 1 < 16 ∧ le b 2 1 < 64 ∧ le b 3 1 < 64 ∧ le b 4 1 ≤ 16 ∧ le b 5 1 ≤ 3
      ∧ len ≤ 4096 ∧ le b 8 4 < 2 ^ 24 ∧ le b 16 8 < 2 ^ 52 ∧ le b 28 4 = 0 then
    some { op := op, vc := le b 1 1 % 4, ece := bitOf (le b 1 1) 2, poison := bitOf (le b 1 1) 3, src := Fin.ofNat 64 (le b 2 1),
           dst := Fin.ofNat 64 (le b 3 1), part := le b 4 1, hops := le b 5 1, len := len, psn := le b 8 4, tag := le b 12 4,
           addr := le b 16 8, attr := le b 24 4, data := if opData op then (b.drop 32).take len else [] }
  else none

/-- The packets that lie whole in a stream of slots, back to back with zero slots between, and what is left of the stream; a
malformed one is none. `fuel` bounds the slots (R438). -/
def packetsOf : Nat → List Byte → List (Option Packet) × List Byte
  | 0, b => ([], b)
  | fuel + 1, b =>
    if b.length < 16 then ([], b)
    else if (b.take 16).all (· == 0) then packetsOf fuel (b.drop 16)
    else if b.length < 32 ∨ b.length < headSize b then ([], b)
    else
      let r := packetsOf fuel (b.drop (headSize b))
      (packetOf (b.take (headSize b)) :: r.1, r.2)

/-- A flit of 432 bytes (R438). -/
def flitBytes (fseq ackseq : BitVec 12) (nak : Bool) (credit : List Nat) (ctl lane : Nat) (slots : List Byte) : List Byte :=
  let head := natToBytes fseq.toNat 2 ++ natToBytes (ackseq.toNat + 0x8000 * b2n nak) 2
    ++ natToBytes ((List.range 4).foldl (fun a v => a + credit.getD v 0 * 2 ^ (12 * v)) 0) 6 ++ natToBytes (ctl + 16 * lane) 2
  let body := padTo 416 slots
  head ++ natToBytes (crc32c (head ++ body)) 4 ++ body

/-- Whether a flit passes its CRC (R438). -/
def flitGood (b : List Byte) : Bool := b.length == 432 && le b 12 4 == crc32c (b.take 12 ++ b.drop 16)

/-- Credits that a flit returns for a virtual channel. -/
def flitCredit (b : List Byte) (v : Nat) : Nat := field (le b 4 6) (12 * v + 11) (12 * v)

/-- Bytes of a number, most significant first. -/
def bigBytes (v n : Nat) : List Byte := (natToBytes v n).reverse

/-- The ones'-complement sum of 16-bit words, as the UDP checksum takes it. -/
def onesSum (bs : List Byte) : Nat :=
  let words := (List.range ((bs.length + 1) / 2)).map fun i => (bs.getD (2 * i) 0).toNat * 256 + (bs.getD (2 * i + 1) 0).toNat
  words.foldl (fun a w => if a + w < 65536 then a + w else a + w - 65535) 0

/-- CRC-32 of IEEE 802.3, which the frame check sequence is. -/
def crc32 (bs : List Byte) : Nat :=
  let step (c : BitVec 32) : BitVec 32 := if c.getLsbD 0 then (c >>> 1) ^^^ 0xEDB88320 else c >>> 1
  let byte (c : BitVec 32) (b : Byte) : BitVec 32 := (List.range 8).foldl (fun x _ => step x) (c ^^^ b.setWidth 32)
  (~~~ (bs.foldl byte (BitVec.allOnes 32))).toNat

/-- The frame of a transport packet (R450); `hash` is the port-selection hash. -/
def frameBytes (x : LinkPort) (dstIp : BitVec 128) (hash : Nat) (k : Packet) : List Byte :=
  let pay := packetBytes k
  let tclass := field x.dscp.toNat (6 * k.vc + 5) (6 * k.vc) * 4 + 2
  let ips := bigBytes x.ip.toNat 16 ++ bigBytes dstIp.toNat 16
  let ports := bigBytes (0xC000 + hash % 0x4000) 2 ++ bigBytes 49871 2 ++ bigBytes (8 + pay.length) 2
  let sum := 65535 - onesSum (ips ++ bigBytes (8 + pay.length) 4 ++ [0, 0, 0, 17] ++ ports ++ [0, 0] ++ pay)
  let frame := bigBytes x.nexthop.toNat 6 ++ bigBytes x.mac.toNat 6 ++ [0x86, 0xDD]
    ++ bigBytes (6 * 2 ^ 28 + tclass * 2 ^ 20 + hash % 2 ^ 20) 4 ++ bigBytes (8 + pay.length) 2 ++ [17, 64] ++ ips
    ++ ports ++ bigBytes (if sum = 0 then 65535 else sum) 2 ++ pay
  frame ++ natToBytes (crc32 frame) 4

/-! ## Ports (R436 to R441, R445). -/

/-- MODE of a port: 0 off, 1 Umbale, 2 Ethernet (R54). -/
abbrev State.linkMode (s : State) (p : Nat) : Nat := (s.cfg.linkOf p).mode

/-- The UP ports of the route to block `b`, ascending (R445). -/
def State.routeUp (s : State) (b : Nat) : List Nat :=
  (List.range 32).filter fun p => (Tbl.get 0 s.grp.route b).getLsbD p && (s.port p).st == .up

/-- Whether a port carries a packet class by the selection hash: VC0 requests and VC2 (R445). -/
def hashed (vc : Nat) : Bool := vc == 0 || vc == 2

/-- The port-selection hash; `unit` is the requester (R445). -/
def selHash (unit addr : Nat) : Nat := unit ^^^ field addr 31 12

/-- The port of a packet to block `b` (R445). -/
def State.portFor (s : State) (b vc unit addr : Nat) : Option Nat :=
  let ps := s.routeUp b
  if hashed vc then (if ps.isEmpty then none else ps[selHash unit addr % ps.length]?) else ps.head?

/-- Credits of a virtual channel's receive buffer (R439). -/
def vcCredits (vc : Nat) : Nat := if vc = 0 then 2048 else if vc = 1 then 2048 else if vc = 2 then 1024 else 256

/-- MAXPAY of a port in bytes (R461). -/
def LinkPort.payload (x : LinkPort) : Nat := 1024 * 2 ^ x.maxpay

/-- Flits that the lanes' transmit FIFOs take: 32 entries of 128 bits for each lane in service, which carry 514 of every 544
bits (R437, R568). -/
def LinkPort.fifoRoom (x : LinkPort) : Nat := 32 * 16 * popBits x.lanes.toNat 8 * 514 / (432 * 544)

/-- Flits that may be sent now: room in the FIFOs, and in the replay buffer of 1,024 (R440, R568). -/
def LinkPort.flitRoom (x : LinkPort) : Nat := min (1024 - x.replay.length) (x.fifoRoom - x.fifo)

/-- The credits owed that one flit can return. -/
def LinkPort.credNow (x : LinkPort) : List Nat := (List.range 4).map fun v => min (Tbl.get 0 x.credOwed v) 0xFFF

/-- Send a flit with these slots and credits: it carries ACKSEQ, a NAK and a control code that wait, and stays in the replay
buffer until an ACKSEQ covers it (R438 to R441). -/
def LinkPort.sendFlit (x : LinkPort) (credit : List Nat) (slots : List Byte) : LinkPort :=
  { x with replay := x.replay ++ [⟨x.txSeq, flitBytes x.txSeq x.rxSeq x.nak credit x.ctl x.ctlLane slots⟩], txSeq := x.txSeq + 1,
           nak := false, ctl := 0, fifo := x.fifo + 1,
           credOwed := (List.range 4).foldl (fun t v => Tbl.upd 0 t v (· - credit.getD v 0)) x.credOwed }

/-- What may leave an Umbale port: the packets, those that wait on, and the credits used, each VC in order (R439). -/
structure Leaving where
  go : List OutPkt
  stay : List OutPkt
  used : Tbl Nat
  size : Nat
  shut : BitVec 4

/-- Choose the packets that may leave: each with its credits, and all within the room for flits. -/
def LinkPort.leaving (x : LinkPort) : Leaving :=
  x.txq.foldl (fun (r : Leaving) o =>
    let k := o.pkt
    if !r.shut.getLsbD k.vc && decide (Tbl.get 0 r.used k.vc + k.credits ≤ vcCredits k.vc)
        && decide ((r.size + k.size + 415) / 416 ≤ x.flitRoom) then
      { r with go := r.go ++ [o], used := Tbl.upd 0 r.used k.vc (· + k.credits), size := r.size + k.size }
    else { r with stay := r.stay ++ [o], shut := r.shut ||| BitVec.ofNat 4 (2 ^ k.vc) }) ⟨[], [], x.credUsed, 0, 0⟩

/-- Whether some packet waits for credits alone (R463). -/
def LinkPort.starved (x : LinkPort) : Bool :=
  x.txq.any fun o => decide (vcCredits o.pkt.vc < Tbl.get 0 x.credUsed o.pkt.vc + o.pkt.credits)

/-- Send every packet of an Umbale port that may leave, back to back in the slots of its flits; with none, a NAK or a control
code that waits goes in a flit of zero slots (R438 to R441). -/
def State.pumpFlits (s : State) (p : Nat) : State :=
  let x := s.port p
  let r := x.leaving
  let bytes := r.go.flatMap fun o => packetBytes o.pkt
  let n := if r.go.isEmpty then (if (x.nak || x.ctl != 0) && decide (0 < x.flitRoom) then 1 else 0) else (r.size + 415) / 416
  ((s.updPort p fun x =>
    (List.range n).foldl (fun y i => y.sendFlit y.credNow ((bytes.drop (416 * i)).take 416))
      { x with txq := r.stay, credUsed := r.used }).countBy (0x460 + p) 1 n).countBy (0x460 + p) 3 r.go.length

/-- Send every frame of an Ethernet port whose VC is not paused (R450, R452). -/
def State.pumpFrames (s : State) (p : Nat) : State :=
  let x := s.port p
  let go := x.txq.filter fun o => !x.paused.getLsbD o.pkt.vc
  (s.updPort p fun x =>
    { x with txq := x.txq.filter fun o => x.paused.getLsbD o.pkt.vc,
             frame := go.foldl (fun _ o => frameBytes x (Tbl.get 0 s.grp.peerIp o.pkt.dst.val) (selHash o.unit o.pkt.addr) o.pkt) x.frame
      }).countBy (0x460 + p) 3 go.length

/-- Send what may leave. -/
def State.pump (s : State) (p : Nat) : State := if s.linkMode p = 1 then s.pumpFlits p else s.pumpFrames p

/-- An HK cycle of the link side: the lanes take what stands in their FIFOs; where nothing stood there, the port sends a flit
whose slots are all zero (R568; how many flits a cycle carries is timing, log 5). -/
def State.lanesTick (s : State) (p : Nat) : State :=
  let x := s.port p
  if x.st ≠ .up ∨ s.linkMode p ≠ 1 then s
  else
    let s1 := if x.fifo = 0 ∧ x.replay.length < 1024 then
        (s.updPort p fun y => y.sendFlit y.credNow []).count (0x460 + p) 1 else s
    (s1.updPort p fun y => { y with fifo := 0 }).pump p

/-- Put a packet on a port. -/
def State.transmit (s : State) (p unit : Nat) (k : Packet) : State :=
  (s.updPort p fun x => { x with txq := x.txq ++ [⟨k, unit⟩] }).pump p

/-- The link goes to DOWN (R440, R441, R501, R503). What it had not delivered the transport retransmits (R444). -/
def State.linkDown (s : State) (p : Nat) : State :=
  let x := s.port p
  if x.st = .disabled ∨ x.st = .down then s else
  (s.updPort p fun x => { x with st := .down, lanes := 0, nak := false, discard := false, rxPart := [], replayDue := false,
                                 replayed := false, fails := 0, ctl := 0, replay := [], fifo := 0, txq := [], credUsed := [],
                                 rxq := [], credOwed := [], paused := 0, xoff := 0, laneFix := [] }).raise
    0x23 (0x460 + p) 0 x.peerBlock

/-- Count one on an error counter of a port, with detector 0x41 on saturation (R461, R513). -/
def State.linkCount (s : State) (p : Nat) (get : LinkPort → Nat) (set : LinkPort → Nat → LinkPort) : State :=
  let r := s.satCount (get (s.port p)) (0x460 + p) 0x20
  r.2.updPort p fun x => set x r.1

/-- A packet or frame is discarded (R445, R450). -/
def State.fwdDrop (s : State) (p reason : Nat) : State :=
  (s.linkCount p (·.fwdDrop) (fun x v => { x with fwdDrop := v })).raise 0x24 (0x460 + p) 0 reason

/-- Credits of a virtual channel's receive buffer that packets occupy (R439). -/
def LinkPort.rxUsed (x : LinkPort) (vc : Nat) : Nat := (x.rxq.filter fun j => j.pkt.vc == vc).foldl (fun a j => a + j.pkt.credits) 0

/-- With PFC, XOFF is sent for a VC whose buffer is more than three quarters full, and XON when it is below one half
(R452). -/
def State.pfcCheck (s : State) (p : Nat) : State :=
  if s.linkMode p ≠ 2 ∨ !bitOf (s.cfg.linkOf p).flags 0 then s else
  s.updPort p fun x => { x with xoff := (List.range 4).foldl (fun (m : BitVec 4) v =>
    if 3 * vcCredits v < 4 * x.rxUsed v then m ||| BitVec.ofNat 4 (2 ^ v)
    else if 2 * x.rxUsed v < vcCredits v then m &&& ~~~(BitVec.ofNat 4 (2 ^ v)) else m) x.xoff }

/-- A frame of an Ethernet port brings its packet into the receive buffer; one for which there is no room is lost, and the
sender's retransmission recovers it (R439, R444, R450). -/
def State.frameIn (s : State) (p : Nat) (k : Packet) : State :=
  if s.linkMode p ≠ 2 ∨ (s.port p).st ≠ .up ∨ (s.port p).rxq.any (fun j => j.pkt == k)
      ∨ vcCredits k.vc < (s.port p).rxUsed k.vc + k.credits then s
  else ((s.updPort p fun x => { x with rxq := x.rxq ++ [⟨k, s.now⟩] }).count (0x460 + p) 4).pfcCheck p

/-- A packet leaves the receive buffer, and on an Umbale port its credits are owed to the partner (R439). None where the packet
is not the first of its virtual channel there. -/
def State.takeRx (s : State) (p : Nat) (k : Packet) : Option State :=
  if (s.port p).st ≠ .up then none
  else match (s.port p).rxq.find? fun j => j.pkt.vc == k.vc with
    | none => none
    | some j =>
      if j.pkt ≠ k then none
      else some ((s.updPort p fun x =>
        { x with rxq := x.rxq.erase j,
                 credOwed := if s.linkMode p = 1 then Tbl.upd 0 x.credOwed k.vc (· + k.credits) else x.credOwed }).pfcCheck p)

/-- Lanes in service. -/
def LinkPort.width (x : LinkPort) : Nat := popBits x.lanes.toNat 8

/-- A lane is dropped at this end: the link realigns and replays, or goes to DOWN below MIN_WIDTH (R441). -/
def State.dropLane (s : State) (p lane : Nat) : State :=
  let bit := BitVec.ofNat 8 (2 ^ lane)
  let s1 := s.updPort p fun x =>
    { x with retired := x.retired ||| bit, lanes := x.lanes &&& ~~~bit, replayDue := !x.replay.isEmpty,
             laneFix := Tbl.set 0 x.laneFix lane 0 }
  let s2 := s1.raise 0x22 (0x460 + p) 0 lane
  if (s1.port p).width < (s1.port p).minWidth then s2.linkDown p else s2

/-- Remove from the replay buffer what ACKSEQ covers (R440). -/
def LinkPort.covered (x : LinkPort) (ack : BitVec 12) : LinkPort :=
  let keep := x.replay.filter fun e => decide (2048 ≤ (ack - e.fseq).toNat)
  let moved := decide (keep.length < x.replay.length)
  { x with replay := keep, fails := if moved then 0 else x.fails, replayed := x.replayed && !moved }

/-- A NAK arrives: a replay is due, and one more of the oldest flit has failed where it had been replayed (R440). -/
def LinkPort.nakIn (x : LinkPort) : LinkPort :=
  { x with replayDue := true, fails := if x.replayed then x.fails + 1 else x.fails, replayed := false }

/-- FEC has corrected symbols, counted by lane in each millisecond of BLK_TIME (R441). -/
def LinkPort.fecFix (x : LinkPort) (ms : Nat) (fixed : List (Fin 8)) : LinkPort :=
  { x with laneMs := ms,
           laneFix := fixed.foldl (fun t l => Tbl.upd 0 t l.val (· + 1)) (if x.laneMs = ms then x.laneFix else []) }

/-- Corrected codewords are counted (R461, R504). -/
def State.fecCount (s : State) (p words : Nat) (fixed : List (Fin 8)) : State :=
  (List.range words).foldl (fun t _ =>
    (t.linkCount p (·.fecCe) (fun x v => { x with fecCe := v })).raise 0x20 (0x460 + p) 0 ((fixed.headD 0).val))
    (s.updPort p fun x => x.fecFix (s.now / msUnits) fixed)

/-- The receiver starts to discard, and asks for a replay (R440). -/
def LinkPort.ask (x : LinkPort) : LinkPort := { x with nak := true, discard := true }

/-- A flit in order is taken: what it acknowledges, its credits, its control code and the packets in its slots (R438 to
R441). A malformed packet is discarded (log 70). -/
def State.flitTake (s : State) (p : Nat) (b : List Byte) : State :=
  let u := 0x460 + p
  let stream := (s.port p).rxPart ++ b.drop 16
  let got := packetsOf (stream.length / 16 + 1) stream
  let good := got.1.filterMap id
  let s1 := (s.count u 2).updPort p fun x =>
    let x := x.covered (BitVec.ofNat 12 (le b 2 2))
    let x := if bitOf (le b 2 2) 15 then x.nakIn else x
    { x with discard := false, rxSeq := BitVec.ofNat 12 (le b 0 2), rxPart := got.2,
             credUsed := (List.range 4).foldl (fun t v => Tbl.upd 0 t v (· - flitCredit b v)) x.credUsed,
             rxq := x.rxq ++ good.map fun k => ⟨k, s.now⟩ }
  let s2 := (got.1.filter Option.isNone).foldl (fun t _ =>
    (t.linkCount p (·.rxDiscard) (fun x v => { x with rxDiscard := v })).raise 0x24 u 0 0) (s1.countBy u 4 good.length)
  if 32 ≤ (s2.port p).fails then s2.linkDown p
  else
    let ctl := field (le b 10 2) 3 0
    let lane := field (le b 10 2) 6 4
    let s3 := if (ctl = 1 ∨ ctl = 2) ∧ (s2.port p).lanes.getLsbD lane then s2.dropLane p lane else s2
    if (s3.port p).st ≠ .up then s3
    else (if ctl = 1 then s3.updPort p fun x => { x with ctl := 2, ctlLane := lane } else s3).pump p

/-- A flit arrives at an Umbale port: `words` codewords had symbols corrected, on the lanes `fixed`, and `bad` tells that the
flit lies in an uncorrectable one (R438 to R441). -/
def State.flitIn (s : State) (p : Nat) (b : List Byte) (words : Nat) (fixed : List (Fin 8)) (bad : Bool) : State :=
  let u := 0x460 + p
  if (s.port p).st ≠ .up ∨ s.linkMode p ≠ 1 then s else
  let s1 := s.fecCount p words fixed
  if bad || !flitGood b then
    (((s1.linkCount p (·.fecUe) (fun x v => { x with fecUe := v })).updPort p LinkPort.ask).raise 0x21 u 0
      (le b 0 2 % 4096)).pump p
  else
    let ahead := (BitVec.ofNat 12 (le b 0 2) - ((s1.port p).rxSeq + 1)).toNat
    if ahead = 0 then s1.flitTake p b
    else if 2048 ≤ ahead || (s1.port p).discard then s1
    else (s1.updPort p LinkPort.ask).pump p

/-- The transmitter replays from the oldest flit not covered (R440). -/
def State.flitReplay (s : State) (p : Nat) : State :=
  let x := s.port p
  if x.st ≠ .up ∨ !x.replayDue then s
  else (s.linkCount p (·.retry) (fun x v => { x with retry := v })).updPort p fun x => { x with replayDue := false, replayed := true }

/-- Whether FEC has corrected more symbols on a lane within this millisecond than LNK_LANE_THRESH allows (R441). -/
def State.laneBad (s : State) (p lane : Nat) : Bool :=
  let x := s.port p
  x.laneMs == s.now / msUnits && decide (x.laneThresh < Tbl.get 0 x.laneFix lane)

/-- A lane loses lock, or exceeds its threshold: RETIRE goes out and the lane is dropped (R441). -/
def State.laneRetire (s : State) (p lane : Nat) (lock : Bool) : State :=
  let x := s.port p
  if x.st ≠ .up then s
  else if s.linkMode p = 2 then (if lock then s.linkDown p else s)
  else if !x.lanes.getLsbD lane || !(lock || s.laneBad p lane) then s
  else ((s.updPort p fun x => { x with ctl := 1, ctlLane := lane }).dropLane p lane).pump p

/-- LNK_CTRL.TRAIN (R437, R461). -/
def State.linkTrain (s : State) (p : Nat) : State :=
  let x := s.port p
  let c := s.cfg.linkOf p
  if !s.grp.en ∨ c.mode = 0 ∨ (x.st ≠ .disabled ∧ x.st ≠ .down) ∨ (c.mode = 2 ∧ c.lanes ≠ 0xFF) then s
  else s.updPort p fun x =>
    let ret := if x.lanesBack then 0 else x.retired
    { x with st := .training, retired := ret, lanesBack := false, lanes := c.lanes &&& ~~~ret, txSeq := 0, rxSeq := 0xFFF, laneFix := [] }

/-- Training ends: UP with a partner of the group, FOREIGN otherwise (R456). -/
def State.linkTrained (s : State) (p : Nat) (group : BitVec 32) (block port : Nat) : State :=
  if (s.port p).st ≠ .training then s
  else s.updPort p fun x =>
    { x with st := if group = s.grp.id ∧ s.grp.members.getLsbD block then .up else .foreign, peerBlock := block, peerPort := port }

/-! ## Connections (R444). -/

abbrev State.conn (s : State) (b vc : Nat) : Conn := Tbl.get Conn.off s.grp.conns (4 * b + vc)
def State.updConn (s : State) (b vc : Nat) (f : Conn → Conn) : State :=
  s.updGrp fun g => { g with conns := Tbl.upd Conn.off g.conns (4 * b + vc) f }

/-- Send a numbered packet: it takes the next PSN, or waits while 1,024 are unacknowledged (R444). `unit` selects the
port (R445). -/
def State.connSend (s : State) (unit : Nat) (k : Packet) : State :=
  let c := s.conn k.dst k.vc
  if 1024 ≤ c.unacked.length then s.updConn k.dst k.vc fun c => { c with waiting := c.waiting ++ [⟨k, unit⟩] }
  else
    let k := { k with psn := c.next.toNat }
    let s1 := s.updConn k.dst k.vc fun c =>
      { c with next := c.next + 1, since := if c.unacked.isEmpty then s.now else c.since, unacked := c.unacked ++ [⟨k, unit⟩] }
    match s1.portFor k.dst k.vc unit k.addr with
    | some p => s1.transmit p unit k
    | none => s1

/-- A packet from this block with nothing set. -/
def State.pkt (s : State) (op vc dst : Nat) : Packet :=
  { op := op, vc := vc, ece := false, poison := false, src := Fin.ofNat 64 s.grp.self, dst := Fin.ofNat 64 dst, part := 0x10, hops := 3,
    len := 0, psn := 0, tag := 0, addr := 0, attr := 0, data := [] }

/-- Send an acknowledgement, which carries no number of its own (DEDUCED, log 24). -/
def State.sendAck (s : State) (op b vc psn : Nat) (ece : Bool) (tag : Nat) : State :=
  match s.routeUp b with
  | p :: _ => s.transmit p 0 { s.pkt op vc b with attr := psn, ece := ece, tag := tag }
  | [] => s

/-- Whether a number lies below another modulo 2^24. -/
def psnBelow (a b : BitVec 24) : Bool := decide (0x800000 ≤ (a - b).toNat)

/-- What a received packet of a connection is. -/
inductive Rx where
  | take (s : State)
  | drop (s : State)

/-- A member has been heard from, and is live (R457). -/
def State.hear (s : State) (b : Nat) : State :=
  if s.grp.en && s.grp.members.getLsbD b && b != s.grp.self then
    s.updGrp fun g => { g with heard := Tbl.set 0 g.heard b s.now, live := g.live ||| BitVec.ofNat 64 (2 ^ b) }
  else s

/-- ECE goes into an acknowledgement of a packet marked CE, at most once per 50 µs (R451). -/
def State.eceNow (s : State) (b vc : Nat) (ce : Bool) : Bool × State :=
  let ok := match (s.conn b vc).eceAt with | some t => decide (t + 50 * usUnits ≤ s.now) | none => true
  if ce && ok then (true, s.updConn b vc fun c => { c with eceAt := some s.now }) else (false, s)

/-- Check a numbered packet against its connection: the expected one is acknowledged and taken, an older one is
acknowledged again, a gap draws a NACK (R444). -/
def State.receive (s : State) (k : Packet) : Rx :=
  let s := s.hear k.src
  let c := s.conn k.src k.vc
  let n := BitVec.ofNat 24 k.psn
  if n = c.expect then
    let s1 := s.updConn k.src k.vc fun c => { c with expect := c.expect + 1 }
    let e := s1.eceNow k.src k.vc k.ece
    .take (e.2.sendAck 0x11 k.src k.vc k.psn e.1 0)
  else if psnBelow n c.expect then .drop (s.sendAck 0x11 k.src k.vc (c.expect - 1).toNat false 0)
  else .drop (s.sendAck 0x12 k.src k.vc c.expect.toNat false 0)

/-- Send the unacknowledged packets of a connection again, from the oldest on (R444). -/
def State.resend (s : State) (b vc : Nat) : State :=
  (s.conn b vc).unacked.foldl (fun t o => match t.portFor o.pkt.dst o.pkt.vc o.unit o.pkt.addr with
    | some p => (t.transmit p o.unit o.pkt).count (0x460 + p) 5
    | none => t) (s.updConn b vc fun c => { c with since := s.now })

/-- RTO_US of a connection: that of the lowest port on the route (R444). -/
def State.rtoOf (s : State) (b : Nat) : Nat := match s.routeUp b with | p :: _ => (s.port p).rto | [] => 50

/-- RETRANSMIT_TIMEOUT: RTO_US has passed without an acknowledgement (R444). -/
def State.rtoExpired (s : State) (b vc : Nat) : State :=
  let c := s.conn b vc
  if c.unacked.isEmpty ∨ s.now < c.since + s.rtoOf b * usUnits then s else s.resend b vc

/-- Packets that waited for room take their numbers. -/
def State.connPump (s : State) (b vc : Nat) : State :=
  let c := s.conn b vc
  let room := 1024 - c.unacked.length
  (c.waiting.take room).foldl (fun t o => t.connSend o.unit o.pkt) (s.updConn b vc fun c => { c with waiting := c.waiting.drop room })

/-- The rate limit towards a block falls on an ECE mark (R451). -/
def State.rateCut (s : State) (b : Nat) : State :=
  let r := Tbl.get RateSt.off s.grp.rates b
  let ok := match r.cutAt with | some t => decide (t + 50 * usUnits ≤ s.now) | none => true
  let r1 := if ok then { r with limit := max 1000000000 (r.limit * 7 / 8), cutAt := some s.now, eceAt := s.now } else { r with eceAt := s.now }
  s.updGrp fun g => { g with rates := Tbl.set RateSt.off g.rates b r1 }

/-- The rate limit rises after 100 µs without ECE (R451). -/
def State.rateRise (s : State) (b : Nat) : State :=
  let r := Tbl.get RateSt.off s.grp.rates b
  if s.now < r.eceAt + 100 * usUnits then s
  else
    let r1 := { r with limit := min (200000000000 * (s.routeUp b).length) (r.limit + 5000000000), eceAt := s.now }
    s.updGrp fun g => { g with rates := Tbl.set RateSt.off g.rates b r1 }

/-- An ACK arrives (R444, R451). -/
def State.ackIn (s : State) (k : Packet) : State :=
  let s := s.hear k.src
  let a := BitVec.ofNat 24 k.attr
  let s1 := s.updConn k.src k.vc fun c =>
    { c with since := s.now, unacked := c.unacked.filter fun j => psnBelow a (BitVec.ofNat 24 j.pkt.psn) }
  let s2 := s1.connPump k.src k.vc
  if k.ece then (s2.rateCut k.src) else s2

/-- A context ends with a result (R455, R462). -/
def State.collEnd (s : State) (c result : Nat) : State :=
  s.updGrp fun g => { g with colls := Tbl.upd Coll.off g.colls c fun x => { x with st := .idle, result := result } }

abbrev State.collOf (s : State) (c : Nat) : Coll := Tbl.get Coll.off s.grp.colls c

/-- A NACK arrives: retransmission from the expected PSN, or the end UNARMED of the context whose packet found none
armed (R444, R455). -/
def State.nackIn (s : State) (k : Packet) : State :=
  let s := s.hear k.src
  if k.attr = 0xFFFFFF then
    let s1 := s.updConn k.src 2 fun c =>
      match c.unacked.find? fun j => j.pkt.op == 4 && j.pkt.tag == k.tag with
      | some j => { c with unacked := c.unacked.erase j }
      | none => c
    (if (s1.collOf k.tag).st = .running ∧ k.tag < 8 then s1.collEnd k.tag 3 else s1).connPump k.src 2
  else
    let a := BitVec.ofNat 24 k.attr
    let s1 := s.updConn k.src k.vc fun c => { c with unacked := c.unacked.filter fun j => !(psnBelow (BitVec.ofNat 24 j.pkt.psn) a) }
    s1.resend k.src k.vc

/-! ## Requests to peers (R311, R443, R445, R448, R449). -/

/-- Take the next request TAG. -/
def State.nextTag (s : State) : Nat × State :=
  (s.grp.nextTag, s.updGrp fun g => { g with nextTag := (g.nextTag + 1) % 2 ^ 32 })

/-- Send a request to the peer window of block `b` at offset `x`, or the response with which it completes unsent. -/
def State.peerAsk (s : State) (who : Requester) (unit part op b x len : Nat) (data : List Byte) (poison : Bool) (attr : Nat) :
    Except BusResp State :=
  if b = s.grp.self ∨ !s.grp.members.getLsbD b ∨ stackedBytes < x + len then .error .decode
  else if !s.grp.en ∨ !s.grp.live.getLsbD b ∨ (s.routeUp b).isEmpty then .error .domainOff
  else
    let t := s.nextTag
    let k := { s.pkt op 0 b with part := part, len := len, tag := t.1, addr := x, attr := attr, data := data, poison := poison }
    .ok ((t.2.updGrp fun g => { g with reqs := g.reqs ++ [⟨t.1, b, who, x, len⟩] }).connSend unit k)

/-- Whether a requester waits for a peer. -/
def State.peerWaits (s : State) (who : Requester) : Bool := s.grp.reqs.any fun r => r.who == who

/-- Take the completion of a requester. -/
def State.peerTake (s : State) (who : Requester) : Option (PeerDone × State) :=
  (s.grp.dones.find? fun d => d.who == who).map fun d => (d, s.updGrp fun g => { g with dones := g.dones.erase d })

/-- A request completes: a stream, load or atomic takes it later; a posted store that failed raises detector 0x43 (R585);
a part of a distribution counts for its member (R460). -/
def State.peerDone (s : State) (r : PeerReq) (code : BusResp) (data : List Byte) (poison : Bool) : State :=
  let s := s.updGrp fun g => { g with reqs := g.reqs.erase r }
  match r.who with
  | .store n =>
    if code = .okay ∨ code = .poison then s
    else s.raise 0x43 n (0x1000_0000_0000 + r.dst * 0x80_0000_0000 + r.addr)
      (match code with | .decode => 1 | .perm => 2 | .domainOff => 4 | _ => 0)
  | .dist b =>
    let s1 := if code = .okay then s.updGrp fun g =>
        let left := Tbl.get 0 g.distLeft b - r.len
        { g with distLeft := Tbl.set 0 g.distLeft b left,
                 distDone := if left = 0 then g.distDone ||| BitVec.ofNat 64 (2 ^ b) else g.distDone }
      else s
    if s1.grp.reqs.any (fun q => match q.who with | .dist _ => true | _ => false) then s1
    else s1.updGrp fun g => { g with distBusy := false }
  | .stream _ 2048 => s
  | who => s.updGrp fun g => { g with dones := g.dones ++ [⟨who, r.dst, r.addr, r.len, code, data, poison⟩] }

/-- A RESP is executed (R449). One whose request has completed already is discarded. -/
def State.respIn (s : State) (k : Packet) : State :=
  match s.grp.reqs.find? fun r => r.tag == k.tag && r.dst == k.src.val with
  | none => s
  | some r =>
    let code : BusResp := if k.attr % 8 = 0 then .okay else if k.attr % 8 = 1 then .poison else if k.attr % 8 = 2 then .perm else .decode
    s.peerDone r code k.data (k.attr % 8 == 1)

/-- Answer a request (R442, R449). -/
def State.respond (s : State) (k : Packet) (status : Nat) (data : List Byte) : State :=
  s.connSend 0 { s.pkt 0x10 1 k.src with part := k.part, len := data.length, tag := k.tag, attr := status, data := data,
                                           poison := status == 1 }

/-- The check of an incoming request: 0, or the status that refuses it (R447, R449). -/
def State.importCheck (s : State) (k : Packet) (len : Nat) (write : Bool) : Nat :=
  let live := s.grp.live.getLsbD k.src || k.src.val == s.grp.self
  if stackedBytes < k.addr + len then 3
  else if !live then 2
  else if k.part < 16 then
    (if (Tbl.get 0 s.grp.imports k.part).getLsbD k.src && segRange s.cfg k.part k.addr len write then 0 else 2)
  else if k.part = 0x10 ∧ s.grp.privImport then 0 else 2

/-- An incoming PUT is checked and written at the home slice (R447, R449). -/
def State.putIn (s : State) (p : Nat) (k : Packet) : State :=
  let c := s.importCheck k k.data.length true
  if c ≠ 0 then s.respond k c []
  else (s.rangeWrite (0x460 + p) k.addr k.data k.poison).1.respond k 0 []

/-- An incoming GET (R447, R449, R516). -/
def State.getIn (s : State) (p : Nat) (k : Packet) : State :=
  let c := s.importCheck k k.len false
  if c ≠ 0 then s.respond k c []
  else
    let r := s.rangeRead k.addr (min k.len 4096)
    if r.2.2.2 then (r.1.raise 0x3F (0x460 + p) k.addr 5).respond k 1 r.2.2.1 else r.1.respond k 0 r.2.2.1

/-- An incoming ATOMIC is performed at the home slice (R342, R443). -/
def State.atomicIn (s : State) (p : Nat) (k : Packet) : State :=
  let fn := BitVec.ofNat 12 k.attr
  match atomicSize fn with
  | none => s.respond k 2 []
  | some w =>
    let c := s.importCheck k w true
    if c ≠ 0 ∨ k.addr % w ≠ 0 then s.respond k (if c ≠ 0 then c else 2) []
    else
      let r := s.rangeRead k.addr w
      if r.2.2.2 then (r.1.raise 0x3F (0x460 + p) k.addr 5).respond k 1 r.2.2.1
      else
        let old : W64 := BitVec.ofNat 64 (bytesToNat r.2.2.1)
        let b : W64 := BitVec.ofNat 64 (le k.data 0 w)
        let cmp : W64 := BitVec.ofNat 64 (le k.data w w)
        match atomicNew (field fn.toNat 4 0) w old b cmp with
        | some (some v) => (r.1.rangeWrite (0x460 + p) k.addr (natToBytes v.toNat w) false).1.respond k 0 r.2.2.1
        | _ => r.1.respond k 0 r.2.2.1

/-- Bytes that an incoming ATOMIC acts on. -/
def atomicBytes (k : Packet) : Nat := (atomicSize (BitVec.ofNat 12 k.attr)).getD 8

/-- The state in which an incoming request waits at home, none where it may be served (R340). -/
def State.importWait (s : State) (k : Packet) (len : Nat) (write : Bool) : Option State :=
  if s.importCheck k len write = 0 then s.rangeWait k.addr len write else none

/-! ## Group barriers (R459). -/

abbrev State.gbar (s : State) (g : Nat) : Gbar := Tbl.get Gbar.off s.grp.gbars g
def State.updGbar (s : State) (g : Nat) (f : Gbar → Gbar) : State :=
  s.updGrp fun x => { x with gbars := Tbl.upd Gbar.off x.gbars g f }

/-- Members live in the view; this block always is (R457). -/
def State.liveMask (s : State) : W64 := (s.grp.live ||| BitVec.ofNat 64 (2 ^ s.grp.self)) &&& s.grp.members

/-- Whether the group has a quorum (R458). -/
def State.quorum (s : State) : Bool :=
  s.grp.en && decide (popBits s.grp.members.toNat 64 / 2 + 1 ≤ popBits s.liveMask.toNat 64)

/-- MANAGER_VALID: the manager of the current term is live (R462). -/
def State.managerValid (s : State) : Bool :=
  s.grp.en && s.grp.elected && s.liveMask.getLsbD s.grp.manager && s.quorum

/-- Whether this block is the manager. -/
def State.isManager (s : State) : Bool := s.managerValid && s.grp.manager == s.grp.self

/-- Send a group control packet; where its payload stands the spec does not say (log 16). -/
def State.groupSend (s : State) (op dst : Nat) (tag addr : Nat) (data : List Byte) : State :=
  s.connSend 0 { s.pkt op 3 dst with tag := tag, addr := addr, len := data.length, data := data }

/-- The blocks of a mask. -/
def blocksOf (m : W64) : List Nat := (List.range 64).filter fun b => m.getLsbD b

/-- The manager breaks a barrier whose mask names a block that is not live: BREAK to every block, and the local barrier
becomes BROKEN (R459). -/
def State.gbarBreak (s : State) (g : Nat) : State :=
  let x := s.gbar g
  let s1 := (blocksOf (x.blocks &&& s.liveMask)).foldl (fun t b => if b = t.grp.self then t else t.groupSend 0x1D b g 0 []) s
  (s1.updGbar g fun x => { x with sent := none, arrived := 0 }).barBreak x.loc

/-- The manager looks at every enabled barrier for a block that is not live (R459). -/
def State.gbarCheck (s : State) : State :=
  if !s.isManager then s else
  (List.range 16).foldl (fun t g =>
    if (t.gbar g).en && (t.gbar g).blocks &&& ~~~t.liveMask != 0 then t.gbarBreak g else t) s

/-- A phase is released in this block: its local barrier completes (R459). -/
def State.gbarRelease (s : State) (g : Nat) (ph : BitVec 32) : State :=
  let x := s.gbar g
  if x.en && (s.bar x.loc).phase + 1 == ph && x.sent == some ph then
    (s.updGbar g fun x => { x with phase := ph, sent := none }).barComplete x.loc
  else s

/-- The manager records an ARRIVE and releases the phase once every block of the mask has arrived (R459). -/
def State.gbarArrive (s : State) (b g : Nat) (ph : BitVec 32) : State :=
  let x := s.gbar g
  if !s.isManager ∨ !x.en ∨ !x.blocks.getLsbD b ∨ ph.toNat ≤ x.phase.toNat then s.gbarCheck
  else
    let arr := (if x.gathering = ph then x.arrived else 0) ||| BitVec.ofNat 64 (2 ^ b)
    if x.blocks &&& ~~~arr = 0 then
      let s1 := (blocksOf x.blocks).foldl (fun t c => if c = t.grp.self then t else t.groupSend 0x1C c g ph.toNat []) s
      let s2 := s1.updGbar g fun x => { x with gathering := ph, arrived := 0 }
      if x.blocks.getLsbD s.grp.self then s2.gbarRelease g ph else s2.updGbar g fun x => { x with phase := ph }
    else (s.updGbar g fun x => { x with gathering := ph, arrived := arr }).gbarCheck

/-- The linked group barrier of a local barrier. -/
def State.gbarOf (s : State) (b : Nat) : Option Nat :=
  if s.grp.en then (List.range 16).find? fun g => (s.gbar g).en && (s.gbar g).loc == b else none

/-- Every local member of a linked barrier has arrived: ARRIVE to the manager, which may be this block. Without quorum
the arrival is refused and the barrier is BROKEN (R458, R459). -/
def State.gbarSend (s : State) (g : Nat) : State :=
  let x := s.gbar g
  if !s.quorum then s.barBreak x.loc
  else
    let ph := (s.bar x.loc).phase + 1
    let s1 := s.updGbar g fun x => { x with sent := some ph }
    if s1.isManager then s1.gbarArrive s1.grp.self g ph
    else if s1.managerValid then s1.groupSend 0x1B s1.grp.manager g ph.toNat []
    else s1

/-- Core `n` arrives at a barrier (R296, R297, R459). -/
def State.barArrive (s : State) (n b : Nat) : State :=
  let s1 := s.barMark n b
  if (s1.bar b).full then (match s1.gbarOf b with | some g => s1.gbarSend g | none => s1.barComplete b) else s1

/-- Every pending ARRIVE goes to the new manager (R459). -/
def State.gbarResend (s : State) : State :=
  (List.range 16).foldl (fun t g => if (t.gbar g).en && (t.gbar g).sent.isSome then t.gbarSend g else t) s

/-! ## The manager (R457, R458). -/

/-- A distribution ends because the manager changed (R460). -/
def State.distAbort (s : State) : State :=
  if s.grp.distBusy then
    s.updGrp fun g => { g with distBusy := false, cmdResult := 3,
                               reqs := g.reqs.filter fun r => match r.who with | .dist _ => false | _ => true }
  else s

/-- Adopt a higher term; a manager steps down (R458 step 4). -/
def State.adopt (s : State) (term : BitVec 32) : State :=
  if s.grp.term.toNat < term.toNat then
    (s.updGrp fun g => { g with term := term, elected := false, claiming := none, votes := 0 }).distAbort
  else s

/-- A manager of the current term is known. -/
def State.setManager (s : State) (m : Nat) : State :=
  if s.grp.elected && s.grp.manager == m then s
  else (s.updGrp fun g => { g with manager := m, elected := true, claiming := none }).gbarResend.gbarCheck

/-- The candidate's votes are counted (R458 step 3). -/
def State.countVotes (s : State) : State :=
  match s.grp.claiming with
  | some t =>
    if popBits s.grp.members.toNat 64 / 2 + 1 ≤ popBits (s.grp.votes &&& s.grp.members).toNat 64 ∧ t = s.grp.term then
      s.setManager s.grp.self
    else s
  | none => s

/-- The lowest live member. -/
def State.lowestLive (s : State) : Option Nat := (blocksOf s.liveMask).head?

/-- Without quorum pending group barriers become BROKEN (R458). -/
def State.noQuorum (s : State) : State :=
  if s.quorum || !s.grp.en then s
  else (List.range 16).foldl (fun t g =>
    if (t.gbar g).en && (t.gbar g).sent.isSome then (t.updGbar g fun x => { x with sent := none }).barBreak (t.gbar g).loc else t)
      s.distAbort

/-- An eligible block claims the next term (R458 step 1). -/
def State.election (s : State) : State :=
  if s.quorum && s.lowestLive == some s.grp.self && !s.managerValid && s.grp.claiming.isNone then
    let t := s.grp.term + 1
    let s1 := s.updGrp fun g => { g with term := t, elected := false, claiming := some t, claimAt := s.now, granted := some t,
                                         votes := BitVec.ofNat 64 (2 ^ g.self) }
    ((blocksOf s1.liveMask).foldl (fun u b => if b = u.grp.self then u else u.groupSend 0x19 b 0 t.toNat []) s1).countVotes
  else s

/-- A heartbeat goes to every member of the route table (R457). -/
def State.beatSend (s : State) : State :=
  if !s.grp.en || !s.atTick (100 * usUnits) || !s.pollDue 4 (100 * usUnits) then s else
  let s := s.polledNow 4 (100 * usUnits)
  let body := beatBody s.liveMask (if s.managerValid then s.grp.manager else 0xFF) s.grp.term (s.grp.stageAddr + b2n s.grp.stageEn)
  ((blocksOf s.grp.members).foldl (fun t b =>
    if b = t.grp.self ∨ Tbl.get 0 t.grp.route b = 0 then t else t.groupSend 0x18 b 0 0 body) s).election

/-- A heartbeat arrives, with the sender's manager, term and stage (R457, R458). -/
def State.beatIn (s : State) (b : Nat) (mgr : Option Nat) (term : BitVec 32) (stage : W64) : State :=
  if !s.grp.members.getLsbD b ∨ b = s.grp.self then s else
  let s1 := (s.updGrp fun g => { g with stages := Tbl.set 0 g.stages b stage }).adopt term
  match mgr with
  | some m => if term = s1.grp.term then s1.setManager m else s1
  | none => s1

/-- A CLAIM arrives (R458 steps 2 and 4). -/
def State.claimIn (s : State) (b : Nat) (t : BitVec 32) : State :=
  if !s.grp.members.getLsbD b ∨ b = s.grp.self then s else
  let ok := decide (s.grp.term.toNat < t.toNat) && s.lowestLive == some b && s.grp.granted != some t
  let s1 := s.adopt t
  if ok then (s1.updGrp fun g => { g with granted := some t }).groupSend 0x1A b 0 t.toNat [] else s1

/-- A GRANT arrives (R458 step 3); one that comes after the 500 µs counts no more. -/
def State.grantIn (s : State) (b : Nat) (t : BitVec 32) : State :=
  if !s.grp.members.getLsbD b then s
  else if s.grp.claiming = some t ∧ s.now < s.grp.claimAt + 500 * usUnits then (s.updGrp fun g => { g with votes := g.votes ||| BitVec.ofNat 64 (2 ^ b) }).countVotes else s

/-- A block leaves the view: its connections reset, requests to it complete with DOMAIN_OFF, contexts that send to it
end, and the barriers and the manager are looked at (R444, R449, R455, R457 to R459). -/
def State.expire (s : State) (b : Nat) : State :=
  if b = s.grp.self ∨ !s.grp.live.getLsbD b ∨ s.now < Tbl.get 0 s.grp.heard b + msUnits then s else
  let s1 := s.updGrp fun g =>
    { g with live := g.live &&& ~~~(BitVec.ofNat 64 (2 ^ b)),
             conns := Tbl.cut (4 * b) (4 * b + 4) g.conns }
  let s2 := (s1.grp.reqs.filter fun r => r.dst == b).foldl (fun t r => t.peerDone r .domainOff [] false) s1
  let s3 := (List.range 8).foldl (fun t c =>
    if (t.collOf c).st == .running && (t.collOf c).step != 2 && (t.collOf c).next == b then t.collEnd c 4 else t) s2
  s3.noQuorum.gbarCheck.election

/-! ## Distribution (R460). -/

/-- LNK_GRP_CMD.DISTRIBUTE. -/
def State.distribute (s : State) : State :=
  if !s.isManager then s.updGrp fun g => { g with cmdResult := 1 }
  else if s.grp.distBusy then s.updGrp fun g => { g with cmdResult := 2 }
  else
    let targets := (blocksOf s.liveMask).filter fun b => b != s.grp.self && (Tbl.get 0 s.grp.stages b).getLsbD 0
    match s.rangeWait s.grp.distSrc s.grp.distLen false with
    | some w => if targets.isEmpty then s.updGrp fun g => { g with cmdResult := 0, distDone := 0 } else w
    | none =>
      let r := if targets.isEmpty then (s, .okay, [], false) else s.rangeRead s.grp.distSrc s.grp.distLen
      let img := r.2.2.1
      let s1 := r.1.updGrp fun g =>
        { g with cmdResult := 0, distDone := 0, distBusy := !targets.isEmpty,
                 distLeft := targets.foldl (fun t b => Tbl.set 0 t b g.distLen) [] }
      targets.foldl (fun t b =>
        let base := field (Tbl.get 0 t.grp.stages b).toNat 51 12 * 4096
        let pay := match t.portFor b 0 0x600 base with | some p => (t.port p).payload | none => 4096
        (List.range ((img.length + pay - 1) / pay)).foldl (fun u i =>
          let part := (img.drop (i * pay)).take pay
          match u.peerAsk (.dist b) 0x600 0x10 1 b (base + i * pay) part.length part r.2.2.2 0 with
          | .ok v => v
          | .error _ => u) t) s1

/-! ## Collective contexts (R453 to R455). -/

def State.updColl (s : State) (c : Nat) (f : Coll → Coll) : State :=
  s.updGrp fun g => { g with colls := Tbl.upd Coll.off g.colls c f }

/-- Whether an address range of 64 bytes lies in cluster SRAM. -/
def inSram (a : Nat) : Bool := decide (0xF000_0800_0000 ≤ a ∧ a + 64 ≤ 0xF000_0880_0000)

/-- The descriptor read at its address, in stacked memory or cluster SRAM, with its poison (R377, R453). -/
def State.collDesc (s : State) (a : Nat) : State × List Byte × Bool :=
  if inSram a then
    let o := a - 0xF000_0800_0000
    (s, Tbl.getMany 0 s.mem.sram o 64, (List.range 8).any fun i => Tbl.get false s.mem.clvPoison (o / 8 + i))
  else
    let r := s.rangeRead a 64
    (r.1, r.2.2.1, r.2.2.2)

/-- Whether a descriptor keeps the rules of R453. -/
def collOk (d : List Byte) (a : Nat) : Bool :=
  let src := le d 0 8
  let dst := le d 8 8
  let len := le d 16 4
  let ctrl := le d 23 1
  let step := ctrl % 4
  (decide (a + 64 ≤ stackedBytes) || inSram a)
    && src % 128 == 0 && decide (src + len ≤ stackedBytes) && len % 128 == 0 && decide (128 ≤ len ∧ len ≤ 2 ^ 30)
    && decide (step < 3) && decide (field ctrl 3 2 < 3) && decide (ctrl < 64)
    && (if step = 2 then dst % 128 == 0 && decide (dst + len ≤ stackedBytes) && le d 22 1 == 0 else dst == 0 && decide (le d 22 1 < 64))
    && le d 24 8 % 2 == 0 && decide (le d 24 8 < 2 ^ 16) && zeros d 32 32

/-- A SEND context sends on its contribution in ascending offset order; it stops at a line that must wait (R454). -/
def State.collSend (s : State) (c : Nat) : State :=
  let x := s.collOf c
  let pay := match s.portFor x.next 2 0x600 0 with | some p => (s.port p).payload | none => 4096
  (List.range ((x.len - x.sent + pay - 1) / pay)).foldl (fun t i =>
    let off := x.sent + i * pay
    let n := min pay (x.len - off)
    if (t.collOf c).st ≠ .running ∨ (t.collOf c).sent ≠ off then t
    else match t.rangeWait (x.src + off) n false with
      | some w => w
      | none =>
        let d := t.rangeRead (x.src + off) n
        if d.2.2.2 then d.1.collEnd c 5
        else (d.1.connSend 0x600 { d.1.pkt 4 2 x.next with len := n, tag := c, addr := off, attr := x.id, data := d.2.2.1 }).updColl c
          fun y => { y with sent := off + n, done := y.done + n / 128 }) s

/-- LNK_COLL_CMD.ARM (R453, R462). -/
def State.collArm (s : State) (c : Nat) : State :=
  let a := (s.collOf c).desc
  let fail (t : State) (r : Nat) : State := t.updColl c fun x => { x with result := r }
  if (s.collOf c).st ≠ .idle then fail s 2
  else if !inSram a ∧ stackedBytes < a + 64 then fail s 1
  else match (if inSram a then none else s.rangeWait a 64 false) with
  | some w => w
  | none =>
  let d := s.collDesc a
  let s := d.1
  let b := d.2.1
  let id := le b 20 2
  if !collOk b a then fail s 1
  else if d.2.2 then fail s 5
  else if (List.range 8).any fun k => (s.collOf k).st != .idle && (s.collOf k).id == id then fail s 7
  else
    let ctrl := le b 23 1
    let send := ctrl % 4 == 0
    let s1 := s.updColl c fun x =>
      { x with st := if send then .running else .armed, result := 0, flags := 0, done := 0, sent := 0, src := le b 0 8, dst := le b 8 8,
               len := le b 16 4, id := id, next := le b 22 1, step := ctrl % 4, op := field ctrl 3 2, fmt := field ctrl 4 4,
               irq := bitOf ctrl 5, sem := le b 24 8 }
    if !send then s1
    else if !s1.grp.live.getLsbD (le b 22 1) ∨ (s1.routeUp (le b 22 1)).isEmpty then s1.collEnd c 4
    else s1.collSend c

/-- LNK_COLL_CMD.ABORT. -/
def State.collAbort (s : State) (c : Nat) : State := if (s.collOf c).st = .idle then s else s.collEnd c 6

/-- Combine the elements of a packet with the local ones (R454): the result and the flags. -/
def collCombine (op fmt : Nat) (a b : List Byte) : List Byte × Flags :=
  let f := if fmt = 0 then 1 else 3
  let w := if fmt = 0 then 4 else 2
  (List.range (a.length / w)).foldl (fun (r : List Byte × Flags) i =>
    let e := le a (w * i) w
    let l := le b (w * i) w
    let v := if op = 0 then fAdd FpMode.rne f e l false else fMinMax FpMode.rne f e l (op == 1)
    (r.1 ++ natToBytes v.1 w, r.2 ||| v.2)) ([], 0)

/-- The armed context that a COLL packet matches. -/
def State.collFor (s : State) (k : Packet) : Option Nat :=
  (List.range 8).find? fun c => (s.collOf c).st != .idle && (s.collOf c).step != 0 && (s.collOf c).id == k.attr % 65536
    && decide (k.addr + k.data.length ≤ (s.collOf c).len)

/-- A COLL packet that matches a context is combined and sent on or written (R454). -/
def State.collIn (s : State) (p c : Nat) (k : Packet) : State :=
  let x := s.collOf c
  let r0 := s.rangeRead (x.src + k.addr) k.data.length
  let loc := (r0.2.2.1, r0.2.2.2)
  let s := r0.1
  if k.poison || loc.2 then (s.raise 0x3F (0x460 + p) (x.src + k.addr) 5).collEnd c 5
  else
    let r := collCombine x.op x.fmt k.data loc.1
    let s1 := s.updColl c fun y => { y with st := .running, flags := y.flags ||| r.2, done := y.done + k.data.length / 128 }
    if x.step = 1 then s1.connSend 0x600 { s1.pkt 4 2 x.next with len := r.1.length, tag := c, addr := k.addr, attr := x.id, data := r.1 }
    else (s1.rangeWrite (0x460 + p) (x.dst + k.addr) r.1 false).1

/-- A context completes (R455); one in SEND first sends on what had to wait. -/
def State.collDone (s : State) (c : Nat) : State :=
  let s := if (s.collOf c).st = .running ∧ (s.collOf c).step = 0 ∧ (s.collOf c).sent < (s.collOf c).len then s.collSend c else s
  let x := s.collOf c
  let open_ := x.step != 2 && ((s.conn x.next 2).unacked ++ (s.conn x.next 2).waiting).any fun j => j.pkt.op == 4 && j.pkt.tag == c
  if x.st ≠ .running ∨ x.done * 128 < x.len ∨ open_ then s
  else
    let s1 := s.collEnd c 0
    let s2 := if bitOf x.sem 1 then s1.semPost (field x.sem 9 2) (field x.sem 14 10) (bitOf x.sem 15) else s1
    if x.irq then s2.updSched fun q => { q with ipi := q.ipi ||| BitVec.ofNat 64 (2 ^ s.grp.irqThread) } else s2

/-- A pause frame is received (R452). -/
def State.pauseIn (s : State) (p : Nat) (prio : Nat) (xoff : Bool) : State :=
  if s.linkMode p ≠ 2 ∨ !bitOf (s.cfg.linkOf p).flags 0 ∨ (s.port p).st ≠ .up then s
  else
    ((s.updPort p fun x =>
      { x with paused := (List.range 4).foldl (fun (m : BitVec 4) v =>
          if field x.prio.toNat (3 * v + 2) (3 * v) = prio then
            (if xoff then m ||| BitVec.ofNat 4 (2 ^ v) else m &&& ~~~(BitVec.ofNat 4 (2 ^ v))) else m) x.paused }).count
      (0x460 + p) 7).pump p

end Sys2Proof.Machine
end

