-- ==== Sys2Proof/Machine/StreamOps.lean ====
section
/-! DEFINITION. Stream channels, the next-layer slot and the system DMA engines: blocks, programs, line requests,
tiles, multicast, faults, re-arming and completion (R265 to R294, R299, R304). -/

namespace Sys2Proof

/-- The unit that a stream source belongs to (R44). -/
def StreamSrc.unit : StreamSrc → Nat
  | .chan n _ => 0x100 + n.val
  | .next n => 0x100 + n.val
  | .dma d => 0x458 + d.val

/-- CHANNEL of a completion record (R283). -/
def StreamSrc.number : StreamSrc → Nat
  | .chan _ k => k.val
  | .next _ => 16
  | .dma d => 0x20 + d.val

/-- The core whose engine a source belongs to. -/
def StreamSrc.core? : StreamSrc → Option Nat
  | .chan n _ => some n.val
  | .next n => some n.val
  | .dma _ => none

end Sys2Proof

namespace Sys2Proof.Machine

/-! ## Access. -/

def State.chanOf (s : State) : StreamSrc → Channel
  | .chan n k => Tbl.get Channel.off (s.core n).chans k
  | .next n => Tbl.get Channel.off (s.core n).chans 16
  | .dma d => Tbl.get Channel.off s.dma d

def State.updChan (s : State) (src : StreamSrc) (f : Channel → Channel) : State :=
  match src with
  | .chan n k => s.updCore n fun w => { w with chans := Tbl.upd Channel.off w.chans k f }
  | .next n => s.updCore n fun w => { w with chans := Tbl.upd Channel.off w.chans 16 f }
  | .dma d => { s with dma := Tbl.upd Channel.off s.dma d f }

/-- Channel `k` of core `n` by number. -/
abbrev chSrc (n k : Nat) : StreamSrc := .chan (Fin.ofNat 256 n) (Fin.ofNat 16 k)

/-- Whether channel `k` of core `n` is privileged (R265). -/
def State.privChan (s : State) (n k : Nat) : Bool := (s.cfg.privOf n).priv.getLsbD k

/-- The channel block in force, where a program or a multicast receiver runs. -/
def Channel.blk (c : Channel) : Option ChanBlock := match c.job with | .prog b => some b | _ => none

/-! ## Blocks, programs and descriptors (R269, R272, R274, R276, R299). -/

/-- imm19 as a signed number (R272). -/
def simm (w : BitVec 32) : Int := (w.setWidth 19).toInt
def sop (w : BitVec 32) : Nat := field w.toNat 31 28
def sad (w : BitVec 32) : Nat := field w.toNat 27 25
def sas (w : BitVec 32) : Nat := field w.toNat 24 22
def sat (w : BitVec 32) : Nat := field w.toNat 21 19
def simmU (w : BitVec 32) : Nat := field w.toNat 18 0

/-- Whether a program word keeps R274 at instruction `i` of `m`. -/
def progWordOk (w : BitVec 32) (i m : Nat) : Bool :=
  let ad := sad w == 0
  let as_ := sas w == 0
  let at_ := sat w == 0
  let u := simmU w
  let target := (i : Int) + simm w
  let branch := decide (0 ≤ target ∧ target < (m : Int))
  match sop w with
  | 0x0 => ad && as_ && at_ && u == 0
  | 0x1 => as_ && at_ && decide (u < 8)
  | 0x2 => as_ && at_
  | 0x3 => at_
  | 0x4 | 0x5 | 0x6 => u == 0
  | 0x7 => at_ && decide (u < 64)
  | 0x8 => at_
  | 0x9 => at_ && u == 0
  | 0xA => as_ && at_ && branch
  | 0xB => ad && branch
  | 0xC => ad && u == 0
  | 0xD => ad && at_ && decide (1 ≤ u ∧ u ≤ 4096)
  | 0xE => ad && as_ && at_ && u == 0
  | _ => ad && as_ && at_ && decide (u < 2 ^ 14)

/-- Whether a whole program keeps R274. -/
def progOk (ws : List (BitVec 32)) : Bool := ws.zipIdx.all fun p => progWordOk p.1 p.2 ws.length

/-- A channel block (R269): none where a field breaks its rule. `read` gives the tile memory. -/
def parseChan (b : List Byte) (read : Nat → Nat → List Byte) : Option ChanBlock :=
  let prog := le b 0 4
  let m := le b 4 1
  let mode := le b 5 1
  let dir := mode % 4
  let mc := decide (2 ≤ dir)
  let slots := le b 7 1
  let lg := le b 8 1
  let base := le b 12 4
  let crec := le b 16 4
  if zeros b 20 12 && zeros b 96 32 && decide (mode < 64)
      && (if dir = 3 then m == 0 else decide (1 ≤ m ∧ m ≤ 64)) && prog % 4 == 0 && decide (prog + 4 * m ≤ tileBytes)
      && decide (1 ≤ le b 6 1 ∧ le b 6 1 ≤ 8) && decide (3 ≤ slots ∧ slots ≤ 64) && decide (7 ≤ lg ∧ lg ≤ 20)
      && (mc || (le b 9 1 == 0 && le b 10 2 == 0))
      && base % 2 ^ lg == 0 && decide (base + slots * 2 ^ lg ≤ tileBytes)
      && field crec 30 22 == 0 && crec % 32 == 0 then
    some { prog := (List.range m).map fun i => BitVec.ofNat 32 (bytesToNat (read (prog + 4 * i) 4)),
           dir := dir, task := field mode 4 2, irq := bitOf mode 5, ahead := le b 6 1, slots := slots, slotLog2 := lg,
           group := le b 9 1, mseq := le b 10 2, ringBase := base, crecEn := bitOf crec 31, crecOff := field crec 21 0,
           args := (List.range 8).map fun i => BitVec.ofNat 64 (le b (32 + 8 * i) 8) }
  else none

/-- A next-layer block (R299). -/
def parseNext (b : List Byte) : Option NextBlock :=
  let dst := le b 8 4
  let len := le b 12 4
  let crec := le b 16 4
  if zeros b 20 12 && dst % 128 == 0 && len % 128 == 0 && decide (128 ≤ len ∧ dst + len ≤ tileBytes)
      && field crec 30 22 == 0 && crec % 32 == 0 then
    some ⟨le b 0 8, dst, len, bitOf crec 31, field crec 21 0⟩
  else none

/-- A signed 48-bit stride (R276). -/
def stride48 (b : List Byte) (o : Nat) : Int := (BitVec.ofNat 48 (le b o 6)).toInt

/-- A privileged descriptor (R276). -/
def parseDesc (b : List Byte) : Option PrivDesc :=
  let cnt := (List.range 6).map fun i => le b (32 + 4 * i) 4
  if zeros b 116 12 && decide (le b 16 8 < 2 ^ 16) && le b 24 8 % 32 == 0
      && decide (1 ≤ cnt.getD 0 0 ∧ cnt.getD 0 0 ≤ 2 ^ 24) && (cnt.drop 1).all (fun c => decide (1 ≤ c ∧ c ≤ 65536)) then
    some { src := le b 0 8, dst := le b 8 8, ctrl := BitVec.ofNat 64 (le b 16 8), crec := le b 24 8, count := cnt,
           sstride := (List.range 5).map fun i => stride48 b (56 + 6 * i),
           dstride := (List.range 5).map fun i => stride48 b (86 + 6 * i) }
  else none

/-- Bytes that a descriptor copies. -/
def PrivDesc.total (d : PrivDesc) : Nat := d.count.foldl (· * ·) 1

/-- The addresses of byte position `pos` in copy order, modulo 2^64, and the bytes left in its run (R276). -/
def PrivDesc.at_ (d : PrivDesc) (pos : Nat) : Nat × Nat × Nat :=
  let c0 := d.count.getD 0 1
  let run := pos / c0
  let o := pos % c0
  let r := (List.range 5).foldl (fun (a : Nat × Int × Int) i =>
    let c := d.count.getD (i + 1) 1
    let k : Int := ((a.1 % c : Nat) : Int)
    (a.1 / c, a.2.1 + k * d.sstride.getD i 0, a.2.2 + k * d.dstride.getD i 0)) (run, 0, 0)
  let wrap (a : Nat) (x : Int) : Nat := (((a + o : Nat) : Int) + x).emod (2 ^ 64) |>.toNat
  (wrap d.src r.2.1, wrap d.dst r.2.2, c0 - o)

/-! ## Tags (R278, R279). -/

/-- Every request outstanding of the engine that a source belongs to. -/
def State.engineReqs (s : State) : StreamSrc → List LineReq
  | .dma d => (s.chanOf (.dma d)).reqs
  | src => match src.core? with
    | some n => (s.core n).lost ++ ((List.range 17).map fun k => (Tbl.get Channel.off (s.core n).chans k).reqs).flatten
    | none => []

/-- STR_TAGS_USED (R304). -/
def State.tagsUsed (s : State) (n : Nat) : Nat :=
  ((s.engineReqs (.next (Fin.ofNat 256 n))).filter fun r => decide (r.tag < 1024)).length

/-- Whether a posted write finds one of the 256 counts free (R279). -/
def State.postFree (s : State) (src : StreamSrc) : Bool :=
  decide (((s.engineReqs src).filter fun r => decide (1024 ≤ r.tag)).length < 256)

/-- The lowest free number from `lo` to below `hi`. -/
def freeNum (rs : List LineReq) (lo hi : Nat) : Option Nat :=
  (List.range (hi - lo)).map (lo + ·) |>.find? fun t => !(rs.any fun r => r.tag == t)

/-- Whether a write takes the posted path (R279). -/
def postedPath (a len : Nat) : Bool := decide (0 < len ∧ len ≤ 64) && a / 64 == (a + len - 1) / 64

/-! ## Faults and aborts (R285 to R288). -/

/-- The causes found before a line issues, in the order of R287; `part` is the partition whose segments are checked,
none for a privileged source. -/
def State.lineCause (s : State) (unpriv : Bool) (part : Option Nat) (a len : Nat) (write : Bool) : Option Nat :=
  let seg (w : Bool) : Bool := match part with | some p => segRange s.cfg p a len w | none => false
  if 2 ^ 52 ≤ a then some 0x0C
  else if unpriv ∧ !seg false then some 0x01
  else if unpriv ∧ write ∧ !seg true then some 0x02
  else if unpriv ∧ write ∧ (attrOf s.cfg a).exec then some 0x03
  else if spaceOf a = .window then some 0x04
  else none

/-- Bytes that a stopped run has transferred: those begun less those not issued and those whose response has not
come (DEDUCED, log 25). -/
def Channel.transferred (c : Channel) : Nat :=
  let open_ := match c.xfer with | some x => x.len - x.issued | none => 0
  let out := (c.reqs ++ c.toWrite).foldl (fun a r => a + r.len) 0
  c.begun - open_ - out

/-- A group's active stream, where channel `k` of core `n` leads it. -/
def State.leads (s : State) (n k : Nat) (b : ChanBlock) : Option McStream :=
  match (s.group b.group).active with
  | some m => if b.dir = 2 ∧ m.leader = n ∧ m.chan = k then some m else none
  | none => none

/-- A channel enters ABORTING with the given end; its shadow is discarded (R285, R289). -/
def State.chanAbort (s : State) (src : StreamSrc) (info : EndInfo) : State :=
  if (s.chanOf src).st = .idle ∨ (s.chanOf src).st = .aborting then s else
  s.updChan src fun c =>
    { c with st := .aborting, xfer := none, toWrite := [], shadow := .none,
             fin := some { info with discarded := c.shadow != .none } }

/-- The receivers of a stream whose leader has ended it abort, at the first tile not delivered to them (R294). -/
def State.mcAbort (s : State) (n k : Nat) (b : ChanBlock) : State :=
  match s.leads n k b with
  | none => s
  | some m =>
    let lead := s.chanOf (chSrc n k)
    let off := lead.starts.headD lead.begun
    let s1 := m.recv.foldl (fun t r =>
      if (t.chanOf (chSrc r.1 r.2)).fin.isSome then
        t.updChan (chSrc r.1 r.2) fun c =>
          { c with st := .draining, fin := c.fin.map fun e => { e with off := off } }
      else t.chanAbort (chSrc r.1 r.2) ⟨2, 0xFF, 0, off, 0, false⟩) s
    s1.updGroup b.group fun g => { g with active := g.active.map fun m => { m with recv := [] } }

/-- A receiver leaves its stream. -/
def State.mcLeave (s : State) (n k : Nat) (b : ChanBlock) : State :=
  if b.dir = 3 then
    s.updGroup b.group fun g => { g with active := g.active.map fun m => { m with recv := m.recv.filter (· != (n, k)) } }
  else s

/-- A source and its multicast stream abort. -/
def State.srcAbort (s : State) (src : StreamSrc) (info : EndInfo) : State :=
  let s1 := match src, (s.chanOf src).blk with
    | .chan n k, some b => (s.mcAbort n k b).mcLeave n k b
    | _, _ => s
  s1.chanAbort src info

/-- The other channels of the task of a source (R285). -/
def State.taskMates (s : State) (src : StreamSrc) : List StreamSrc :=
  match src, (s.chanOf src).blk with
  | .chan n k, some b =>
    ((List.range 16).filter fun j => j != k.val && !s.privChan n j && (match (s.chanOf (chSrc n j)).blk with
      | some x => x.task == b.task
      | none => false)).map (chSrc n)
  | _, _ => []

/-- A source faults, and its task aborts (R285, R288). -/
def State.chanFault (s : State) (src : StreamSrc) (cause off addr : Nat) : State :=
  let info (st : Nat) : EndInfo := ⟨st, src.number, cause, off, addr, false⟩
  if (s.chanOf src).st = .aborting then s else
  let s1 := (s.updChan src fun c => { c with cause := cause }).srcAbort src (info 1)
  ((s.taskMates src).foldl (fun t m => t.srcAbort m (info 2)) s1).count src.unit 8

/-! ## Tiles (R270, R273, R290). -/

/-- Tile-memory offset of tile `j` of a ring: slot 0 is the first after a start (log 22). -/
def ChanBlock.slot (b : ChanBlock) (j : Nat) : Nat := b.ringBase + j % b.slots * 2 ^ b.slotLog2

/-- The receivers that tile `j` of a stream is delivered to: those attached, and those detached after it began. -/
def State.mcTargets (s : State) (n k : Nat) (b : ChanBlock) (j : Nat) : List (Nat × Nat) :=
  match s.leads n k b with
  | none => []
  | some m => m.recv.filter fun r =>
      let c := s.chanOf (chSrc r.1 r.2)
      c.fin.isNone || decide (j < c.closed)

/-- One tile of a ring completes. -/
def Channel.tileDone (c : Channel) (b : ChanBlock) : Channel :=
  let c := { c with tiles := c.tiles + 1, starts := c.starts.drop 1 }
  if b.dir = 1 then { c with head := (c.head + 1) % b.slots } else { c with tail := (c.tail + 1) % b.slots }

/-- Tiles that are closed and have no request outstanding complete, in order (R270, R284). -/
def State.tileGo (n k : Nat) (b : ChanBlock) : Nat → State → State
  | 0, s => s
  | fuel + 1, s =>
    let c := s.chanOf (chSrc n k)
    if c.tiles < c.closed ∧ !(c.reqs.any fun r => r.post.isNone && r.tile == c.tiles) then
      let s1 := (s.mcTargets n k b c.tiles).foldl (fun t r =>
        let t1 := (t.updChan (chSrc r.1 r.2) fun x => match x.blk with | some y => x.tileDone y | none => x).count
          (0x100 + r.1) 6
        let x := t1.chanOf (chSrc r.1 r.2)
        if x.fin.isSome && x.tiles == x.closed then t1.updChan (chSrc r.1 r.2) fun x => { x with st := .draining } else t1) s
      State.tileGo n k b fuel ((s1.updChan (chSrc n k) fun x => x.tileDone b).count (0x100 + n) 6)
    else s

/-- Complete the tiles of a program channel that can complete, unless it aborts. -/
def State.tileStep (s : State) (src : StreamSrc) : State :=
  match src, (s.chanOf src).blk with
  | .chan n k, some b =>
    if (s.chanOf src).st = .aborting ∨ b.dir = 3 then s
    else State.tileGo n k b ((s.chanOf src).closed - (s.chanOf src).tiles) s
  | _, _ => s

/-- Whether the first transfer of the next tile may start (R271, R292). -/
def State.tileMay (s : State) (n k : Nat) (b : ChanBlock) : Bool :=
  let c := s.chanOf (chSrc n k)
  let j := c.closed
  if b.dir = 1 then decide (j < c.released) && decide (j < c.tiles + b.ahead)
  else
    decide (j < c.released + min b.ahead (b.slots - 1))
      && (b.dir != 2 || (decide (j < c.released + min 8 (b.slots - 1)) && (match s.leads n k b with
        | some m => m.recv.all fun r =>
            let x := s.chanOf (chSrc r.1 r.2)
            x.fin.isSome || (match x.blk with | some y => decide (j < x.released + min 8 (y.slots - 1)) | none => true)
        | none => true)))

/-! ## Programs (R272, R273). -/

/-- The channels of an engine in round-robin order after `last` (R275). -/
def afterChan (last : Nat) : List Nat := (List.range 16).map fun i => (last + 1 + i) % 16

/-- The instruction at the program counter; past the last one, HALT (R274). -/
def Channel.word (c : Channel) (b : ChanBlock) : BitVec 32 := b.prog.getD c.pc 0

/-- Register i of a program. -/
def Channel.a (c : Channel) (i : Nat) : W64 := c.aregs.getD i 0
def Channel.setA (c : Channel) (i : Nat) (v : W64) : Channel :=
  { c with aregs := (List.range 8).map fun j => if j = i then v else c.a j }

/-- The length that a transfer instruction names (R272). -/
def Channel.xferLen (c : Channel) (w : BitVec 32) : Nat :=
  if sop w = 0xC then (c.a (sat w)).toNat else simmU w % 2 ^ 13

/-- Whether the next tile's first transfer is held back (R271, R292). -/
def State.tileHeld (s : State) (n k : Nat) (b : ChanBlock) : Bool :=
  let c := s.chanOf (chSrc n k)
  let w := c.word b
  (sop w == 0xC || sop w == 0xD) && decide (0 < c.xferLen w ∧ c.xferLen w ≤ 4096) && c.cursor == 0 && !s.tileMay n k b

/-- Whether the instruction at the program counter waits: a transfer for its tile or while its engine takes none, and a
POST for the channel's transfers or for a free count (R71 step 4, R271, R272, R279). -/
def State.chanWaits (s : State) (n k : Nat) (b : ChanBlock) : Bool :=
  let c := s.chanOf (chSrc n k)
  let w := c.word b
  if sop w = 0xC ∨ sop w = 0xD then
    decide (0 < c.xferLen w ∧ c.xferLen w ≤ 4096) && (s.engineHeld n || (c.cursor == 0 && !s.tileMay n k b))
  else if sop w = 0xF then
    s.partOf (simmU w % 256) == s.partOf n && (s.partOf n).isSome
      && (c.reqs.any (fun r => r.post.isNone) || !s.postFree (chSrc n k))
  else false

/-- Whether a channel may execute an instruction now (R275): RUNNING, with no transfer being issued and no wait. -/
def State.chanRuns (s : State) (n k : Nat) : Bool :=
  let c := s.chanOf (chSrc n k)
  c.st == .running && c.xfer.isNone && !s.tileOff n && s.coreRuns (n / 64)
    && (match c.blk with | some b => b.dir != 3 && !s.chanWaits n k b | none => false)

/-- The channel whose program executes next: the first that runs, in round-robin order (R275). -/
def State.execTurn (s : State) (n : Nat) : Option Nat := (afterChan (s.core n).execLast).find? (s.chanRuns n)

/-- Run one instruction of channel `k` of core `n` when it is that channel's turn and the instruction is the given op,
and nothing otherwise. -/
def State.progStep (s : State) (n k : Nat) (op : Nat) (f : ChanBlock → BitVec 32 → State) : State :=
  match (s.chanOf (chSrc n k)).blk with
  | some b =>
    let w := (s.chanOf (chSrc n k)).word b
    if s.execTurn n = some k ∧ sop w = op then (f b w).updCore n fun x => { x with execLast := k } else s
  | none => s

/-- A register operation of a program, then the next instruction. -/
def State.progReg (s : State) (n k : Nat) (op : Nat) (f : ChanBlock → Channel → BitVec 32 → W64) : State :=
  s.progStep n k op fun b w =>
    s.updChan (chSrc n k) fun c => { c.setA (sad w) (f b c w) with pc := c.pc + 1 }

/-- imm19 sign-extended. -/
def simm64 (w : BitVec 32) : W64 := (w.setWidth 19).signExtend 64

/-- A branch of a program. -/
def Channel.jump (c : Channel) (w : BitVec 32) (taken : Bool) : Channel :=
  { c with pc := if taken then ((c.pc : Int) + simm w).toNat else c.pc + 1 }

/-- Close the current tile, where the cursor is not 0 (R273). -/
def Channel.close (c : Channel) : Channel := if c.cursor = 0 then c else { c with closed := c.closed + 1, cursor := 0 }

/-- XFER and XFERI (R272, R273, R287): the length check, the first line's checks, the check of the slot's end, and the
start of the transfer. -/
def State.xferStart (s : State) (n k : Nat) (b : ChanBlock) (w : BitVec 32) : State :=
  let src := chSrc n k
  let c := s.chanOf src
  let a := (c.a (sas w)).toNat
  let len := c.xferLen w
  if len = 0 ∨ 4096 < len then s.chanFault src 0x0D c.begun a
  else
    match s.lineCause true (s.partOf n) a (min len (128 - a % 128)) (b.dir == 1) with
    | some x => s.chanFault src x c.begun a
    | none =>
      if 2 ^ b.slotLog2 < c.cursor + len then s.chanFault src 0x09 c.begun a
      else s.updChan src fun c =>
        { c with xfer := some ⟨a, len, c.cursor, 0, c.begun⟩, begun := c.begun + len, cursor := c.cursor + len, pc := c.pc + 1,
                 starts := if c.cursor = 0 then c.starts ++ [c.begun] else c.starts }

/-- LDT (R272, R287). -/
def State.progLdt (s : State) (n k : Nat) (w : BitVec 32) : State :=
  let src := chSrc n k
  let c := s.chanOf src
  let a := (c.a (sas w)).toNat
  if a % 8 ≠ 0 ∨ 0x40_0000 < a + 8 then s.chanFault src 0x0A c.begun a
  else
    let r := s.tileBytes n a 8
    if r.2 then
      ((s.tileFind n a 8).raise 0x3F (0x100 + n) (0x800_0000_0000 + 0x40_0000 * n + a) 3).chanFault src 0x05 c.begun a
    else s.updChan src fun c => { c.setA (sad w) (BitVec.ofNat 64 (bytesToNat r.1)) with pc := c.pc + 1 }

/-! ## Line requests and responses (R275, R278, R279). -/

/-- The partition that a source's requests carry: 0x10 for a privileged one. -/
def State.srcPart (s : State) : StreamSrc → Nat
  | .chan n k => if s.privChan n k then 0x10 else (s.partOf n).getD 0x10
  | .next n => (s.partOf n).getD 0x10
  | .dma _ => 0x10

/-- Issue one request: it takes a tag or a posted-write number, and a request to a peer leaves at once. Unchanged where
no number is free. -/
def State.issue (s : State) (src : StreamSrc) (r : LineReq) (f : Channel → Channel) : State :=
  let rs := s.engineReqs src
  let posted := r.write && postedPath r.addr r.len
  match (if posted then freeNum rs 1024 1280 else freeNum rs 0 1024) with
  | none => s
  | some t =>
    let s0 := match src with
      | .chan n k => s.updCore n fun x => { x with genLast := k }
      | _ => s
    let s1 := s0.updChan src fun c => { f c with reqs := c.reqs ++ [{ r with tag := t }] }
    let s2 := if r.write then s1.count src.unit 2 else s1.count src.unit 1
    let s3 := if posted then s2.count src.unit 3 else s2
    match spaceOf r.addr with
    | .peer b =>
      let x := (r.addr - 0x1000_0000_0000) % 0x80_0000_0000
      match s3.peerAsk (.stream src t) src.unit (s.srcPart src) (if r.write then 1 else 2) b x r.len r.data r.poison 0 with
      | .ok v => v
      | .error code => s3.updGrp fun g => { g with dones := g.dones ++ [⟨.stream src t, b, x, r.len, code, [], false⟩] }
    | _ => s3

/-- POST (R272, R279, R295): a target outside the partition faults. The post takes a posted-write number, and adds to its
semaphore when its acknowledgement comes. -/
def State.progPost (s : State) (n k : Nat) (w : BitVec 32) : State :=
  let src := chSrc n k
  let c := s.chanOf src
  let u := simmU w
  if s.partOf (u % 256) ≠ s.partOf n ∨ (s.partOf n).isNone then s.chanFault src 0x0B c.begun 0
  else
    match freeNum (s.engineReqs src) 1024 1280 with
    | none => s
    | some t =>
      let r : LineReq := { tag := t, write := true, addr := 0, len := 0, dest := 0, tile := 0, off := c.begun, data := [],
                           poison := false, post := some (u % 256, field u 12 8, bitOf u 13) }
      ((s.updChan src fun c => { c with pc := c.pc + 1, reqs := c.reqs ++ [r] }).count src.unit 2).count src.unit 3

/-- The line generator issues the next line of a program's transfer (R273, R275). -/
def State.issueXfer (s : State) (n k : Nat) (b : ChanBlock) (x : Xfer) : State :=
  let src := chSrc n k
  let a := x.addr + x.issued
  let len := min (x.len - x.issued) (128 - a % 128)
  let write := b.dir == 1
  let c := s.chanOf src
  match s.lineCause true (s.partOf n) a len write with
  | some cause => s.chanFault src cause (x.off + x.issued) a
  | none =>
    let tile := c.closed
    let dest := b.slot tile + x.cursor + x.issued
    let next (c : Channel) : Channel :=
      { c with xfer := if x.issued + len = x.len then none else some { x with issued := x.issued + len } }
    if write then
      let d := s.tileBytes n dest len
      if d.2 then
        ((s.tileFind n dest len).raise 0x3F (0x100 + n) (0x800_0000_0000 + 0x40_0000 * n + dest) 3).chanFault src 0x05
          (x.off + x.issued) a
      else s.issue src ⟨0, true, a, len, dest, tile, x.off + x.issued, d.1, false, none⟩ next
    else s.issue src ⟨0, false, a, len, dest, tile, x.off + x.issued, [], false, none⟩ next

/-- A descriptor whose every write has issued drains (R277). -/
def State.descEnd (s : State) (src : StreamSrc) (d : PrivDesc) : State :=
  s.updChan src fun c =>
    if c.st = .running ∧ c.begun = d.total ∧ c.toWrite.isEmpty ∧ c.reqs.all (·.write) then { c with st := .draining } else c

/-- The next line of a descriptor: a write of data that has come, or else the next read. A piece lies in one line of
the source and one of the destination (log 25). -/
def State.issueDesc (s : State) (src : StreamSrc) (d : PrivDesc) : State :=
  let c := s.chanOf src
  match c.toWrite with
  | w :: rest =>
    match s.lineCause false none w.addr w.len true with
    | some cause => s.chanFault src cause w.off w.addr
    | none => (s.issue src w fun c => { c with toWrite := rest }).descEnd src d
  | [] =>
    if d.total ≤ c.begun then s.descEnd src d else
    let p := d.at_ c.begun
    let len := min p.2.2 (min (128 - p.1 % 128) (128 - p.2.1 % 128))
    match s.lineCause false none p.1 len false with
    | some cause => s.chanFault src cause c.begun p.1
    | none => s.issue src ⟨0, false, p.1, len, p.2.1, 0, c.begun, [], false, none⟩ fun c => { c with begun := c.begun + len }

/-- Whether a channel has a line request ready (R275, R299). -/
def Channel.wantsLine (c : Channel) : Bool :=
  c.st == .running && (match c.job with
    | .prog _ => c.xfer.isSome
    | .desc d => !c.toWrite.isEmpty || decide (c.begun < d.total)
    | _ => false)

/-- The channel whose request issues next: that of the transfer being split, or else the first with a request ready, in
round-robin order (R275, R278). -/
def State.genTurn (s : State) (n : Nat) : Option Nat :=
  let last := (s.core n).genLast
  let c := s.chanOf (chSrc n last)
  let split : Bool := match c.xfer with | some x => decide (0 < x.issued) | none => false
  if c.wantsLine && split then some last
  else (afterChan last).find? fun k => (s.chanOf (chSrc n k)).wantsLine

/-- The next line of the next-layer slot, in a cycle in which no channel of the core has a request ready (R299). -/
def State.issueNext (s : State) (n : Nat) (b : NextBlock) : State :=
  let src : StreamSrc := .next (Fin.ofNat 256 n)
  let c := s.chanOf src
  if (s.genTurn n).isSome then s
  else if 256 ≤ c.reqs.length then s
  else if b.len ≤ c.begun then s.updChan src fun c => { c with st := .draining }
  else
    let a := (b.src + c.begun) % 2 ^ 64
    let len := min (b.len - c.begun) (128 - a % 128)
    match s.lineCause true (s.partOf n) a len false with
    | some cause => s.chanFault src cause c.begun a
    | none => s.issue src ⟨0, false, a, len, b.dst + c.begun, 0, c.begun, [], false, none⟩ fun c =>
        { c with begun := c.begun + len, st := if c.begun + len = b.len then .draining else c.st }

/-- Whether an engine's clock runs: the line generator and the tags run in held cycles (R473, R475). -/
def State.engineRuns (s : State) (src : StreamSrc) : Bool :=
  match src.core? with
  | some n => !s.tileOff n && s.coreClock
  | none => s.coreClock

/-- LINE_REQUEST_ISSUE, by the source whose turn it is. An engine that holds a commit's new setting starts no request of a
descriptor or of the slot (R71 step 4). -/
def State.lineIssue (s : State) (src : StreamSrc) : State :=
  let c := s.chanOf src
  let turn := match src with
    | .chan n k => s.genTurn n == some k.val
    | _ => true
  if !s.engineRuns src ∨ c.st ≠ .running ∨ !turn then s else
  match src, c.job with
  | .chan n k, .prog b => match c.xfer with | some x => s.issueXfer n k b x | none => s
  | src, .desc d => if s.appliedUnit src.unit then s else s.issueDesc src d
  | .next n, .next b => if s.appliedUnit src.unit then s else s.issueNext n b
  | _, _ => s

/-- The code of R287 for a bus response. -/
def respCause : BusResp → Nat
  | .okay => 0
  | .poison => 0x05
  | .decode => 0x06
  | .perm => 0x07
  | .domainOff => 0x08

/-- What a response does once the memory has answered. -/
def State.lineDone (s : State) (src : StreamSrc) (r : LineReq) (code : BusResp) (bytes : List Byte) : State :=
  let c := s.chanOf src
  let s1 := s.updChan src fun c => { c with reqs := c.reqs.filter fun q => q.tag != r.tag }
  if c.st = .aborting then s1
  else if code ≠ .okay then
    let s2 := if code = .poison then s1.raise 0x3F src.unit r.addr 3 else s1
    s2.chanFault src (respCause code) r.off r.addr
  else
    match src, c.job with
    | .chan n k, .prog b =>
      let s2 :=
        if r.write then s1
        else
          let o := r.dest - b.slot r.tile
          (s1.mcTargets n k b r.tile).foldl (fun t q =>
            match (t.chanOf (chSrc q.1 q.2)).blk with
            | some y => (t.tileWrite q.1 (y.slot r.tile + o) bytes false).updChan (chSrc q.1 q.2) fun x =>
                { x with begun := x.begun + r.len }
            | none => t) (s1.tileWrite n r.dest bytes false)
      s2.tileStep src
    | _, .desc d =>
      let s2 := if r.write then s1 else s1.updChan src fun c =>
        { c with toWrite := c.toWrite ++ [⟨0, true, r.dest, bytes.length, 0, 0, r.off, bytes, false, none⟩] }
      s2.descEnd src d
    | .next n, .next _ => s1.tileWrite n r.dest bytes false
    | _, _ => s1

/-- The access of a request at its target. `resp` is the response that reaches the engine where the target itself
answers OKAY. None while the access waits, with the state in which it does. -/
def State.lineAccess (s : State) (src : StreamSrc) (r : LineReq) (resp : BusResp) : Except State (State × BusResp × List Byte) :=
  match r.post with
  | some p =>
    if s.tileOff p.1 then .ok (s, .domainOff, [])
    else if resp ≠ .okay then .ok (s, resp, [])
    else .ok (s.semPost p.1 p.2.1 p.2.2, .okay, [])
  | none =>
  match spaceOf r.addr with
  | .peer _ =>
    match s.peerTake (.stream src r.tag) with
    | some d => .ok (d.2, if d.1.poison then .poison else d.1.code, d.1.data)
    | none => .error s
  | _ =>
    if s.busCode r.addr ≠ .okay then .ok (s, s.busCode r.addr, [])
    else if resp ≠ .okay then .ok (s, resp, [])
    else
      match (if r.write then s.busWrite src.unit r.addr r.data r.poison else s.busRead r.addr r.len) with
      | .wait w => .error w
      | .done t code bytes poison => .ok (t, if poison then .poison else code, bytes)

/-- LINE_RESPONSE: a request in flight, of a channel or left by a reset, is answered (R278, R307). -/
def State.lineResponse (s : State) (src : StreamSrc) (tag : Nat) (resp : BusResp) : State :=
  let c := s.chanOf src
  match c.reqs.find? fun r => r.tag == tag with
  | some r =>
    match s.lineAccess src r resp with
    | .error w => w
    | .ok (t, code, bytes) => t.lineDone src r code bytes
  | none =>
    match src.core? with
    | none => s
    | some n =>
      match (s.core n).lost.find? fun r => r.tag == tag with
      | none => s
      | some r =>
        match s.lineAccess src r resp with
        | .error w => w
        | .ok (t, _, _) => t.updCore n fun w => { w with lost := w.lost.filter fun q => q.tag != tag }

/-! ## Starts, multicast and completion (R277, R283, R289 to R294). -/

/-- A channel as a start leaves it: program registers and ring pointers zero (R272; log 22). -/
def Channel.begin (c : Channel) (j : ChJob) (st : ChState) : Channel :=
  { c with st := st, job := j, head := 0, tail := 0, released := 0, tiles := 0, pc := 0, aregs := [], cursor := 0,
           starts := [], closed := 0, begun := 0, xfer := none, reqs := [], toWrite := [], fin := none, attached := false, since := 0, strag := 0 }

/-- The bytes of a completion record (R283). -/
def Channel.record (c : Channel) (src : StreamSrc) (e : EndInfo) (started : Bool) : List Byte :=
  let task := match c.job with | .prog b => b.task | _ => 0
  let mseq := match c.job with | .prog b => b.mseq | _ => 0
  natToBytes e.status 1 ++ natToBytes src.number 1 ++ natToBytes e.faultCh 1 ++ natToBytes e.cause 1 ++ natToBytes task 1
    ++ natToBytes (b2n e.discarded + 2 * b2n started) 1 ++ natToBytes 0 2 ++ natToBytes e.off 8 ++ natToBytes e.addr 8
    ++ natToBytes c.tiles 4 ++ natToBytes mseq 2 ++ natToBytes 0 2

/-- Where a completion record goes: an offset of the core's tile memory, or a memory address. -/
inductive RecordAt where
  | nowhere
  | tile (n off : Nat)
  | mem (a : Nat)

def Channel.recordAt (c : Channel) (src : StreamSrc) : RecordAt :=
  match c.job, src.core? with
  | .prog b, some n => if b.crecEn then .tile n b.crecOff else .nowhere
  | .next b, some n => if b.crecEn then .tile n b.crecOff else .nowhere
  | .desc d, _ => if d.crec = 0 ∨ !isMemory d.crec then .nowhere else .mem d.crec
  | _, _ => .nowhere

/-- How a run ends where nothing has ended it. -/
def Channel.endInfo (c : Channel) : EndInfo := c.fin.getD ⟨0, 0xFF, 0, c.begun, 0, false⟩

/-- Write a completion record. -/
def State.putRecord (s : State) (src : StreamSrc) (dst : RecordAt) (bs : List Byte) : State :=
  match dst with
  | .nowhere => s
  | .tile n off => s.tileWrite n off bs false
  | .mem a =>
    match spaceOf a with
    | .peer b =>
      match s.peerAsk (.stream src 2048) src.unit 0x10 1 b ((a - 0x1000_0000_0000) % 0x80_0000_0000) 32 bs false 0 with
      | .ok v => v
      | .error _ => s
    | _ => (s.rangeWrite src.unit a bs false).1

/-- The semaphore that a descriptor's completion posts (R276). A post reaches only the poster's partition (R295). -/
def State.descPost (s : State) (src : StreamSrc) (d : PrivDesc) : State :=
  let x := d.ctrl.toNat
  let core := field x 9 2
  let near := match src.core? with
    | some n => s.partOf n == s.partOf core && (s.partOf n).isSome
    | none => true
  if bitOf x 1 && near then s.semPost core (field x 14 10) (bitOf x 15) else s

/-- The first member of the group that has not attached keeps a stream waiting (R291). -/
def State.allAttached (s : State) (g : Nat) (m : McStream) : Bool :=
  (List.range 256).all fun n => n == m.leader || !(s.cfg.groupOf g).members.getLsbD n || m.recv.any fun r => r.1 == n

/-- Receivers that wait for a group's stream. -/
def State.mcWaiting (s : State) (g mseq : Nat) : List (Nat × Nat) :=
  ((List.range 256).filter (s.cfg.groupOf g).members.getLsbD).flatMap fun n =>
    ((List.range 16).filter fun k =>
      let c := s.chanOf (chSrc n k)
      c.st == .waitGroup && (match c.blk with | some b => b.dir == 3 && b.group == g && b.mseq == mseq | none => false)).map
        fun k => (n, k)

/-- A channel completes: record, cs.stdone, LAST, the descriptor's post, and IDLE (R277, R283). An end other than OK
discards the shadow (R289). The job stays, so that software can release the tiles of its ring. -/
def State.finishChan (s : State) (src : StreamSrc) : State :=
  let c := s.chanOf src
  let e := { c.endInfo with discarded := c.endInfo.discarded || (c.endInfo.status != 0 && c.shadow != .none) }
  let started := e.status == 0 && c.shadow != .none
  let s1 := s.putRecord src (c.recordAt src) (c.record src e started)
  let bit := match src, c.job with
    | .chan _ k, .prog b => if b.irq then 2 ^ k.val else 0
    | .chan _ k, .desc d => if bitOf d.ctrl.toNat 0 then 2 ^ k.val else 0
    | .next _, _ => 2 ^ 16
    | _, _ => 0
  let s2 := match src.core? with
    | some n => s1.updCore n fun w => { w with stdone := w.stdone ||| BitVec.ofNat 17 bit }
    | none => s1
  let s3 := match c.job with | .desc d => s2.descPost src d | _ => s2
  s3.updChan src fun c =>
    { c with st := .idle, last := e.status, xfer := none, toWrite := [],
             shadow := if e.status = 0 then c.shadow else .none }

/-- NOC cycles since cold reset: eight to an HK cycle (R22). -/
def State.nocNow (s : State) : Nat := 8 * s.time.hk

/-- A stream starts: its leader runs, members that did not attach are left out, and those that wait for it complete
with RECEIVER_DETACHED (R291). -/
def State.mcStart (s : State) (g : Nat) (m : McStream) : State :=
  let s1 := s.updGroup g fun x => { x with lastSeq := some m.mseq }
  let s2 := s1.updChan (chSrc m.leader m.chan) fun c => { c with st := .running }
  (s2.mcWaiting g m.mseq).foldl (fun t r =>
    (t.updChan (chSrc r.1 r.2) fun c => { c with fin := some ⟨4, 0xFF, 0, 0, 0, false⟩ }).finishChan (chSrc r.1 r.2)) s2

/-- A waiting leader attaches the members that wait with its MSEQ and SLOT_LOG2, which then run, and starts once all have
attached (R277, R291). -/
def State.mcAttach (s : State) (g : Nat) : State :=
  match (s.group g).active with
  | none => s
  | some m =>
    let lead := s.chanOf (chSrc m.leader m.chan)
    if lead.st ≠ .waitGroup then s else
    let lg := match lead.blk with | some b => b.slotLog2 | none => 0
    let fit := (s.mcWaiting g m.mseq).filter fun r => r.1 != m.leader &&
      (match (s.chanOf (chSrc r.1 r.2)).blk with | some b => b.slotLog2 == lg | none => false)
    let m1 := { m with recv := m.recv ++ fit }
    let s1 := fit.foldl (fun t r => t.updChan (chSrc r.1 r.2) fun c => { c with st := .running, attached := true })
      (s.updGroup g fun x => { x with active := some m1 })
    if s1.allAttached g m1 then s1.mcStart g m1 else s1

/-- A leader that waits for a group: the lowest core, and its lowest channel, leads (R291). -/
def State.mcLeader (s : State) (g : Nat) : Option (Nat × Nat × Nat) :=
  ((List.range 256).filter (s.cfg.groupOf g).members.getLsbD).findSome? fun n =>
    (List.range 16).findSome? fun k =>
      let c := s.chanOf (chSrc n k)
      match c.blk with
      | some b => if c.st = .waitGroup ∧ b.dir = 2 ∧ b.group = g then some (n, k, b.mseq) else none
      | none => none

/-- A free group takes the stream of a leader that waits for it, unless the mesh tables hold a commit's new setting
(R71 step 4, R291). -/
def State.mcClaim (s : State) (g : Nat) : State :=
  if (s.group g).active.isSome ∨ s.appliedUnit 0x495 then s else
  match s.mcLeader g with
  | none => s
  | some l =>
    ((s.updGroup g fun x => { x with active := some ⟨l.1, l.2.1, l.2.2, []⟩ }).updChan (chSrc l.1 l.2.1) fun c =>
      { c with since := s.nocNow }).mcAttach g

/-- Start a job on a source (R277, R290, R291). An MC_RECV of the stream that started last in its group is late. -/
def State.startJob (s : State) (src : StreamSrc) (j : ChJob) (fromShadow : Bool) : State :=
  let go (st : ChState) : State := s.updChan src fun c => { c.begin j st with fromShadow := fromShadow }
  match src, j with
  | .chan _ _, .prog b =>
    if b.dir = 2 then (go .waitGroup).mcClaim b.group
    else if b.dir = 3 then
      let s1 := go .waitGroup
      if (s1.group b.group).lastSeq = some b.mseq then
        (s1.updChan src fun c => { c with fin := some ⟨4, 0xFF, 0, 0, 0, false⟩ }).finishChan src
      else s1.mcAttach b.group
    else go .running
  | _, _ => go .running

/-- When the leader of a stream has drained, its attached receivers drain with OK, and the group is free (R294). -/
def State.mcEnd (s : State) (n k : Nat) (b : ChanBlock) : State :=
  match s.leads n k b with
  | none => s
  | some m =>
    let lead := s.chanOf (chSrc n k)
    let s1 := m.recv.foldl (fun t r =>
      if (t.chanOf (chSrc r.1 r.2)).st = .running ∧ (t.chanOf (chSrc r.1 r.2)).fin.isNone then
        t.updChan (chSrc r.1 r.2) fun c => { c with st := .draining, fin := some ⟨0, 0xFF, 0, lead.begun, 0, false⟩ }
      else t) s
    s1.updGroup b.group fun g => { g with active := none }

/-- CHANNEL_COMPLETE: a channel that drains or aborts and has nothing outstanding writes its record and becomes IDLE, or
starts its shadow (R277, R283, R289). -/
def State.chanComplete (s : State) (src : StreamSrc) : State :=
  let c := s.chanOf src
  if (c.st ≠ .draining ∧ c.st ≠ .aborting) ∨ !c.reqs.isEmpty ∨ !c.toWrite.isEmpty ∨ !s.engineRuns src then s else
  let wait := match c.recordAt src with
    | .mem a => match spaceOf a with | .peer _ => none | _ => s.rangeWait a 32 true
    | _ => none
  match wait with
  | some w => w
  | none =>
    let e := c.endInfo
    let s0 := match src, c.blk with
      | .chan n k, some b => (s.mcEnd n k b).mcLeave n k b
      | _, _ => s
    let s1 := s0.finishChan src
    let s2 := if e.status = 0 ∧ c.shadow ≠ .none then
        (s1.updChan src fun x => { x with shadow := .none }).startJob src c.shadow true
      else s1
    match c.blk with
    | some b => if b.dir = 2 then s2.mcClaim b.group else s2
    | none => s2

/-- A stop that detaches a receiver counts on the engine of its leader (R294, R306). -/
def State.detachCount (s : State) (m : StreamSrc) : State :=
  match m, (s.chanOf m).blk with
  | .chan n k, some b =>
    match (s.group b.group).active with
    | some x => if b.dir = 3 ∧ x.recv.contains (n.val, k.val) then s.count (0x100 + x.leader) 7 else s
    | none => s
  | _, _ => s

/-- SSTOP and STOP: the task of a channel ends with KILLED; a channel that waits for its group completes at once, and the
members that a leader has attached end with it (R277, R294, R300, R304). -/
def State.chanStop (s : State) (src : StreamSrc) : State :=
  let kill (t : State) (m : StreamSrc) : State :=
    let c := t.chanOf m
    let info : EndInfo := ⟨3, 0xFF, 0, c.transferred, 0, false⟩
    if c.st = .waitGroup then
      match m, c.blk with
      | .chan n k, some b =>
        let t1 := ((t.mcAbort n k b).mcEnd n k b).updChan m fun c => { c with fin := some info }
        (t1.finishChan m).mcClaim b.group
      | _, _ => t
    else (t.detachCount m).srcAbort m info
  if (s.chanOf src).st = .idle then s
  else ((src :: s.taskMates src).foldl kill s).count src.unit 8

/-- The straggler timer of a stream's receivers counts `k` NOC cycles while the next tile is held back by them (R293). -/
def State.stragTick (s : State) (k : Nat) : State :=
  s.mcast.foldl (fun t e =>
    match e.2.active with
    | none => t
    | some m =>
      let lead := t.chanOf (chSrc m.leader m.chan)
      match lead.blk with
      | none => t
      | some b =>
        if lead.st ≠ .running ∨ !t.tileHeld m.leader m.chan b then t else
        m.recv.foldl (fun t q => t.updChan (chSrc q.1 q.2) fun x =>
          match x.blk with
          | some y => if x.fin.isNone ∧ x.released + min 8 (y.slots - 1) ≤ lead.closed then { x with strag := x.strag + k } else x
          | none => x) t) s

/-- STRAGGLER_DETACH: a receiver that holds back the next tile, and whose timer has reached the leader's
STR_STRAG_TIMEOUT, is detached (R293). -/
def State.straggler (s : State) (n k r : Nat) : State :=
  let lead := s.chanOf (chSrc n k)
  match lead.blk with
  | none => s
  | some b =>
    match s.leads n k b with
    | none => s
    | some m =>
      if lead.st ≠ .running then s else
      (m.recv.filter fun q => q.1 == r).foldl (fun t q =>
        let x := t.chanOf (chSrc q.1 q.2)
        match x.blk with
        | none => t
        | some y =>
          if x.fin.isNone ∧ lead.cursor = 0 ∧ x.released + min 8 (y.slots - 1) ≤ lead.closed
              ∧ (s.core n).stragTimeout ≤ x.strag then
            (t.updChan (chSrc q.1 q.2) fun c =>
              { c with fin := some ⟨4, 0xFF, 0, lead.begun, 0, false⟩, closed := lead.closed,
                       st := if c.tiles = lead.closed then .draining else c.st }).count (0x100 + n) 7
          else t) s

/-- MULTICAST_ATTACH_TIMEOUT: a leader that has waited STR_STRAG_TIMEOUT NOC cycles starts with the members attached
(R291). Where no stream is active, the leader that waits takes its group. -/
def State.attachTimeout (s : State) (n k : Nat) : State :=
  let c := s.chanOf (chSrc n k)
  match c.blk with
  | some b =>
    if c.st ≠ .waitGroup ∨ b.dir ≠ 2 then s else
    match (s.group b.group).active with
    | none => s.mcClaim b.group
    | some m =>
      if m.leader = n ∧ m.chan = k ∧ c.since + (s.core n).stragTimeout ≤ s.nocNow then s.mcStart b.group m else s
  | none => s

/-! ## Commands (R289, R299 to R304). -/

/-- The first failing check, by code; 0 where none fails (R301). -/
def firstCode (cs : List (Bool × Nat)) : Nat := match cs.find? (·.1) with | some c => c.2 | none => 0

/-- The ranges of tile memory that a start reads: the block, and the program that a channel block names. -/
def State.startRanges (s : State) (n off len : Nat) : List (Nat × Nat) :=
  let b := (s.tileBytes n off len).1
  if len = 128 then [(off, len), (le b 0 4, 4 * le b 4 1)] else [(off, len)]

/-- The engine reads a block and its program: a poisoned word is found, and raises detector 0x3F (R516, R584). -/
def State.findBlock (s : State) (n off len : Nat) : State :=
  (s.startRanges n off len).foldl (fun t r =>
    if (t.tileBytes n r.1 r.2).2 then
      (t.tileFind n r.1 r.2).raise 0x3F (0x100 + n) (0x800_0000_0000 + 0x40_0000 * n + r.1) 3
    else t) s

/-- The channel block at a tile-memory offset of core `n`; none where it is not valid, or where it or its program is
poisoned (log 47). -/
def State.readChan (s : State) (n off : Nat) : Option ChanBlock :=
  if (s.startRanges n off 128).any fun r => (s.tileBytes n r.1 r.2).2 then none
  else parseChan (s.tileBytes n off 128).1 fun o m => (s.tileBytes n o m).1

/-- Whether the completion record of the block at an offset of core `n` is enabled at a misaligned offset, and that
offset (R300). -/
def State.recordOff (s : State) (n off : Nat) : Option Nat :=
  let crec := le (s.tileBytes n (off + 16) 4).1 0 4
  if bitOf crec 31 ∧ field crec 21 0 % 32 ≠ 0 then some (field crec 21 0) else none

/-- The checks of a start or re-arm that do not depend on the channel's state, lowest code first (R301). -/
def State.startChecks (s : State) (n k : Nat) (blk : Option ChanBlock) (start : Bool) : List (Bool × Nat) :=
  let b? (f : ChanBlock → Bool) : Bool := match blk with | some b => f b | none => false
  [(blk.isNone, 3), (b? fun b => !progOk b.prog, 4), (s.privChan n k, 5), ((s.partOf n).isNone, 6),
   (match s.partOf n with | some p => s.partHeld p | none => false, 7),
   (b? fun b => decide (2 ≤ b.dir) && !(s.cfg.groupOf b.group).members.getLsbD n, 8),
   (start && b? fun b => b.dir == 2 && (s.group b.group).active.isSome, 9)]

/-- SSTART: the code, and the state (R300, R301). -/
def State.sStart (s : State) (n k off : Nat) : Nat × State :=
  let src := chSrc n k
  let blk := s.readChan n off
  let code := firstCode (((s.chanOf src).st != .idle, 1) :: s.startChecks n k blk true)
  match code, blk with
  | 0, some b => (0, s.startJob src (.prog b) false)
  | c, _ => (c, s)

/-- SREARM (R289). -/
def State.sRearm (s : State) (n k off : Nat) : Nat × State :=
  let src := chSrc n k
  let c := s.chanOf src
  if c.st = .idle then s.sStart n k off else
  let blk := s.readChan n off
  let code := firstCode ((c.st == .aborting && c.shadow == .none, 1) :: (c.shadow != .none, 2) :: s.startChecks n k blk false)
  match code, blk with
  | 0, some b => (0, s.updChan src fun c => { c with shadow := .prog b })
  | c, _ => (c, s)

/-- NLARM (R299, R301). -/
def State.nlArm (s : State) (n off : Nat) : Nat × State :=
  let src : StreamSrc := .next (Fin.ofNat 256 n)
  let r := s.tileBytes n off 32
  let blk := if r.2 then none else parseNext r.1
  let code := firstCode [(blk.isNone, 3), ((s.partOf n).isNone, 6),
    (match s.partOf n with | some p => s.partHeld p | none => false, 7), ((s.chanOf src).st != .idle, 13)]
  match code, blk with
  | 0, some b => (0, s.startJob src (.next b) false)
  | c, _ => (c, s)

/-- The owner check of a command on a privileged source: 15 NOT_PRIVILEGED, 14 OWNER, or 0 (R265, R266, R304). -/
def State.ownerCode (s : State) (a : Agent) (src : StreamSrc) : Nat :=
  match src with
  | .chan n k =>
    if !s.privChan n k then 15
    else if (s.cfg.privOf n).host.getLsbD k then (match a with | .host _ f => if f = 0 then 0 else 14 | _ => 14)
    else (match a with | .clove _ => 0 | .monitor m => if m = n then 0 else 14 | _ => 14)
  | .dma d =>
    let o := s.cfg.dmaOwnerOf d
    (match a with
     | .clove _ => if o = 0 then 0 else 14
     | .host h f => if o = h.val + 1 ∧ f = 0 then 0 else 14
     | _ => 14)
  | .next _ => 15

/-- The descriptor that a source's DESC register names, read now (R276, R304): none where it is not valid or cannot be
read. A descriptor of a peer comes over the links, and poison raises detector 0x3F. The command waits, in the state given,
until every line answers. -/
def State.readDesc (s : State) (src : StreamSrc) : Except State (Option PrivDesc × State) :=
  let a := (s.chanOf src).descAddr
  let take (t : State) (code : BusResp) (bs : List Byte) (bad : Bool) : Option PrivDesc × State :=
    if code ≠ .okay then (none, t)
    else if bad then (none, t.raise 0x3F src.unit a 3)
    else (parseDesc bs, t)
  if !isMemory a then .ok (none, s) else
  match spaceOf a with
  | .peer b =>
    let who : Requester := .stream src 2049
    match s.peerTake who with
    | some d => .ok (take d.2 d.1.code d.1.data d.1.poison)
    | none =>
      if s.peerWaits who then .error s
      else match s.peerAsk who src.unit (s.srcPart src) 2 b ((a - 0x1000_0000_0000) % 0x80_0000_0000) 128 [] false 0 with
        | .ok t => .error t
        | .error _ => .ok (none, s)
  | _ =>
    match s.rangeWait a 128 false with
    | some t => .error t
    | none => let r := s.rangeRead a 128
              .ok (take r.1 r.2.1 r.2.2.1 r.2.2.2)

/-- START and REARM of a privileged source: the code, and the state (R289, R304), or the state in which the command waits:
for its descriptor, or because the engine holds a commit's new setting (R71 step 4). -/
def State.privGo (s : State) (a : Agent) (src : StreamSrc) (rearm : Bool) : Except State (Nat × State) :=
  let c := s.chanOf src
  let held := match src.core? with
    | some n => (match s.partOf n with | some p => s.partHeld p | none => false)
    | none => false
  let shadow := rearm && c.st != .idle
  let own := s.ownerCode a src
  let busy := if shadow then firstCode [(c.st == .aborting && c.shadow == .none, 1), (c.shadow != .none, 2)]
    else firstCode [(c.st != .idle, 1)]
  if own ≠ 0 then .ok (own, s)
  else if busy ≠ 0 then .ok (busy, s)
  else if s.appliedUnit src.unit then .error s
  else
    match s.readDesc src with
    | .error t => .error t
    | .ok (none, t) => .ok (3, t)
    | .ok (some d, t) =>
      if held then .ok (7, t)
      else if shadow then .ok (0, t.updChan src fun c => { c with shadow := .desc d })
      else .ok (0, t.startJob src (.desc d) false)

/-- A command of STR_CH_CMD or SDMA_CMD by `a`: 1 START, 2 REARM, 3 STOP (R304). -/
def State.privCmd (s : State) (a : Agent) (src : StreamSrc) (op : Nat) : State :=
  let go (rearm : Bool) : State :=
    match s.privGo a src rearm with
    | .ok r => r.2.updChan src fun c => { c with result := r.1 }
    | .error t => t
  match op with
  | 1 => go false
  | 2 => go true
  | 3 => (s.chanStop src).updChan src fun c => { c with result := 0 }
  | _ => s

/-- A write of cs.strptr (R303): HEAD of an IN ring, TAIL of an OUT ring. -/
def State.strptrWrite (s : State) (n k : Nat) (v : W64) : State :=
  if s.privChan n k then s else
  s.updChan (chSrc n k) fun c =>
    match c.blk with
    | none => c
    | some b =>
      let m := b.slots
      if b.dir = 1 then
        let t := field v.toNat 21 16
        let step := (t + m - c.tail) % m
        if m ≤ t ∨ (c.head + m - 1 + m - c.tail) % m < step then { c with badPtr := true }
        else { c with tail := t, released := c.released + step }
      else
        let h := field v.toNat 5 0
        let step := (h + m - c.head) % m
        if m ≤ h ∨ (c.tail + m - c.head) % m < step then { c with badPtr := true }
        else { c with head := h, released := c.released + step, strag := if step = 0 then c.strag else 0 }

/-- Code of STATE (R277). -/
def ChState.code : ChState → Nat
  | .idle => 0 | .waitGroup => 1 | .running => 2 | .draining => 3 | .aborting => 4

/-- cs.strptr and cs.strstat of a channel (R303). -/
def State.strptr (s : State) (n k : Nat) : W64 :=
  let c := s.chanOf (chSrc n k)
  if s.privChan n k then 0 else BitVec.ofNat 64 (c.head + c.tail * 2 ^ 16)
def State.strstat (s : State) (n k : Nat) : W64 :=
  let c := s.chanOf (chSrc n k)
  let task := match c.blk with | some b => b.task | none => 0
  if s.privChan n k then 0
  else BitVec.ofNat 64 (c.st.code + 8 * b2n (c.shadow != .none) + 16 * task + 128 * b2n c.badPtr + 256 * c.last + 2 ^ 16 * (c.tiles % 2 ^ 32))

/-- The reset of a core ends every channel and the slot without a record; tags in flight free as they return (R307).
What the channels led or received ends with them. -/
def State.chansReset (s : State) (n : Nat) : State :=
  let s1 := (List.range 16).foldl (fun t k =>
    let c := t.chanOf (chSrc n k)
    match c.blk with
    | some b => if c.st = .idle then t else ((t.mcAbort n k b).mcLeave n k b).mcEnd n k b
    | none => t) s
  s1.updCore n fun w =>
    { w with lost := w.lost ++ ((List.range 17).map fun k => (Tbl.get Channel.off w.chans k).reqs).flatten,
             chans := [], execLast := 15, genLast := 15, stdone := 0, sems := [] }

end Sys2Proof.Machine
end

