-- ==== Sys2Proof/Machine/HostOps.lean ====
section
/-! DEFINITION. Mailboxes and doorbells, and the host ports with their job rings (R411 to R435). -/

namespace Sys2Proof

/-- The mailbox code of an agent (R53); the debug module has none. -/
def Agent.code : Agent → Nat
  | .monitor n => n.val
  | .clove h => 0x100 + h.val
  | .host h f => 0x200 + 0x20 * h.val + f.val
  | .board => 0x300
  | .debug => 0xFFFF

/-- The Clove thread that an agent is, 64 for any other (R406, R410). -/
def Agent.hart : Agent → Nat
  | .clove h => h.val
  | _ => 64

end Sys2Proof

namespace Sys2Proof.Machine

/-! ## Mailboxes (R430 to R433). -/

/-- A mailbox domain goes off: accesses of this HK cycle still see it on (R433). -/
def State.markOff (s : State) (domain : Nat) : State :=
  s.updNut fun x => { x with offAt := Tbl.set 0 x.offAt domain (s.time.hk + 1) }

/-- Whether a domain that is off went off before this HK cycle (R433). -/
def State.offBefore (s : State) (domain : Nat) : Bool := Tbl.get 0 s.nut.offAt domain != s.time.hk + 1

/-- Whether the power domain of a mailbox agent is off (R432, R433): a tile, a Clove core by its first thread, a host
port by the code of its function 0x1F, and a function in D3hot. -/
def State.agentOff (s : State) (code : Nat) : Bool :=
  if code < 0x100 then s.tileOff code && s.offBefore code
  else if code < 0x140 then
    let c := (code - 0x100) / 8
    s.clvOff c && s.offBefore (0x100 + 8 * c)
  else if code < 0x240 then
    let h := (code - 0x200) / 0x20
    (!s.hostUp h && s.offBefore (0x21F + 0x20 * h))
      || ((Tbl.get HostFn.off (s.hostPort h).fns (code % 0x20)).d3hot && s.offBefore code)
  else false

/-- MBX_DB_PEND of an agent (R431). -/
def State.dbPend (s : State) (code : Nat) : BitVec 32 :=
  if s.cfg.mbx.isEmpty then 0 else
  (List.range 64).foldl (fun (m : BitVec 32) c =>
    let r := s.cfg.mbxOf c
    if bitOf r.flags 0 && r.receiver == code && (s.mbxAt c).full then m ||| BitVec.ofNat 32 (2 ^ r.doorbell) else m) 0

/-- MBX_DB_MASK of an agent (R431). -/
abbrev State.dbMaskOf (s : State) (code : Nat) : BitVec 32 := Tbl.get 0xFFFFFFFF s.dbMask code

/-- The doorbell of an agent is pending; it is delivered while its domain is on (R431, R432). -/
def State.doorbell (s : State) (code : Nat) : Bool := (s.dbPend code &&& ~~~(s.dbMaskOf code)) != 0 && !s.agentOff code

/-- The bus response of an access to channel `c` by an agent with this code (R430, R432). -/
def State.mbxCode (s : State) (code c : Nat) : BusResp :=
  let r := s.cfg.mbxOf c
  if !bitOf r.flags 0 || !(r.sender == code || r.receiver == code) then .perm
  else if s.agentOff r.receiver then .domainOff
  else .okay

/-- The bus response of an access to the doorbell registers of agent `target` (R431, R432). -/
def State.dbCode (s : State) (code target : Nat) : BusResp :=
  if !mbxAgent target then .decode else if code ≠ target then .perm else if s.agentOff target then .domainOff else .okay

/-- Word `w` of a channel's message (R430). -/
def Mbx.word (x : Mbx) (w : Nat) : W64 :=
  if w = 0 then BitVec.ofNat 64 (x.tag.toNat + 2 ^ 47 * b2n x.valid + 2 ^ 48 * x.sender.toNat) else Tbl.get 0 x.data w

/-- A read of message word `w`: the sender sees it while FULL = 0, the receiver while FULL = 1 (R430). -/
def State.mbxRead (s : State) (code c w : Nat) : W64 :=
  let x := s.mbxAt c
  let r := s.cfg.mbxOf c
  if (r.sender = code ∧ !x.full) ∨ (r.receiver = code ∧ x.full) then x.word w else 0

/-- An operation arrives at a channel, and takes effect at the end of the HK cycle (R433). -/
def State.mbxArrive (s : State) (c : Nat) (op : MbxOp) : State := s.updMbx c fun x => { x with ops := x.ops ++ [op] }

/-- A write of message word `w` (R430). A write of one half keeps the other: `keep` marks the bits not written. -/
def State.mbxWrite (s : State) (code c w : Nat) (keep val : W64) : State :=
  if (s.cfg.mbxOf c).sender ≠ code then s else s.mbxArrive c (.write w keep val)

/-- A write of MBX_POST (R430). The unit holds it while it holds a commit's new setting (R71 step 4). -/
def State.mbxPost (s : State) (code c : Nat) (val : W64) : State :=
  if (s.cfg.mbxOf c).sender ≠ code ∨ !val.getLsbD 0 ∨ s.appliedUnit 0x493 then s else s.mbxArrive c (.post code)

/-- A read of MBX_TAKE: the header, and the state (R430). -/
def State.mbxTake (s : State) (code c : Nat) : W64 × State :=
  let x := s.mbxAt c
  if (s.cfg.mbxOf c).receiver ≠ code ∨ !x.full then (0, s) else (x.word 0, s.mbxArrive c .take)

/-- One operation at the end of its HK cycle; `full` is FULL as the cycle began (R430, R433). -/
def Mbx.apply (full : Bool) (x : Mbx) (op : MbxOp) : Mbx :=
  match op with
  | .clear p w => { x with postReject := x.postReject && !p, writeReject := x.writeReject && !w }
  | .write w keep val =>
    if full then { x with writeReject := true }
    else if w = 0 then { x with tag := (x.tag &&& keep.setWidth 47) ||| ((val &&& ~~~keep).setWidth 47) }
    else { x with data := Tbl.upd 0 x.data w fun o => (o &&& keep) ||| (val &&& ~~~keep) }
  | .post code =>
    if full then { x with postReject := true }
    else { x with sender := BitVec.ofNat 16 code, valid := true, full := true }
  | .take => if full then { x with full := false, sender := 0, valid := false } else x

/-- The order in which the operations of one HK cycle apply: status clears, word writes, POST, TAKE (R433; log 72). -/
def MbxOp.rank : MbxOp → Nat | .clear _ _ => 0 | .write _ _ _ => 1 | .post _ => 2 | .take => 3

/-- The operations of an HK cycle take effect at its end (R433). -/
def Mbx.tick (x : Mbx) : Mbx :=
  let ops := (List.range 4).flatMap fun r => x.ops.filter fun o => o.rank == r
  ops.foldl (Mbx.apply x.full) { x with ops := [] }

/-- The end of an HK cycle at the mailbox unit. -/
def State.mbxTick (s : State) : State :=
  (s.mbx.filter fun e => !e.2.ops.isEmpty).foldl (fun t e => t.updMbx e.1 Mbx.tick) s

/-- Doorbells that rise are sent: MSI-X vector 1 of a host function, an in-band interrupt to the board (R431, R562). -/
def State.dbSettle (s : State) : State :=
  let s1 := (List.range 34).foldl (fun t i =>
    let h := i / 17
    let f := i % 17
    let on := t.doorbell (0x200 + 0x20 * h + f)
    let x := Tbl.get HostFn.off (t.hostPort h).fns f
    let y := { x with dbSeen := on, sent1 := if on && !x.mask1 then x.sent1 + 1 else x.sent1 }
    if on == x.dbSeen then t else t.updHost h fun p => { p with fns := Tbl.set HostFn.off p.fns f y }) s
  let on := s1.doorbell 0x300
  if on == s1.pins.boardDbSeen then s1
  else { s1 with pins := { s1.pins with boardDbSeen := on, ibiDoorbell := s1.pins.ibiDoorbell + b2n on } }

/-! ## Host ports (R411 to R418). -/

/-- The code of RATE for a rate in GT/s (R435). -/
def rateCode (r : Nat) : Nat := if r = 16 then 1 else if r = 32 then 2 else if r = 64 then 3 else 0

/-- HOST_LINK_TRAIN: the width and rate are the highest that the partner advertises; the port takes the highest that
both allow (R412). -/
def State.hostTrain (s : State) (h width rate : Nat) : State :=
  if !s.hostEnabled h ∨ (s.hostPort h).isolated ∨ s.boot.halted then s else
  let c := s.cfg.hostOf h
  let w := ([16, 8, 4].find? fun x => decide (x ≤ width ∧ x ≤ c.maxWidth)).getD 0
  let r := ([64, 32, 16].find? fun x => decide (x ≤ rate ∧ x ≤ c.maxRate)).getD 0
  s.updHost h fun p =>
    if w = 0 ∨ r = 0 then { p with trainFail := true, width := 0, rate := 0, ideUp := false }
    else { p with width := w, rate := rateCode r, ideUp := false }

/-- IDE is established on every stream of a link that is up (R413). -/
def State.ideEstablish (s : State) (h : Nat) : State :=
  if s.hostUp h then s.updHost h fun p => { p with ideUp := true } else s

/-- The link of a host port goes down, or its session ends (R413, R432). -/
def State.hostDown (s : State) (h : Nat) : State :=
  let s1 := if s.hostUp h then s.markOff (0x21F + 0x20 * h) else s
  s1.updHost h fun p => { p with width := 0, rate := 0, ideUp := false }

/-- HOST_LINK_DOWN raises detector 0x2A (R504). -/
def State.hostLinkDown (s : State) (h : Nat) : State :=
  if s.hostUp h then (s.hostDown h).raise 0x2A (0x480 + h) 0 0 else s

/-- IDE_FAILURE raises detector 0x28 on a link whose IDE is up (R413). -/
def State.ideFailure (s : State) (h : Nat) (stream : W64) : State :=
  if s.hostUp h && (s.hostPort h).ideUp then s.raise 0x28 (0x480 + h) 0 stream.toNat else s

abbrev State.hostFn (s : State) (h f : Nat) : HostFn := Tbl.get HostFn.off (s.hostPort h).fns f
def State.updFn (s : State) (h f : Nat) (g : HostFn → HostFn) : State :=
  s.updHost h fun p => { p with fns := Tbl.upd HostFn.off p.fns f g }

/-- HOST_CONFIG_WRITE (R411, R414, R417, R418, R425, R432), and what the host itself decides of its addresses (R418). -/
def State.hostConfig (s : State) (h : Nat) (c : HostCfg) : State :=
  if !s.hostUp h then s else
  match c with
  | .d3hot f on =>
    let s1 := if on && !(s.hostFn h f).d3hot then s.markOff (0x200 + 0x20 * h + f.val) else s
    s1.updFn h f fun x => { x with d3hot := on }
  | .vfs n => if n.val ≤ (s.cfg.hostOf h).vfCount then s.updHost h fun p => { p with vfs := n.val } else s
  | .hdm base => s.updHost h fun p => { p with hdmBase := base }
  | .msixMask f v m => s.updFn h f fun x => if v = 0 then { x with mask0 := m } else { x with mask1 := m }
  | .ats on => s.updHost h fun p => { p with ats := on }
  | .refuse lo hi on => s.updHost h fun p =>
      let rest := p.refused.filter (· != (lo.toNat, hi.toNat))
      { p with refused := if on then rest ++ [(lo.toNat, hi.toNat)] else rest }

/-! ## Job rings (R424 to R428, R435). -/

/-- Whether a function has job rings: the physical function's registers exist, and those of a virtual function that
serves no partition read as zero and ignore writes (R414). -/
def State.fnRings (s : State) (h f : Nat) : Bool := f == 0 || ((s.cfg.hostOf h).vfPart.getD (f - 1) 0xFF != 0xFF)

/-- Steps from one index to another around a ring. -/
def ringStep (m a b : Nat) : Nat := (b + m - a % m) % m

/-- The pointers before an HK cycle are those of its first pointer or status write (R428). -/
def HostFn.atCycle (x : HostFn) (hk : Nat) : HostFn :=
  if x.cycle = hk + 1 then x
  else { x with cycle := hk + 1, sqHead0 := x.sqHead, sqTail0 := x.sqTail, cqHead0 := x.cqHead, cqTail0 := x.cqTail,
                tailNow := false }

/-- A host write of SQ_PTR.TAIL (R425, R427, R428). -/
def HostFn.sqTailPut (x : HostFn) (v : Nat) : HostFn :=
  let m := 2 ^ x.sqSize
  if !x.sqEn then x
  else if m ≤ v ∨ m ≤ ringStep m x.sqHead0 x.sqTail0 + ringStep m x.sqTail0 v then { x with ptrReject := true }
  else { x with sqTail := v, db := true, tailNow := true }

/-- A firmware write of SQ_PTR.HEAD (R427). -/
def HostFn.sqHeadPut (x : HostFn) (v : Nat) : HostFn :=
  let m := 2 ^ x.sqSize
  if !x.sqEn then x
  else if m ≤ v ∨ ringStep m x.sqHead0 x.sqTail0 < ringStep m x.sqHead0 v then { x with ptrReject := true }
  else { x with sqHead := v }

/-- A firmware write of CQ_PTR.TAIL; vector 0 is sent when it advances (R425, R427). `up` is whether the port can send. -/
def HostFn.cqTailPut (x : HostFn) (v : Nat) (up : Bool) : HostFn :=
  let m := 2 ^ x.cqSize
  let step := ringStep m x.cqTail v
  if !x.cqEn then x
  else if m ≤ v ∨ m ≤ ringStep m x.cqHead0 x.cqTail0 + ringStep m x.cqTail0 v then { x with ptrReject := true }
  else { x with cqTail := v, phase := x.phase != decide (m ≤ x.cqTail + step),
                sent0 := if step != 0 && up && !x.mask0 then x.sent0 + 1 else x.sent0 }

/-- A host write of CQ_PTR.HEAD (R427). -/
def HostFn.cqHeadPut (x : HostFn) (v : Nat) : HostFn :=
  let m := 2 ^ x.cqSize
  if !x.cqEn then x
  else if m ≤ v ∨ ringStep m x.cqHead0 x.cqTail0 < ringStep m x.cqHead0 v then { x with ptrReject := true }
  else { x with cqHead := v }

/-- A write of HST_SQ_BASE or HST_CQ_BASE (R435). -/
def HostFn.basePut (x : HostFn) (cq : Bool) (val : W64) : HostFn :=
  let size := field val.toNat 3 0
  let en := val.getLsbD 4
  let addr := field val.toNat 44 12 * 4096
  if size < 4 ∨ 12 < size then x
  else if cq then
    if x.cqEn && en && (size != x.cqSize || addr != x.cqBase) then x
    else if en && !x.cqEn then { x with cqBase := addr, cqSize := size, cqEn := true, cqHead := 0, cqTail := 0, cqHead0 := 0, cqTail0 := 0, phase := true }
    else { x with cqBase := addr, cqSize := size, cqEn := en }
  else
    if x.sqEn && en && (size != x.sqSize || addr != x.sqBase) then x
    else if en && !x.sqEn then { x with sqBase := addr, sqSize := size, sqEn := true, sqHead := 0, sqTail := 0, sqHead0 := 0, sqTail0 := 0 }
    else { x with sqBase := addr, sqSize := size, sqEn := en }

/-- HOSTPORT is pending for a thread while a DB bit of a port that names it is set (R425). -/
def State.hostIrq (s : State) (h : Nat) : Bool :=
  (List.range 2).any fun p => (s.hostPort p).irqThread == h && (s.hostPort p).fns.any fun e => e.2.db

end Sys2Proof.Machine
end

