-- ==== Sys2Proof/Machine/MatOps.lean ====
section
/-! DEFINITION. The accumulators and the queued matrix instructions of a worker core (R175 to R202). -/

namespace Sys2Proof.Machine

/-! ## What a queued instruction touches (R198, R199). -/

/-- Tile-memory ranges that an incomplete matrix instruction reads. -/
def MatOp.reads (o : MatOp) : List (Nat × Nat) :=
  match o.kind with
  | .mma a => mmaReads a o.rows o.cols
  | .load off pitch => (List.range o.rows).map fun i => (off + i * pitch, o.cols * accSize o.pair)
  | _ => []

/-- Tile-memory ranges that it writes. -/
def MatOp.writes (o : MatOp) (fmt : Nat) : List (Nat × Nat) :=
  match o.kind with
  | .store off pitch => (List.range o.rows).map fun i => (off + i * pitch, o.cols * accSize o.pair)
  | .conv _ off scale => [(off, o.rows * (o.cols * fmtBits fmt / 8))] ++
      (if fmtBlock fmt then [(scale, o.rows * (o.cols / 32))] else [])
  | _ => []

/-- The format a conversion writes. -/
def MatOp.fmt (o : MatOp) : Nat := match o.kind with | .conv d _ _ => d | _ => 0

/-- CORE cycles for which an instruction occupies its engine, and those that it takes beyond (R203, R204). -/
def MatOp.times (o : MatOp) : Nat × Nat :=
  let lines := (o.cols * accSize o.pair + 255) / 256
  match o.kind with
  | .mma g =>
    let c := match fmtBits g.fa with
      | 4 => (32, 20) | 16 => (128, if g.fa = 3 then 24 else 20) | 32 => (512, 24) | 64 => (4096, 40) | _ => (64, 20)
    (g.kb * c.1, c.2)
  | .zero => (8, 0)
  | .load _ _ | .store _ _ => (o.rows * lines, 6)
  | .conv d _ _ => (o.rows * lines, if fmtBlock d then 12 else 10)
  | .rowRead _ _ | .rowWrite _ _ => (lines, 4)

/-- The matrix instructions of a core that have not completed (R197). -/
def Wrk.matOps (w : Wrk) : List MatOp := w.mq ++ w.arrayRun ++ w.accessRun

/-! ## Accumulators (R175, R176). -/

/-- The place of element (i, j) of accumulator tile `a`. -/
def accKey (a i j : Nat) : Nat := 49152 * a + 192 * i + j

/-- The code of element (i, j) of a tile, or of the pair that starts at tile `a`. -/
def Wrk.accGet (w : Wrk) (a : Nat) (pair : Bool) (i j : Nat) : Nat :=
  let part (t : Nat) : Nat := (Tbl.get 0 w.acc (accKey t i j)).toNat
  part a + if pair then part (a + 1) * 2 ^ 32 else 0

/-- Write an element. -/
def Wrk.accSet (w : Wrk) (a : Nat) (pair : Bool) (i j code : Nat) : Wrk :=
  let x := Tbl.set 0 w.acc (accKey a i j) (BitVec.ofNat 32 code)
  { w with acc := if pair then Tbl.set 0 x (accKey (a + 1) i j) (BitVec.ofNat 32 (code / 2 ^ 32)) else x }

/-- Clear a tile or a pair (R181). -/
def Wrk.accZero (w : Wrk) (a : Nat) (pair : Bool) : Wrk :=
  { w with acc := Tbl.cut (accKey a 0 0) (accKey (a + if pair then 2 else 1) 0 0) w.acc }

/-- The codes of a row of the active subtile. -/
def Wrk.accRow (w : Wrk) (o : MatOp) (i : Nat) : List Nat := (List.range o.cols).map fun j => w.accGet o.acc o.pair i j

/-- The cells of the active subtile, row by row. -/
def MatOp.cells (o : MatOp) : List (Nat × Nat) := (List.range o.rows).flatMap fun i => (List.range o.cols).map fun j => (i, j)

/-! ## Rows and effects. -/

/-- Write row `i` of a MACCST, MACCSTC or MACCSTCD to tile memory (R185, R186, R196): the state and the row's flags. -/
def State.opRow (s : State) (n : Nat) (o : MatOp) (i : Nat) : State × Flags :=
  let row := (s.core n).accRow o i
  let es := accSize o.pair
  match o.kind with
  | .store off pitch => (s.tileWrite n (off + i * pitch) (row.flatMap fun c => natToBytes c es) false, 0)
  | .conv d off scale =>
    let r := convRow o.md (if o.pair then 0 else 1) d i o.cols row
    let s1 := s.tileWrite n (off + i * (o.cols * fmtBits d / 8)) r.1 false
    (if fmtBlock d then s1.tileWrite n (scale + i * (o.cols / 32)) r.2.1 false else s1, r.2.2)
  | _ => (s, 0)

/-- The poisoned words of some ranges of a tile memory, each of which the read reports; it finds the uncorrectable errors
of the others first (R202, R516, R584). -/
def State.poisonRead (s : State) (n : Nat) (rs : List (Nat × Nat)) : State :=
  let ws := rs.flatMap fun r => (List.range ((r.1 + r.2 + 7) / 8 - r.1 / 8)).map (r.1 / 8 + ·)
  let s := rs.foldl (fun t r => t.tileFind n r.1 r.2) s
  ((ws.filter fun x => s.tileBad n (8 * x)).eraseDups).foldl (fun t x => t.raise 0x3F n (0x0800_0000_0000 + 0x40_0000 * n + 8 * x) 2) s

/-- The effect of a matrix instruction as it completes (R188, R196, R202). -/
def State.opEffect (s : State) (n : Nat) (o : MatOp) : State :=
  let flag (t : State) (f : Flags) : State := t.updCore n fun w => { w with flags := w.flags ||| f }
  let rd (x : Nat) : Byte := (s.tileBytes n x 1).1.headD 0
  let bad (x : Nat) : Bool := s.tileBad n (8 * x)
  match o.kind with
  | .mma g =>
    let w := s.core n
    let rs := o.cells.map fun c => (c, mmaCell o.md g o.rows o.cols rd bad c.1 c.2 (w.accGet o.acc o.pair c.1 c.2))
    let s1 := s.updCore n fun w => rs.foldl (fun w r => w.accSet o.acc o.pair r.1.1 r.1.2 r.2.1) w
    flag (s1.poisonRead n o.reads) (unionFlags (rs.map fun r => r.2.2.1))
  | .zero => s.updCore n fun w => w.accZero o.acc o.pair
  | .load off pitch =>
    let es := accSize o.pair
    let code (c : Nat × Nat) : Nat :=
      let x := off + c.1 * pitch + c.2 * es
      if touchesBad bad x es then defaultNan (if o.pair then 0 else 1) else bytesToNat (s.tileBytes n x es).1
    let s1 := s.updCore n fun w => o.cells.foldl (fun w c => w.accSet o.acc o.pair c.1 c.2 (code c)) w
    s1.poisonRead n o.reads
  | .store _ _ => (List.range o.rows).foldl (fun t i => (t.opRow n o i).1) s
  | .conv _ _ _ =>
    let r := (List.range o.rows).foldl (fun (r : State × Flags) i => let x := r.1.opRow n o i; (x.1, r.2 ||| x.2)) (s, 0)
    flag r.1 r.2
  | .rowRead vd row =>
    s.updCore n fun w =>
      let cs := w.accRow o row
      let put (w : Wrk) (r width : Nat) (l : List Nat) : Wrk :=
        let x := vecWrite width l.length (fun _ => true) (Tbl.get 0 w.vregs r) fun j => l.getD j 0
        { w with vregs := Tbl.set 0 w.vregs r x }
      if o.pair then put (put w vd 64 (cs.take 128)) (vd + 1) 64 (cs.drop 128) else put w vd 32 cs
  | .rowWrite row data => s.updCore n fun w => data.zipIdx.foldl (fun w x => w.accSet o.acc o.pair row x.2 x.1) w

end Sys2Proof.Machine
end

