-- ==== Sys2Proof/Machine/WorkerOps.lean ====
section
/-! DEFINITION. How a worker core runs an instruction: fetch checks, exceptions, interrupts, and its accesses to memory
through the store buffer and the L1 (R75 to R111, R316 to R324, R342 to R346, R585). -/

namespace Sys2Proof.Machine

/-! ## Registers and instruction words. -/

/-- The value of a scalar register; s0 reads as zero (R76). -/
def Wrk.s (w : Wrk) (i : Nat) : W64 := if i = 0 then 0 else Tbl.get 0 w.sregs i

/-- Write a scalar register; a write to s0 is discarded (R76). -/
def Wrk.setS (w : Wrk) (i : Nat) (v : W64) : Wrk := if i = 0 then w else { w with sregs := Tbl.set 0 w.sregs i v }

abbrev State.sreg (s : State) (n : Nat) (r : SReg) : W64 := (s.core n).s r.val
def State.setSreg (s : State) (n : Nat) (r : SReg) (v : W64) : State := s.updCore n fun w => w.setS r.val v

/-- cs.fpmode and cs.srseed as a mode (R88, R131). -/
def Wrk.fp (w : Wrk) : FpMode :=
  ⟨field w.fpmode.toNat 1 0, w.fpmode.getLsbD 2, w.fpmode.getLsbD 3, w.fpmode.getLsbD 4, w.srseed.toNat⟩

/-- A word of the Register form, and of the Immediate and Store forms with their 17 low bits (R91). -/
def regWord (cls rd ra rb : Nat) (fn : BitVec 12) : W64 :=
  BitVec.ofNat 64 (cls * 2 ^ 27 + rd * 2 ^ 22 + ra * 2 ^ 17 + rb * 2 ^ 12 + fn.toNat)
def immWord (cls rd ra fn5 : Nat) (imm : BitVec 12) : W64 := regWord cls rd ra fn5 imm
/-- A word of the Upper and Jump forms (R91). -/
def upWord (cls rd : Nat) (imm : BitVec 22) : W64 := BitVec.ofNat 64 (cls * 2 ^ 27 + rd * 2 ^ 22 + imm.toNat)
/-- A vector word of form VR or VC (R149). -/
def vecWord (cls vd va vb mk fmt op : Nat) : W64 :=
  BitVec.ofNat 64 (cls * 2 ^ 27 + vd * 2 ^ 22 + va * 2 ^ 17 + vb * 2 ^ 12 + mk * 2 ^ 9 + fmt * 2 ^ 4 + op)
/-- A matrix word of form MA (R178). -/
def maWord (acc fmt ra rb op : Nat) : W64 :=
  BitVec.ofNat 64 (0x19 * 2 ^ 27 + acc * 2 ^ 25 + fmt * 2 ^ 20 + ra * 2 ^ 15 + rb * 2 ^ 10 + op)

/-! ## Results of an instruction. -/

/-- How an instruction ends its turn: it waits at its own boundary, where interrupts may come (`stay`); it has issued
and waits for memory (`wait`, R85); it completes (`next`, `goto`); or it raises an exception (R81). -/
inductive Res where
  | stay (s : State)
  | wait (s : State)
  | next (s : State)
  | goto (s : State) (pc : W64)
  | fault (s : State) (code sub : Nat) (info : W64)

/-- The core stops (R83, R501): STOPPED with its cause, and every barrier it belongs to breaks (R298). -/
def State.stopCore (s : State) (n cause : Nat) : State :=
  (s.updCore n fun w => { w with run := .stopped, stopCause := BitVec.ofNat 8 cause, jobActive := false, issued := false, partsDone := 0 }).breakOf n

/-- What an issued instruction held of memory ends with it: its fill buffer and its answers from peers. -/
def State.endIssue (s : State) (n : Nat) : State :=
  let s1 := s.updCore n fun w => { w with issued := false, partsDone := 0 }
  let s2 := if (s1.cacheOf (.l1 (Fin.ofNat 256 n))).fills.isEmpty then s1
    else s1.updCache (.l1 (Fin.ofNat 256 n)) fun c => { c with fills := [] }
  if s2.grp.dones.isEmpty then s2
  else s2.updGrp fun g => { g with dones := g.dones.filter fun d => d.who != .core n }

/-- The trap of R80. -/
def Wrk.trap (w : Wrk) (intr : Bool) (code sub : Nat) (info : W64) : Wrk :=
  { w with tpc := w.pc, tcode := BitVec.ofNat 17 (b2n intr * 2 ^ 16 + sub * 2 ^ 8 + code), tdata := info,
           prevMode := w.monitor, prevIen := w.ien, ien := false, monitor := true,
           pc := (w.tentry &&& ~~~0xFFF) + BitVec.ofNat 64 (b2n intr * 0x800 + code * 16) }

/-- An exception: in job mode the trap, in monitor mode the core stops with a worker-stop record (R81, R83). -/
def State.except (s : State) (n code sub : Nat) (info : W64) : State :=
  let s1 := s.endIssue n
  if (s1.core n).monitor then (s1.raise 0x3C n 0 code).stopCore n code
  else s1.updCore n fun w => w.trap false code sub info

/-- RETM reverses the trap (R80). -/
def Wrk.retm (w : Wrk) : Wrk := { w with monitor := w.prevMode, ien := w.prevIen, pc := w.tpc }

/-- The state after an instruction has ended its turn. -/
def Res.settle (n : Nat) : Res → State
  | .stay s => s
  | .wait s => s.updCore n fun w => { w with issued := true }
  | .next s => (s.endIssue n).updCore n fun w => { w with pc := w.pc + 4, instret := w.instret + 1 }
  | .goto s pc => (s.endIssue n).updCore n fun w => { w with pc := pc, instret := w.instret + 1 }
  | .fault s code sub info => s.except n code sub info

/-! ## Interrupts (R84 to R86). -/

/-- A pending semaphore or barrier event that its enables admit (R84, R303). -/
def Wrk.syncEvent (w : Wrk) : Bool :=
  (w.bardone &&& w.barie) != 0 || (List.range 64).any fun i =>
    w.syncie.getLsbD i && Tbl.get 0 w.sems (if i < 32 then 2 * i else 2 * (i - 32) + 1) != 0

/-- Fields of cs.hrcfg (R259). -/
def HitRing.en (r : HitRing) : Bool := r.cfg.getLsbD 31
def HitRing.thresh (r : HitRing) : Nat := field r.cfg.toNat 29 24
def HitRing.slots (r : HitRing) : Nat := field r.cfg.toNat 21 16 + 1
def HitRing.base (r : HitRing) : Nat := field r.cfg.toNat 9 0
/-- The filled count, (TAIL - HEAD) mod SLOTS (R259). -/
def HitRing.filled (r : HitRing) : Nat := (r.tail + r.slots - r.head) % r.slots

/-- cs.ip (R84). -/
def State.ip (s : State) (n : Nat) : BitVec 8 :=
  let w := s.core n
  let bits := [w.killPend, w.errPend, decide (w.alarm.toNat ≤ s.now), s.doorbell n,
    w.jobHead != w.jobTail && !s.coreHeld n, (w.stdone &&& w.stie) != 0,
    (List.range 4).any fun r =>
      let x := Tbl.get HitRing.off w.rings r
      x.en && x.thresh != 0 && decide (x.thresh ≤ x.filled),
    w.syncEvent]
  BitVec.ofNat 8 (bits.foldr (fun b a => 2 * a + b2n b) 0)

/-- The interrupts pending and enabled in cs.ie; STOP is always enabled (R84). -/
def State.ipOn (s : State) (n : Nat) : BitVec 8 := s.ip n &&& ((s.core n).ie ||| 1)

/-- The code of the interrupt that is taken at this boundary (R84). -/
def State.intrDue (s : State) (n : Nat) : Option Nat :=
  if (s.core n).monitor && !(s.core n).ien then none
  else (List.range 8).find? fun k => (s.ipOn n).getLsbD k

/-- Whether the core stands at a boundary where an interrupt may be taken: running, or waiting in JOBGO (R85, R109). -/
def State.atBoundary (s : State) (n : Nat) : Bool :=
  let w := s.core n
  (w.run == .running || w.run == .jobgo) && !w.issued && !s.tileOff n && s.coreRuns (n / 64)

/-- An interrupt is taken, with SUB and cs.tdata zero (log 67). STOP is no longer pending once taken, and ends the job
(DEDUCED, log 26). -/
def State.takeIntr (s : State) (n : Nat) : State :=
  if !s.atBoundary n then s else
  match s.intrDue n with
  | none => s
  | some k => s.updCore n fun w =>
      let w1 := { w.trap true k 0 0 with run := .running }
      if k = 0 then { w1 with killPend := false, jobActive := false } else w1

/-! ## Fetch and access checks (R82, R102 to R105). -/

/-- The FETCH_PERM check of an instruction at `pc`: its SUB code where it fails (R81, R104). -/
def State.fetchSub (s : State) (n : Nat) (pc : W64) : Option Nat :=
  let a := pc.toNat
  if 2 ^ 52 ≤ a then some 5
  else if !(s.core n).monitor && !(match s.partOf n with | some p => segRange s.cfg p a 4 false | none => false) then some 1
  else if !(attrOf s.cfg a).exec then some 2
  else none

/-- The block register window (R308). -/
def inWindow (a : Nat) : Bool := decide (0xF000_0000_0000 ≤ a ∧ a < 0xF000_1000_0000)

/-- Base of the register region of core `n`, as a block offset (R575). -/
def coreRegBase (n : Nat) : Nat := 0x100_0000 + n / 64 * 0x100_0000 + n % 64 * 0x1_0000

/-- Whether a monitor reaches a window address: its own core's region or the mailbox region (R103). -/
def monitorReaches (n a : Nat) : Bool :=
  let o := a - 0xF000_0000_0000
  decide (coreRegBase n ≤ o ∧ o < coreRegBase n + 0x1_0000) || decide (0x60_0000 ≤ o ∧ o < 0x62_0000)

/-- The check of one access, or half of one, that lies within a line: the SUB code of LOAD_PERM or STORE_PERM where it
fails (R102 to R104). -/
def State.accSub (s : State) (n : Nat) (a len : Nat) (store : Bool) : Option Nat :=
  if 2 ^ 52 ≤ a then some 5
  else
    let seg : Option Nat :=
      if (s.core n).monitor then (if inWindow a && !monitorReaches n a then some 4 else none)
      else match s.partOf n with
        | none => some 1
        | some p => if !segRange s.cfg p a len false then some 1
                    else if store && !segRange s.cfg p a len true then some 2 else none
    match seg with
    | some x => some x
    | none => if store && (attrOf s.cfg a).exec then some 3 else none

/-- uncached(addr) of R106. -/
def uncachedAt (c : ShapeCfg) (a : Nat) : Bool := (attrOf c a).wpol == 3

/-- The parts of an access that lie within one line each: address and length (R106). Addresses count modulo 2^64. -/
def halves (a : W64) (len : Nat) : List (Nat × Nat) :=
  let n1 := 128 - a.toNat % 128
  if len ≤ n1 then [(a.toNat, len)] else [(a.toNat, n1), ((a + BitVec.ofNat 64 n1).toNat, len - n1)]

/-- The checks of R106 in the order of R82: the exception of an access, none where it may be performed. -/
def State.accFault (s : State) (n : Nat) (a : W64) (len : Nat) (store : Bool) : Option (Nat × Nat × W64) :=
  let hs := halves a len
  if hs.length = 2 ∧ (hs.any (fun h => uncachedAt s.cfg h.1) ∨ inWindow a.toNat) then some (6, 2, a)
  else hs.findSome? fun h => (s.accSub n h.1 h.2 store).map fun sub => (if store then 5 else 4, sub, BitVec.ofNat 64 h.1)

/-- The SUB code of BUS_ERROR (R81). -/
def busSub : BusResp → Nat
  | .perm => 2
  | .domainOff => 3
  | _ => 1

/-- The code of a bus response (R420). -/
def busInfo : BusResp → Nat
  | .okay => 0
  | .decode => 1
  | .perm => 2
  | .poison => 3
  | .domainOff => 4

/-! ## Tile memory in use by the matrix unit (R199). -/

/-- Whether an access of the core to its own tile memory waits for a matrix instruction (R199). -/
def State.tileHazard (s : State) (n : Nat) (parts : List (Nat × Nat)) (store : Bool) : Bool :=
  let ops := (s.core n).matOps
  if ops.isEmpty then false else
  parts.any fun p =>
    spaceOf p.1 == .tile n &&
      let r := (p.1 % 0x40_0000, p.2)
      ops.any fun o => (o.writes o.fmt).any (rangesMeet r) || (store && o.reads.any (rangesMeet r))

/-! ## Loads. -/

/-- What one part of an access meets. -/
inductive Got where
  | wait (s : State)
  | ok (s : State) (bytes : List Byte) (poison : Bool)
  | bus (s : State) (code : BusResp)

/-- The L1 of core `n` asks for the line after one that a demand access misses (R323). -/
def State.nextLine (s : State) (n l : Nat) : State :=
  let a := attrOf s.cfg (128 * l)
  let seg := (s.core n).monitor || match s.partOf n with
    | some p => segRange s.cfg p (128 * (l + 1)) 128 false
    | none => false
  if !a.stream && (a.wpol == 0 || a.wpol == 1) && l % 32 != 31 && seg then
    s.prefetch (.l1 (Fin.ofNat 256 n)) (l + 1) false
  else s

/-- The L1 of core `n` asks for a line (R321), and for the next one after a demand miss (R323). Unchanged where it
cannot. -/
def State.missFor (s : State) (n l : Nat) (write : Bool) : State :=
  let r : Cacher := .l1 (Fin.ofNat 256 n)
  let c := s.cacheOf r
  if c.busy || c.miss.isSome || s.cacheHeld r then s
  else
    let s1 := (s.updCache r fun c => { c with miss := some (l, write), fills := c.fills.filter fun f => f.line != l }).count n
      (if write then 0x103 else 0x102)
    s1.nextLine n l

/-- Whether a cache serves an access now: it is not invalidating itself, and a blocking cache has no miss out (R321). -/
def State.serves (s : State) (r : Cacher) : Bool :=
  !(s.cacheOf r).busy && (s.hitUnderMiss r || (s.cacheOf r).miss.isNone)

abbrev State.l1Serves (s : State) (n : Nat) : Bool := s.serves (.l1 (Fin.ofNat 256 n))

/-- The store-buffer bytes over those of a range of one line (R168, R322). -/
def Wrk.overlay (w : Wrk) (a : Nat) (bs : List Byte) : List Byte :=
  match w.sb.find? fun e => e.line == a / 128 with
  | none => bs
  | some e => (lineSlice (mergeLine (BitVec.ofNat 1024 (bytesToNat bs <<< (8 * (a % 128)))) e.mask e.data) (a % 128) bs.length)

/-- Whether the store buffer covers a range of one line. -/
def Wrk.covers (w : Wrk) (a len : Nat) : Bool :=
  w.sb.any fun e => e.line == a / 128 && (e.mask &&& byteMask (a % 128) len) == byteMask (a % 128) len

/-- A load through the L1 (R321, R322). -/
def State.l1Load (s : State) (n a len : Nat) : Got :=
  let w := s.core n
  let r : Cacher := .l1 (Fin.ofNat 256 n)
  let l := a / 128
  let c := s.cacheOf r
  if w.covers a len then .ok s (w.overlay a (List.replicate len 0)) false
  else
    match c.fills.find? fun f => f.line == l with
    | some f => if f.code = .okay then .ok s (w.overlay a (lineSlice f.data (a % 128) len)) f.poison else .bus s f.code
    | none =>
      if !s.l1Serves n then .wait s
      else match s.held r l with
        | some x =>
          .ok ((s.updCache r fun c => c.touch (r.set l) r.ways l).count n 0x101)
            (w.overlay a (lineSlice x.data (a % 128) len)) x.poison
        | none => .wait (s.missFor n l false)

/-- The partition number a core's transport request carries: its partition in job mode, else none (R442). -/
def State.corePart (s : State) (n : Nat) : Nat := if (s.core n).monitor then 0x10 else (s.partOf n).getD 0x10

/-- The offset of a peer address within its window (R308). -/
def peerOff (a : Nat) : Nat := (a - 0x1000_0000_0000) % 0x80_0000_0000

/-- Whether a posted store of the core to overlapping bytes of a peer has not been answered (R344, R443). -/
def State.peerStoreOut (s : State) (n b x len : Nat) : Bool :=
  s.grp.reqs.any fun r => r.who == .store n && r.dst == b && rangesMeet (x, len) (r.addr, r.len)

/-- A peer access that its instruction waits for (R443): asked once, then taken. -/
def State.peerOpFor (s : State) (who : Requester) (unit part op b x len : Nat) (data : List Byte) (attr : Nat) : Got :=
  match s.grp.dones.find? fun d => d.who == who && d.dst == b && d.addr == x && d.len == len with
  | some d => if d.code = .okay ∨ d.code = .poison then .ok s d.data (d.poison || d.code == .poison) else .bus s d.code
  | none =>
    if s.grp.reqs.any fun r => r.who == who && r.dst == b && r.addr == x && r.len == len then .wait s
    else match s.peerAsk who unit part op b x len data false attr with
      | .ok t => .wait t
      | .error c => .bus s c

/-- A peer access of core `n`, which its own posted stores to the same bytes precede (R344). -/
def State.peerOp (s : State) (n op b x len : Nat) (data : List Byte) (attr : Nat) : Got :=
  if s.peerStoreOut n b x len then .wait s else s.peerOpFor (.core n) n (s.corePart n) op b x len data attr

/-- A load of bytes of one line. -/
def State.loadPart (s : State) (n a len : Nat) : Got :=
  match spaceOf a with
  | .tile m =>
    if s.tileOff m then .bus s .domainOff
    else let r := s.tileBytes m (a % 0x40_0000) len
         .ok (s.tileFind m (a % 0x40_0000) len) r.1 r.2
  | .peer b => s.peerOp n 2 b (peerOff a) len [] 0
  | .window => .bus s .decode
  | .none => .bus s .decode
  | _ =>
    let here := s.cacheable a && ((s.core n).covers a len || (s.held (.l1 (Fin.ofNat 256 n)) (a / 128)).isSome)
    if s.busCode a ≠ .okay && !here then .bus s (s.busCode a)
    else if s.cacheable a then s.l1Load n a len
    else if s.zeroing (a / 128) then .wait s
    else let r := s.memRead (a / 128)
         .ok r.2 (lineSlice r.1.1 (a % 128) len) r.1.2

/-! ## Instructions: the fetch and the checks that come first (R82, R104, R318). -/

abbrev State.icacheOf (s : State) (n : Nat) : Cache := Tbl.get Cache.off s.icache n
def State.updIcache (s : State) (n : Nat) (f : Cache → Cache) : State :=
  { s with icache := Tbl.upd Cache.off s.icache n f }

/-- What a fetch meets. -/
inductive Fetched where
  | wait (s : State)
  | ok (s : State)
  | bus (s : State) (code : BusResp)
  | poison (s : State)

/-- The fetch of an instruction through the instruction cache, which no directory tracks, or at the target of an uncached
address (R316, R318, R320, R338). A miss is filled at once (log 31). -/
def State.fetch (s : State) (n a : Nat) : Fetched :=
  let l := a / 128
  if !s.cacheable a then
    match s.loadPart n a 4 with
    | .wait t => .wait t
    | .bus t c => .bus t c
    | .ok t _ bad => if bad then .poison t else .ok t
  else
    let c := s.icacheOf n
    match c.find (l % 128) 4 l with
    | some w =>
      let t := if c.age (l % 128) w = 0 then s else s.updIcache n fun c => c.setAge (l % 128) w 0
      if (c.way (l % 128) w).poison then .poison t else .ok t
    | none =>
      if s.busCode a ≠ .okay then .bus s (s.busCode a)
      else match s.homeWait l false false with
        | some t => .wait t
        | none =>
          let r := s.l2Serve l (s.ownerData l) (s.l2Allocates l)
          let t := (r.2.shareOwner l).updIcache n fun c =>
            (c.install (l % 128) 4 (List.range 4) ⟨l, .s, r.1.1, r.1.2⟩ (s.insAge l 1)).1
          if r.1.2 then .poison t else .ok t

/-- How an instruction that core `n` executes in `s` ends: an exception waits until every earlier matrix instruction has
completed (R81, R187). -/
def State.ends (s : State) (n : Nat) (r : Res) : State :=
  match r with
  | .fault .. => if (s.core n).matOps.isEmpty then Res.settle n r else s
  | _ => Res.settle n r

/-- Run an instruction of core `n`: whether it can issue, the fetch, ILLEGAL and PRIVILEGED come first (R82); a due
interrupt pre-empts it (R85). `word` is the instruction word. -/
def State.instr (s : State) (n : Nat) (word : W64) (legal priv : Bool) (body : State → Res) : State :=
  let w := s.core n
  if !s.canIssue n || (s.icacheOf n).busy then s
  else if !w.issued && (s.intrDue n).isSome then s
  else
    s.ends n (match s.fetchSub n w.pc with
      | some sub => .fault s 3 sub w.pc
      | none =>
        match s.fetch n w.pc.toNat with
        | .wait t => .stay t
        | .bus t c => .fault t 7 (busSub c) w.pc
        | .poison t => .fault (t.raise 0x3F n w.pc.toNat 1) 8 0 w.pc
        | .ok t =>
          if !legal then .fault t 1 0 word
          else if priv && !w.monitor then .fault t 2 0 word
          else body t)

/-- What a whole load meets: it waits; every part's bytes; or the first failing part with its exception code and SUB. -/
inductive Loaded where
  | wait (s : State)
  | ok (s : State) (bytes : List (List Byte))
  | fail (s : State) (i code sub : Nat)

/-- Perform the parts of a load in order; the first that waits is asked for (R106, R166). -/
def State.loadParts (s : State) (n : Nat) (ps : List (Nat × Nat)) : Loaded :=
  let r := ps.zipIdx.foldl (fun (r : Loaded) p =>
    match r with
    | .ok t bs =>
      match t.loadPart n p.1.1 p.1.2 with
      | .ok t1 b poison =>
        if poison then .fail (t1.raise 0x3F n p.1.1 1) p.2 8 0 else .ok t1 (bs ++ [b])
      | .bus t1 c => .fail t1 p.2 7 (busSub c)
      | .wait _ => match s.loadPart n p.1.1 p.1.2 with
        | .wait t1 => .wait t1
        | _ => .wait s
    | r => r) (.ok s [])
  r

/-- A scalar load that no register window is concerned in: its checks, then its bytes (R102 to R106). -/
def State.withLoad (s : State) (n : Nat) (a : W64) (len : Nat) (k : State → List Byte → Res) : Res :=
  match s.accFault n a len false with
  | some f => .fault s f.1 f.2.1 f.2.2
  | none =>
    let hs := halves a len
    if s.tileHazard n hs false then .stay s else
    match s.loadParts n hs with
    | .wait t => .wait t
    | .ok t bs => k t bs.flatten
    | .fail t i code sub => .fault t code sub (if code = 8 then BitVec.ofNat 64 (hs.getD i (0, 0)).1 else a)

/-! ## Stores. -/

/-- Whether every earlier store of the core is visible: nothing waits in the store buffer or at a peer (R348). -/
def State.storesDone (s : State) (n : Nat) : Bool :=
  (s.core n).sb.isEmpty && !(s.grp.reqs.any fun r => r.who == .store n)

/-- Put bytes of one line into the store buffer; none where it is full (R322). -/
def Wrk.buffer (w : Wrk) (a : Nat) (bs : List Byte) : Option Wrk :=
  let m := byteMask (a % 128) bs.length
  let d : Line128 := BitVec.ofNat 1024 (bytesToNat bs <<< (8 * (a % 128)))
  if w.sb.any fun e => e.line == a / 128 then
    some { w with sb := w.sb.map fun e => if e.line = a / 128 then ⟨e.line, e.mask ||| m, mergeLine e.data m d⟩ else e }
  else if w.sb.length < 16 then some { w with sb := w.sb ++ [⟨a / 128, m, d⟩] }
  else none

/-- A buffered or posted store is lost (R585). -/
def State.storeLost (s : State) (n a : Nat) (code : BusResp) : State := s.raise 0x43 n (a / 128 * 128) (busInfo code)

/-- A store of bytes of one line. Uncached stores answer with their response; the others complete here, and one that
fails later raises detector 0x43 (R107, R585; log 69). -/
def State.storePart (s : State) (n a : Nat) (bs : List Byte) : Got :=
  let unc := uncachedAt s.cfg a
  let bad (c : BusResp) : Got := if unc then .bus s c else .ok (s.storeLost n a c) [] false
  match spaceOf a with
  | .tile m => if s.tileOff m then bad .domainOff else .ok (s.tileWrite m (a % 0x40_0000) bs false) [] false
  | .peer b =>
    if unc then s.peerOp n 1 b (peerOff a) bs.length bs 0
    else if s.peerStoreOut n b (peerOff a) bs.length then .wait s
    else match s.peerAsk (.store n) n (s.corePart n) 1 b (peerOff a) bs.length bs false 0 with
      | .ok t => .ok t [] false
      | .error c => bad c
  | .window => .bus s .decode
  | .none => bad .decode
  | _ =>
    if s.cacheable a then
      match (s.core n).buffer a bs with
      | some w => .ok (s.updCore n fun _ => w) [] false
      | none => .wait s
    else if s.busCode a ≠ .okay then bad (s.busCode a)
    else if s.zeroing (a / 128) then .wait s
    else .ok (s.memStoreBy n a (a / 128) (byteMask (a % 128) bs.length)
      (BitVec.ofNat 1024 (bytesToNat bs <<< (8 * (a % 128)))) false) [] false

/-- Perform the parts of a store in order, from the first that has not been performed; a part that waits keeps the
place (R106, R322). -/
def State.storeParts (s : State) (n : Nat) (ps : List (Nat × List Byte)) (k : State → Res) (info : W64) : Res :=
  let r := (ps.drop (s.core n).partsDone).foldl (fun (r : State × Option Res) p =>
    match r.2 with
    | some _ => r
    | none =>
      match r.1.storePart n p.1 p.2 with
      | .ok t _ _ => (t.updCore n fun w => { w with partsDone := w.partsDone + 1 }, none)
      | .wait t => (t, some (.wait t))
      | .bus t c => (t, some (.fault t 7 (busSub c) info))) (s, none)
  match r.2 with
  | some x => x
  | none => k r.1

/-- The parts of a store with the bytes of each. -/
def storeHalves (a : W64) (bs : List Byte) : List (Nat × List Byte) :=
  let hs := halves a bs.length
  match hs with
  | [x, y] => [(x.1, bs.take x.2), (y.1, bs.drop x.2)]
  | _ => [(a.toNat, bs)]

/-- A scalar store that no register window is concerned in (R102 to R107). A release waits for every earlier store
(R344). -/
def State.withStore (s : State) (n : Nat) (a : W64) (bs : List Byte) (release : Bool) (k : State → Res) : Res :=
  match s.accFault n a bs.length true with
  | some f => .fault s f.1 f.2.1 f.2.2
  | none =>
    if s.tileHazard n (halves a bs.length) true then .stay s
    else if release && (s.core n).partsDone == 0 && !s.storesDone n then .wait s
    else s.storeParts n (storeHalves a bs) k a

/-- Take an entry out of the store buffer. -/
def State.sbDrop (s : State) (n l : Nat) : State :=
  s.updCore n fun w => { w with sb := w.sb.filter fun e => e.line != l }

/-- Write bytes into a line that a cache holds in E or M. A partial write onto a poisoned line raises detector 0x3F
(R341, R516). -/
def State.lineWrite (s : State) (r : Cacher) (l : Nat) (m : BitVec 128) (d : Line128) : State :=
  let full := m == BitVec.allOnes 128
  let bad := match s.held r l with | some x => x.poison && !full | none => false
  let s1 := s.updCache r fun c => (c.modify (r.set l) r.ways l fun x =>
    { x with st := .m, data := mergeLine x.data m d, poison := x.poison && !full }).touch (r.set l) r.ways l
  if bad then s1.raise 0x3F r.unit (128 * l) 7 else s1

/-- Whether a cache may write a line: E or M. -/
def State.owns (s : State) (r : Cacher) (l : Nat) : Bool :=
  match s.held r l with
  | some x => x.st == .e || x.st == .m
  | none => false

abbrev State.l1Write (s : State) (n l : Nat) (m : BitVec 128) (d : Line128) : State := s.lineWrite (.l1 (Fin.ofNat 256 n)) l m d
abbrev State.l1Owns (s : State) (n l : Nat) : Bool := s.owns (.l1 (Fin.ofNat 256 n)) l

/-- A cache's own store, performed at home: the bytes go into the copy that it keeps, a hit, and into what is on its way or
waits in its fill buffer (R168, R320, R324, R341). -/
def State.ownMerge (s : State) (r : Cacher) (l : Nat) (m : BitVec 128) (d : Line128) : State :=
  let full := m == BitVec.allOnes 128
  s.updCache r fun c =>
    { (c.modify (r.set l) r.ways l fun x => { x with data := mergeLine x.data m d, poison := x.poison && !full }).touch
        (r.set l) r.ways l with
      grants := c.grants.map fun g =>
        if g.line = l then { g with data := mergeLine g.data m d, poison := g.poison && !full } else g,
      fills := c.fills.map fun f =>
        if f.line = l then { f with data := mergeLine f.data m d, poison := f.poison && !full } else f }

/-- A store of a cache's owner that is a home write: under WPOL 01 the copy stays and takes the bytes, and otherwise it goes
(R324). -/
def State.ownStore (s : State) (r : Cacher) (l : Nat) (m : BitVec 128) (d : Line128) : State :=
  if (attrOf s.cfg (128 * l)).wpol = 1 then
    (s.ownMerge r l m d).homeStoreBy r.unit (128 * l) l m d false (some r.unit)
  else
    ((State.land (s.takeCopy r l) l).ownMerge r l m d).homeStoreBy r.unit (128 * l) l m d false none

/-- An entry of the store buffer drains (R322, R323, R324). Unchanged, but for the miss it starts, where it must wait. -/
def State.sbDrain (s : State) (n l : Nat) : State :=
  match (s.core n).sb.find? fun e => e.line == l with
  | none => s
  | some e =>
    let a := 128 * l
    let r : Cacher := .l1 (Fin.ofNat 256 n)
    let lost (c : BusResp) : State := (s.storeLost n a c).sbDrop n l
    if s.busCode a ≠ .okay then
      match spaceOf a with
      | .host _ => if s.cacheable a ∧ (attrOf s.cfg a).wpol = 0 ∧ s.l1Owns n l then (s.l1Write n l e.mask e.data).sbDrop n l
                   else lost (s.busCode a)
      | _ => lost (s.busCode a)
    else if !s.cacheable a then
      if s.zeroing l then s else (s.memStoreBy n a l e.mask e.data false).sbDrop n l
    else if !s.l1Serves n then s
    else if (attrOf s.cfg a).wpol = 0 then
      if s.l1Owns n l then
        ((s.l1Write n l e.mask e.data).updCache r fun c => { c with fills := c.fills.filter fun f => f.line != l }).sbDrop n l
      else s.missFor n l true
    else
      match s.homeWait l true (e.mask != BitVec.allOnes 128) with
      | some w => w
      | none =>
        let miss := (s.held r l).isNone
        let t := (s.ownStore r l e.mask e.data).sbDrop n l
        if miss then (t.count n 0x103).nextLine n l else t

/-! ## Atomics (R98, R342). -/

/-- The bytes an atomic writes and reads on a line's data. -/
def atomicLine (data : Line128) (a w op : Nat) (b cmp : W64) : W64 × Option Line128 :=
  let old : W64 := BitVec.ofNat 64 (bytesToNat (lineSlice data (a % 128) w))
  (old, match atomicNew op w old b cmp with
        | some (some v) => some (BitVec.ofNat 1024 ((v.toNat % 2 ^ (8 * w)) <<< (8 * (a % 128))))
        | _ => none)

/-- What an atomic meets. -/
inductive Swapped where
  | wait (s : State)
  | ok (s : State) (old : W64)
  | bus (s : State) (code : BusResp)
  | poison (s : State)

/-- Perform an atomic of `w` bytes at a checked, aligned address, at the place R342 gives. -/
def State.atomicAt (s : State) (n a w : Nat) (fn : BitVec 12) (b cmp : W64) : Swapped :=
  let op := field fn.toNat 4 0
  let l := a / 128
  let m := byteMask (a % 128) w
  let r : Cacher := .l1 (Fin.ofNat 256 n)
  let pois (t : State) : Swapped := .poison (t.raise 0x3F n a 1)
  let raw : Swapped :=
    if s.zeroing l then .wait s else
    let x := s.memRead l
    if x.1.2 then pois x.2 else
    let v := atomicLine x.1.1 a w op b cmp
    .ok (match v.2 with | some d => x.2.memStoreBy n a l m d false | none => x.2) v.1
  match spaceOf a with
  | .tile t =>
    if s.tileOff t then .bus s .domainOff else
    let x := s.tileBytes t (a % 0x40_0000) w
    if x.2 then pois (s.tileFind t (a % 0x40_0000) w) else
    let old : W64 := BitVec.ofNat 64 (bytesToNat x.1)
    .ok (match atomicNew op w old b cmp with
         | some (some v) => s.tileWrite t (a % 0x40_0000) (natToBytes v.toNat w) false
         | _ => s) old
  | .peer t =>
    match s.peerOp n 3 t (peerOff a) w (natToBytes b.toNat 8 ++ natToBytes cmp.toNat 8) fn.toNat with
    | .wait t => .wait t
    | .bus t c => .bus t c
    | .ok t bs p => if p then pois t else .ok t (BitVec.ofNat 64 (bytesToNat (bs.take w)))
  | .window => .bus s .decode
  | .none => .bus s .decode
  | sp =>
    if s.busCode a ≠ .okay && !((attrOf s.cfg a).wpol == 0 && s.cacheable a && s.l1Owns n l) then .bus s (s.busCode a)
    else if (s.core n).sb.any fun e => e.line == l then .wait (s.sbDrain n l)
    else if (match sp with | .host _ => (attrOf s.cfg a).wpol != 0 || !s.cacheable a | _ => false) then
      (if op = 0 ∨ op = 1 ∨ op = 9 then raw else .bus s .decode)
    else if !s.cacheable a then raw
    else if (attrOf s.cfg a).wpol = 0 then
      match (s.cacheOf r).fills.find? fun f => f.line == l && f.code != .okay with
      | some f => .bus s f.code
      | none =>
        if !s.l1Serves n then .wait s
        else if !s.l1Owns n l then .wait (s.missFor n l true)
        else match s.held r l with
          | none => .wait s
          | some x =>
            if x.poison then pois s else
            let v := atomicLine x.data a w op b cmp
            .ok (match v.2 with | some d => s.l1Write n l m d | none => s) v.1
    else
      match s.homeWait l true with
      | some t => .wait t
      | none =>
        let s1 := State.land (s.takeCopy r l) l
        let s2 := if s1.isPrivate l then s1 else s1.killCopies l none
        let x := s2.l2Serve l none (s2.l2Allocates l)
        if x.1.2 then pois x.2 else
        let v := atomicLine x.1.1 a w op b cmp
        .ok (match v.2 with
          | some d => (x.2.ownMerge r l m d).homeStoreBy n a l m d false none
          | none => x.2) v.1

/-! ## Job run model, stops and reset (R65, R71, R109, R110). -/

/-- Whether a core is quiescent: no job is active, and it is halted or waits in WFI or JOBGO (R64, R71). -/
def State.coreQuiet (s : State) (n : Nat) : Bool :=
  let w := s.core n
  !w.jobActive && (w.run == .halted || w.run == .wfi || w.run == .jobgo)

/-- JOBGO's wait ends (R109). -/
def State.jobStart (s : State) (n : Nat) : State :=
  let w := s.core n
  if w.run ≠ .jobgo ∨ s.tileOff n ∨ !s.coreRuns (n / 64) ∨ (s.intrDue n).isSome ∨ w.jobHead = w.jobTail ∨ s.coreHeld n
      ∨ !w.matOps.isEmpty then s
  else
    let b := 8 * (w.jobHead.toNat % 8)
    let slot (i : Nat) : W64 := Tbl.get 0 w.slots (b + i)
    let regs := (List.range 5).foldl (fun (t : Tbl W64) i => Tbl.set 0 t (i + 1) (slot (2 + i))) []
    s.updCore n fun w =>
      { w with sregs := regs, vregs := [], mregs := [], acc := [],
               fpmode := BitVec.ofNat 5 (16 * b2n ((slot 7).getLsbD 0) + w.fpdefault.toNat),
               flags := 0, jobid := slot 0, jobHead := w.jobHead + 1, monitor := false, jobActive := true,
               run := .running, pc := slot 1 &&& ~~~3, instret := w.instret + 1 }

/-- Write back and drop every line of a cache, which then invalidates itself (R110, R329, R409). -/
def State.cacheReset (s : State) (r : Cacher) : State :=
  let s1 := (s.cacheOf r).lines.foldl (fun t e =>
    let x := e.2
    let t1 := if x.st = .m then t.homePut x.line x.data x.poison 0 else t
    if t1.isPrivate x.line then t1 else t1.dirMap x.line fun d => d.forget r.unit) s
  s1.updCache r fun c =>
    { Cache.off with dis := c.dis, ce := c.ce, cePeriod := c.cePeriod, evict := c.evict, busy := true,
                     grants := c.grants.map fun g => { g with gone := true } }

/-- A query completes: INFLIGHT of its epoch falls (R238). Its binding is partition, entry and epoch. -/
def State.queryDone (s : State) (b : Nat × Nat × Nat) : State :=
  s.updTree b.1 b.2.1 fun t => { t with inflight := Tbl.upd 0 t.inflight b.2.2 (· - 1) }

/-- DROPPED of a ring counts discarded packets, saturating (R258, R259). -/
def State.ringDrop (s : State) (n r k : Nat) : State :=
  s.updCore n fun w => { w with rings := Tbl.upd HitRing.off w.rings r fun x => { x with dropped := min (x.dropped + k) 0xFFFF } }

/-- A ring is disabled: the packets that wait for it are discarded, and their queries complete (R258, R264). -/
def State.ringOff (s : State) (n r : Nat) : State :=
  (List.range 64).foldl (fun t m =>
    let mine (p : HitPacket) : Bool := p.core == n && p.ring == r
    let gone := (t.trav m).waiting.filter mine
    if gone.isEmpty then t
    else ((gone.flatMap (·.binds)).foldl State.queryDone
      (t.updTu m fun u => { u with waiting := u.waiting.filter fun p => !mine p })).ringDrop n r gone.length) s

/-- A running MACCST, MACCSTC or MACCSTCD is abandoned: tile-memory writes may be partly performed (R201), so that the
number of its rows that were is a free choice (log 1). -/
def State.abandonOp (n : Nat) (s : State) (o : MatOp) : State :=
  if (o.writes o.fmt).isEmpty then s
  else
    let r := s.choose (o.rows + 1)
    (List.range r.1).foldl (fun t i => (t.opRow n o i).1) r.2

/-- The reset of a core (R110, R201, R307). The job ring, the staged default and the vector registers stay. -/
def State.coreReset (s : State) (n : Nat) : State :=
  if s.tileOff n then s else
  let s1 := ((s.cacheReset (.l1 (Fin.ofNat 256 n))).chansReset n).breakOf n
  let s2 := s1.updIcache n fun _ => Cache.off
  let sg := s2.updGrp fun g => { g with reqs := g.reqs.filter (fun r => r.who != .core n), dones := g.dones.filter fun d => d.who != .core n }
  let s3 := (List.range 4).foldl (fun (t : State) r => t.ringOff n r) { sg with ttOps := sg.ttOps.filter fun o => o.unit != n }
  let s4 := (s.core n).accessRun.foldl (State.abandonOp n) s3
  let base := Tbl.get 0 s.time.ran (n / 64)
  s4.updCore n fun w =>
    { w with pc := 0, sregs := [], monitor := true, run := .halted, stopCause := w.stopCause, fpmode := 0, flags := 0, vl := 0, srseed := 0,
             vfidx := 0, mshape := 0xBFFF, cycleBase := base, instret := 0, jobid := 0, prevMode := false,
             prevIen := false, ien := false, tpc := 0, tcode := 0, tdata := 0, tentry := 0, mspare := 0, ie := 0,
             alarm := 0, killPend := false, jobActive := false, acc := [], mq := [], arrayRun := [], accessRun := [],
             rings := [], tt := [], ttRes := none, stdone := 0, stie := 0, semovf := 0, syncie := 0, bardone := 0, barie := 0,
             issued := false, partsDone := 0 }

end Sys2Proof.Machine
end

