-- ==== Sys2Proof/Machine/CsrOps.lean ====
section
/-! DEFINITION. The control and status registers of a worker core and the instructions that read and write them (R79,
R87 to R90, R100, R146, R177, R259, R261, R303). -/

namespace Sys2Proof.Machine

/-- fn5 of a CSR operation (R100). -/
def csrCode : CsrOp → Nat
  | .w => 0 | .s => 1 | .c => 2 | .wi => 4 | .si => 5 | .ci => 6

/-- The operand of a CSR operation: the register, or uimm5 (R100). -/
def Wrk.csrArg (w : Wrk) (op : CsrOp) (src : Nat) : W64 :=
  match op with
  | .w | .s | .c => w.s src
  | _ => BitVec.ofNat 64 src

/-- Whether the operation writes its CSR (R100). -/
def csrWrites (op : CsrOp) (src : Nat) : Bool :=
  match op with
  | .w | .wi => true
  | _ => src != 0

/-- The new value of a CSR (R100). -/
def csrValue (op : CsrOp) (old a : W64) : W64 :=
  match op with
  | .w | .wi => a
  | .s | .si => old ||| a
  | .c | .ci => old &&& ~~~a

/-- cs.hrptr and cs.hrstat as words (R259). -/
def HitRing.ptr (r : HitRing) : W64 := BitVec.ofNat 64 (r.tail * 2 ^ 16 + r.head)
def HitRing.stat (r : HitRing) : W64 := BitVec.ofNat 64 (b2n r.badHead * 2 ^ 16 + r.dropped)

/-- The value a CSR reads as; none for an undefined number (R87). -/
def State.csrRead (s : State) (n : Nat) (csr : Nat) : Option W64 :=
  let w := s.core n
  if 0x080 ≤ csr ∧ csr < 0x090 then some (s.strptr n (csr - 0x080))
  else if 0x090 ≤ csr ∧ csr < 0x0A0 then some (s.strstat n (csr - 0x090))
  else if 0x0C0 ≤ csr ∧ csr < 0x0D0 then
    let r := Tbl.get HitRing.off w.rings ((csr - 0x0C0) / 4)
    match csr % 4 with
    | 0 => some r.cfg
    | 1 => some r.ptr
    | 2 => some r.stat
    | _ => none
  else if 0x0D0 ≤ csr ∧ csr < 0x0D6 then some (Tbl.get 0 w.tt (csr - 0x0D0))
  else match csr with
  | 0x001 => some (w.fpmode.setWidth 64)
  | 0x002 => some (w.flags.setWidth 64)
  | 0x003 => some (BitVec.ofNat 64 w.vl)
  | 0x004 => some w.srseed
  | 0x010 => some (BitVec.ofNat 64 w.vfidx)
  | 0x040 => some (w.mshape.setWidth 64)
  | 0x0A0 => some (w.stdone.setWidth 64)
  | 0x0A1 => some (w.stie.setWidth 64)
  | 0x0A2 =>
    let c := Tbl.get Channel.off w.chans 16
    some (BitVec.ofNat 64 (c.st.code + 8 * (c.last % 32) + 256 * c.cause))
  | 0x0A3 => some w.semovf
  | 0x0A4 => some w.syncie
  | 0x0A5 => some w.bardone
  | 0x0A6 => some w.barie
  | 0x400 => some (BitVec.ofNat 64 (Tbl.get 0 s.time.ran (n / 64) - w.cycleBase))
  | 0x401 => some w.instret
  | 0x402 => some s.time.blk
  | 0x403 => some (BitVec.ofNat 64 n)
  | 0x404 => some (match s.partOf n with | some p => BitVec.ofNat 64 p | none => 0xFF)
  | 0x405 => some w.jobid
  | 0x800 => some (BitVec.ofNat 64 (b2n w.ien + 2 * b2n w.prevIen + 4 * b2n w.prevMode))
  | 0x801 => some w.tpc
  | 0x802 => some (w.tcode.setWidth 64)
  | 0x803 => some w.tdata
  | 0x804 => some w.tentry
  | 0x805 => some w.mspare
  | 0x806 => some (w.ie.setWidth 64)
  | 0x807 => some w.alarm
  | 0xC00 => some ((s.ip n).setWidth 64)
  | 0xC01 => some s.commit.epoch
  | _ => none

/-- Bits of a CSR that are reserved, whose writing with 1 faults (R87); what counts as reserved in cs.tcode, cs.ie, cs.tpc and
cs.tentry the spec leaves open (log 68). -/
def csrReserved (csr : Nat) : W64 :=
  if 0x080 ≤ csr ∧ csr < 0x090 then ~~~0x3F003F
  else if 0x090 ≤ csr ∧ csr < 0x0A0 then ~~~0xFFFFFFFFFFFF
  else if 0x0C0 ≤ csr ∧ csr < 0x0D0 then
    match csr % 4 with
    | 0 => ~~~0xBF3F03FF
    | 1 => ~~~0x3F003F
    | _ => ~~~0x1FFFF
  else match csr with
  | 0x001 => ~~~0x1F
  | 0x002 => ~~~0x7F
  | 0x003 => ~~~0xFFF
  | 0x010 => ~~~0x7FF
  | 0x040 => ~~~0xFFFF
  | 0x0A0 => ~~~0x1FFFF
  | 0x0A1 => ~~~0x1FFFF
  | 0x800 => ~~~7
  | 0x802 => ~~~0x1FFFF
  | 0x806 => ~~~0xFF
  | _ => 0

/-- Whether a CSR can be written at all (R87, R261, R303). -/
def csrWritable (csr : Nat) : Bool := csr / 1024 % 2 == 0 && !(decide (0x0D0 ≤ csr ∧ csr < 0x0D6)) && csr != 0x0A2

/-- The rules of cs.hrcfg on a written value (R259). -/
def hrcfgLegal (old v : W64) : Bool :=
  let f (x : W64) (h l : Nat) := field x.toNat h l
  !v.getLsbD 31 || (decide (2 ≤ f v 21 16) && decide (f v 9 0 + f v 21 16 + 1 ≤ 1024)
    && (!old.getLsbD 31 || (f v 9 0 == f old 9 0 && f v 21 16 == f old 21 16)))

/-- Whether a value may be written to a CSR (R87, R146, R177, R259). -/
def csrLegal (csr : Nat) (old v : W64) : Bool :=
  csrWritable csr && (v &&& csrReserved csr) == 0 &&
    (match csr with
     | 0x003 => decide (v.toNat ≤ 2048)
     | 0x040 => decide (field v.toNat 15 8 < 192)
     | _ => if 0x0C0 ≤ csr ∧ csr < 0x0D0 ∧ csr % 4 = 0 then hrcfgLegal old v else true)

/-- A write of cs.hrcfg (R259). -/
def HitRing.setCfg (r : HitRing) (v : W64) : HitRing :=
  if !r.en && v.getLsbD 31 then { r with cfg := v, head := 0, tail := 0, seq := 0 } else { r with cfg := v }

/-- A write of cs.hrptr: HEAD moves within the range from the old HEAD to TAIL, else BADHEAD (R259). -/
def HitRing.setPtr (r : HitRing) (v : W64) : HitRing :=
  let h := field v.toNat 5 0
  if h < r.slots ∧ (h + r.slots - r.head) % r.slots ≤ r.filled then { r with head := h } else { r with badHead := true }

/-- Write a CSR, once the value is legal. -/
def State.csrPut (s : State) (n csr : Nat) (v : W64) : State :=
  if 0x080 ≤ csr ∧ csr < 0x090 then s.strptrWrite n (csr - 0x080) v
  else if 0x090 ≤ csr ∧ csr < 0x0A0 then
    let k := csr - 0x090
    if s.privChan n k || !v.getLsbD 7 then s else s.updChan (chSrc n k) fun c => { c with badPtr := false }
  else s.updCore n fun w =>
    if 0x0C0 ≤ csr ∧ csr < 0x0D0 then
      { w with rings := Tbl.upd HitRing.off w.rings ((csr - 0x0C0) / 4) fun r =>
          match csr % 4 with
          | 0 => r.setCfg v
          | 1 => r.setPtr v
          | _ => if v.getLsbD 16 then { r with badHead := false } else r }
    else match csr with
    | 0x001 => { w with fpmode := v.setWidth 5 }
    | 0x002 => { w with flags := v.setWidth 7 }
    | 0x003 => { w with vl := v.toNat }
    | 0x004 => { w with srseed := v }
    | 0x010 => { w with vfidx := v.toNat }
    | 0x040 => { w with mshape := v.setWidth 16 }
    | 0x0A0 => { w with stdone := w.stdone &&& ~~~(v.setWidth 17) }
    | 0x0A1 => { w with stie := v.setWidth 17 }
    | 0x0A3 => { w with semovf := w.semovf &&& ~~~v }
    | 0x0A4 => { w with syncie := v }
    | 0x0A5 => { w with bardone := w.bardone &&& ~~~v }
    | 0x0A6 => { w with barie := v }
    | 0x800 => { w with ien := v.getLsbD 0, prevIen := v.getLsbD 1, prevMode := v.getLsbD 2 }
    | 0x801 => { w with tpc := v &&& ~~~3 }
    | 0x802 => { w with tcode := v.setWidth 17 }
    | 0x803 => { w with tdata := v }
    | 0x804 => { w with tentry := v &&& ~~~0xFFF }
    | 0x805 => { w with mspare := v }
    | 0x806 => { w with ie := v.setWidth 8 }
    | 0x807 => { w with alarm := v }
    | _ => w

/-- Write a CSR: one that disables a hit ring discards the packets that wait for it (R264). -/
def State.csrWrite (s : State) (n csr : Nat) (v : W64) : State :=
  let t := s.csrPut n csr v
  if 0x0C0 ≤ csr ∧ csr < 0x0D0 ∧ csr % 4 = 0 ∧ (Tbl.get HitRing.off (s.core n).rings ((csr - 0x0C0) / 4)).en ∧ !v.getLsbD 31 then
    t.ringOff n ((csr - 0x0C0) / 4)
  else t

/-- The read side of a CSR instruction: DROPPED of cs.hrstat clears (R259). -/
def State.csrTouch (s : State) (n csr : Nat) : State :=
  if 0x0C0 ≤ csr ∧ csr < 0x0D0 ∧ csr % 4 = 2 then
    s.updCore n fun w => { w with rings := Tbl.upd HitRing.off w.rings ((csr - 0x0C0) / 4) fun r => { r with dropped := 0 } }
  else s

/-- A CSR instruction (R87, R90, R100). -/
def State.csrInstr (s : State) (n : Nat) (op : CsrOp) (rd src : Nat) (csr : BitVec 12) : State :=
  let c := csr.toNat
  let w := s.core n
  let old := s.csrRead n c
  let v := csrValue op (old.getD 0) (w.csrArg op src)
  let writes := csrWrites op src
  s.instr n (regWord 0x0D rd src (csrCode op) csr) (old.isSome && (!writes || csrLegal c (old.getD 0) v)) (c / 2048 == 1)
    fun s =>
      if c = 2 ∧ !(s.core n).matOps.isEmpty then .stay s
      else
        let s1 := s.csrTouch n c
        let s2 := if writes then s1.csrWrite n c v else s1
        .next (s2.updCore n fun w => w.setS rd (old.getD 0))

end Sys2Proof.Machine
end

