-- ==== Sys2Proof/Machine/QueryOps.lean ====
section
/-! DEFINITION. The tree tables and the traversal of queries: binding, Saffron's store, bins and fire queues, the source
generator, the traversal units and the hit rings (R225 to R264). -/

namespace Sys2Proof.Machine

/-! ## Tree tables (R225 to R232). -/

/-- Whether a partition is enabled (R45). -/
def State.partOn (s : State) (p : Nat) : Bool := (s.cfg.partOf p).enable == 1

/-- Whether a range lies wholly within one valid segment of a partition (R227). -/
def oneSegment (c : ShapeCfg) (p a len : Nat) : Bool :=
  (List.range 16).any fun i =>
    let w := Tbl.get SpanWord.off (c.partOf p).seg i
    w.valid && decide (w.lo ≤ a ∧ a + len ≤ w.hi + 1)

/-- Whether SETNEXT accepts a root (R208, R227). -/
def State.rootOk (s : State) (p root : Nat) : Bool :=
  refValid root && refType root != 6 && refType root != 7 &&
    (refType root == 0 || (decide (refAddr root + 128 ≤ stackedBytes) && segRange s.cfg p (refAddr root) 128 false))

/-- Whether SETNEXT accepts a cross-section descriptor (R223, R227). -/
def State.xsFits (s : State) (p xs : Nat) : Bool :=
  xsOk xs && (!xsValid xs || oneSegment s.cfg p (xsBase xs) (4 * xsMats xs * xsGroups xs))

/-- SETNEXT: the result code of R262, and the state. -/
def State.setNext (s : State) (p x : Nat) (root xs : W64) : Nat × State :=
  if !s.rootOk p root.toNat then (9, s)
  else if !s.xsFits p xs.toNat then (10, s)
  else (0, s.updTree p x fun t => { t with nextRoot := root, nextXs := xs, nextValid := true })

/-- SWAP (R227). -/
def State.treeSwap (s : State) (p x : Nat) : Nat × State :=
  let t := s.tree p x
  if !t.nextValid then (7, s)
  else if t.epoch - t.retired = 3 then (8, s)
  else (0, s.updTree p x fun t =>
    { t with curRoot := t.nextRoot, curXs := t.nextXs, epoch := t.epoch + 1, nextValid := false })

/-- INFLIGHT of the epoch `d` before EPOCH, zero where it is not live (R231). -/
def TreeEnt.live (t : TreeEnt) (d : Nat) : Nat :=
  if d ≤ t.epoch ∧ t.retired ≤ t.epoch - d then Tbl.get 0 t.inflight (t.epoch - d) else 0

/-- READ: CUR_ROOT, CUR_XS, EPOCH, RETIRED, LIVE_A and LIVE_B of an entry, by number (R227, R231, R261). -/
def TreeEnt.copy (t : TreeEnt) : Tbl W64 :=
  [t.curRoot, t.curXs, BitVec.ofNat 64 t.epoch, BitVec.ofNat 64 t.retired,
   BitVec.ofNat 64 (t.live 0 + 2 ^ 32 * t.live 1), BitVec.ofNat 64 (t.live 2 + 2 ^ 32 * t.live 3)].zipIdx.foldl
    (fun m v => Tbl.set 0 m v.2 v.1) []

/-- RETIRED advances over every epoch without queries (R229). -/
def retireGo (t : TreeEnt) : Nat → Nat → Nat
  | 0, r => r
  | n + 1, r => if r < t.epoch ∧ Tbl.get 0 t.inflight r = 0 then retireGo t n (r + 1) else r
def State.treeRetire (s : State) (p x : Nat) : State := s.updTree p x fun t => { t with retired := retireGo t 4 t.retired }

/-- TRV_TT_STATUS.RESULT of a result code (R231, R262). -/
def ttResult : Nat → Nat
  | 7 => 1
  | 8 => 2
  | 9 => 3
  | 10 => 4
  | 11 => 5
  | _ => 0

/-- The effect of an operation on a tree table: its result code, what READ copies, and the state (R227, R231). -/
def State.ttApply (s : State) (o : TtOp) : Nat × Tbl W64 × State :=
  if !s.partOn o.part then (11, [], s)
  else match o.op with
    | 1 => let r := s.setNext o.part o.entry o.root o.xs
           (r.1, [], r.2)
    | 2 => let r := s.treeSwap o.part o.entry
           (r.1, [], r.2)
    | _ => (0, (s.tree o.part o.entry).copy, s)

/-- An operation takes effect, and its requester gets the result: a worker core (R261), or the firmware register set
(R231). -/
def State.ttTake (s : State) (o : TtOp) : State :=
  let r := s.ttApply o
  let done := o.op == 3 && r.1 == 0
  if o.unit < 0x100 then
    r.2.2.updCore o.unit fun w => { w with ttRes := some r.1, tt := if done then r.2.1 else w.tt }
  else
    { r.2.2 with ttRegs := { r.2.2.ttRegs with result := ttResult r.1, busy := false,
                                               copy := if done then r.2.1 else r.2.2.ttRegs.copy } }

/-- The operations of an HK cycle, in ascending order of their requesters (R228). -/
def ttOrder (l : List TtOp) : List TtOp :=
  l.foldl (fun a o => a.takeWhile (fun x => decide (x.unit ≤ o.unit)) ++ [o] ++ a.dropWhile fun x => decide (x.unit ≤ o.unit)) []

/-- The end of an HK cycle: the operations on the tree tables take effect (R228). -/
def State.ttTick (s : State) : State :=
  if s.ttOps.isEmpty then s else (ttOrder s.ttOps).foldl State.ttTake { s with ttOps := [] }

/-- An operation is under way until the end of the HK cycle. -/
def State.ttPost (s : State) (o : TtOp) : State := { s with ttOps := s.ttOps ++ [o] }

/-- A write of TRV_TT_CMD by a thread of Clove core `c`: 1 SETNEXT, 2 SWAP, 3 READ; one that comes while BUSY is ignored
(R228, R231). -/
def State.ttCmd (s : State) (c op : Nat) : State :=
  let r := s.ttRegs
  if r.busy then { s with ttRegs := { r with cmdReject := true } }
  else if op = 0 then s
  else ({ s with ttRegs := { r with busy := true } }).ttPost ⟨0x450 + c, r.part, r.entry, op, r.nextRoot, r.nextXs⟩

/-! ## Query records as bytes (R240, R241). -/

/-- The record of a query, and its extension where it has one. -/
def Query.bytes (q : Query) : List Byte :=
  let f32 (v : FVal) := natToBytes (vCode 1 v) 4
  let f64 (v : FVal) := natToBytes (vCode 0 v) 8
  let geo := if q.ext then List.replicate 32 (0 : Byte)
    else (q.o.map f32).flatten ++ (q.d.map f32).flatten ++ f32 q.tmin ++ f32 q.tmax
  let base := geo ++ natToBytes q.qid 4 ++ natToBytes q.tree 2 ++ natToBytes (q.qtype + 128 * b2n q.ext) 1
    ++ natToBytes q.mask 1 ++ natToBytes q.n 1 ++ natToBytes q.ring 1 ++ natToBytes q.dest 1 ++ natToBytes q.group 1
    ++ natToBytes q.coll 4 ++ natToBytes q.pid 8 ++ List.replicate 8 0
  if q.ext then base ++ (q.o.map f64).flatten ++ (q.d.map f64).flatten ++ f64 q.tmin ++ f64 q.tmax else base

/-- Store slots of a query (R250). -/
def Query.slots (q : Query) : Nat := if q.ext then 2 else 1

/-! ## Bins and fire queues (R251 to R254). -/

/-- A fired bin joins its partition's fire queue: bins stand in the order they fired, those of one CORE cycle by ascending
index (R252). -/
def fireAt (x : Fired) (l : List Fired) : List Fired :=
  let before (y : Fired) : Bool := decide (y.at_ < x.at_) || (y.at_ == x.at_ && decide (y.bin ≤ x.bin))
  l.takeWhile before ++ [x] ++ l.dropWhile before

/-- Fire a bin (R252). -/
def Saffron.fireBin (f : Saffron) (now b : Nat) : Saffron :=
  match (Tbl.get Bin.off f.bins b).qs with
  | [] => f
  | e :: r => { f with bins := Tbl.set Bin.off f.bins b Bin.off,
                       fire := Tbl.upd [] f.fire e.part (fireAt ⟨now, b, e :: r⟩) }

/-- Whether a bin has no place for a query of a key and type: it holds others, or 64 queries. -/
def Bin.blocks (x : Bin) (key t : Nat) : Bool := decide (64 ≤ x.qs.length) || x.qs.any fun e => x.key != key || e.q.qtype != t

/-- Whether a query may enter its bin: what must fire first does not belong to a held partition (R251, R254; log 73). -/
def Saffron.mayEnter (f : Saffron) (held : Nat → Bool) (key t : Nat) : Bool :=
  let x := Tbl.get Bin.off f.bins (binIndex f.share key t)
  !x.blocks key t || !(x.qs.any fun e => held e.part)

/-- Put a query into its bin, which holds queries of one key and one type; a bin of 64 fires, unless its partition is held
(R251, R252, R254). -/
def Saffron.enter (f : Saffron) (now key : Nat) (held : Bool) (e : QEntry) : Saffron :=
  let b := binIndex f.share key e.q.qtype
  let f1 := if (Tbl.get Bin.off f.bins b).blocks key e.q.qtype then f.fireBin now b else f
  let f2 := { f1 with bins := Tbl.upd Bin.off f1.bins b fun x => ⟨key, x.qs ++ [{ e with since := now }]⟩ }
  if (Tbl.get Bin.off f2.bins b).qs.length = 64 && !held then f2.fireBin now b else f2

/-- A fetch for partition `p` of lines that lie where it may read: OUT_OF_SEGMENT, or what `k` gives (R233). -/
def segFetch (c : ShapeCfg) (p : Nat) (k : Fetch) : Fetch := fun a len =>
  if stackedBytes < a + len || !segRange c p a len false then .error 4 else k a len

/-- What Saffron reads for bin_of: the root node (R251). -/
def State.rootFetch (s : State) (p : Nat) : Fetch := segFetch s.cfg p fun a len =>
  let r := s.rangeRead a len
  if r.2.2.2 then .error 5 else .ok r.2.2.1

/-- Whether bin_of reads a node of stacked memory under a root. -/
def State.readsRoot (s : State) (p root : Nat) : Bool :=
  refType root == 1 && decide (refAddr root + 128 ≤ stackedBytes) && segRange s.cfg p (refAddr root) 128 false

/-- The state in which bin_of waits for the root node's home (R338, R340). -/
def State.rootWait (s : State) (p root : Nat) : Option State :=
  if s.readsRoot p root then s.rangeWait (refAddr root) 128 false else none

/-- The state after bin_of has read the root node. -/
def State.rootRead (s : State) (p root : Nat) : State :=
  if s.readsRoot p root then (s.rangeRead (refAddr root) 128).1 else s

/-- The key of a query under its binding (R251). -/
def State.queryKey (s : State) (p : Nat) (root : Nat) (q : Query) : Nat := binKey p q.tree (binGroup (s.rootFetch p) root q.o) q

/-- Whether a split is due: the warm-up count or the window of R253 is complete. -/
def State.splitDue (s : State) (q : Nat) : Bool :=
  let f := s.saffron q
  if f.warm then decide (2 ^ 20 ≤ f.warmCount) else bitOf (s.cfg.safOf q).flags 0 && decide (2 ^ 16 ≤ f.counts.sum)

/-- First bin and number of bins of a type under a split (R251). -/
def typeRange (share : List Nat) (t : Nat) : Nat × Nat := (64 * (share.take t).sum, 64 * share.getD t 0)

/-- The end of warm-up or of a window: with ADAPT = 1 the split is computed anew, and the bins of every type whose range
moves fire (R253). -/
def State.resplitNow (s : State) (q : Nat) : State :=
  if !s.splitDue q then s else
  s.updSaf q fun f =>
    if !bitOf (s.cfg.safOf q).flags 0 then { f with warm := false }
    else
      let sh := resplit f.counts
      let moved := (List.range 6).filter fun t => typeRange f.share t != typeRange sh t
      let full := f.bins.map (·.1) |>.filter fun b =>
        moved.any (fun t => decide ((typeRange f.share t).1 ≤ b ∧ b < (typeRange f.share t).1 + (typeRange f.share t).2)) &&
          (match (Tbl.get Bin.off f.bins b).qs with | e :: _ => !s.partHeld e.part | [] => false)
      let f1 := full.foldl (fun g b => g.fireBin s.time.core b) f
      { f1 with share := sh, warm := false, counts := [0, 0, 0, 0, 0, 0] }

/-! ## Acceptance (R237, R240, R250, R262). -/

/-- Whether any traversal unit of quadrant `q` belongs to partition `p` (R254). -/
def State.hasTu (s : State) (q p : Nat) : Bool := (List.range 16).any fun j => s.cfg.tuOwner (16 * q + j) == p

/-- The refusals that do not depend on room, in the order of R262: BAD_RECORD for the group, BAD_DEST, NO_BINS, NO_TU,
HELD. 0 where none applies. -/
def State.queryCode (s : State) (q p : Nat) (r : Query) : Nat :=
  let dest := 64 * q + r.dest
  if !groupFits r (s.tree p r.tree).curXs.toNat then 2
  else if s.partOf dest ≠ some p || !(Tbl.get HitRing.off (s.core dest).rings r.ring).en then 3
  else if (s.saffron q).share.getD r.qtype 0 = 0 then 4
  else if !s.hasTu q p then 5
  else if s.partHeld p then 6
  else 0

/-- Whether the ray store has room (R250). -/
def Saffron.room (f : Saffron) (n : Nat) : Bool := decide (f.storeUsed + n ≤ 262144)

/-- Count an acceptance (R253). -/
def Saffron.tally (f : Saffron) (t : Nat) : Saffron :=
  { f with warmCount := min (f.warmCount + 1) (2 ^ 20), counts := f.counts.set t (f.counts.getD t 0 + 1) }

/-- What an acceptance meets: store and spill are full; its bin is blocked by a held partition's queries, so that it waits
(log 73); or the state with the query accepted. -/
inductive Accept where
  | full
  | wait
  | ok (s : State)

/-- Take a query whose refusals have been ruled out: it binds, and enters its bin, or the spill area where the store is
full (R226, R250). -/
def State.acceptQuery (s : State) (q p : Nat) (r : Query) : Accept :=
  let c := s.cfg.safOf q
  let f := s.saffron q
  let t := s.tree p r.tree
  let n := r.slots
  let e : QEntry := ⟨p, r, t.curRoot, t.curXs, t.epoch, n, s.time.core⟩
  let bound := s.updTree p r.tree fun t => { t with inflight := Tbl.upd 0 t.inflight t.epoch (· + 1) }
  if f.room n then
    let key := s.queryKey p t.curRoot.toNat r
    if !f.mayEnter s.partHeld key r.qtype then .wait
    else .ok ((bound.rootRead p t.curRoot.toNat).updSaf q fun f =>
      ({ f.tally r.qtype with storeUsed := f.storeUsed + n }).enter s.time.core key false e)
  else if f.spillUsed + n ≤ c.spillRecords then
    let at_ (i : Nat) : Nat := c.spillBase + 64 * ((f.spillNext + i) % c.spillRecords)
    let bs := r.bytes
    let w := (List.range n).foldl (fun v i => (State.rangeWrite v (0x440 + q) (at_ i) ((bs.drop (64 * i)).take 64) false).1) bound
    .ok (w.updSaf q fun f => { f.tally r.qtype with
      spill := f.spill ++ [⟨e, f.spillNext⟩], spillUsed := f.spillUsed + n, spillNext := (f.spillNext + n) % c.spillRecords })
  else .full

/-- The state in which an acceptance that would spill waits for the home of the spill slots (R250, R340). -/
def State.spillWait (s : State) (q n : Nat) : Option State :=
  let f := s.saffron q
  let c := s.cfg.safOf q
  if f.room n || c.spillRecords == 0 then none
  else (List.range n).findSome? fun i => s.rangeWait (c.spillBase + 64 * ((f.spillNext + i) % c.spillRecords)) 64 true

/-- The binding of a query: partition, entry and epoch. -/
def QEntry.bind (e : QEntry) : Nat × Nat × Nat := (e.part, e.q.tree, e.epoch)

/-! ## What Saffron does of itself. -/

/-- Whether Saffron q advances: its quadrant's clock runs (R475, R503). -/
def State.safRuns (s : State) (q : Nat) : Bool := s.coreRuns q

/-- A bin fires by age, or because it is full and its partition is held no longer (R252, R254). -/
def State.binAge (s : State) (q b : Nat) : State :=
  if !s.safRuns q then s else
  match (Tbl.get Bin.off (s.saffron q).bins b).qs with
  | [] => s
  | e :: r => if (e.since + 2048 ≤ s.time.core ∨ r.length = 63) ∧ !s.partHeld e.part then s.updSaf q fun f => f.fireBin s.time.core b else s

/-- QFLUSH: every bin of the partition fires, in ascending order (R260). -/
def State.binFlush (s : State) (q p : Nat) : State :=
  if s.partHeld p then s else
  s.updSaf q fun f =>
    ((f.bins.map (·.1)).filter fun b => match (Tbl.get Bin.off f.bins b).qs with | e :: _ => e.part == p | [] => false).foldl
      (fun g b => g.fireBin s.time.core b) f

/-- The traversal unit of quadrant `q` that takes the next bin of partition `p`: the fewest bins, then the lowest index
(R254). -/
def State.freeTu (s : State) (q p : Nat) : Option Nat :=
  let ok := (List.range 16).map (16 * q + ·) |>.filter fun m =>
    s.cfg.tuOwner m == p && !s.tuLost.getLsbD m && !s.tileOff (tuTile m) && decide ((s.trav m).held.length < 2)
      && !s.appliedUnit (0x400 + m)
  match ok.find? fun m => (s.trav m).held.isEmpty with
  | some m => some m
  | none => ok.head?

/-- Dispatch the fire-queue head that fired earliest, ties to the lowest bin (R254). -/
def State.binDispatch (s : State) (q : Nat) : State :=
  if !s.safRuns q then s else
  let f := s.saffron q
  let heads := f.fire.filterMap fun x => match x.2 with
    | h :: _ => if s.partHeld x.1 then none else (s.freeTu q x.1).map fun m => (x.1, h, m)
    | [] => none
  let best := heads.foldl (fun (b : Option (Nat × Fired × Nat)) x => match b with
    | none => some x
    | some y => if x.2.1.at_ < y.2.1.at_ ∨ (x.2.1.at_ = y.2.1.at_ ∧ x.2.1.bin < y.2.1.bin) then some x else b) none
  match best with
  | none => s
  | some (p, h, m) =>
    (s.updSaf q fun f =>
      { f with fire := Tbl.upd [] f.fire p (·.drop 1), storeUsed := f.storeUsed - (h.qs.map (·.slots)).sum }).updTu m fun t =>
        { t with held := t.held ++ [⟨h.bin, h.qs, [], none⟩] }

/-- The unit that delivers a query which ends at Saffron: the first of its partition in the quadrant (log 28). -/
def State.endTu (s : State) (q p : Nat) : Nat :=
  (((List.range 16).map (16 * q + ·)).find? fun m => s.cfg.tuOwner m == p).getD (16 * q)

/-- The slots of a spilled query in the spill area. -/
def State.spillSlots (s : State) (q : Nat) (x : Spilled) : List Nat :=
  let c := s.cfg.safOf q
  (List.range x.e.slots).map fun i => c.spillBase + 64 * ((x.addr + i) % c.spillRecords)

/-- A query ends at Saffron with a fault: its record goes to a unit of its partition (R237; log 28). -/
def State.spillFault (s : State) (q : Nat) (e : QEntry) (code : Nat) : State :=
  s.updTu (s.endTu q e.part) fun u => { u with form := u.form ++
    [⟨64 * q + e.q.dest, e.q.ring, e.q.qtype, e.q.tree, [faultRec e.q code], [e.bind]⟩] }

/-- The oldest spilled query returns, checked again (R250); it waits for the homes of what is read, and while a held
partition's queries block its bin (log 73). -/
def State.spillReturn (s : State) (q : Nat) : State :=
  let f := s.saffron q
  match f.spill with
  | [] => s
  | x :: rest =>
    if !s.safRuns q || !f.room x.e.slots then s else
    match ((s.spillSlots q x).findSome? fun a => s.rangeWait a 64 false).or (s.rootWait x.e.part x.e.root.toNat) with
    | some w => w
    | none =>
      let rd := (s.spillSlots q x).foldl (fun (v : State × List Byte × Bool) a =>
        let y := v.1.rangeRead a 64
        (y.1, v.2.1 ++ y.2.2.1, v.2.2 || y.2.2.2)) (s, [], false)
      let s1 := rd.1.updSaf q fun f => { f with spill := rest, spillUsed := f.spillUsed - x.e.slots }
      if rd.2.2 then (s1.raise 0x3F (0x440 + q) ((s.spillSlots q x).headD 0) 4).spillFault q x.e 5
      else match parseQuery (rd.2.1.take 64) (if x.e.slots = 2 then some (rd.2.1.drop 64) else none) with
        | none => s1.spillFault q x.e 0x0A
        | some r =>
          if r.slots ≠ x.e.slots || !groupFits r x.e.xs.toNat then s1.spillFault q x.e 0x0A
          else
            let key := s.queryKey x.e.part x.e.root.toNat r
            if !f.mayEnter s.partHeld key r.qtype then s
            else (s1.rootRead x.e.part x.e.root.toNat).updSaf q fun f =>
              ({ f with storeUsed := f.storeUsed + x.e.slots }).enter s.time.core key (s.partHeld x.e.part) { x.e with q := r }

/-- The state in which a submission waits: for the home of the spill slots it would fill, or of the root node. -/
def State.submitWait (s : State) (q p : Nat) (rs : List Query) : Option State :=
  (s.spillWait q (rs.map (·.slots)).sum).or (rs.findSome? fun r => s.rootWait p (s.tree p r.tree).curRoot.toNat)

/-- The generator emits one query of the running description (R255, R256). It pauses while its partition is held or has no
bins or units for it, or store and spill are full. -/
def State.genEmit (s0 : State) (q : Nat) : State :=
  match (s0.saffron q).gen with
  | [] => s0
  | g :: rest =>
    if !s0.safRuns q || s0.partHeld g.part then s0 else
    let s := s0.resplitNow q
    let r := sourceQuery g.src g.done
    if (s.saffron q).share.getD r.qtype 0 = 0 || !s.hasTu q g.part then s
    else match s.submitWait q g.part [r] with
      | some w => w
      | none =>
        match s.acceptQuery q g.part r with
        | .ok t => t.updSaf q fun f =>
          { f with gen := if g.done + 1 = g.src.count then rest else { g with done := g.done + 1 } :: rest }
        | _ => s

/-! ## Traversal units (R254, R257, R258). -/

/-- Whether unit `m` advances: its tile is on, and its clock runs. -/
def State.tuRuns (s : State) (m : Nat) : Bool := !s.tileOff (tuTile m) && s.coreRuns (m / 16)

/-- The code by which a walk says which line it needs next; it lies beyond every fault code. -/
def needCode (l : Nat) : Nat := 2 ^ 32 + l

/-- A fetch from the lines that a walk has: OUT_OF_SEGMENT, POISON, the bytes, or the line that it needs (R233). A line whose
fill failed reads as poison (log 65). -/
def bufFetch (c : ShapeCfg) (p : Nat) (buf : List Fill) : Fetch := segFetch c p fun a len =>
  match buf.find? fun f => f.line == a / 128 with
  | none => .error (needCode (a / 128))
  | some f => if f.poison || f.code != .okay then .error 5 else .ok (lineSlice f.data (a % 128) len)

/-- How far a walk comes: it has ended with its records, or it needs a line that neither its buffer nor the node cache
has. -/
inductive Walked where
  | ended (s : State) (buf : List Fill) (recs : List HitRec)
  | needs (s : State) (buf : List Fill) (l : Nat)

/-- A walk of a query with the lines of `buf` and those of the unit's node cache, whose hits set their ages to 0; a line
of an uncached region is read at its target (R316, R320, R321). -/
def State.walkLines (r : Cacher) (e : QEntry) : Nat → State → List Fill → Walked
  | 0, s, buf => .needs s buf 0
  | fuel + 1, s, buf =>
    let rs := runQuery (bufFetch s.cfg e.part buf) e.q e.root.toNat e.xs.toNat
    match rs.find? fun x => x.kind == 9 && decide (2 ^ 32 ≤ x.data0) with
    | none => .ended s buf rs
    | some x =>
      let l := x.data0 - 2 ^ 32
      if !s.cacheable (128 * l) then
        if s.zeroing l then .needs s buf l
        else
          let d := s.memRead l
          State.walkLines r e fuel d.2 (buf ++ [⟨l, .okay, d.1.1, d.1.2⟩])
      else match s.held r l with
        | some y => State.walkLines r e fuel (s.updCache r fun c => c.touch (r.set l) r.ways l) (buf ++ [⟨l, .okay, y.data, y.poison⟩])
        | none => .needs s buf l

/-- The queries of a unit that have not ended, each with the number of its bin in the unit and its own in the bin. -/
def TravUnit.todo (u : TravUnit) : List (Nat × Nat × QEntry) :=
  u.held.zipIdx.flatMap fun h =>
    (h.1.qs.zipIdx.filter fun e => (Tbl.get [] h.1.recs e.2).isEmpty).map fun e => (h.2, e.2, e.1)

/-- The records of a query that has ended; one that met poison raises detector 0x3F (R516). -/
def State.queryRecs (s : State) (m i k : Nat) (buf : List Fill) (rs : List HitRec) : State :=
  let s1 := if rs.any fun r => r.kind == 9 && r.data0 == 5 then
      s.raise 0x3F (0x400 + m) (128 * ((buf.find? fun f => f.poison || f.code != .okay).map (·.line)).getD 0) 4 else s
  s1.updTu m fun u => { u with held := u.held.zipIdx.map fun h =>
    if h.2 = i then { h.1 with recs := Tbl.set [] h.1.recs k rs } else h.1 }

/-- The next query of the unit ends, or the node cache asks for the line that its walk needs (R237, R239, R245, R248). Under
a miss a cache that is not blocking lets another query end (R321). -/
def State.queryEnd (s : State) (m : Nat) : State :=
  let u := s.trav m
  let r : Cacher := .node (Fin.ofNat 64 m)
  let c := s.cacheOf r
  if !s.tuRuns m || s.tuLost.getLsbD m || u.waiting.length == 8 || c.busy || (c.miss.isSome && !s.hitUnderMiss r) then s else
  match u.todo with
  | [] => s
  | (i, k, e) :: rest =>
    match State.walkLines r e walkFuel s c.fills with
    | .ended t buf rs => (t.queryRecs m i k buf rs).updCache r fun c => { c with fills := [] }
    | .needs t buf l =>
      let t1 := t.updCache r fun c => { c with fills := buf }
      if c.miss.isSome then
        (rest.findSome? fun x => match State.walkLines r x.2.2 walkFuel t1 [] with
          | .ended v b rs => some (v.queryRecs m x.1 x.2.1 b rs)
          | .needs .. => none).getD t1
      else if !s.cacheable (128 * l) || s.cacheHeld r then t1
      else t1.updCache r fun c => { c with miss := some (l, false) }

/-- Whether every query of a bin has ended (R257). -/
def HeldBin.ended (h : HeldBin) : Bool := (List.range h.qs.length).all fun k => !(Tbl.get [] h.recs k).isEmpty

/-- The packets of a bin whose queries have all ended (R257): cut by destination, sorted, each with the bindings of the
queries whose records it holds. -/
def HeldBin.packets (q : Nat) (h : HeldBin) : List HitPacket :=
  (cutPackets (h.qs.zipIdx.map fun e => ⟨(64 * q + e.1.q.dest, e.1.q.ring), e.1.bind, Tbl.get [] h.recs e.2⟩)).filterMap fun p =>
    match p, h.qs with
    | x :: _, e :: _ => some ⟨x.dest.1, x.dest.2, e.q.qtype, e.q.tree, sortPacket (p.flatMap fun y => y.recs.zipIdx), p.map (·.bind)⟩
    | _, _ => none

/-- A unit delivers: packets move on as waiting ones leave, and the first bin, once all its queries have ended, is formed
into packets and leaves with the last of them (R257, R258). A unit that is lost delivers what it holds (R237, R501). -/
def TravUnit.deliver (u : TravUnit) (q : Nat) : TravUnit :=
  let n := 8 - u.waiting.length
  let u1 : TravUnit := { u with waiting := u.waiting ++ u.form.take n, form := u.form.drop n }
  let n1 := 8 - u1.waiting.length
  match u1.held with
  | [] => u1
  | h :: rest =>
    if !h.ended || n1 == 0 then u1
    else
      let ps := h.packs.getD (h.packets q)
      { u1 with waiting := u1.waiting ++ ps.take n1,
                held := if (ps.drop n1).isEmpty then rest else { h with packs := some (ps.drop n1) } :: rest }

def State.binDeliver (s : State) (m : Nat) : State :=
  if !s.tuRuns m then s else s.updTu m fun u => u.deliver (m / 16)

/-- The bytes of a packet up to its last record (R257). -/
def HitPacket.bytes (p : HitPacket) (m seq : Nat) : List Byte :=
  natToBytes p.recs.length 2 ++ natToBytes m 1 ++ natToBytes p.qtype 1 ++ natToBytes seq 4 ++ natToBytes p.tree 2
    ++ natToBytes ((p.recs.head?.map (·.mat)).getD 0) 2 ++ natToBytes ((p.recs.getLast?.map (·.mat)).getD 0) 2
    ++ List.replicate 50 0 ++ p.recs.flatMap HitRec.bytes

/-- Whether a packet is discarded: its ring is disabled, or its core stopped or off (R258). -/
def State.packetLost (s : State) (p : HitPacket) : Bool :=
  !(Tbl.get HitRing.off (s.core p.core).rings p.ring).en || (s.core p.core).run == .stopped || s.tileOff p.core

/-- Write the first waiting packet whose ring has room, or discard it (R257, R258). -/
def State.packetWrite (s : State) (m : Nat) : State :=
  if !s.coreClock || s.tileOff (tuTile m) then s else
  match (s.trav m).waiting.find? fun p =>
      let r := Tbl.get HitRing.off (s.core p.core).rings p.ring
      s.packetLost p || decide (r.filled + 1 < r.slots) with
  | none => s
  | some p =>
    let s1 := s.updTu m fun u => { u with waiting := u.waiting.erase p }
    let s2 := p.binds.foldl State.queryDone s1
    if s.packetLost p then if s.tileOff p.core then s2 else s2.ringDrop p.core p.ring 1
    else
      let r := Tbl.get HitRing.off (s.core p.core).rings p.ring
      (s2.tileWrite p.core (4096 * (r.base + r.tail)) (p.bytes m r.seq) false).updCore p.core fun w =>
        { w with rings := Tbl.upd HitRing.off w.rings p.ring fun r =>
            { r with tail := (r.tail + 1) % r.slots, seq := (r.seq + 1) % 2 ^ 32 } }

/-- Every query of a bin that has not ended ends with UNIT_LOST (R237). -/
def HeldBin.lose (h : HeldBin) : HeldBin :=
  { h with recs := h.qs.zipIdx.foldl (fun t e =>
      if (Tbl.get [] t e.2).isEmpty then Tbl.set [] t e.2 [faultRec e.1.q 9] else t) h.recs }

/-- The loss of a traversal unit: the queries it holds end (R501). -/
def State.tuLose (s : State) (m : Nat) : State :=
  ({ s with tuLost := s.tuLost ||| BitVec.ofNat 64 (2 ^ m) }).updTu m fun u => { u with held := u.held.map HeldBin.lose }

/-- Whether Saffron holds a query of a partition, on die or in spill, or a source of it, or a traversal unit walks a bin of
its queries (R64, R264). -/
def State.queriesHeld (s : State) (p : Nat) : Bool :=
  ((List.range 4).any fun q =>
    let f := s.saffron q
    (f.gen.any fun g => g.part == p) || (f.spill.any fun x => x.e.part == p) || !(Tbl.get [] f.fire p).isEmpty
      || f.bins.any fun b => b.2.qs.any fun e => e.part == p)
    || s.tu.any fun u => u.2.todo.any fun x => x.2.2.part == p

/-- Whether a query of a partition is held on die, in spill or in flight (R72). -/
def State.queriesOut (s : State) (p : Nat) : Bool :=
  ((List.range 4).any fun q => (s.saffron q).gen.any fun g => g.part == p) ||
    s.trees.any fun e => e.1 / 1024 == p && e.2.inflight.any fun x => x.2 != 0

/-! ## The submissions of a worker (R260 to R262). -/

/-- The fault of a source range of `len` bytes at a tile-memory offset (R260). -/
def rangeFault (off : W64) (align len : Nat) : Option (Nat × Nat × W64) :=
  if off.toNat % align ≠ 0 then some (6, 1, off)
  else if 0x40_0000 < off.toNat + len then some (4, 1, off)
  else none

/-- The first poisoned word of a source range (R260). -/
def State.badWord (s : State) (n off len : Nat) : Option Nat :=
  if s.mem.tilePoison.isEmpty && s.mem.tileErr.isEmpty then none else
  ((List.range ((len + 7) / 8)).find? fun i => s.tileBad n (off + 8 * i)).map fun i => (off + 8 * i) / 8 * 8

/-- Submit one record for core `n` of partition `p`: the result code, and the state (R262); none while it must wait. A split
that is due takes effect first (R253, R264). -/
def State.submit (s : State) (n p : Nat) (body : List Byte) (ext : Option (List Byte)) : Option (Nat × State) :=
  match parseQuery body ext with
  | none => some (2, s)
  | some r =>
    let q := n / 64
    let s1 := s.resplitNow q
    let c := s1.queryCode q p r
    if c ≠ 0 then some (c, s)
    else match s1.acceptQuery q p r with
      | .full => some (1, s)
      | .wait => none
      | .ok t => some (0, t)

/-- The extension record of the slot at a tile-memory offset, where its EXT bit asks for one. -/
def State.extOf (s : State) (n off : Nat) : Option (List Byte) :=
  if bitOf (le (s.tileBytes n off 64).1 38 1) 7 then some (s.tileBytes n (off + 64) 64).1 else none

/-- Submit records from consecutive slots until the first refusal: records accepted, code, state (R260); none while one
must wait. -/
def State.submitMany (s : State) (n p off : Nat) : Nat → Nat → Nat → Option (Nat × Nat × State)
  | 0, _, acc => some (acc, 0, s)
  | fuel + 1, left, acc =>
    if left = 0 then some (acc, 0, s) else
    let ext := s.extOf n off
    if ext.isSome ∧ left < 2 then some (acc, 2, s)
    else
      let k := if ext.isSome then 2 else 1
      match s.submit n p (s.tileBytes n off 64).1 ext with
      | none => none
      | some (0, t) => t.submitMany n p (off + 64 * k) fuel (left - k) (acc + 1)
      | some (c, _) => some (acc, c, s)

/-- The records that start in the slots from a tile-memory offset on, as far as they are well formed. -/
def State.recordsAt (s : State) (n off slots : Nat) : List Query :=
  (List.range slots).filterMap fun i => parseQuery (s.tileBytes n (off + 64 * i) 64).1 (s.extOf n (off + 64 * i))

/-- Queue a source description (R255, R262). -/
def State.submitSource (s : State) (n p : Nat) (desc : List Byte) : Nat × State :=
  let q := n / 64
  match parseSource desc with
  | none => (2, s)
  | some src =>
    let c := s.queryCode q p src.q
    if c ≠ 0 then (c, s)
    else if 4 ≤ (s.saffron q).gen.length then (1, s)
    else (0, s.updSaf q fun f => { f with gen := f.gen ++ [⟨src, p, n, 0⟩] })

end Sys2Proof.Machine
end

