-- ==== Sys2Proof/Machine/MaintOps.lean ====
section
/-! DEFINITION. Cache maintenance by address, shared by worker and Clove cores (R327, R330 to R334). -/

namespace Sys2Proof.Machine

/-- The operations on a line that may be repeated over a range, and ZERO (R330). -/
inductive Maint where
  | clean | inval | flush | zero
deriving DecidableEq, Repr

/-- Whether the operation is checked as a store (R330). -/
def Maint.store : Maint → Bool
  | .clean | .flush => false
  | .inval | .zero => true

/-- The state in which an operation on a line waits, none where it may act now: the caches invalidate themselves, the
slice holds work, or the host must give up its copy first (R329, R331, R340). -/
def State.maintHold (s : State) (r : Cacher) (op : Maint) (l : Nat) : Option State :=
  if !maintains l then none
  else if (s.cacheOf r).busy then some s
  else match op with
    | .clean => if s.homeStall l then some s else none
    | .zero => s.homeWait l true false
    | _ => s.maintWait l true

/-- Perform an operation on a line that need not wait; ZERO may still wait for room in the directory. -/
def State.maintDo (s : State) (r : Cacher) (op : Maint) (l : Nat) : Except State State :=
  if !maintains l then .ok s
  else match op with
    | .clean => .ok (s.cleanLine r l)
    | .inval => .ok (s.invalLine r l false)
    | .flush => .ok (s.invalLine r l true)
    | .zero => s.zeroLine r l

/-- One operation on one line, or the state in which it waits. -/
def State.maintOne (s : State) (r : Cacher) (op : Maint) (l : Nat) : Except State State :=
  match s.maintHold r op l with
  | some w => .error w
  | none => s.maintDo r op l

/-- The lines that a range touches. -/
def rangeLines (a len : Nat) : List Nat :=
  if len = 0 then [] else (List.range ((a + len - 1) / 128 - a / 128 + 1)).map (a / 128 + ·)

/-- The pieces of a range that lie within one page of 4 KiB each. -/
def pagePieces (a len : Nat) : List (Nat × Nat) :=
  if len = 0 then [] else
  (List.range ((a + len - 1) / 4096 - a / 4096 + 1)).map fun i =>
    let lo := max a (4096 * (a / 4096 + i))
    (lo, min (a + len) (4096 * (a / 4096 + i + 1)) - lo)

/-- The length a range operation acts on (R332). -/
def rangeLen (v : W64) : Nat := min v.toNat 65536

/-- A range operation, whose lines are all done in one step once none has to wait (R332). -/
def State.maintRange (s : State) (r : Cacher) (op : Maint) (a len : Nat) : Except State State :=
  let ls := rangeLines a len
  match ls.findSome? (s.maintHold r op) with
  | some w => .error w
  | none => ls.foldl (fun x l => match x with
      | .ok t => t.maintDo r op l
      | .error w => .error w) (.ok s)

/-- LFILL: its result and the state, or the state in which it waits (R327). -/
def State.maintLock (s : State) (r : Cacher) (l : Nat) : Except State (Nat × State) :=
  if !maintains l then .ok (2, s)
  else if (s.cacheOf r).busy then .error s
  else match s.lfillWait l with
    | some w => .error w
    | none => .ok (s.lfillLine l)

/-- PREF and PREFW (R330): dropped where a check fails; a cache that invalidates itself holds it (R352). -/
def State.maintPref (s : State) (r : Cacher) (l : Nat) (write ok : Bool) : Except State State :=
  if !ok then .ok s else if (s.cacheOf r).busy then .error s else .ok (s.prefetch r l write)

end Sys2Proof.Machine
end

