-- ==== Sys2Proof/Machine/CloveOps.lean ====
section
/-! DEFINITION. The Clove cluster: thread registers, traps and accesses (R376 to R394), and the task scheduler with its
flows, delay lists and Anise (R395 to R410). -/

namespace Sys2Proof.Machine

/-! ## Registers and instruction words (R376, R380). -/

/-- The value of a register; g0 reads as zero. -/
def Thr.r (t : Thr) (i : Nat) : W64 := if i = 0 then 0 else Tbl.get 0 t.g i

/-- Write a register; a write to g0 is discarded. -/
def Thr.setR (t : Thr) (i : Nat) (v : W64) : Thr := if i = 0 then t else { t with g := Tbl.set 0 t.g i v }

abbrev State.greg (s : State) (h : Nat) (r : GReg) : W64 := (s.thread h).r r.val
def State.setG (s : State) (h i : Nat) (v : W64) : State := s.updThr h fun t => t.setR i v

/-- The unit identifier of a thread's core (R376). -/
abbrev clvUnit (h : Nat) : Nat := 0x450 + h / 8

/-- The cache of a thread's core. -/
abbrev clvCacher (h : Nat) : Cacher := .clv (Fin.ofNat 8 (h / 8))

/-- Words of the forms R, I and J. -/
def gRegWord (cls rd ra rb : Nat) (fn : BitVec 12) : W64 :=
  BitVec.ofNat 64 (cls * 2 ^ 28 + rd * 2 ^ 24 + ra * 2 ^ 20 + rb * 2 ^ 16 + fn.toNat)
def gImmWord (cls rd ra fn : Nat) (imm : BitVec 16) : W64 :=
  BitVec.ofNat 64 (cls * 2 ^ 28 + rd * 2 ^ 24 + ra * 2 ^ 20 + fn * 2 ^ 16 + imm.toNat)
def gJumpWord (cls rd : Nat) (off : BitVec 24) : W64 := BitVec.ofNat 64 (cls * 2 ^ 28 + rd * 2 ^ 24 + off.toNat)

/-! ## Anise (R406, R407). -/

/-- What a record says of a task and its flow. -/
structure AniseInfo where
  task : Nat
  prio : Nat
  flow : Nat
  st : Nat

/-- A record that names no task; what its other fields hold the spec does not say (log 16). -/
abbrev AniseInfo.none : AniseInfo := ⟨0xFF, 0, 0, 0⟩

/-- The code of a task state (R395). -/
def TaskState.code : TaskState → Nat
  | .dormant => 0 | .ready => 1 | .running => 2 | .blocked => 3 | .delayed => 4

abbrev State.task (s : State) (x : Nat) : Task := Tbl.get Task.off s.sched.tasks x
def State.updTask (s : State) (x : Nat) (f : Task → Task) : State :=
  s.updSched fun c => { c with tasks := Tbl.upd Task.off c.tasks x f }

/-- The FLOW byte of a task (R406). -/
def Task.flowByte (t : Task) : Nat := match t.flow with | some f => 0x80 + f.1 | none => 0

/-- A task as a record shows it. -/
def State.aniseTask (s : State) (x : Nat) : AniseInfo :=
  let t := s.task x
  ⟨x, t.prio, t.flowByte, t.st.code⟩

/-- Write bytes to cluster SRAM; whole words lose their poison marks. -/
def State.sramWrite (s : State) (off : Nat) (bs : List Byte) : State :=
  let last := off + bs.length
  s.updMem fun m =>
    { m with sram := Tbl.setMany 0 m.sram off bs,
             clvPoison := if m.clvPoison.isEmpty then [] else Tbl.cut ((off + 7) / 8) (last / 8) m.clvPoison }

/-- Write a record. With STOP = 1 a record whose write index would reach RD is dropped. -/
def State.anise (s : State) (ev hart : Nat) (i : AniseInfo) (data : Nat) : State :=
  let c := s.sched
  if !c.aniseEn || !(decide (1 ≤ ev ∧ ev ≤ 13) && c.evmask.getLsbD ev) then s
  else if c.aniseStop && c.aniseWrite + 1 == c.aniseRd then
    s.updSched fun c => { c with aniseLost := min (c.aniseLost + 1) 0xFFFF }
  else
    let bytes := natToBytes (s.now % 2 ^ 48) 6 ++ natToBytes ev 1 ++ natToBytes hart 1 ++ natToBytes i.task 1 ++ natToBytes i.prio 1
      ++ natToBytes i.flow 1 ++ natToBytes i.st 1 ++ natToBytes data 4
    let s1 := if c.aniseBase < 128 then s.sramWrite (65536 * c.aniseBase + 16 * c.aniseWrite.toNat) bytes else s
    s1.updSched fun c => { c with aniseWrite := c.aniseWrite + 1 }

/-! ## Ready lists and the lists of time (R395, R396, R405). -/

abbrev SchedSt.list (c : SchedSt) (p : Nat) : List Nat := Tbl.get [] c.ready p

/-- Take a task out of every list. -/
def SchedSt.unlist (c : SchedSt) (x : Nat) : SchedSt :=
  { c with ready := (List.range 32).foldl (fun t p => Tbl.upd [] t p fun l => l.filter (· != x)) c.ready,
           delays := c.delays.filter (fun e => e.task != x), timeouts := c.timeouts.filter fun e => e.task != x }

/-- A task becomes READY at the tail of the list of its priority; its WAKE_PENDING stays (R401). -/
def State.makeReady (s : State) (x cause : Nat) : State :=
  let p := (s.task x).prio
  (s.updTask x fun t => { t with st := .ready, cause := cause }).updSched fun c =>
    let c := c.unlist x
    { c with ready := Tbl.upd [] c.ready p fun l => l ++ [x], due := true }

/-- Tasks that may be chosen, highest priority and earliest first. -/
def SchedSt.order (c : SchedSt) : List Nat := (List.range 32).flatMap c.list

/-- Whether a task may run on the core of a thread. -/
def State.eligible (s : State) (h x : Nat) : Bool := (s.task x).aff.getLsbD (h / 8)

/-- The task word of R400, with result code OK. -/
def State.taskWord (s : State) (x : Nat) : W64 :=
  let t := s.task x
  BitVec.ofNat 64 (x + 2 ^ 8 * t.prio + 2 ^ 16 * t.cause +
    (match t.flow with | some f => 2 ^ 24 + 2 ^ 20 * f.1 + 2 ^ 32 * f.2 | none => 0))

/-- Give a task to a thread: its GETTASK ends with it. -/
def State.give (s : State) (h rd x : Nat) : State :=
  let w := s.taskWord x
  let a := (s.task x).arg
  let s1 := (s.updSched fun c => { c.unlist x with waiters := c.waiters.filter (· != h) }).updTask x fun t => { t with st := .running }
  (s1.updThr h fun t => ({ t with run := .running, task := some x, pc := t.pc + 4 }.setR rd w).setR (rd + 1) a).anise
    2 h (s1.aniseTask x) (s.task x).cause |>.count (clvUnit h) 1

/-- The register that a waiting thread named. -/
def Thr.waitReg (t : Thr) : Nat := match t.run with | .waitTask rd => rd | _ => 0

/-- Match READY tasks with waiting threads until nothing matches (R396). -/
def State.matchWaiters (s : State) : Nat → State
  | 0 => s
  | fuel + 1 =>
    match s.sched.order.findSome? fun x => (s.sched.waiters.find? fun h => s.eligible h x).map fun h => (h, x) with
    | some (h, x) => State.matchWaiters (s.give h (s.thread h).waitReg x) fuel
    | none => s

/-- The matching that is due since tasks became READY. -/
def State.dispatch (s : State) : State :=
  if s.sched.due then (s.matchWaiters s.sched.waiters.length).updSched fun c => { c with due := false } else s

/-- Which of two entries comes first: by wake tick, then by order of entry. -/
def TimerEnt.before (a b : TimerEnt) : Bool := decide (a.tick < b.tick) || (a.tick == b.tick && decide (a.seq < b.seq))

/-- The entry of either list that has expired and comes first; whether it is of the timeout list. -/
def SchedSt.expired (c : SchedSt) : Option (TimerEnt × Bool) :=
  let all := (c.delays.map fun e => (e, false)) ++ (c.timeouts.map fun e => (e, true))
  (all.filter fun e => decide (e.1.tick ≤ c.tick)).foldl (fun a e =>
    match a with
    | some b => if e.1.before b.1 then some e else some b
    | none => some e) none

/-- An expired entry readies its task (R405). -/
def State.timeUp (s : State) (e : TimerEnt × Bool) : State :=
  let s1 := s.makeReady e.1.task (if e.2 then 2 else 1)
  s1.anise (if e.2 then 7 else 6) 0xFF (s1.aniseTask e.1.task) (s.sched.tick % 2 ^ 32)

/-- Ready every task whose entry has expired. -/
def State.expireAll (s : State) : Nat → State
  | 0 => s
  | fuel + 1 => match s.sched.expired with
    | some e => State.expireAll (s.timeUp e) fuel
    | none => s

/-- Tick processing and matching go before a request (R397). -/
def State.schedSync (s : State) : State := (s.expireAll (s.sched.delays.length + s.sched.timeouts.length)).dispatch

/-- A tick: BLK_TIME has reached a multiple of 2,000, 0 among them when it wraps (R405, R513). -/
def State.tickNow (s : State) : State :=
  if s.sched.tickAt = s.now / 2000 then s
  else s.updSched fun c => { c with tick := c.tick + 1, tickAt := if c.tickAt < s.now / 2000 then c.tickAt + 1 else 0 }

/-! ## Flows (R403, R404). -/

abbrev State.flow (s : State) (f : Nat) : Flow := Tbl.get Flow.off s.sched.flows f
def State.updFlow (s : State) (f : Nat) (g : Flow → Flow) : State :=
  s.updSched fun c => { c with flows := Tbl.upd Flow.off c.flows f g }

/-- The head entry is complete. -/
def Flow.releasable (f : Flow) : Bool := match f.ents with | some _ :: _ => true | _ => false

/-- TREADY of a task by thread `h`, 0xFF for a flow: its result code (R401). -/
def State.tready (s : State) (h x : Nat) : Nat × State :=
  let t := s.task x
  match t.st with
  | .ready => (1, s)
  | .running =>
    let s1 := s.updTask x fun t => { t with wakePend := true }
    (0, s1.anise 1 h (s1.aniseTask x) (t.arg.toNat % 2 ^ 32))
  | _ =>
    let s1 := s.makeReady x 0
    (0, s1.anise 1 h (s1.aniseTask x) (t.arg.toNat % 2 ^ 32))

/-- A flow that was not releasable has become so (R404). -/
def State.flowWake (s : State) (f : Nat) (before : Bool) : State :=
  let x := s.flow f
  let st := (s.task x.wakeTask).st
  if !before && x.releasable && x.wakeEn && (st == .blocked || st == .running) then (s.tready 0xFF x.wakeTask).2 else s

/-- Complete the flow entry of a task, where it has one. -/
def State.flowComplete (s : State) (x : Nat) (v : W64) (abandoned : Bool) : State :=
  match (s.task x).flow with
  | none => s
  | some (f, seq) =>
    let was := (s.flow f).releasable
    let i := (BitVec.ofNat 16 seq - (s.flow f).head).toNat
    ((s.updTask x fun t => { t with flow := none }).updFlow f fun y => { y with ents := y.ents.set i (some (v, abandoned)) }).flowWake f was

/-- A held task is abandoned (R401). -/
def State.abandon (s : State) (h : Nat) : State :=
  match (s.thread h).task with
  | none => s
  | some x =>
    let fb := (s.task x).flowByte
    let s1 := (s.updThr h fun t => { t with task := none }).updTask x fun t => { t with st := .dormant, wakePend := false }
    let s2 := s1.anise 3 h { s1.aniseTask x with flow := fb } 0xFFFFFFFF
    s2.flowComplete x 0 true

/-! ## Traps (R384 to R388). -/

/-- tc.ip (R387). -/
def State.tcIp (s : State) (h : Nat) : BitVec 6 :=
  let t := s.thread h
  let err := (List.range 128).any (fun d => s.err.irq.getLsbD d && Tbl.get 0 s.err.irqThread d == h)
    || (s.nut.event != 0 && s.nut.irqThread == h)
  let flow := s.sched.flows.any fun e => e.2.irqEn && e.2.wakeThread == h && e.2.releasable
  let bits := [err, decide (t.timecmp.toNat ≤ s.now), s.doorbell (0x100 + h), s.sched.ipi.getLsbD h, s.hostIrq h, flow]
  BitVec.ofNat 6 (bits.foldr (fun b a => 2 * a + b2n b) 0)

/-- Pending interrupts that tc.ie enables. -/
def State.tcOn (s : State) (h : Nat) : BitVec 6 := s.tcIp h &&& (s.thread h).ien

/-- The code of the interrupt that is taken at this boundary. -/
def State.tcDue (s : State) (h : Nat) : Option Nat :=
  if (s.thread h).ie then (List.range 6).find? fun k => (s.tcOn h).getLsbD k else none

/-- The trap of R386. -/
def Thr.trapTo (t : Thr) (intr : Bool) (code sub : Nat) (tval : W64) : Thr :=
  { t with epc := t.pc, cause := BitVec.ofNat 64 (b2n intr * 2 ^ 63 + sub * 2 ^ 8 + code), tval := tval, pie := t.ie, ie := false,
           trap := true, pc := t.vec &&& ~~~0xFF }

/-- What an issued instruction held ends with it. -/
def State.endClv (s : State) (h : Nat) : State :=
  let s1 := s.updThr h fun t => { t with issued := false, partsDone := 0 }
  if s1.grp.dones.isEmpty then s1
  else s1.updGrp fun g => { g with dones := g.dones.filter fun d => d.who != .thread h }

/-- A thread stops (R388, R501): STOPPED with its cause, its task abandoned. -/
def State.stopThread (s : State) (h cause : Nat) : State :=
  ((s.endClv h).updSched fun c => { c with waiters := c.waiters.filter (· != h) }).abandon h |>.updThr h fun t =>
    { t with run := .stopped, stopCause := cause }

/-- An exception of a thread: the trap, or with TRAP = 1 the stop (R386, R388). -/
def State.thrExcept (s : State) (h code sub : Nat) (tval : W64) : State :=
  let s1 := s.endClv h
  if (s1.thread h).trap then (s1.raise 0x3D (clvUnit h) 0 (h % 8 + 256 * code)).stopThread h code
  else s1.updThr h fun t => t.trapTo false code sub tval

/-- The state after an instruction has ended its turn. -/
def Res.settleT (h : Nat) : Res → State
  | .stay s => s
  | .wait s => s.updThr h fun t => { t with issued := true }
  | .next s => ((s.endClv h).updThr h fun t => { t with pc := t.pc + 4 }).count (clvUnit h) 1
  | .goto s pc => ((s.endClv h).updThr h fun t => { t with pc := pc }).count (clvUnit h) 1
  | .fault s code sub info => s.thrExcept h code sub info

/-- The Clove memories: whether an address lies in the TCM of a core, and the offset; none outside them (R377). -/
def clvMem (a : Nat) : Option (Option Nat × Nat) :=
  if 0xF000_0800_0000 ≤ a ∧ a < 0xF000_0880_0000 then some (none, a - 0xF000_0800_0000)
  else if 0xF000_0A00_0000 ≤ a ∧ a < 0xF000_0A40_0000 then
    some (some ((a - 0xF000_0A00_0000) / 0x8_0000), a - 0xF000_0A00_0000)
  else none

/-- The FETCH_PERM check of an instruction: its SUB code where it fails (R378, R385). -/
def State.clvFetchSub (s : State) (h : Nat) (pc : W64) : Option Nat :=
  let a := pc.toNat
  if 2 ^ 52 ≤ a then some 5
  else if (clvMem a).isSome then none
  else if (s.thread h).fixed then some 6
  else match spaceOf a with
    | .stacked | .host _ => if (attrOf s.cfg a).exec then none else some 2
    | _ => some 2

/-- Whether the threads of a core run: its domain is on and CLOVE is not held for a relock (R467, R473). -/
def State.clvRuns (s : State) (h : Nat) : Bool := !s.clvOff (h / 8) && !s.clk.relock

/-- Whether the thread executes the boot ROM, whose work is the command BOOT_ROM_STAGES (R524, R525). -/
def State.romRuns (s : State) (h : Nat) : Bool := h == 0 && (s.boot.st == .rom || s.boot.st == .romFail)

/-- A trap for an interrupt is taken: at a boundary, in WFI, which completes first, or in GETTASK, whose wait it ends
unless a task comes first (R387, R399). -/
def State.thrTrap (s : State) (h : Nat) : State :=
  let take (s : State) : State :=
    match s.tcDue h with
    | some k => (s.updThr h fun t => t.trapTo true k 0 0).count (clvUnit h) 4
    | none => s
  if !s.clvRuns h ∨ (s.tcDue h).isNone then s
  else match (s.thread h).run with
    | .running => if (s.thread h).issued then s else take s
    | .waitInt => take ((s.updThr h fun t => { t with run := .running, pc := t.pc + 4 }).count (clvUnit h) 1)
    | .waitTask _ =>
      let s1 := s.schedSync
      if (s1.thread h).run = .running then take s1
      else take ((s1.updSched fun c => { c with waiters := c.waiters.filter (· != h) }).updThr h fun t => { t with run := .running })
    | _ => s

/-! ## Thread registers (R384). -/

/-- The value of a thread register; none for an undefined number. -/
def State.tcRead (s : State) (h num : Nat) : Option W64 :=
  let t := s.thread h
  match num with
  | 0x000 => some (BitVec.ofNat 64 (b2n t.ie + 2 * b2n t.pie + 4 * b2n t.trap))
  | 0x001 => some t.epc
  | 0x002 => some t.cause
  | 0x003 => some t.tval
  | 0x004 => some t.vec
  | 0x005 => some (t.ien.setWidth 64)
  | 0x006 => some ((s.tcIp h).setWidth 64)
  | 0x007 => some t.timecmp
  | 0x008 => some (BitVec.ofNat 64 (b2n t.fixed))
  | 0x009 => some t.scratch
  | 0x010 => some (BitVec.ofNat 64 h)
  | 0x011 => some s.time.blk
  | 0x012 => some (BitVec.ofNat 64 (3 * s.time.hk))
  | 0x013 => some (match t.task with | some x => BitVec.ofNat 64 x | none => BitVec.allOnes 64)
  | _ => none

/-- Write a thread register; none for a number that cannot be written. Reserved bits stay zero. -/
def Thr.tcWrite (t : Thr) (num : Nat) (v : W64) : Option Thr :=
  match num with
  | 0x000 => some { t with ie := v.getLsbD 0, pie := v.getLsbD 1, trap := v.getLsbD 2 }
  | 0x001 => some { t with epc := v &&& ~~~3 }
  | 0x002 => some { t with cause := v &&& BitVec.ofNat 64 (2 ^ 63 + 0xFFFF) }
  | 0x003 => some { t with tval := v }
  | 0x004 => some { t with vec := v &&& ~~~0xFF }
  | 0x005 => some { t with ien := v.setWidth 6 }
  | 0x007 => some { t with timecmp := v }
  | 0x008 => some { t with fixed := v.getLsbD 0 }
  | 0x009 => some { t with scratch := v }
  | _ => none

/-! ## Accesses (R377 to R379, R385, R391, R392). -/

/-- The halves of an access: split at 8 bytes in the Clove memories, at 128 bytes elsewhere (R391). -/
def clvHalves (a : W64) (len : Nat) : List (Nat × Nat) :=
  let g := if (clvMem a.toNat).isSome then 8 else 128
  let n1 := g - a.toNat % g
  if len ≤ n1 then [(a.toNat, len)] else [(a.toNat, n1), ((a + BitVec.ofNat 64 n1).toNat, len - n1)]

/-- The check of one half: its SUB code where it fails (R385). -/
def State.clvSub (s : State) (h a : Nat) (store : Bool) : Option Nat :=
  if 2 ^ 52 ≤ a then some 5
  else if (s.thread h).fixed && (clvMem a).isNone then some 6
  else if store && (clvMem a).isNone && (attrOf s.cfg a).exec then some 3
  else none

/-- The checks of an access in the order of R82. -/
def State.clvFault (s : State) (h : Nat) (a : W64) (len : Nat) (store : Bool) : Option (Nat × Nat × W64) :=
  let hs := clvHalves a len
  let out := (clvMem a.toNat).isNone
  if out ∧ hs.length = 2 ∧ (inWindow a.toNat ∨ hs.any fun p => uncachedAt s.cfg p.1) then some (6, 2, a)
  else if (s.thread h).fixed ∧ 8 < a.toNat % 8 + len then some (6, 3, a)
  else hs.findSome? fun p => (s.clvSub h p.1 store).map fun sub => (if store then 5 else 4, sub, BitVec.ofNat 64 p.1)

/-- Bytes of the Clove memories and their poison. -/
def State.clvBytes (s : State) (tcm : Bool) (off len : Nat) : List Byte × Bool :=
  (Tbl.getMany 0 (if tcm then s.mem.tcm else s.mem.sram) off len,
   len != 0 && (List.range ((off + len - 1) / 8 - off / 8 + 1)).any fun i =>
     Tbl.get false s.mem.clvPoison ((if tcm then 0x10_0000 else 0) + off / 8 + i))

/-- Write bytes of one word of the Clove memories; a word covered whole loses its poison mark. -/
def State.clvPut (s : State) (tcm : Bool) (off : Nat) (bs : List Byte) : State :=
  s.updMem fun m =>
    let m1 := if tcm then { m with tcm := Tbl.setMany 0 m.tcm off bs } else { m with sram := Tbl.setMany 0 m.sram off bs }
    if bs.length = 8 ∧ off % 8 = 0 then { m1 with clvPoison := Tbl.set false m1.clvPoison ((if tcm then 0x10_0000 else 0) + off / 8) false }
    else m1

/-- A Clove cache asks for a line (R321). -/
def State.clvMiss (s : State) (h l : Nat) (write : Bool) : State :=
  let r := clvCacher h
  let c := s.cacheOf r
  if c.busy || c.miss.isSome || s.cacheHeld r then s
  else (s.updCache r fun c => { c with miss := some (l, write), fills := c.fills.filter fun f => f.line != l }).count (clvUnit h) 3

/-- The fill that waits for a line is taken. -/
def State.takeFill (s : State) (r : Cacher) (l : Nat) : State :=
  s.updCache r fun c => { c with fills := c.fills.filter fun f => f.line != l }

/-- A load of one half. -/
def State.clvLoadPart (s : State) (h a len : Nat) : Got :=
  let r := clvCacher h
  let l := a / 128
  match clvMem a with
  | some (some c, off) =>
    if s.clvOff c then .bus s .domainOff else
    let b := s.clvBytes true off len
    .ok s b.1 b.2
  | some (none, off) =>
    let b := s.clvBytes false off len
    .ok s b.1 b.2
  | none =>
    match spaceOf a with
    | .tile m => if s.tileOff m then .bus s .domainOff else
                 let b := s.tileBytes m (a % 0x40_0000) len
                 .ok (s.tileFind m (a % 0x40_0000) len) b.1 b.2
    | .peer b => s.peerOpFor (.thread h) (clvUnit h) 0x10 2 b (peerOff a) len [] 0
    | .window => .bus s .decode
    | .none => .bus s .decode
    | _ =>
      if !s.cacheable a then
        if s.busCode a ≠ .okay then .bus s (s.busCode a)
        else if s.zeroing l then .wait s
        else let b := s.memRead l
             .ok b.2 (lineSlice b.1.1 (a % 128) len) b.1.2
      else match (s.cacheOf r).fills.find? fun f => f.line == l with
        | some f => if f.code = .okay then .ok (s.takeFill r l) (lineSlice f.data (a % 128) len) f.poison else .bus (s.takeFill r l) f.code
        | none =>
          match s.held r l with
          | some x =>
            if !s.serves r then .wait s
            else .ok (if (s.cacheOf r).fresh? (r.set l) r.ways l then s else s.updCache r fun c => c.touch (r.set l) r.ways l) (lineSlice x.data (a % 128) len) x.poison
          | none =>
            if s.busCode a ≠ .okay then .bus s (s.busCode a)
            else if s.serves r then .wait (s.clvMiss h l false) else .wait s

/-! ## Instructions. -/

/-- Run an instruction of thread `h`: a due interrupt pre-empts it (R387); its word is fetched first, once, from the Clove
memories or through the Clove cache (R377, R378, R394; log 31). -/
def State.cinstr (s : State) (h : Nat) (word : W64) (legal : Bool) (body : State → Res) : State :=
  let t := s.thread h
  let run (s : State) : Res := if !legal then .fault s 1 0 word else body s
  if t.run ≠ .running ∨ !s.clvRuns h ∨ s.romRuns h then s
  else if t.issued then Res.settleT h (run s)
  else if (s.tcDue h).isSome then s
  else
    Res.settleT h (match s.clvFetchSub h t.pc with
      | some sub => .fault s 3 sub t.pc
      | none =>
        match s.clvLoadPart h t.pc.toNat 4 with
        | .wait t1 => .stay t1
        | .bus t1 c => .fault t1 7 (busSub c) t.pc
        | .ok t1 _ bad => if bad then .fault (t1.raise 0x3F (clvUnit h) t.pc.toNat 1) 8 0 t.pc else run t1)

/-- Perform the halves of a load; the first that waits is asked for. -/
def State.clvLoads (s : State) (h : Nat) (ps : List (Nat × Nat)) : Loaded :=
  ps.zipIdx.foldl (fun (r : Loaded) p =>
    match r with
    | .ok t bs =>
      match t.clvLoadPart h p.1.1 p.1.2 with
      | .ok t1 b poison => if poison then .fail (t1.raise 0x3F (clvUnit h) p.1.1 1) p.2 8 0 else .ok t1 (bs ++ [b])
      | .bus t1 c => .fail t1 p.2 7 (busSub c)
      | .wait _ => match s.clvLoadPart h p.1.1 p.1.2 with
        | .wait t1 => .wait t1
        | _ => .wait s
    | r => r) (.ok s [])

/-- A load of a thread: its checks, then its bytes. -/
def State.withClvLoad (s : State) (h : Nat) (a : W64) (len : Nat) (k : State → List Byte → Res) : Res :=
  match s.clvFault h a len false with
  | some f => .fault s f.1 f.2.1 f.2.2
  | none =>
    let hs := clvHalves a len
    match s.clvLoads h hs with
    | .wait t => .wait t
    | .ok t bs => k t bs.flatten
    | .fail t i code sub => .fault t code sub (if code = 8 then BitVec.ofNat 64 (hs.getD i (0, 0)).1 else a)

/-- A store to one line of cacheable memory by a thread, or the read and write of an atomic there: where the line must
be owned, whether it is (R324, R342). -/
def State.clvOwn (s : State) (h l : Nat) : Got :=
  let r := clvCacher h
  match (s.cacheOf r).fills.find? fun f => f.line == l && f.code != .okay with
  | some f => .bus (s.takeFill r l) f.code
  | none =>
    if s.owns r l && s.serves r then .ok (s.takeFill r l) [] false
    else if !s.owns r l && s.busCode (128 * l) ≠ .okay then .bus s (s.busCode (128 * l))
    else if !s.serves r then .wait s
    else .wait (s.clvMiss h l true)

/-- A store of one half. -/
def State.clvStorePart (s : State) (h a : Nat) (bs : List Byte) : Got :=
  let r := clvCacher h
  let u := clvUnit h
  let l := a / 128
  let m := byteMask (a % 128) bs.length
  let d : Line128 := BitVec.ofNat 1024 (bytesToNat bs <<< (8 * (a % 128)))
  match clvMem a with
  | some (some c, off) => if s.clvOff c then .bus s .domainOff else .ok (s.clvPut true off bs) [] false
  | some (none, off) => .ok (s.clvPut false off bs) [] false
  | none =>
    match spaceOf a with
    | .tile n => if s.tileOff n then .bus s .domainOff else .ok (s.tileWrite n (a % 0x40_0000) bs false) [] false
    | .peer b => s.peerOpFor (.thread h) u 0x10 1 b (peerOff a) bs.length bs 0
    | .window => .bus s .decode
    | .none => .bus s .decode
    | _ =>
      if s.cacheable a ∧ (attrOf s.cfg a).wpol = 0 then
        match s.clvOwn h l with
        | .ok t _ _ => .ok (t.lineWrite r l m d) [] false
        | g => g
      else if s.busCode a ≠ .okay then .bus s (s.busCode a)
      else if !s.cacheable a then if s.zeroing l then .wait s else .ok (s.memStoreBy u a l m d false) [] false
      else match s.homeWait l true (m != BitVec.allOnes 128) with
        | some w => .wait w
        | none => .ok (s.ownStore r l m d) [] false

/-- A store of a thread: the halves in order, from the first that has not been performed (R391). -/
def State.withClvStore (s : State) (h : Nat) (a : W64) (bs : List Byte) (k : State → Res) : Res :=
  match s.clvFault h a bs.length true with
  | some f => .fault s f.1 f.2.1 f.2.2
  | none =>
    let ps := (clvHalves a bs.length).zipIdx.map fun p =>
      (p.1.1, if p.2 = 0 then bs.take p.1.2 else bs.drop (bs.length - p.1.2))
    let r := (ps.drop (s.thread h).partsDone).foldl (fun (r : State × Option Res) p =>
      match r.2 with
      | some _ => r
      | none =>
        match r.1.clvStorePart h p.1 p.2 with
        | .ok t _ _ => (t.updThr h fun t => { t with partsDone := t.partsDone + 1 }, none)
        | .wait t => (t, some (.wait t))
        | .bus t c => (t, some (.fault t 7 (busSub c) a))) (s, none)
    match r.2 with
    | some x => x
    | none => k r.1

/-- Perform an atomic of a thread at a checked address (R342, R381). -/
def State.clvAtomic (s : State) (h a w : Nat) (fn : BitVec 12) (b cmp : W64) : Swapped :=
  let op := field fn.toNat 4 0
  let l := a / 128
  let m := byteMask (a % 128) w
  let r := clvCacher h
  let pois (t : State) : Swapped := .poison (t.raise 0x3F (clvUnit h) a 1)
  let bytes (x : List Byte × Bool) (s' : State) (put : List Byte → State) : Swapped :=
    if x.2 then pois s' else
    let old : W64 := BitVec.ofNat 64 (bytesToNat x.1)
    .ok (match atomicNew op w old b cmp with
         | some (some v) => put (natToBytes v.toNat w)
         | _ => s) old
  let raw : Swapped :=
    if s.zeroing l then .wait s else
    let x := s.memRead l
    if x.1.2 then pois x.2 else
    let v := atomicLine x.1.1 a w op b cmp
    .ok (match v.2 with | some d => x.2.memStoreBy (clvUnit h) a l m d false | none => x.2) v.1
  match clvMem a with
  | some (some c, off) => if s.clvOff c then .bus s .domainOff else bytes (s.clvBytes true off w) s (s.clvPut true off)
  | some (none, off) => bytes (s.clvBytes false off w) s (s.clvPut false off)
  | none =>
    match spaceOf a with
    | .tile t => if s.tileOff t then .bus s .domainOff
                 else bytes (s.tileBytes t (a % 0x40_0000) w) (s.tileFind t (a % 0x40_0000) w) fun v => s.tileWrite t (a % 0x40_0000) v false
    | .peer t =>
      match s.peerOpFor (.thread h) (clvUnit h) 0x10 3 t (peerOff a) w (natToBytes b.toNat 8 ++ natToBytes cmp.toNat 8) fn.toNat with
      | .wait t => .wait t
      | .bus t c => .bus t c
      | .ok t bs p => if p then pois t else .ok t (BitVec.ofNat 64 (bytesToNat (bs.take w)))
    | .window => .bus s .decode
    | .none => .bus s .decode
    | sp =>
      if s.cacheable a ∧ (attrOf s.cfg a).wpol = 0 then
        match s.clvOwn h l with
        | .wait t => .wait t
        | .bus t c => .bus t c
        | .ok t _ _ =>
          match t.held r l with
          | none => .wait t
          | some x =>
            if x.poison then pois t else
            let v := atomicLine x.data a w op b cmp
            .ok (match v.2 with | some d => t.lineWrite r l m d | none => t) v.1
      else if s.busCode a ≠ .okay then .bus s (s.busCode a)
      else if (match sp with | .host _ => true | _ => false) then
        (if op = 0 ∨ op = 1 ∨ op = 9 then raw else .bus s .decode)
      else if !s.cacheable a then raw
      else match s.homeWait l true with
        | some t => .wait t
        | none =>
          let s1 := State.land (s.takeCopy r l) l
          let s2 := if s1.isPrivate l then s1 else s1.killCopies l none
          let x := s2.l2Serve l none (s2.l2Allocates l)
          if x.1.2 then pois x.2 else
          let v := atomicLine x.1.1 a w op b cmp
          .ok (match v.2 with
            | some d => (x.2.ownMerge r l m d).homeStoreBy (clvUnit h) a l m d false none
            | none => x.2) v.1

/-! ## Scheduler instructions (R398 to R404). -/

/-- A result code in bits [63:56]. -/
def codeWord (c : Nat) : W64 := BitVec.ofNat 64 (c * 2 ^ 56)

/-- A refused op: nothing changes but the code, and Anise records it (R402, R406). `pair` ops write both registers. -/
def State.refuse (s : State) (h rd op code : Nat) (i : AniseInfo) (pair : Bool) : State :=
  let put (v old : W64) : W64 := if pair then (old &&& ~~~(codeWord 0xFF)) ||| v else v
  let both := pair && op == 9
  (s.updThr h fun t =>
    let t1 := t.setR rd (put (codeWord code) (t.r rd))
    if both then t1.setR (rd + 1) (put (codeWord code) (t1.r (rd + 1))) else t1).anise 13 h i (256 * op + code)

/-- Run a scheduler instruction: tick processing and matching first, then its checks in order of their codes. -/
def State.schedOp (s : State) (h rd ra rb op : Nat) (legal : Bool) (body : State → Res) : State :=
  s.cinstr h (gRegWord 0xB rd ra rb (BitVec.ofNat 12 op)) legal fun s => body s.schedSync

/-- The task an operand names; none where a reserved bit is set (R398). -/
def taskArg (v : W64) : Option Nat := if v.toNat < 256 then some v.toNat else none

/-- GETTASK (R396, R398, R399). -/
def State.getTask (s : State) (h rd ra : Nat) : Res :=
  match (s.thread h).task with
  | some x => .next (s.refuse h rd 0 5 (s.aniseTask x) true)
  | none =>
    match s.sched.order.find? (s.eligible h) with
    | some x =>
      -- `give` moves past the instruction itself
      .stay (s.give h rd x)
    | none =>
      if ((s.thread h).r ra).getLsbD 0 then .next (s.refuse h rd 0 8 .none true)
      else .stay (((s.updThr h fun t => { t with run := .waitTask rd }).updSched fun c => { c with waiters := c.waiters ++ [h] }).anise
        12 h .none 0)

/-- TREADY as an instruction. -/
def State.treadyOp (s : State) (h rd ra : Nat) : Res :=
  match taskArg ((s.thread h).r ra) with
  | none => .next (s.refuse h rd 1 2 .none false)
  | some x =>
    let r := s.tready h x
    if r.1 = 0 then .next (r.2.setG h rd 0) else .next (s.refuse h rd 1 r.1 (s.aniseTask x) false)

/-- The thread lets go of its task. -/
def State.release (s : State) (h : Nat) : State := s.updThr h fun t => { t with task := none }

/-- An op on the held task; NO_TASK where the thread holds none. -/
def State.heldOp (s : State) (h rd op : Nat) (f : Nat → Res) : Res :=
  match (s.thread h).task with
  | none => .next (s.refuse h rd op 4 .none false)
  | some x => f x

/-- TEND (R401); the wake-up that it serves is no longer pending (log 77). -/
def State.tend (s : State) (h rd : Nat) : Res :=
  s.heldOp h rd 2 fun x =>
    let fb := (s.task x).flowByte
    let wake := (s.task x).wakePend
    let s1 := s.release h
    let s2 := if wake then (s1.updTask x fun t => { t with wakePend := false }).makeReady x 0
      else s1.updTask x fun t => { t with st := .dormant }
    let s3 := (s2.anise 3 h { s2.aniseTask x with flow := fb } 0).flowComplete x 0 false
    .next (s3.setG h rd 0)

/-- Enter a task in a list of time (R405). -/
def State.enterTime (s : State) (x n : Nat) (timeout : Bool) : State :=
  s.updSched fun c =>
    let e : TimerEnt := ⟨c.tick + n, c.timerSeq, x⟩
    let c1 := { c with timerSeq := c.timerSeq + 1 }
    if timeout then { c1 with timeouts := c1.timeouts ++ [e] } else { c1 with delays := c1.delays ++ [e] }

/-- TBLOCK (R398, R401). -/
def State.tblock (s : State) (h rd ra : Nat) : Res :=
  let n := ((s.thread h).r ra).toNat
  if 2 ^ 24 ≤ n then .next (s.refuse h rd 3 2 .none false)
  else s.heldOp h rd 3 fun x =>
    let s1 := s.release h
    if (s.task x).wakePend then
      let s2 := (s1.updTask x fun t => { t with wakePend := false }).makeReady x 0
      .next ((s2.anise 4 h (s2.aniseTask x) 0).setG h rd 0)
    else
      let s2 := s1.updTask x fun t => { t with st := .blocked }
      let s3 := if n = 0 then s2 else s2.enterTime x n true
      .next ((s3.anise 4 h (s3.aniseTask x) (if n = 0 then 0 else (s.sched.tick + n) % 2 ^ 32)).setG h rd 0)

/-- TDELAY (R398, R401). -/
def State.tdelay (s : State) (h rd ra : Nat) : Res :=
  let n := ((s.thread h).r ra).toNat
  if n = 0 ∨ 2 ^ 24 ≤ n then .next (s.refuse h rd 4 2 .none false)
  else s.heldOp h rd 4 fun x =>
    let s1 := ((s.release h).updTask x fun t => { t with st := .delayed }).enterTime x n false
    .next ((s1.anise 5 h (s1.aniseTask x) ((s.sched.tick + n) % 2 ^ 32)).setG h rd 0)

/-- TYIELD (R398, R401). -/
def State.tyield (s : State) (h rd : Nat) : Res :=
  s.heldOp h rd 5 fun x =>
    let s1 := ((s.release h).updTask x fun t => { t with wakePend := false }).makeReady x 3
    .next ((s1.anise 8 h (s1.aniseTask x) 0).setG h rd 0)

/-- A task takes a priority; a READY task moves to the tail of its new list (R398). -/
def State.setPrio (s : State) (h x p : Nat) : State :=
  let old := (s.task x).prio
  let s1 := s.updTask x fun t => { t with prio := p }
  let s2 := if (s.task x).st = .ready then s1.updSched fun c =>
      let c := c.unlist x
      { c with ready := Tbl.upd [] c.ready p fun l => l ++ [x] }
    else s1
  s2.anise 9 h (s2.aniseTask x) old

/-- TPRIO. -/
def State.tprio (s : State) (h rd ra rb : Nat) : Res :=
  let p := ((s.thread h).r rb).toNat
  match taskArg ((s.thread h).r ra) with
  | some x => if p < 32 then .next ((s.setPrio h x p).setG h rd 0) else .next (s.refuse h rd 6 2 .none false)
  | none => .next (s.refuse h rd 6 2 .none false)

/-- FLOWPUT (R398, R403). -/
def State.flowPut (s : State) (h rd ra rb : Nat) : Res :=
  let f := field ((s.thread h).r rb).toNat 3 0
  match taskArg ((s.thread h).r ra) with
  | none => .next (s.refuse h rd 7 2 .none false)
  | some x =>
    let y := s.flow f
    if (s.task x).st ≠ .dormant then .next (s.refuse h rd 7 3 (s.aniseTask x) false)
    else if 64 ≤ y.ents.length then .next (s.refuse h rd 7 6 (s.aniseTask x) false)
    else if !y.en then .next (s.refuse h rd 7 9 (s.aniseTask x) false)
    else
      let seq := (y.head + BitVec.ofNat 16 y.ents.length).toNat
      let s1 := ((s.updFlow f fun y => { y with ents := y.ents ++ [none] }).updTask x fun t => { t with flow := some (f, seq) }).makeReady x 0
      .next ((s1.anise 10 h (s1.aniseTask x) seq).setG h rd (BitVec.ofNat 64 seq))

/-- FLOWDONE (R398, R403). -/
def State.flowDone (s : State) (h rd ra : Nat) : Res :=
  let v := (s.thread h).r ra
  s.heldOp h rd 8 fun x =>
    match (s.task x).flow with
    | none => .next (s.refuse h rd 8 10 (s.aniseTask x) false)
    | some _ =>
      let fb := (s.task x).flowByte
      let s1 := (s.release h).updTask x fun t => { t with st := .dormant, wakePend := false }
      let s2 := (s1.anise 3 h { s1.aniseTask x with flow := fb } (v.toNat % 2 ^ 32)).flowComplete x v false
      .next (s2.setG h rd 0)

/-- FLOWTAKE (R404). -/
def State.flowTake (s : State) (h rd ra : Nat) : Res :=
  let f := field ((s.thread h).r ra).toNat 3 0
  let y := s.flow f
  match y.ents with
  | [] => .next (s.refuse h rd 9 8 .none true)
  | none :: _ => .next (s.refuse h rd 9 7 .none true)
  | some (v, ab) :: rest =>
    if !y.en then .next (s.refuse h rd 9 9 .none true)
    else
      let s1 := s.updFlow f fun y => { y with head := y.head + 1, ents := rest }
      .next (((s1.anise 11 h { AniseInfo.none with flow := 0x80 + f } y.head.toNat).setG h rd v).setG h (rd + 1)
        (BitVec.ofNat 64 (y.head.toNat + 2 ^ 16 * b2n ab)))

/-! ## Registers with effects (R408, R409). -/

/-- A write of CLV_TASK_CFG by requester `h`, 64 for an agent that is no Clove thread: PRIO acts as TPRIO, and an AFFINITY of
0 is ignored (R406, R408, R410). -/
def State.taskCfg (s : State) (h x : Nat) (val : W64) : State :=
  let s1 := s.schedSync.setPrio h x (field val.toNat 12 8)
  if field val.toNat 7 0 = 0 then s1 else s1.updTask x fun t => { t with aff := val.setWidth 8 }

/-- A write of CLV_FLOW_CFG (R408). -/
def Flow.setCfg (y : Flow) (val : W64) : Flow :=
  let y1 := { y with irqEn := val.getLsbD 18, wakeEn := val.getLsbD 17 }
  if y.ents.isEmpty then { y1 with en := val.getLsbD 16, wakeThread := field val.toNat 13 8, wakeTask := field val.toNat 7 0 } else y1

/-- A write of CLV_ANISE_CTRL (R408). -/
def SchedSt.setAnise (c : SchedSt) (val : W64) : SchedSt :=
  { c with evmask := BitVec.ofNat 16 (field val.toNat 39 24), aniseBase := field val.toNat 23 16, aniseStop := val.getLsbD 1,
           aniseEn := val.getLsbD 0, aniseWrite := if !c.aniseEn && val.getLsbD 0 then 0 else c.aniseWrite }

/-- CLV_THREAD_CTRL.RESET (R401, R409). -/
def State.threadReset (s : State) (h : Nat) : State :=
  let s1 := ((s.endClv h).updSched fun c => { c with waiters := c.waiters.filter (· != h) }).abandon h
  let s2 := s1.updGrp fun g => { g with reqs := g.reqs.filter fun r => r.who != .thread h }
  s2.updThr h fun t => { Thr.off with start := t.start, stopCause := t.stopCause }

/-- CLV_THREAD_CTRL.RUN (R409). -/
def State.threadRun (s : State) (h : Nat) : State :=
  if (s.thread h).run = .halted ∧ !s.clvOff (h / 8) then s.updThr h fun t => { t with run := .running, pc := t.start } else s

/-- CLV_CORE_CTRL.RESET (R409). -/
def State.clvCoreReset (s : State) (c : Nat) : State :=
  if s.clvOff c then s
  else ((List.range 8).foldl (fun t i => t.threadReset (8 * c + i)) s).cacheReset (.clv (Fin.ofNat 8 c))

/-- Caraway readies its task while the budget of the window lasts and records wait (R489). -/
def State.carReady (s : State) : State :=
  if s.car.recs ≠ [] ∧ s.budgetLeft then (s.schedSync.tready 0xFF s.car.task).2 else s

end Sys2Proof.Machine
end

