-- ==== Sys2Proof/Machine/SecOps.lean ====
section
/-! DEFINITION. The security unit: measurement slots, fuses and floors, debug unlock and signing (R535 to R548). -/

namespace Sys2Proof.Machine

/-! ## Injections that act within another command (R504, R519). -/

/-- Whether an armed injection of a detector hits an event of a unit on a line. -/
def State.injHit (s : State) (det unit line : Nat) : Bool :=
  let e := s.err
  e.injArmed && e.injDet.toNat == det && e.injUnit.toNat == unit
    && (!e.injAddr.getLsbD 0 || field e.injAddr.toNat 51 7 == line)

/-- An injection is performed: FIRED counts it, ONCE disarms, and the detections it causes carry INJECTED. -/
def State.injUse (s : State) : State :=
  s.updErr fun e =>
    { e with injFired := min (e.injFired + 1) 0xFFFFFFFF, injected := true,
             injArmed := e.injMode == 2, injMode := if e.injMode = 2 then 2 else 0 }

/-- The unlock under which an injection was armed ends: it disarms as the HK cycle ends (R519, R521). -/
def State.injExpire (s : State) : State := if s.err.injArmed then s.updErr fun e => { e with injEnd := true } else s

/-- BLK_STATE.STATE takes a value; each change sends an in-band interrupt with byte 0x02 (R548, R562). -/
def State.setBlk (s : State) (st : BlkState) : State :=
  if s.boot.st = st then s
  else { s with boot := { s.boot with st := st }, pins := { s.pins with ibiState := s.pins.ibiState + 1 } }

/-! ## Floors and keys (R536, R537). -/

/-- CRC-8 with polynomial 0x07 over the value's bytes (R537; the byte order and initial value are the model's, log 16). -/
def crc8 (v : W64) : Byte :=
  (natToBytes v.toNat 8).foldl (fun (c : Byte) b =>
    (List.range 8).foldl (fun (x : Byte) _ => if x.msb then (x <<< 1) ^^^ 0x07 else x <<< 1) (c ^^^ b)) 0

/-- The largest value among the records whose CRC is right. -/
def floorOf (rs : List FloorRec) : Nat := (rs.filter fun r => r.crc == crc8 r.value).foldl (fun a r => max a r.value.toNat) 0

/-- SEC_FW_FLOOR and SEC_SHAPE_FLOOR. -/
def State.fwFloor (s : State) : Nat := floorOf s.fuse.fwRecs
def State.shapeFloor (s : State) : Nat := floorOf s.fuse.shapeRecs

abbrev State.keySlot (s : State) (k : Nat) : KeySlot := Tbl.get KeySlot.off s.fuse.keys k

/-- Whether a digest equals an unrevoked key slot of a class. -/
def State.keyFused (s : State) (d : BitVec 384) (cls : Nat) : Bool :=
  (List.range 16).any fun k => (s.keySlot k).cls == cls && !(s.keySlot k).revoked && (s.keySlot k).digest == d

/-- The shape-signing key that a KEY_ID names (R41): in the key table, with an unrevoked SHAPE slot. -/
def State.shapeKey (s : State) (id : Nat) : Option (List Byte) :=
  s.boot.keytab.find? fun k => (digest k).toNat % 2 ^ 128 == id && s.keyFused (digest k) 2

/-- RECORDS_LEFT. -/
def State.recordsLeft (s : State) : Nat := 16 - (if s.sec.shapeLast then s.fuse.shapeRecs else s.fuse.fwRecs).length

/-! ## Fuse commands (R538). -/

/-- The code that refuses a floor advance, 0 when it is accepted. -/
def State.floorCode (s : State) (shape : Bool) (v : Nat) : Nat :=
  if s.sec.fuseOp ≠ .none then 1
  else if v ≤ (if shape then s.shapeFloor else s.fwFloor) then 2
  else if (if shape then s.shape.bootSeq.toNat else s.boot.fwSvn.toNat) < v then 3
  else if 16 ≤ (if shape then s.fuse.shapeRecs else s.fuse.fwRecs).length then 4
  else if !s.flashMay then 7
  else 0

/-- The code that refuses a revocation, 0 when it is accepted. -/
def State.revokeCode (s : State) (v : Nat) : Nat :=
  let x := s.keySlot v
  let left := (List.range 16).any fun k => k != v && (s.keySlot k).cls == 1 && !(s.keySlot k).revoked
  if s.sec.fuseOp ≠ .none then 1
  else if 16 ≤ v ∨ x.cls = 0 ∨ x.revoked then 5
  else if x.cls = 1 ∧ !left then 6
  else if !s.flashMay then 7
  else 0

/-- A write of SEC_FUSE_CMD. -/
def State.fuseCmd (s : State) (op : Nat) : State :=
  let v := s.sec.fuseArg
  let code := if op = 3 then s.revokeCode v.toNat else s.floorCode (op == 2) v.toNat
  if op = 0 then s
  else
    let s1 : State := { s with sec := { s.sec with fuseResult := code, shapeLast := if op = 3 then s.sec.shapeLast else op == 2 } }
    if code ≠ 0 then s1
    else { s1 with sec := { s1.sec with
             fuseOp := if op = 1 then .fwFloor v else if op = 2 then .shapeFloor v else .revoke (v.toNat % 16) } }

/-- Add a record to a floor; one that was not programmed whole fails its CRC. -/
def FuseSt.addFloor (f : FuseSt) (shape : Bool) (v : W64) (ok : Bool) : FuseSt :=
  let r : FloorRec := ⟨v, if ok then crc8 v else crc8 v + 1⟩
  if shape then { f with shapeRecs := f.shapeRecs ++ [r] } else { f with fwRecs := f.fwRecs ++ [r] }

/-- The running fuse command completes; `ok` is whether it reads back correctly. -/
def State.fuseDone (s : State) (ok : Bool) : State :=
  let fin (s : State) : State := { s with sec := { s.sec with fuseOp := .none, fuseResult := if ok then 0 else 8 } }
  match s.sec.fuseOp with
  | .none => s
  | .fwFloor v => fin { s with fuse := s.fuse.addFloor false v ok }
  | .shapeFloor v => fin { s with fuse := s.fuse.addFloor true v ok }
  | .revoke k =>
    fin (if ok then { s with fuse := { s.fuse with keys := Tbl.upd KeySlot.off s.fuse.keys k fun x => { x with revoked := true } } } else s)

/-- A fuse command that a cold reset cuts short leaves a record that fails its CRC (R549). -/
def State.fuseCut (s : State) : FuseSt :=
  match s.sec.fuseOp with
  | .fwFloor v => s.fuse.addFloor false v false
  | .shapeFloor v => s.fuse.addFloor true v false
  | _ => s.fuse

/-! ## Measurements (R535). -/

abbrev State.slot (s : State) (i : Nat) : BitVec 384 := Tbl.get 0 s.sec.meas i

/-- Extend a measurement slot (R61). -/
def State.extend (s : State) (i : Nat) (d : BitVec 384) : State :=
  { s with sec := { s.sec with meas := Tbl.set 0 s.sec.meas i (extendSlot (s.slot i) d) } }

/-! ## Debug unlock (R545 to R547). -/

/-- SEC_DBG_NONCE takes a fresh value. -/
def State.freshNonce (s : State) : State :=
  let r := s.drawBytes 32
  { r.2 with sec := { r.2.sec with nonce := BitVec.ofNat 256 (bytesToNat r.1) } }

/-- The unlock ends. -/
def State.unlockEnd (s : State) : State :=
  if s.sec.level = 0 then s else { s with sec := { s.sec with level := 0 } }.injExpire

/-- The first failing reason of a token, 0 where it passes (R546). -/
def State.tokenCode (s : State) (b : List Byte) : Nat :=
  let tr := b.drop 2656
  let key := (b.drop 64).take 2592
  let kd := digest key
  let flip := s.injHit 0x3A 0x494 0
  if le b 0 4 ≠ 0xDB6E70C1 ∨ !zeros b 5 3 ∨ !zeros b 60 4 ∨ le tr 0 4 ≠ 0x7E516A3D ∨ le tr 4 2 ≠ 1 ∨ le tr 6 2 ≠ 0x1213
      ∨ !zeros tr 8 8 ∨ !zeros tr 0x1223 13 then 1
  else if s.cfg.debugLevel < le b 4 1 ∨ le b 4 1 < 2 then 2
  else if le b 56 4 = 0 ∨ 86400 < le b 56 4 then 3
  else if le b 8 16 ≠ s.sec.devId.toNat then 4
  else if le b 24 32 ≠ s.sec.nonce.toNat then 5
  else if kd.toNat % 2 ^ 128 ≠ s.cfg.unlockKeyId.toNat ∨ !s.keyFused kd 3 then 6
  else if flip ∨ !Config.mldsaVerify key (digestBytes (digest (b.take 2656))) ((tr.drop 16).take 4627) then 7
  else 0

/-- The check of the token that has been written. An injected bit error falls on the signature. -/
def State.debugCheck (s : State) : State :=
  let b := Tbl.getMany 0 s.sec.token 0 7312
  let code := s.tokenCode b
  let s0 := if s.injHit 0x3A 0x494 0 then s.injUse else s
  let s1 : State :=
    if code ≠ 0 then { s0 with sec := { s0.sec with dbgResult := code } }.raise 0x3A 0x494 0 code
    else
      let lv := le b 4 1
      let s2 : State := { s0 with sec := { s0.sec with
        dbgResult := 0, level := lv, expiry := s.time.blk + BitVec.ofNat 64 (le b 56 4 * 200000000) } }
      if lv = 3 then { s2 with sec := { s2.sec with aliasKey := Option.none, keyErased := true } } else s2
  s1.freshNonce

/-- The unlock expires (R547). -/
def State.unlockExpiry (s : State) : State := if s.sec.level ≠ 0 ∧ s.sec.expiry.toNat ≤ s.now then s.unlockEnd else s

/-- SEC_DBG_CMD: CHECK starts a check, or is refused with BUSY while one runs; LOCK ends an unlock, and what a running check
grants (R546, R547, R549). -/
def State.debugCmd (s : State) (op : Nat) : State :=
  if op = 1 then { s with sec := if s.sec.dbgBusy then { s.sec with dbgResult := 8 } else { s.sec with dbgBusy := true } }
  else if op = 2 then
    let s1 := s.unlockEnd
    { s1 with sec := { s1.sec with dbgLock := s1.sec.dbgBusy } }
  else s

/-- A check that runs ends with the HK cycle (R546; log 78). -/
def State.debugTick (s : State) : State :=
  if !s.sec.dbgBusy then s
  else
    let s1 := { s with sec := { s.sec with dbgBusy := false, dbgLock := false } }.debugCheck
    if s.sec.dbgLock then s1.unlockEnd else s1

/-! ## Signing (R541). -/

/-- SEC_SIGN_CMD. -/
def State.signCmd (s : State) : State :=
  if s.sec.signBusy then { s with sec := { s.sec with signResult := 1 } }
  else if s.sec.aliasKey.isNone then { s with sec := { s.sec with signResult := 2 } }
  else { s with sec := { s.sec with signBusy := true, signNew := true, signResult := 0,
                                    signBuf := (List.range 6).flatMap fun w => natToBytes (Tbl.get 0 s.sec.signDigest w).toNat 8 } }

/-- The HK cycle of a SIGN ends. -/
def State.signTick (s : State) : State := { s with sec := { s.sec with signNew := false } }

/-- The signature is ready; a key erased meanwhile gives none. It is not ready within the HK cycle of its SIGN, at whose end a
LEVEL 3 grant erases the key store first (R549). -/
def State.signDone (s : State) : State :=
  if !s.sec.signBusy || s.sec.signNew then s
  else match s.sec.aliasKey with
    | Option.none => { s with sec := { s.sec with signBusy := false, signResult := 2, signBuf := [] } }
    | some k =>
      let sig := padTo 96 (Config.signature k s.sec.signBuf)
      { s with sec := { s.sec with signBusy := false, signResult := 0, signBuf := [],
                                   signSig := (List.range 12).foldl (fun t w => Tbl.set 0 t w (BitVec.ofNat 64 (le sig (8 * w) 8))) [] } }

end Sys2Proof.Machine
end

