-- ==== Sys2Proof/Machine/ShapeOps.lean ====
section
/-! DEFINITION. The shape-image loader, drained partitions and the mode commit (R61 to R74). -/

namespace Sys2Proof.Machine

/-! ## Drained partitions (R64). -/

/-- Whether core `n` keeps its partition from being drained: a job, a ring entry, a channel or a tag. -/
def State.coreBusy (s : State) (n : Nat) : Bool :=
  let w := s.core n
  w.jobActive || w.jobHead != w.jobTail || !w.lost.isEmpty
    || w.chans.any fun e => e.2.st != .idle || !e.2.reqs.isEmpty

/-- Whether partition `p` is drained. -/
def State.drained (s : State) (p : Nat) : Bool :=
  !((List.range 256).any fun n => bitOf (s.cfg.partOf p).coreMask.toNat n && s.coreBusy n)
    && !s.queriesHeld p
    && !(s.mcast.any fun e => e.2.active.isSome && (s.cfg.groupOf e.1).part == p)

/-- SHP_PART_DRAINED. -/
def State.drainedMask (s : State) : Nat := (List.range 16).foldl (fun a p => if s.drained p then a + 2 ^ p else a) 0

/-! ## What a new configuration changes beside the settings (R225, R253, R59, R73). -/

/-- The Saffron units start from a record: the static split, and warm-up again (R253). -/
def State.warmStart (s : State) (q : Nat) : State :=
  s.updSaf q fun f => { f with share := (s.cfg.safOf q).split, warm := true, warmCount := 0, counts := [0, 0, 0, 0, 0, 0] }

/-- The operating points that are usable (R483). -/
def State.markUsable (s : State) : State :=
  s.updNut fun n =>
    { n with usable := (List.range 4).foldl (fun (a : BitVec 4) i =>
        if i < s.cfg.op.count ∧ s.opUsable i then a ||| BitVec.ofNat 4 (2 ^ i) else a) 0 }

/-- FPDEFAULT of every core whose partition or default differs follows its partition (R45, R110). -/
def State.takeFp (s : State) (o : ShapeCfg) : State :=
  (List.range 256).foldl (fun t n =>
    let fp (c : ShapeCfg) := (coreSetting c n).map fun x => (x.1, x.2.1)
    if fp o == fp s.cfg || t.tileOff n then t
    else t.updCore n fun w =>
      { w with fpdefault := match s.partOf n with | some p => BitVec.ofNat 4 (s.cfg.partOf p).fpdefault | none => 0 }) s

/-- A resulting configuration comes into force. -/
def State.putCfg (s : State) (n : ShapeCfg) : State :=
  let o := s.cfg
  let s1 : State := { s with shape := { s.shape with cfg := n } }
  let s2 := (List.range 4).foldl (fun t q => if o.safOf q == n.safOf q then t else t.warmStart q) s1
  let s3 := (List.range 16).foldl (fun (t : State) p =>
    if o.partOf p == n.partOf p then t else { t with trees := Tbl.cut (1024 * p) (1024 * p + 1024) t.trees }) s2
  let s4 := s3.updErr fun e =>
    { e with pmc := e.pmc.filter (fun x => o.counterOf (x.1 / 8) (x.1 % 8) == n.counterOf (x.1 / 8) (x.1 % 8)),
             thr := e.thr.filter (fun x => o.policyOf (x.1 % 256) == n.policyOf (x.1 % 256)),
             policyOld := if o.policies = n.policies then e.policyOld else some (e.policyOld.getD o.policies) }
  let s5 := if o.op == n.op then s4 else (s4.updNut fun x => { x with capW := n.op.capW }).markUsable
  s5.takeFp o

/-! ## The loader (R61, R67, R68, R534). -/

/-- SHP_CMD.LOAD. -/
def State.shapeLoad (s : State) : State :=
  if s.commit.active ∨ s.shape.st ≠ .idle then { s with shape := { s.shape with result := 0x0C } }
  else { s with shape := { s.shape with st := .verifying } }

/-- A full image that passed every check is applied outside a commit (R61): slot 3, the sections, SHP_BOOT_SEQ and the
epoch. The move to BOOT_OP begins with the hold of the clocks (R465). -/
def State.applyFull (s : State) (b : List Byte) (d : BitVec 384) (n : ShapeCfg) : State :=
  let s1 := (s.extend 3 d).putCfg n
  let s2 := (List.range 4).foldl (fun (t : State) q => t.warmStart q) (s1.updNut fun x => { x with capW := n.op.capW })
  let s3 := s2.markUsable
  { s3 with shape := { s3.shape with bootSeq := BitVec.ofNat 64 (le b 0x18 8) },
            commit := { s3.commit with epoch := 1, epochTime := s.time.blk },
            clk := { s3.clk with stgIndex := n.op.bootOp, relock := true } }

/-- What the loader knows when it checks an image: `full` for an image that must be whole. -/
def State.loadCtx (s : State) (given : Nat) (fault full : Bool) : LoadCtx :=
  { given := given, srcFault := fault, key := s.shapeKey, digestFlip := s.injHit 0x39 0x494 0, floor := s.shapeFloor,
    bootSeq := s.shape.bootSeq.toNat, full := full, reshape := !full, inForce := s.cfg, curIndex := s.clk.cur,
    drained := s.drained }

/-- SECTIONS: the types 0x01 to 0x10 present in an image (R67). -/
def sectionMask (b : List Byte) (given : Nat) : BitVec 16 :=
  ((imageSections b given).getD []).foldl
    (fun (a : BitVec 16) x => if x.type = 0 then a else a ||| BitVec.ofNat 16 (2 ^ (x.type - 1))) 0

/-- Whether the block recovers from a boot whose shape images failed (R534). -/
def State.recovering (s : State) : Bool := s.boot.st == .recovery && s.boot.failStage == 3

/-- The image is checked, and a re-shape that passes is staged (R42, R63, R65, R68); in recovery a full image is
applied (R534). A failure raises detector 0x39 (R504). The source is SHP_SRC_ADDR and SHP_SRC_LEN as they stand when
the load ends (log 63). -/
def State.shapeLoadDone (s0 : State) : State :=
  if s0.shape.st ≠ .verifying then s0
  else
    let len := s0.shape.srcLen
    let a := s0.shape.srcAddr
    let lenOk := decide (4944 ≤ len) && decide (len ≤ 4194304) && len % 16 == 0
    let inMem := decide (a + len ≤ stackedBytes)
    match if lenOk && inMem then s0.rangeWait a len false else none with
    | some w => w
    | none =>
      let rd := if lenOk && inMem then s0.rangeRead a len else (s0, .okay, [], false)
      let s := rd.1
      let img := rd.2.2.1
      let full := s.recovering
      let x := s.loadCtx len (!inMem || rd.2.2.2) full
      let code := imageCheck x img
      let s1 := if s.injHit 0x39 0x494 0 then s.injUse else s
      let s2 : State := { s1 with shape := { s1.shape with st := .idle, result := code, sections := sectionMask img len } }
      if code ≠ 0 then s2.raise 0x39 0x494 0 code
      else
        let n := imageResult s.cfg ((imageSections img len).getD [])
        let d := imageDigest x img
        if full then
          (s2.applyFull img d n).setBlk .memory
        else
          let us := (stagedUnits s.cfg n).filter fun u =>
            !((u < 0x200 && s.tileOff (u % 0x100)) || (decide (0x400 ≤ u ∧ u < 0x440) && s.tileOff (tuTile (u - 0x400)))
              || (decide (0x450 ≤ u ∧ u < 0x458) && s.clvOff (u - 0x450)))
          let held := (affectedParts s.cfg n).foldl (fun (m : BitVec 16) p => m ||| BitVec.ofNat 16 (2 ^ p)) 0
          { s2 with shape := { s2.shape with st := .staged, staged := some ⟨n, d, BitVec.ofNat 64 (le img 0x18 8), us, held⟩ } }

/-! ## The commit (R69 to R72). -/

/-- A write of WRK_FPDEFAULT_STG (R74, R110). -/
def State.fpStage (s : State) (n : Nat) (val : W64) : State :=
  if s.commit.active then { s with commit := { s.commit with stageReject := true } }
  else s.updCore n fun w => { w with fpStg := val.setWidth 4, fpPend := true }

/-- Clear every staged setting that the loader does not hold. -/
def State.clearStaged (s : State) : State :=
  let s1 : State := { s with clk := { s.clk with stgPend := false, standby := .stopped } }
  s1.wrk.foldl (fun t e => if e.2.fpPend then t.updCore e.1 fun w => { w with fpPend := false } else t) s1

/-- The participants at GO: the units that hold a staged setting (R69). -/
def State.participants (s : State) : List Nat :=
  let img := match s.shape.staged with | some i => i.units | none => []
  let op := if s.clk.stgPend then [0x490, 0x491] else []
  let fp := (s.wrk.filter fun e => e.2.fpPend && !s.tileOff e.1).map (·.1)
  (img ++ op ++ fp).eraseDups

/-- MODE_COMMIT.GO (R71 steps 1 and 2). -/
def State.commitGo (s : State) : State :=
  if s.commit.active then { s with commit := { s.commit with busyReject := true } }
  else
    let ps := s.participants
    if ps.isEmpty then
      let s1 : State := { s with commit := { s.commit with parts := [], acked := [], withheld := [], result := 3 } }
      if s.shape.staged.isSome then { s1 with shape := { s1.shape with staged := none, st := .idle, result := 0 } } else s1
    else
      { s with commit := { s.commit with active := true, parts := ps, acked := [], withheld := [], deadline := s.now + 20000,
                                         image := s.shape.staged, withOp := s.clk.stgPend },
               shape := { s.shape with staged := none, st := if s.shape.staged.isSome then .committing else s.shape.st } }

/-- MODE_COMMIT.DISCARD (R70, R74). -/
def State.commitDiscard (s : State) : State :=
  if s.commit.active then { s with commit := { s.commit with busyReject := true } }
  else { s.clearStaged with shape := { s.shape with staged := none, st := .idle } }

/-- No miss or fill outstanding. -/
def Cache.still (c : Cache) : Bool := c.miss.isNone && c.pf.isNone && c.grants.isEmpty

/-- Whether containment has taken unit `u` out of service: its core, traversal unit or Clove core (R501). -/
def State.contained (s : State) (u : Nat) : Bool :=
  if u < 0x200 then (s.core (u % 0x100)).run == .stopped && (s.core (u % 0x100)).stopCause == 0xE0
  else if 0x400 ≤ u ∧ u < 0x440 then s.tuLost.getLsbD (u - 0x400)
  else if 0x450 ≤ u ∧ u < 0x458 then
    (List.range 8).all fun i => (s.thread (8 * (u - 0x450) + i)).run == .stopped && (s.thread (8 * (u - 0x450) + i)).stopCause == 0xE0
  else false

/-- Whether unit `u` runs on the CORE clock (R22). -/
def coreClocked (u : Nat) : Bool := decide (u < 0x200) || decide (0x400 ≤ u ∧ u < 0x444)

/-- The configuration that the running commit brings: that of its image, or the one in force. -/
def State.nextCfg (s : State) : ShapeCfg := match s.commit.image with | some i => i.cfg | none => s.cfg

/-- The partitions that the running commit's image affects (R63). -/
def State.imageHeld (s : State) : BitVec 16 := match s.commit.image with | some i => i.held | none => 0

/-- The quiescent boundary of what the running commit changes in unit `u`, by the rows of R72: a setting that does not
change asks for nothing, and one for which R72 has no other row asks for the next HK cycle (log 57). -/
def State.quiescent (s : State) (u : Nat) : Bool :=
  let o := s.cfg
  let n := s.nextCfg
  if u < 0x100 then
    ((coreSetting o u == coreSetting n u && o.regions == n.regions && !(s.core u).fpPend) || s.coreQuiet u)
      && (bitOf o.l1Mode.toNat u == bitOf n.l1Mode.toNat u || (s.cacheOf (.l1 (Fin.ofNat 256 u))).still)
  else if u < 0x200 then
    let k := u - 0x100
    (coreSetting o k == coreSetting n k && o.privOf k == n.privOf k)
      || (s.chansIdle k && !((s.core k).chans.any fun e => !e.2.reqs.isEmpty) && (s.core k).lost.isEmpty)
  else if u < 0x300 then
    bitOf o.l2Mode.toNat (u - 0x200) == bitOf n.l2Mode.toNat (u - 0x200) || (s.slice (u - 0x200)).l2.still
  else if u < 0x400 then true
  else if u < 0x440 then
    let m := u - 0x400
    (o.tuOwner m == n.tuOwner m || (s.trav m).held.isEmpty)
      && (bitOf o.nodeMode.toNat m == bitOf n.nodeMode.toNat m || (s.cacheOf (.node (Fin.ofNat 64 m))).still)
  else if u < 0x444 then
    o.safOf (u - 0x440) == n.safOf (u - 0x440)
      || !((List.range 16).any fun p => s.imageHeld.getLsbD p && s.queriesOut p)
  else if 0x450 ≤ u ∧ u < 0x458 then
    bitOf o.clvMode.toNat (u - 0x450) == bitOf n.clvMode.toNat (u - 0x450)
      || (s.cacheOf (.clv (Fin.ofNat 8 (u - 0x450)))).still
  else if 0x458 ≤ u ∧ u < 0x460 then
    let c := Tbl.get Channel.off s.dma (u - 0x458)
    o.dmaOwnerOf (u - 0x458) == n.dmaOwnerOf (u - 0x458) || (c.st == .idle && c.reqs.isEmpty)
  else if u = 0x490 then !s.commit.withOp || s.clockBoundary
  else if u = 0x491 then !s.commit.withOp || s.nutBoundary
  else if u = 0x493 then (List.range 64).all fun c => o.mbxOf c == n.mbxOf c || (!(s.mbxAt c).full && (s.mbxAt c).ops.isEmpty)
  else if u = 0x495 then (List.range 128).all fun g => o.groupOf g == n.groupOf g || (s.group g).active.isNone
  else true

/-- Whether a participant reaches its quiescent boundary: it is in service, its clock runs, and what changes in it is
quiescent (R72, R74). -/
def State.boundary (s : State) (u : Nat) : Bool :=
  !s.contained u && (!coreClocked u || s.coreClock) && s.quiescent u

/-- A participant reaches its boundary, applies and acknowledges (R71 step 3). With an operating-point change the last
acknowledgement starts the relock (R467 step 3). -/
def State.partApply (s : State) (u : Nat) : State :=
  let c := s.commit
  if !c.active ∨ !c.parts.contains u ∨ c.acked.contains u ∨ c.withheld.contains u ∨ c.deadline ≤ s.now ∨ !s.boundary u then s
  else if s.injHit 0x3B u 0 then
    let s1 := s.injUse
    { s1 with commit := { s1.commit with withheld := u :: s1.commit.withheld } }
  else
    let acked := c.acked ++ [u]
    let s1 : State := { s with commit := { c with acked := acked } }
    if c.withOp && c.parts.all acked.contains then { s1 with clk := { s1.clk with relock := true } } else s1

/-- Every participant has acknowledged. -/
def CommitSt.ready (c : CommitSt) : Bool := c.active && c.parts.all c.acked.contains

/-- The commit completes: the epoch advances and every participant takes its new setting (R66, R71 step 5). The value
that firmware staged for a core comes after the default of its partition (log 6). -/
def State.commitEnd (s : State) : State :=
  let img := s.commit.image
  let s1 := match img with
    | some i => (s.extend 4 i.digest).putCfg i.cfg
    | none => s
  let s2 := s1.wrk.foldl (fun t e =>
    if e.2.fpPend then t.updCore e.1 fun w => { w with fpdefault := w.fpStg, fpPend := false } else t) s1
  let s3 := s2.updNut fun n => { n with planLate := false }
  let sh := match img with
    | some i => { s3.shape with st := .idle, result := 0, reshapeSeq := i.seq }
    | none => s3.shape
  { s3 with shape := sh, clk := { s3.clk with stgPend := false },
            commit := { s3.commit with epoch := s3.commit.epoch + 1, epochTime := s.time.blk, active := false, result := 1,
                                       image := none, withOp := false } }

/-- MODE_COMMIT_COMPLETE: a commit without an operating-point change; with one, the end of the relock completes it. -/
def State.commitComplete (s : State) : State :=
  if s.commit.ready && !s.commit.withOp then s.commitEnd else s

/-- The lowest identifier among the participants that did not acknowledge (R71 step 7). -/
def CommitSt.failed (c : CommitSt) : Nat :=
  (c.parts.filter fun u => !c.acked.contains u).foldl min 0xFFFF

/-- The commit reverts, whatever has been acknowledged (R71 step 7, R503). -/
def State.revertNow (s : State) : State :=
  let f := s.commit.failed
  let s1 := s.clearStaged
  let sh := if s.commit.image.isSome then { s1.shape with st := .idle, result := 0x0D } else s1.shape
  let s2 : State := { s1 with
    shape := sh,
    commit := { s1.commit with active := false, result := 2, failUnit := BitVec.ofNat 16 f, image := none, withOp := false } }
  (s2.updNut fun n => { n with planLate := false }).raise 0x3B f 0 f

/-- MODE_COMMIT_REVERT: the limit of 100 µs has passed with acknowledgements missing. -/
def State.commitRevert (s : State) : State :=
  if s.commit.active && !s.commit.ready && decide (s.commit.deadline ≤ s.now) then s.revertNow else s

/-- STANDBY_PLL_LOCK: the standby PLL locks, which takes a running reference (R467 step 1, R551). -/
def State.pllLock (s : State) : State :=
  if s.clk.standby = .locking ∧ s.pins.refclkOk then
    ({ s with clk := { s.clk with standby := .locked } }).partApply 0x490
  else s

/-- RELOCK_END: the clocks resume at the new entry, and the commit that waited for them completes (R467, R465). ROOT takes
the ROOT_MULT that the staged entry had before a re-shape of the same commit (log 64). -/
def State.relockEnd (s : State) : State :=
  if !s.clk.relock then s
  else
    let s1 := s.resumeClocks
    let s2 := if s1.commit.withOp && s1.commit.ready then s1.commitEnd else s1
    s2.checkMargin

end Sys2Proof.Machine
end

