-- ==== Sys2Proof/Machine/ErrOps.lean ====
section
/-! DEFINITION. The error unit: policies, containment, the log, counters and snapshots, watchdogs and injection (R499 to
R521), and the settling of detections at the end of a command. -/

namespace Sys2Proof.Machine

/-! ## Ways that disable (R328). -/

/-- The cache of a way error: an L1, a node cache or an L2 slice. -/
inductive WayOf where
  | priv (r : Cacher)
  | l2 (n : Nat)

/-- The ways of a cache that are in service. -/
def liveWays (c : Cache) (ways : Nat) : List Nat := (List.range ways).filter fun w => !c.dis.getLsbD w

/-- Take way `w` out of a cache below the home slices: dirty lines are written back, the bad one poisoned, and every
line leaves the directory. -/
def State.wayOut (s : State) (r : Cacher) (w : Nat) (bad : Option Nat) : State :=
  let c := s.cacheOf r
  let mine := c.lines.filter fun e => e.1 % 16 == w && e.2.st != .i
  let s1 := mine.foldl (fun t e =>
    let x := e.2
    let t1 := if x.st = .m then t.homePut x.line x.data (x.poison || bad == some x.line) 0 else t
    if t1.isPrivate x.line then t1 else t1.dirMap x.line fun d => d.forget r.unit) s
  s1.updCache r fun c => { c with lines := c.lines.filter (fun e => e.1 % 16 != w), dis := c.dis ||| BitVec.ofNat 16 (2 ^ w) }

/-- Take way `w` out of an L2 slice; its lock clears (R328). -/
def State.l2WayOut (s : State) (n w : Nat) (bad : Option Nat) : State :=
  let mine := (s.slice n).l2.lines.filter fun e => e.1 % 16 == w && e.2.st == .m
  let s1 := mine.foldl (fun t e => t.memPut e.2.line e.2.data (e.2.poison || bad == some e.2.line)) s
  let bit := BitVec.ofNat 16 (2 ^ w)
  s1.updSlice n fun y =>
    { y with l2 := { y.l2 with lines := y.l2.lines.filter (fun e => e.1 % 16 != w), dis := y.l2.dis ||| bit },
             locked := y.locked &&& ~~~bit, lockReq := y.lockReq &&& ~~~bit }

/-- A way disables itself, with detector 0x3E; the last enabled way stays, with LAST_WAY (R328). -/
def State.wayDisable (s : State) (c : WayOf) (w : Nat) (bad : Option Nat) : State :=
  let go (live : List Nat) (unit : Nat) (out : State) : State :=
    if !live.contains w then s
    else if live.length = 1 then s.raiseDet { mkDet 0x3E unit 0 (w + 256) with lastWay := true }
    else out.raise 0x3E unit 0 w
  match c with
  | .priv r => go (liveWays (s.cacheOf r) r.ways) r.unit (s.wayOut r w bad)
  | .l2 n => go (liveWays (s.slice n).l2 16) (0x200 + n) (s.l2WayOut n w bad)

/-- Count a corrected error of a way; true on the fourth of a scrub period. -/
def Cache.wayCe (c : Cache) (period w : Nat) : Bool × Cache :=
  let c1 := if c.cePeriod = period then c else { c with ce := [], cePeriod := period }
  let v := Tbl.get 0 c1.ce w + 1
  (v == 4, { c1 with ce := Tbl.set 0 c1.ce w v })

/-- The cache that a detection names, its way and whether the error was corrected (R504). One of the Clove arrays is an
error of the Clove cache where its address lies in neither a TCM nor the cluster SRAM; its way is the one that holds the
line. -/
def State.wayDetected (s : State) (det u addr info : Nat) : Option (WayOf × Nat × Bool) :=
  if det ≤ 0x01 ∧ u < 0x100 then some (.priv (.l1 (Fin.ofNat 256 u)), info % 8, det == 0)
  else if (det = 0x05 ∨ det = 0x06) ∧ 0x200 ≤ u ∧ u < 0x300 then some (.l2 (u - 0x200), info % 16, det == 5)
  else if det = 0x09 ∧ 0x400 ≤ u ∧ u < 0x440 then some (.priv (.node (Fin.ofNat 64 (u - 0x400))), info % 16, true)
  else if (det = 0x0D ∨ det = 0x0E) ∧ 0x450 ≤ u ∧ u < 0x458 ∧ (clvMem addr).isNone then
    let r : Cacher := .clv (Fin.ofNat 8 (u - 0x450))
    some (.priv r, ((s.cacheOf r).find (r.set (addr / 128)) 4 (addr / 128)).getD (info % 4), det == 0x0D)
  else none

/-- The consequence of a cache error for its way (R328). -/
def State.wayError (s : State) (det u addr info : Nat) : State :=
  match s.wayDetected det u addr info with
  | none => s
  | some (c, w, corrected) =>
    if !corrected then s.wayDisable c w (some (addr / 128))
    else
      let p := s.scrubPeriod
      match c with
      | .priv r =>
        let x := (s.cacheOf r).wayCe p w
        let s1 := s.updCache r fun _ => x.2
        if x.1 then s1.wayDisable c w none else s1
      | .l2 n =>
        let x := (s.slice n).l2.wayCe p w
        let s1 := s.updSlice n fun y => { y with l2 := x.2 }
        if x.1 then s1.wayDisable c w none else s1

/-- The lines of a directory set of slice `n` that a cache has, its eviction buffer and its fills in flight among them. -/
def State.linesOf (s : State) (n set : Nat) (r : Cacher) : List Nat :=
  let c := s.cacheOf r
  let ls := (c.lines.filter fun e => e.2.st != .i).map (fun e => e.2.line) ++ c.evict.map (·.line) ++ c.grants.map (·.line)
  (ls.filter fun l => homeOf s.cfg l == n && dirSetOf l == set).eraseDups

/-- An uncorrectable directory entry: every line that its set can hold leaves every L1, Clove cache and node cache, the
untracked ones too, dirty data is written back, the host's copies are called back, and the set is rebuilt empty; a request
to a line that the host holds waits for its answer (R505). -/
def State.dirRebuild (s : State) (n set : Nat) : State :=
  let caches : List Cacher := s.l1.map (fun e => .l1 (Fin.ofNat 256 e.1)) ++ s.clvCache.map (fun e => .clv (Fin.ofNat 8 e.1))
    ++ s.node.map (fun e => .node (Fin.ofNat 64 e.1))
  let s1 := caches.foldl (fun t r => (s.linesOf n set r).foldl (fun t l => State.land (t.takeCopy r l) l) t) s
  let ents := (List.range 16).map fun w => Tbl.get DirEnt.off (s.slice n).dir (16 * set + w)
  (ents.filter fun e => !e.empty).foldl (fun t e =>
    let t1 := t.dirMap e.line fun d => { d with sharers := [], owner := none }
    (t1.recall e.line true none).getD t1) s1

/-! ## Containment (R500 to R503). -/

/-- Whether a range of stacked memory touches vault `v` under the interleave in force (R356). -/
def vaultTouched (c : ShapeCfg) (v lo hi : Nat) : Bool :=
  let meets (a b m r : Nat) : Bool :=   -- a page congruent to r modulo m lies in pages a to b
    decide (a ≤ b) && decide (a + (r + m - a % m) % m ≤ b)
  let hi := min hi (stackedBytes - 1)
  if hi < lo then false
  else if c.blockStripe = 1 then meets (lo / 4096) (hi / 4096) 256 v
  else
    let q := v / 64
    let base := q * 0x18_0000_0000
    let a := max lo base
    let b := min hi (base + 0x18_0000_0000 - 1)
    if b < a then false
    else if c.qmode.getD q 0 = 0 then decide (a < (v + 1) * 0x6000_0000) && decide (v * 0x6000_0000 ≤ b)
    else meets ((a - base) / 4096) ((b - base) / 4096) 64 (v % 64)

/-- The enabled partitions. -/
def State.enabledParts (s : State) : List Nat := (List.range 16).filter (cfgEnabled s.cfg)

/-- The partitions that a unit serves (R502). -/
def State.servedParts (s : State) (u : Nat) : List Nat :=
  if u < 0x200 then (s.partOf (u % 256)).toList
  else if 0x300 ≤ u ∧ u < 0x400 then
    s.enabledParts.filter fun p => (List.range 16).any fun i =>
      let w := Tbl.get SpanWord.off (s.cfg.partOf p).seg i
      w.valid && vaultTouched s.cfg (u - 0x300) w.lo w.hi
  else if 0x400 ≤ u ∧ u < 0x440 then (let p := s.cfg.tuOwner (u - 0x400); if cfgEnabled s.cfg p then [p] else [])
  else if 0x440 ≤ u ∧ u < 0x444 then (quadOwners s.cfg (u - 0x440)).eraseDups.filter (cfgEnabled s.cfg)
  else s.enabledParts

/-- WRK_CTRL.KILL: STOP becomes pending (R110). -/
def State.killCore (s : State) (n : Nat) : State :=
  if s.tileOff n then s else s.updCore n fun w => { w with killPend := true }

/-- STOP_PARTITION (R502). -/
def State.stopPartition (s : State) (p : Nat) : State :=
  let s1 := (List.range 256).foldl (fun t n => if t.partOf n == some p then t.killCore n else t) s
  s1.updErr fun e => { e with partHeld := e.partHeld ||| BitVec.ofNat 16 (2 ^ p) }

/-- Every channel of core `n`, and its next-layer slot, completes with KILLED (R501). -/
def State.killChannels (s : State) (n : Nat) : State :=
  let s1 := (List.range 16).foldl (fun t k => t.chanStop (chSrc n k)) s
  s1.chanStop (.next (Fin.ofNat 256 n))

/-- Participants that containment takes out of service during a commit do not acknowledge, and one that had applied counts
as not having acknowledged, so that the commit reverts (R74). -/
def State.commitLose (s : State) (us : List Nat) : State :=
  if s.commit.active && !s.commit.ready then
    { s with commit := { s.commit with acked := s.commit.acked.filter fun u => !us.contains u,
                                       withheld := s.commit.parts.filter us.contains ++ s.commit.withheld } }
  else s

/-- ISOLATE (R501). `det`, `addr` and `info` name the way of a cache. -/
def State.isolate (s : State) (det u addr info : Nat) : State :=
  let stop := (s.servedParts u).foldl State.stopPartition s
  if u < 0x200 then ((s.killChannels (u % 256)).stopCore (u % 256) 0xE0).commitLose [u % 256, 0x100 + u % 256]
  else if u < 0x300 then
    match s.wayDetected det u addr info with
    | some (c, w, _) => s.wayDisable c w none
    | none => stop
  else if u < 0x400 then stop
  else if u < 0x440 then
    match s.wayDetected det u addr info with
    | some (c, w, _) => s.wayDisable c w none
    | none => (s.tuLose (u - 0x400)).commitLose [u]
  else if 0x450 ≤ u ∧ u < 0x458 then
    match s.wayDetected det u addr info with
    | some (c, w, _) => s.wayDisable c w none
    | none => ((List.range 8).foldl (fun t i => t.stopThread (8 * (u - 0x450) + i) 0xE0) s).commitLose [u]
  else if 0x460 ≤ u ∧ u < 0x480 then s.linkDown (u - 0x460)
  else if 0x480 ≤ u ∧ u < 0x482 then
    (s.hostDown (u - 0x480)).updHost (u - 0x480) fun p => { p with isolated := true }
  else stop

/-- HALT_BLOCK (R503). -/
def State.haltBlock (s : State) : State :=
  if s.boot.halted then s else
  let s1 := ({ s with boot := { s.boot with halted := true, failStage := 6 } }).setBlk .failed
  let s2 := (List.range 32).foldl (fun t p => t.linkDown p) s1
  let s3 := (List.range 2).foldl (fun t h => if t.hostEnabled h then t.updHost h fun p => { p with aerFat := p.aerFat + 1 } else t) s2
  if s3.commit.active then s3.revertNow else s3

/-- Apply a containment action with those of lower rank (R500). POISON is the work of the unit that detects. -/
def State.contain (s : State) (action det u addr info : Nat) : State :=
  let s1 := if 2 ≤ action then s.isolate det u addr info else s
  let s2 := if 3 ≤ action then (s1.servedParts u).foldl State.stopPartition s1 else s1
  if 4 ≤ action then s2.haltBlock else s2

/-! ## Detections (R507 to R513). -/

/-- The policy in force for a detector (R507); in the HK cycle of a re-shape that changes it, the old one (R509, R521). -/
def State.policy (s : State) (row : DetRow) : PolicyCfg :=
  match Tbl.get none (s.err.policyOld.getD s.cfg.policies) row.id with
  | some p => p
  | none => ⟨row.dflt, 1 + (if row.kind = .u then 2 else 0), 64, 0⟩

/-- Unconsumed records of the log (R511). -/
def ErrSt.unread (e : ErrSt) : Nat := (e.write - e.rd).toNat

/-- Write a record, or drop it on a full ring (R511, R512). -/
def ErrSt.put (e : ErrSt) (r : LogRec) : ErrSt :=
  if 128 ≤ e.unread then { e with lost := min (e.lost + 1) 0xFFFF, overflow := true }
  else
    let r := { r with flags := r.flags ||| (if e.overflow then 4 else 0) }
    { e with log := Tbl.set LogRec.off e.log (e.write.toNat % 128) r, write := e.write + 1, overflow := false }

/-- What a read of ERR_CNT returns: the value before the increments of its HK cycle (R11). -/
def ErrSt.cntRead (e : ErrSt) (det : Nat) : Nat :=
  let x := Tbl.get (0, 0) e.cntNow det
  if x.1 = 0 then Tbl.get 0 e.cnt det else x.2

/-- A read clears ERR_CNT, which then holds the increments of its HK cycle (R11, R521). -/
def ErrSt.cntClear (e : ErrSt) (det : Nat) : ErrSt :=
  let x := Tbl.get (0, 0) e.cntNow det
  { e with cnt := Tbl.set 0 e.cnt det x.1, cntNow := if x.1 = 0 then e.cntNow else Tbl.set (0, 0) e.cntNow det (x.1, 0) }

/-- Count a detection on ERR_CNT, which saturates (R508, R513). -/
def ErrSt.cntUp (e : ErrSt) (det : Nat) : ErrSt :=
  let old := Tbl.get 0 e.cnt det
  { e with cnt := Tbl.set 0 e.cnt det (min (old + 1) 0xFFFF),
           cntNow := Tbl.upd (0, 0) e.cntNow det fun x => (x.1 + 1, if x.1 = 0 then old else x.2) }

/-- Whether a record comes before another of the same HK cycle (R509). -/
def recBefore (a b : LogRec) : Bool :=
  decide (a.det.toNat < b.det.toNat) || (a.det == b.det && decide (a.unit.toNat ≤ b.unit.toNat))

/-- Put a report among those of its HK cycle in ascending (DETECTOR, UNIT); the counts of one detector stay ascending, as
if its detections had been processed in that order (R509). -/
def insertReport (d : ErrReport) : List ErrReport → List ErrReport
  | [] => [d]
  | x :: r =>
    if recBefore x.record d.record then x :: insertReport d r
    else if x.record.det = d.record.det then
      { d with record := { d.record with count := x.record.count } } ::
        insertReport { x with record := { x.record with count := d.record.count } } r
    else d :: x :: r

/-- The steps of R509 for one raised detection: the log record, ERROR for a thread, WRK_ERR and the host reports. -/
def State.report (s : State) (x : ErrReport) : State :=
  let r := x.record
  let det := r.det.toNat
  let u := r.unit.toNat
  let s1 := s.updErr fun e => e.put r
  let s2 := if x.irq then
      s1.updErr fun e => { e with irq := e.irq ||| BitVec.ofNat 128 (2 ^ det), irqThread := Tbl.set 0 e.irqThread det x.thread }
    else s1
  let s3 := if u < 0x200 ∧ 1 ≤ r.action.toNat then s2.updCore (u % 256) fun w => { w with errPend := true, errDet := r.det }
    else s2
  if !x.aer then s3
  else (List.range 2).foldl (fun t h =>
    if t.hostEnabled h then t.updHost h fun y =>
      if r.flags.getLsbD 1 then { y with aerCor := y.aerCor + 1 } else { y with aerNon := y.aerNon + 1 }
    else t) s3

/-- The entry of an injected fault that a detection answers to: by unit, or by line where poison is consumed (R519). -/
def injKey (d : Detection) : Nat × Nat :=
  (d.det.toNat, if d.det = 0x3F then d.addr.toNat / 128 else d.unit.toNat)

/-- One detection: it is counted and contained, and a raised one is reported as the HK cycle ends (R508, R509). The first
one that answers to an injected fault carries INJECTED (R519, log 47). -/
def State.handle (s : State) (d : Detection) : State :=
  match detectorRow d.det.toNat with
  | none => s
  | some row =>
    let det := row.id
    let u := d.unit.toNat
    let p := s.policy row
    let s2 := s.updErr fun e => e.cntUp det
    -- the threshold of a corrected detection
    let key := 256 * u + det
    let t := Tbl.get 0 s2.err.thr key + 1
    let isC := row.kind == .c
    let raised := !isC || decide (p.threshold ≤ t)
    let s3 := if isC then s2.updErr fun e => { e with thr := Tbl.set 0 e.thr key (if raised then 0 else t) } else s2
    let s4 := s3.wayError det u d.addr.toNat d.info.toNat
    let s5 := if det = 0x08 ∧ 0x200 ≤ u ∧ u < 0x300 then s4.dirRebuild (u - 0x200) (d.info.toNat % 2048) else s4
    let s6 := s5.contain p.action det u d.addr.toNat d.info.toNat
    if !raised then s6
    else
      let host := bitOf p.flags 1
      let injected := s.err.injected || s.err.injPend.contains (injKey d)
      let flags := b2n injected + 2 * b2n isC + 8 * b2n (host || p.action == 4) + 16 * b2n d.retention
        + 32 * b2n d.tierDegraded + 64 * b2n d.lastWay + 128 * b2n (det == 0x41)
      let r : LogRec := ⟨s.time.blk, d.det, d.unit, BitVec.ofNat 8 p.action, BitVec.ofNat 8 flags,
        BitVec.ofNat 16 (Tbl.get 0 s2.err.cnt det), d.addr, d.info⟩
      let x : ErrReport := ⟨r, bitOf p.flags 0 && !(decide (0x30 ≤ det ∧ det ≤ 0x37)), p.thread, host && p.action != 4⟩
      s6.updErr fun e => { e with reports := insertReport x e.reports, injPend := e.injPend.erase (injKey d) }

/-- Whether one detection is handled before another of the same cycle (R509). -/
def detBefore (a b : Detection) : Bool :=
  decide (a.det.toNat < b.det.toNat) || (a.det == b.det && decide (a.unit.toNat ≤ b.unit.toNat))

/-- Insert a detection in the order of R509. -/
def insertDet (d : Detection) : List Detection → List Detection
  | [] => [d]
  | x :: r => if detBefore x d then x :: insertDet d r else d :: x :: r

/-- Handle the detections of a command, and those that handling them makes. -/
def State.drain (s : State) : Nat → State
  | 0 => s.updErr fun e => { e with queue := [] }
  | fuel + 1 =>
    match s.err.queue with
    | [] => s
    | q => State.drain ((q.foldl (fun l d => insertDet d l) []).foldl State.handle (s.updErr fun e => { e with queue := [] })) fuel

/-- The end of a command: its detections are handled, and doorbells that have risen are sent. -/
def State.settle (s : State) : State :=
  let s1 := if s.err.queue.isEmpty then s else s.drain 16
  let s2 := if s1.err.injected then s1.updErr fun e => { e with injected := false } else s1
  s2.dbSettle

/-- What a meaning answers: the effect, settled, with the queue of waiting commands as it was. -/
def finish (s t : State) : Out := .next { t.settle with pending := s.pending }

/-! ## The log, watchdogs and snapshots (R511, R515, R517). -/

/-- The bytes of a record (R510). -/
def LogRec.bytes (r : LogRec) : List Byte :=
  natToBytes r.time.toNat 8 ++ natToBytes r.det.toNat 2 ++ natToBytes r.unit.toNat 2 ++ [r.action, r.flags]
    ++ natToBytes r.count.toNat 2 ++ natToBytes r.addr.toNat 8 ++ natToBytes r.info.toNat 8

/-- ERROR_LOG_FLUSH (R511). -/
def State.logFlush (s : State) : State :=
  if s.err.unread < 64 then s
  else
    let bytes := (List.range 64).flatMap fun i => (Tbl.get LogRec.off s.err.log ((s.err.rd.toNat + i) % 128)).bytes
    (s.carRecord 3 bytes).updErr fun e => { e with rd := e.rd + 64 }

/-- A write of ERR_LOG_PTR.RD (R520). -/
def ErrSt.setRd (e : ErrSt) (v : BitVec 8) : ErrSt := if (v - e.rd).toNat ≤ e.unread then { e with rd := v } else e

/-- A watchdog period starts (R517). -/
def State.wdtRestart (s : State) (c : Nat) : State :=
  s.updErr fun e =>
    { e with wdtDue := Tbl.set 0 e.wdtDue c (s.now + usUnits * Tbl.get 0 e.wdtPeriod c),
             wdtOut := e.wdtOut &&& ~~~(BitVec.ofNat 8 (2 ^ c)) }

/-- WATCHDOG_EXPIRY: the watchdog expires as the HK cycle ends, where no kick comes in it (R517, R521). -/
def State.wdtExpire (s : State) (c : Nat) : State :=
  if Tbl.get 0 s.err.wdtPeriod c ≠ 0 ∧ Tbl.get 0 s.err.wdtDue c ≤ s.now then
    s.updErr fun e => { e with wdtOut := e.wdtOut ||| BitVec.ofNat 8 (2 ^ c) }
  else s

/-- Detector 0x41 for the counters that this HK cycle's detections have brought to their maximum (R513). -/
def State.satRaise (s : State) : State :=
  let hit := s.err.cntNow.filter fun x => decide (x.2.2 < 0xFFFF) && Tbl.get 0 s.err.cnt x.1 == 0xFFFF
  let s1 := s.updErr fun e => { e with cntNow := hit.foldl (fun m x => Tbl.set (0, 0) m x.1 (x.2.1, 0xFFFF)) e.cntNow }
  (hit.foldl (fun t x => t.raise 0x41 0x494 0 x.1) s1).drain 16

/-- An HK cycle ends in the error unit: watchdogs that expired in it report, counters that reached their maximum raise
detector 0x41, the raised detections are reported in order, an injection whose unlock ended disarms, and a changed policy
is in force (R509, R513, R517, R519, R521). -/
def State.errTick (s : State) : State :=
  let out := s.err.wdtOut
  let s1 := ((List.range 8).foldl (fun t c => if out.getLsbD c then (t.wdtRestart c).raise 0x2D (0x450 + c) 0 0 else t) s).drain 16
  let s2 := s1.satRaise.satRaise
  let s3 := s2.err.reports.foldl State.report (s2.updErr fun e => { e with reports := [], cntNow := [], pmcNow := [], policyOld := none })
  if s3.err.injEnd then s3.updErr fun e => { e with injEnd := false, injArmed := false, injMode := 0, injResult := 3 } else s3

/-- Whether a counter belongs to a snapshot group (R58). -/
def ctrInGroup (c : CtrCfg) (g : Nat) : Bool := c.used && bitOf c.flags 1 && c.group == g

/-- ERR_SNAP_CMD: the groups of a mask are captured in the next HK cycle (R515). -/
def State.snapCmd (s : State) (mask : Nat) : State :=
  s.updErr fun e => { e with snapDue := e.snapDue ||| BitVec.ofNat 16 mask }

/-- The counters of a group, by 8 × unit + counter. -/
def State.snapOf (s : State) (g : Nat) : Tbl W64 :=
  (s.cfg.counters.filter fun x => ctrInGroup x.2 g).foldl (fun (m : Tbl W64) x =>
    let k := 8 * (x.1 / 256) + x.1 % 256
    Tbl.set 0 m k (Tbl.get 0 s.err.pmc k)) []

/-- An HK cycle ends: the captures that were taken in it are complete and count in ERR_SNAP_SEQ, and those asked for in it are
taken at the start of the next, before any write of that cycle (R515, R521). -/
def State.snapTick (s : State) : State :=
  if s.err.snapDue = 0 ∧ s.err.snapNow = [] then s
  else s.updErr fun e =>
    let e1 := e.snapNow.foldl (fun (e : ErrSt) x =>
      { e with snap := Tbl.set [] e.snap x.1 x.2, snapSeq := Tbl.upd 0 e.snapSeq x.1 (· + 1) }) e
    { e1 with snapDue := 0, snapNow := ((List.range 16).filter fun g => e.snapDue.getLsbD g).map fun g => (g, s.snapOf g) }

/-- An agent latches the latest capture of a group. -/
def State.snapLatch (s : State) (a : Agent) (g : Nat) : State :=
  s.updErr fun e => { e with latches := (e.latches.filter fun l => l.agent != a || l.group != g) ++ [⟨a, g, Tbl.get [] e.snap g⟩] }

/-- A read of ERR_SNAP_SEQ. -/
def State.snapSeqRead (s : State) (a : Agent) (g : Nat) : State × W64 := (s.snapLatch a g, Tbl.get 0 s.err.snapSeq g)

/-- A read of PMC_SNAP of counter `i` of unit `u`. -/
def State.snapRead (s : State) (a : Agent) (u i : Nat) : State × W64 :=
  let c := s.cfg.counterOf u i
  if !c.used || !bitOf c.flags 1 then (s, 0)
  else
    let s1 := if s.err.latches.any fun l => l.agent == a && l.group == c.group then s else s.snapLatch a c.group
    match s1.err.latches.find? fun l => l.agent == a && l.group == c.group with
    | some l => (s1, Tbl.get 0 l.vals (8 * u + i))
    | none => (s1, 0)

/-- PMC_WRAP: a counter at its maximum counts one more event (R513). -/
def State.pmcWrap (s : State) (u i : Nat) : State :=
  if (s.cfg.counterOf u i).used && (Tbl.get 0 s.err.pmc (8 * u + i)).toNat % 2 ^ 48 == 2 ^ 48 - 1 then s.addPmc u i 1 else s

/-- A write of a PMC: the events of its HK cycle count on top of the value written (R11, R514). -/
def State.pmcWrite (s : State) (u i : Nat) (keep val : W64) : State :=
  if !(s.cfg.counterOf u i).used then s
  else
    let key := 8 * u + i
    let o := Tbl.get 0 s.err.pmc key
    let now := Tbl.get 0 s.err.pmcNow key
    let count := o.toNat % 2 ^ 48
    let v := (BitVec.ofNat 64 ((count + 2 ^ 48 - now % 2 ^ 48) % 2 ^ 48) &&& keep) ||| (val &&& ~~~keep)
    let ovf := if o.getLsbD 63 && (!(val &&& ~~~keep).getLsbD 63 || decide (count < now)) then 2 ^ 63 else 0
    (s.updErr fun e => { e with pmc := Tbl.set 0 e.pmc key (BitVec.ofNat 64 (ovf + v.toNat % 2 ^ 48)),
                                pmcNow := Tbl.set 0 e.pmcNow key 0 }).addPmc u i now

/-! ## Detections from outside a command's own work. -/

/-- A detector detects. An uncorrectable error of a tile-memory word is detected once: the word is marked poisoned, and a
further read raises nothing (R584); a word of the Clove memories is marked poisoned too (R500). INFO is the offset (R504). -/
def State.detect (s : State) (d : Detection) : State :=
  let u := d.unit.toNat
  if d.det = 0x04 ∧ u < 0x100 then
    let w := 0x8_0000 * u + d.info.toNat % 0x40_0000 / 8
    if Tbl.get false s.mem.tilePoison w then s
    else (s.updMem fun m => { m with tilePoison := Tbl.set false m.tilePoison w true,
                                     tileErr := Tbl.set false m.tileErr w false }).raiseDet d
  else if d.det = 0x0E then
    match clvMem d.addr.toNat with
    | some (c, off) => (s.updMem fun m =>
        { m with clvPoison := Tbl.set false m.clvPoison ((if c.isSome then 0x10_0000 else 0) + off / 8) true }).raiseDet d
    | none => s.raiseDet d
  else s.raiseDet d

/-! ## Injection (R504, R518, R519). -/

/-- Whether a unit carries a detector (R504). -/
def carries (det u : Nat) : Bool :=
  let core := decide (u < 0x100)
  let slice := decide (0x200 ≤ u ∧ u < 0x300)
  let vault := decide (0x300 ≤ u ∧ u < 0x400)
  let tu := decide (0x400 ≤ u ∧ u < 0x440)
  let saf := decide (0x440 ≤ u ∧ u < 0x444)
  let clv := decide (0x450 ≤ u ∧ u < 0x458)
  let link := decide (0x460 ≤ u ∧ u < 0x480)
  let host := decide (0x480 ≤ u ∧ u < 0x482)
  if det ≤ 0x04 then core
  else if det ≤ 0x08 then slice
  else if det = 0x09 then tu
  else if det ≤ 0x0C then saf
  else if det ≤ 0x0E then clv
  else if det ≤ 0x14 then vault
  else if det ≤ 0x19 then u == 0x495
  else if det ≤ 0x24 then link
  else if det ≤ 0x2A then host
  else if det = 0x2D then clv
  else if det = 0x2E ∨ det = 0x2F then u == 0x490
  else if det = 0x32 then vault || u == 0x491
  else if 0x30 ≤ det ∧ det ≤ 0x37 then u == 0x491
  else if 0x38 ≤ det ∧ det ≤ 0x3A then u == 0x494
  else if det = 0x3C ∨ det = 0x43 then core
  else if det = 0x3D then clv
  else if det = 0x3E then core || slice || tu || clv
  else if det = 0x41 ∨ det = 0x42 then u == 0x494
  else unitListed u

/-- Whether a unit is off (R473). -/
def State.unitOff (s : State) (u : Nat) : Bool :=
  (decide (u < 0x200) && s.tileOff (u % 256)) || (decide (0x400 ≤ u ∧ u < 0x440) && s.tileOff (tuTile (u - 0x400)))
    || (decide (0x450 ≤ u ∧ u < 0x458) && s.clvOff (u - 0x450))

/-- Whether an injection may be armed (R518). -/
def State.injMay (s : State) : Bool := decide (2 ≤ s.cfg.debugLevel) && s.sec.level != 0

/-- A write of ERR_INJ_CTRL that R518 admits (R519, R520). -/
def State.injArm (s : State) (val : W64) : State :=
  let det := field val.toNat 15 0
  let mode := field val.toNat 17 16
  let u := field val.toNat 47 32
  if mode = 3 then s
  else s.updErr fun e =>
    let e1 := { e with injDet := BitVec.ofNat 16 det, injUnit := BitVec.ofNat 16 u, injMode := 0, injArmed := false }
    if mode = 0 then { e1 with injResult := 0 }
    else if (detectorRow det).isNone then { e1 with injResult := 1 }
    else if !carries det u || s.unitOff u then { e1 with injResult := 2 }
    else { e1 with injMode := mode, injArmed := true, injResult := 0 }

/-- Damage symbols of a stored vault line: each named symbol with the bits that are wrong (R504). -/
def State.damage (s : State) (l : Nat) (syms : List Nat) (bits : Byte) : State :=
  if l < stackedBytes / 128 then
    s.updMem fun m => { m with rawErr := Tbl.set [] m.rawErr (devAddr s.cfg (128 * l) / 128) (syms.map fun i => ⟨i, bits⟩) }
  else s

/-- A fault that is injected now and found by a later read: its record is to carry INJECTED (R519). -/
def State.injLater (s : State) (det key : Nat) : State := s.updErr fun e => { e with injPend := e.injPend ++ [(det, key)] }

/-- A line that unit `u` writes is poisoned where it stands: in the unit's own cache, its home slice or its target (R504
detector 0x3F). -/
def State.poisonAt (s : State) (u l : Nat) : State :=
  let r := cacherOf u
  let own := decide (u < 0x100) || decide (0x400 ≤ u ∧ u < 0x440) || decide (0x450 ≤ u ∧ u < 0x458)
  if own && (s.held r l).isSome then s.updCache r fun c => c.modify (r.set l) r.ways l fun x => { x with poison := true }
  else if (s.l2Line l).isSome then s.l2Modify l fun x => { x with poison := true }
  else s.rawWrite l 0 0 true

/-- What an injected fault does at its injection point (R504). Detectors whose point lies in another command (a flit
received, an image check, an acknowledgement) act there. -/
def State.injEffect (s : State) (det u l : Nat) : State :=
  let a := 128 * l
  match det with
  | 0x01 | 0x06 =>
    let w := if det = 1 then ((s.cacheOf (.l1 (Fin.ofNat 256 u))).find (l % 128) 8 l).getD 0
             else ((s.slice (u - 0x200)).l2.find (l2Set s.cfg l) 16 l).getD 0
    s.raise det u a w
  | 0x04 => (s.updMem fun m => { m with tileErr := Tbl.set false m.tileErr (0x8_0000 * u + a % 0x40_0000 / 8) true }).injLater det u
  | 0x0E => match clvMem a with
    | some (c, off) => (s.updMem fun m =>
        { m with clvPoison := Tbl.set false m.clvPoison ((if c.isSome then 0x10_0000 else 0) + off / 8) true }).raise det u a off
    | none => s.raise det u a 0
  | 0x10 => (s.damage l [0] 1).injLater det u
  | 0x11 => (s.damage l [0, 1, 2] 0xFF).injLater det u
  | 0x12 => (s.damage l [0, 16, 32, 48, 64, 80, 96, 112, 128] 0xFF).injLater det u
  | 0x22 => s.laneRetire (u - 0x460) (l % 8) true
  | 0x23 => s.linkDown (u - 0x460)
  | 0x20 | 0x21 | 0x24 => s
  | 0x29 => s.injLater det u
  | 0x28 => s.ideFailure (u - 0x480) 0
  | 0x2A => s.hostLinkDown (u - 0x480)
  | 0x30 | 0x31 =>
    let v := if det = 0x30 then 95 else 105
    s.thermal ((Tbl.getMany 0xFF s.nut.die 0 64).map (fun x => if x = 0xFF then 0 else x) |>.set (l % 64) v)
      ((Tbl.getMany 0xFF s.nut.spine 0 4).map fun x => if x = 0xFF then 0 else x)
  | 0x32 =>
    let v := if 0x300 ≤ u ∧ u < 0x400 then u - 0x300 else 0
    (s.updVault v fun x => { x with temp := Tbl.set 0 x.temp (l % 8) 105 }).vaultTemps v (l % 8)
  | 0x33 => s.droop (l % 64) (2 * (s.setPoints s.clk.cur).getD 0 0 - 60)
  | 0x34 => if s.nut.burst.isSome then s.burstEnd 40 s.nut.iLoad else s.nutEvent 5 0x34 40
  | 0x35 => s.nutEvent 6 0x35 (l % 4) |>.updNut fun n => { n with avsHold := true, avsFails := 3 }
  | 0x36 => if s.nut.planRunning then s.planEnd (List.replicate 268 255) else s.nutEvent 4 0x36 s.clk.cur
  | 0x2D => (s.wdtRestart (u - 0x450)).raise det u 0 0
  | 0x37 => s.nutEvent 3 0x37 0
  | 0x3C => (s.raise 0x3C u 0 0x0A).stopCore u 0x0A
  | 0x3D =>
    let h := 8 * (u - 0x450) + l % 8
    (s.raise 0x3D u 0 (l % 8 + 256 * 0x0A)).stopThread h 0x0A
  | 0x3E =>
    if u < 0x100 then s.wayDisable (.priv (.l1 (Fin.ofNat 256 u))) (l % 8) none
    else if u < 0x300 then s.wayDisable (.l2 (u - 0x200)) (l % 16) none
    else if u < 0x440 then s.wayDisable (.priv (.node (Fin.ofNat 64 (u - 0x400)))) (l % 16) none
    else s.wayDisable (.priv (.clv (Fin.ofNat 8 (u - 0x450)))) (l % 4) none
  | 0x3F => (s.poisonAt u l).injLater det l
  | 0x40 => s.updErr fun e => { e with pmc := Tbl.set 0 e.pmc (8 * u + l % 8) (BitVec.ofNat 64 (2 ^ 48 - 1)) }
  | 0x41 => s.updErr fun e => { e with cnt := Tbl.set 0 e.cnt (l % 256) 0xFFFE }
  | 0x43 => match (s.core u).sb with
    | e :: _ => (s.storeLost u (128 * e.line) .decode).sbDrop u e.line
    | [] => s
  | _ => s.raise det u a 0

/-- INJECTION_FIRE: the event at the injection point (R519). -/
def State.injFire (s : State) (det u l : Nat) : State :=
  if [0x38, 0x39, 0x3A, 0x3B].contains det || !s.injHit det u l then s else s.injUse.injEffect det u l

end Sys2Proof.Machine
end

