-- ==== Sys2Proof/Machine/BootOps.lean ====
section
/-! DEFINITION. Cold reset, the boot sequence, the boot ROM's stages and the READY command (R522 to R534, R539, R552,
R556). -/

namespace Sys2Proof.Machine

/-! ## Cold reset (R522, R523). -/

/-- Free bytes where an interrupted flash operation leaves them; a page cut short fails its CRC (R573). -/
def brokenPage (b : List Byte) : List Byte := if recValid b then (b.headD 0 ^^^ 1) :: b.drop 1 else b

/-- A cold reset resets the flash part, which cuts its operation short (R550, R573). -/
def State.flashCut (s : State) : State :=
  match s.car.op with
  | .idle => s
  | .program p _ _ _ =>
    let r := s.drawBytes 4096
    r.2.updMem fun m => { m with flash := Tbl.setMany 0xFF m.flash (s.pageAt p) (brokenPage r.1) }
  | .erase b =>
    (List.range 16).foldl (fun t i =>
      let r := t.drawBytes 4096
      r.2.updMem fun m => { m with flash := Tbl.setMany 0xFF m.flash (s.pageAt (16 * b + i)) (brokenPage r.1) }) s

/-- Cold reset: every unit takes its reset values but for what R522 names; memories outside the die, the fuses, the
levels of the pins and the asserted THERM_CRIT_N stay. -/
def State.coldReset (s0 : State) : State :=
  let s := s0.flashCut
  let log := s.err.reports.foldl (fun e x => e.put x.record) s.err
  let r := State.reset
  let keepInj := s.err.injArmed && !s.err.injEnd && s.err.injDet == 0x38
  { r with
    pending := s.pending, answer := s.answer, free := s.free,
    mem := { r.mem with dram := s.mem.dram, poison := s.mem.poison, rawErr := s.mem.rawErr, host := s.mem.host,
                        flash := s.mem.flash },
    time := { r.time with blk := s.time.blk, rem := s.time.rem, coldAt := s.now },
    sched := { r.sched with tickAt := s.now / 2000 },
    nut := { r.nut with lastPlan := s.now },
    car := { r.car with held := s.car.held, aonHeld := s.car.aonHeld, ageDue := s.now + 2592000 * secUnits, winStart := s.now },
    err := { r.err with log := log.log, write := log.write, rd := log.rd, lost := log.lost, overflow := log.overflow,
                        injUnit := if keepInj then s.err.injUnit else 0, injMode := if keepInj then s.err.injMode else 0,
                        injDet := if keepInj then s.err.injDet else 0, injAddr := if keepInj then s.err.injAddr else 0,
                        injArmed := keepInj },
    boot := { r.boot with count := min (s.boot.count + 1) 0xFF, pwrgood := s.boot.pwrgood, resetN := s.boot.resetN },
    fuse := s.fuseCut,
    pins := { r.pins with holdupLow := s.pins.holdupLow, critOut := s.pins.critOut, refclkOk := s.pins.refclkOk,
                          ibiDoorbell := s.pins.ibiDoorbell,
                          ibiState := if s.boot.st = .reset then s.pins.ibiState else s.pins.ibiState + 1 } }

/-- PWRGOOD falls: cold reset at once, and THERM_CRIT_N is released (R552, R566). -/
def State.pwrgoodFall (s : State) : State :=
  let s1 := s.coldReset
  { s1 with boot := { s1.boot with pwrgood := false }, pins := { s1.pins with critOut := false } }

/-- RESET_N has been low for a number of reference cycles: fewer than 100 are ignored (R552). -/
def State.resetNLow (s : State) (cycles : Nat) : State :=
  if cycles < 100 then s
  else
    let s1 := s.coldReset
    { s1 with boot := { s1.boot with resetN := false } }

/-- VAON is lost, and with it all that a cold reset preserves (R522, R556). -/
def State.vaonLoss (s : State) : State :=
  let s1 := s.pwrgoodFall
  { s1 with time := State.reset.time, sched := { s1.sched with tickAt := 0 },
            nut := { s1.nut with lastPlan := 0 }, car := State.reset.car, err := State.reset.err,
            boot := { s1.boot with count := 0 } }

/-! ## Steps 1 to 3 (R524). -/

/-- HOLDUP_LOW_N is sampled low (R553). -/
def State.holdupLow (s : State) : State :=
  { s with pins := { s.pins with holdupLow := true, holdupEvent := true },
           sched := { s.sched with ipi := s.sched.ipi ||| BitVec.ofNat 64 (2 ^ s.nut.irqThread) } }

/-- BOOT_RELEASE: PWRGOOD and RESET_N are high, fuses are sensed and the PUF is read; a hold-up event that persists is
applied again (R524 step 1, R523, R573). -/
def State.bootRelease (s : State) (pufOk : Bool) : State :=
  if s.boot.st ≠ .reset ∨ s.boot.released then s
  else
    let s1 : State := { s with boot := { s.boot with pwrgood := true, resetN := true, released := true, pufOk := pufOk } }
    let s2 := s1.freshNonce
    if s2.pins.holdupLow then s2.holdupLow else s2

/-- BOOT_ROOT_LOCK: ROOT locks, slot 0 takes the ROM, every Clove cache invalidates itself and thread 0 of core 0 starts
(R524 steps 2 and 3). -/
def State.bootRootLock (s : State) : State :=
  if s.boot.st ≠ .reset ∨ !s.boot.released then s
  else
    let s1 : State := { s with clk := { s.clk with rootLocked := true } }
    let s2 := (s1.extend 0 Config.romDigest).setBlk .rom
    let s3 := (List.range 8).foldl (fun t c => t.updCache (.clv (Fin.ofNat 8 c)) fun x => { x with busy := true }) s2
    s3.updThr 0 fun x => { x with run := .running, pc := Config.romEntry }

/-! ## The boot ROM (R525, R529 to R533, R539). -/

/-- Size of the boot flash: at least 32 MiB (R564). -/
def flashSize : Nat := 0x200_0000 + Config.flashExtra

/-- Bytes of the boot flash. -/
def State.flashBytes (s : State) (off len : Nat) : List Byte := Tbl.getMany 0xFF s.mem.flash off len

/-- A failure is recorded in BLK_STATE. -/
def State.bootFail (s : State) (stage code : Nat) : State :=
  { s with boot := { s.boot with failStage := stage, failCode := code } }

/-- The ROM gives up (R533). -/
def State.romFail (s : State) (stage : Nat) : State :=
  ({ s with boot := { s.boot with failStage := stage } }).setBlk .romFail

/-- Whether a copy of the boot directory is valid (R529). -/
def dirValid (d : List Byte) : Bool :=
  le d 0 4 == 0xB007D12E && le d 4 2 == 1 && le d 252 4 == crc32c (d.take 252)

/-- The selected directory: its bytes and which copy it is (R529). -/
def State.bootDir (s : State) : Option (List Byte × Bool) :=
  let a := s.flashBytes 0 256
  let b := s.flashBytes 0x1_0000 256
  match dirValid a, dirValid b with
  | false, false => none
  | true, false => some (a, false)
  | false, true => some (b, true)
  | true, true => if le a 8 8 < le b 8 8 then some (b, true) else some (a, false)

/-- Stage a: the directory is selected and CAR_REC_CFG written. With no valid copy the ROM fails; the spec states no code
for that, so it is a free value. -/
def State.bootStageA (s : State) : State :=
  match s.bootDir with
  | none =>
    let x := s.draw
    let code := x.1.toNat % 256
    ((x.2.raise 0x38 0x494 0 (code + 256)).bootFail 1 code).romFail 1
  | some (d, copy) =>
    let s1 := s.updCar fun c => { c with recBase := le d 40 4, recBlocks := le d 44 2 % 1024, recEn := true }
    { s1 with boot := { s1.boot with dirRead := true, dirCopy := copy } }

/-- The length of an image, as its header gives it. -/
def State.fwLength (s : State) (off : Nat) : Nat := le (s.flashBytes off 16) 12 4

/-- Whether the key table of a Clove image lies in the body and has one to eight keys (R530). -/
def keytabOk (b : List Byte) (len : Nat) : Bool :=
  let o := 2656 + le b 48 4
  let n := le b o 4
  decide (o + 16 ≤ len - 4656) && decide (1 ≤ n ∧ n ≤ 8) && decide (o + 16 + 2592 * n ≤ len - 4656) && zeros b (o + 4) 12

/-- The shape-signing keys of a Clove image. -/
def keytabOf (b : List Byte) : List (List Byte) :=
  let o := 2656 + le b 48 4
  (List.range (le b o 4)).map fun i => (b.drop (o + 16 + 2592 * i)).take 2592

/-- The first failing check of a firmware image at a flash offset, 0 when it passes (R531). `after` is the span of
cluster SRAM that the other image of the bundle takes. -/
def State.fwCheck (s : State) (off type : Nat) (flip : Bool) (after : Option (Nat × Nat)) : Nat :=
  let len := s.fwLength off
  if off = 0xFFFFFFFF ∨ flashSize < off + 64 ∨ flashSize < off + len then 0x0E else
  let lenOk := decide (7328 ≤ len) && decide (len ≤ 3145728) && len % 16 == 0
  let b := s.flashBytes off (if lenOk then len else 64)
  let tr := if lenOk then b.drop (len - 4656) else s.flashBytes (off + len - 4656) 4656
  let key := (b.drop 64).take 2592
  let d := digest (b.take (len - 4656))
  let load := le b 24 4
  let overlaps : Bool := match after with | some (o, n) => decide (load < o + n) && decide (o < load + len) | none => false
  let entry := le b 28 4
  if le b 0 4 ≠ 0xC10EF1A5 ∨ le tr 0 4 ≠ 0x7E516A3D then 0x01
  else if le b 4 2 ≠ 1 ∨ le tr 4 2 ≠ 1 ∨ le tr 6 2 ≠ 0x1213 ∨ le b 6 1 ≠ type then 0x02
  else if !lenOk then 0x04
  else if (digest key).toNat % 2 ^ 128 ≠ le b 32 16 ∨ !s.keyFused (digest key) 1 then 0x06
  else if !Config.mldsaVerify key (digestBytes (if flip then d ^^^ 1 else d)) ((tr.drop 16).take 4627) then 0x07
  else if ¬ (le b 8 2 ≤ 0x0902 ∧ 0x0902 ≤ le b 10 2) then 0x03
  else if le b 16 8 < s.fwFloor then 0x08
  else if load % 16 ≠ 0 ∨ 0x40_0000 < load + len ∨ overlaps
      ∨ (type = 1 ∧ (entry % 4 ≠ 0 ∨ entry < 2656 ∨ len - 4656 ≤ entry ∨ !keytabOk b len))
      ∨ (type = 2 ∧ (entry ≠ 0 ∨ le b 48 4 ≠ 0))
      ∨ (if type = 1 then 2 else 1) ≤ le b 7 1 ∨ !zeros b 52 12 ∨ !zeros tr 8 8 ∨ !zeros tr 0x1223 13 then 0x09
  else 0

/-- An image is read into cluster SRAM and checked; a failure raises detector 0x38 (R531, R533). An armed injection of
that detector inverts a digest bit (R504). -/
def State.fwImage (s : State) (off type copy : Nat) (after : Option (Nat × Nat)) : Bool × State :=
  let flip := s.injHit 0x38 0x494 0
  let code := s.fwCheck off type flip after
  let s0 := if flip then s.injUse else s
  let len := s.fwLength off
  let load := le (s.flashBytes off 64) 24 4
  let s1 := if code ≠ 0x0E ∧ load + len ≤ 0x40_0000 then s0.clvPut false load (s.flashBytes off len) else s0
  if code = 0 then (true, s1)
  else (false, (s1.raise 0x38 0x494 0 (code + 256 * (type + 1) + 4096 * copy)).bootFail 2 code)

/-- A bundle is tried: its Clove image, then the monitor image after it (R530, R531). -/
def State.fwBundle (s : State) (off copy : Nat) : Bool × State :=
  let x := s.fwImage off 1 copy none
  if !x.1 then x
  else
    let len := s.fwLength off
    x.2.fwImage (off + len) 2 copy (some (le (s.flashBytes off 64) 24 4, len))

/-- Stage b on a bundle that passed: slots 1 and 2, the firmware SVN, the key table and ZERO_ON_BOOT. -/
def State.fwAccept (s : State) (off : Nat) (copy : Bool) : State :=
  let len := s.fwLength off
  let b := s.flashBytes off len
  let mlen := s.fwLength (off + len)
  let m := s.flashBytes (off + len) mlen
  let s1 := (s.extend 1 (digest (b.take (len - 4656)))).extend 2 (digest (m.take (mlen - 4656)))
  { s1 with boot := { s1.boot with fwCopy := copy, fwSvn := BitVec.ofNat 64 (le b 16 8), keytab := keytabOf b,
                                   zeroOnBoot := bitOf (le b 7 1) 0 } }

/-- Stage b: bundle A, then bundle B. The flash offset of the bundle that passed is answered too. -/
def State.bootStageB (s : State) (d : List Byte) : Option Nat × State :=
  let a := s.fwBundle (le d 16 4) 0
  if a.1 then (some (le d 16 4), a.2.fwAccept (le d 16 4) false)
  else
    let b := a.2.fwBundle (le d 20 4) 1
    if b.1 then (some (le d 20 4), b.2.fwAccept (le d 20 4) true) else (none, b.2.romFail 2)

/-- A shape image is tried: read into cluster SRAM at 0x40_0000 and checked (R532, R42). On success it is applied (R61). -/
def State.shapeTry (s : State) (off len copy : Nat) : Bool × State :=
  let fault := off == 0xFFFFFFFF || decide (flashSize < off + len) || off % 16 != 0
  let lenOk := decide (4944 ≤ len) && decide (len ≤ 4194304) && len % 16 == 0
  let b := if !fault && lenOk then s.flashBytes off len else []
  let x := s.loadCtx len fault true
  let code := imageCheck x b
  let s0 := if s.injHit 0x39 0x494 0 then s.injUse else s
  let s1 := s0.clvPut false 0x40_0000 b
  let s2 : State := { s1 with shape := { s1.shape with result := code, sections := if b = [] then 0 else sectionMask b len } }
  if code ≠ 0 then (false, (s2.raise 0x39 0x494 0 (code + 256 * 4 + 4096 * copy)).bootFail 3 code)
  else
    let n := imageResult s.cfg ((imageSections b len).getD [])
    let s3 := s2.applyFull b (imageDigest x b) n
    (true, { s3 with boot := { s3.boot with shapeCopy := copy == 1 } })

/-- Stages d and e: shape image A, then B. -/
def State.bootStageD (s : State) (d : List Byte) : Bool × State :=
  let a := s.shapeTry (le d 24 4) (le d 28 4) 0
  if a.1 then a else a.2.shapeTry (le d 32 4) (le d 36 4) 1

/-- The bytes of an ASCII label. -/
def label (l : List Nat) : List Byte := l.map (BitVec.ofNat 8)

/-- "KZ9-UDS", "KZ9-DEVID" and "KZ9-ALIAS" (R539). -/
def udsLabel : List Byte := label [0x4B, 0x5A, 0x39, 0x2D, 0x55, 0x44, 0x53]
def devidLabel : List Byte := label [0x4B, 0x5A, 0x39, 0x2D, 0x44, 0x45, 0x56, 0x49, 0x44]
def aliasLabel : List Byte := label [0x4B, 0x5A, 0x39, 0x2D, 0x41, 0x4C, 0x49, 0x41, 0x53]

/-- Stage f: the identity, the handoff block, and the locked key store (R539). -/
def State.bootStageF (s : State) (d : List Byte) : State :=
  let uds := hkdf384 s.fuse.pufKey s.fuse.secret udsLabel
  let devid := Config.keygen (hkdf384 [0] uds devidLabel)
  let slots := digestBytes (s.slot 0) ++ digestBytes (s.slot 1) ++ digestBytes (s.slot 2)
  let svn := natToBytes s.boot.fwSvn.toNat 8
  let cdi1 := hmac384 uds (slots ++ svn)
  let aliasSk := Config.keygen (hkdf384 [0] cdi1 aliasLabel)
  let cert := (Config.certificate (Config.publicKey aliasSk) devid (slots ++ svn)).take 0xDFC0
  let chainLen := if le d 48 4 = 0xFFFFFFFF then 0 else min (le d 52 4) 8192
  let chain := s.flashBytes (le d 48 4) chainLen
  let s1 := s.clvPut true 0x7_0000 (natToBytes cert.length 4 ++ natToBytes chainLen 4)
  let s2 := s1.clvPut true 0x7_0040 (cert ++ chain)
  { s2 with sec := { s2.sec with aliasKey := some aliasSk, locked := true,
                                 devId := BitVec.ofNat 128 ((digest (Config.publicKey devid)).toNat % 2 ^ 128) } }

/-- Steps 5 and 6 begin: worker L1s, instruction caches, L2 slices and node caches invalidate themselves, and every vault
trains (R524). -/
def State.memoryStart (s : State) : State :=
  let s1 := (List.range 256).foldl (fun (t : State) n =>
    let t1 := t.updCache (.l1 (Fin.ofNat 256 n)) fun x => { x with busy := true }
    let t2 := t1.updIcache n fun x => { x with busy := true }
    let t3 := t2.updSlice n fun y => { y with l2 := { y.l2 with busy := true } }
    t3.updVault n fun v => { v with st := 1 }) s
  (List.range 64).foldl (fun t m => t.updCache (.node (Fin.ofNat 64 m)) fun x => { x with busy := true }) s1

/-- Stage g: BLK_STATE and the jump to ENTRY of the Clove image, in thread 0 of core 0. -/
def State.bootStageG (s : State) (fw : Nat) (shapeOk : Bool) : State :=
  let b := s.flashBytes fw 64
  let s1 := (s.setBlk (if shapeOk then .memory else .recovery)).memoryStart
  s1.updThr 0 fun x => { x with pc := BitVec.ofNat 64 (0xF000_0800_0000 + le b 24 4 + le b 28 4) }

/-- BOOT_ROM_STAGES: stage a first; once the scan and the boot plan have completed, the other stages (R525). -/
def State.bootRomStages (s : State) : State :=
  if s.boot.st ≠ .rom then s
  else if !s.boot.pufOk then s.romFail 5
  else if !s.boot.dirRead then s.bootStageA
  else if !s.boot.scanDone || !s.boot.planDone then s
  else
    let d := s.flashBytes (if s.boot.dirCopy then 0x1_0000 else 0) 256
    let b := s.bootStageB d
    match b.1 with
    | none => b.2
    | some fw =>
      let x := b.2.bootStageD d
      (x.2.bootStageF d).bootStageG fw x.1

/-! ## Steps 6 and 8 (R527, R533, R561). -/

/-- VAULT_TRAINING_DONE: a bond that cannot be repaired fails the vault, and the block recovers. -/
def State.trainingDone (s : State) (v : Nat) (badBond : Bool) : State :=
  if (s.vault v).st ≠ 1 then s
  else if badBond then
    let s1 := s.updVault v fun x => { x with st := 3 }
    let s2 : State := { s1 with boot := { s1.boot with failStage := 4 } }
    if s2.boot.st = .failed then s1 else s2.setBlk .recovery
  else s.updVault v fun x => { x with st := 2, winStart := s.now,
                                      tempAt := (List.range 8).foldl (fun t i => Tbl.set 0 t i s.now) x.tempAt }

/-- The first condition of READY that fails, 0 when all hold (R527). -/
def State.readyCode (s : State) : Nat :=
  if s.boot.st ≠ .memory then 1
  else if s.commit.epoch = 0 then 2
  else if !((List.range 256).all fun v => (s.vault v).st == 2) then 3
  else if !s.boot.scanDone || !s.boot.planDone then 4
  else if !s.sec.locked then 5
  else 0

/-- An HK cycle starts: the conditions of READY are those of its start (R527, R549). -/
def State.readyTick (s : State) : State := { s with boot := { s.boot with readyCond := s.readyCode } }

/-- BLK_CTRL.READY, on the state at the start of the HK cycle (R527); a state that HALT_BLOCK has left meanwhile is refused with
STATE (R549). -/
def State.blkReady (s : State) : State :=
  let c := if s.boot.st ≠ .memory then 1 else s.boot.readyCond
  let s1 : State := { s with boot := { s.boot with readyResult := c } }
  if c = 0 then s1.setBlk .ready else s1

end Sys2Proof.Machine
end

