-- ==== Sys2Proof/Machine/Registers.lean ====
section
/-! DEFINITION. The registers of the block register window: their names, the offsets at which they lie and the fields
that keep what is written (R13, R574 to R578). -/

namespace Sys2Proof.Machine

/-- The registers, by the number of the unit that holds them. -/
inductive Reg where
  -- identity region (R578)
  | blkVersion | blkGeometry | blkState | blkCtrl | blkTime | blkSerial
  | modeEpoch | modeCommit | modeStatus | modeEpochTime
  -- shape-image loader (R67)
  | shpSrcAddr | shpSrcLen | shpCmd | shpStatus | shpBootSeq | shpReshapeSeq | shpDrained
  -- clocks, power and pins (R495, R496, R572)
  | clkStatus | clkStg | nutCap | nutStatus | nutCfg | nutEvent | nutCmd
  | pdReq (j : Nat) | pdState (j : Nat) | pdClove | dcal (i : Nat) | pinStatus | telemetry (g word : Nat)
  -- Caraway (R497)
  | carHoldup | carRecCfg | carRecStatus | carBudget
  -- error unit and counters (R514, R515, R517, R520)
  | errLogPtr | errIrq (hi : Bool) | errPartHeld | errLog (i word : Nat) | errCnt (id : Nat) | errPolicy (id : Nat)
  | wdtCfg (c : Nat) | wdtKick (c : Nat) | injCtrl | injAddr | injStatus | snapCmd | snapSeq (g : Nat)
  | pmc (u i : Nat) | pmcSnap (u i : Nat)
  -- security and boot (R548)
  | secMeas (slot word : Nat) | secFwFloor | secShapeFloor | secKey (k word : Nat) | secFuseArg | secFuseCmd | secFuseStatus
  | dbgNonce (word : Nat) | dbgCmd | dbgStatus | dbgExpiry | signDigest (word : Nat) | signCmd | signStatus | signSig (word : Nat)
  -- mailboxes and doorbells (R430, R431)
  | mbxMsg (c word : Nat) | mbxPost (c : Nat) | mbxTake (c : Nat) | mbxStatus (c : Nat)
  | dbPend (agent : Nat) | dbMask (agent : Nat)
  -- Clove (R408, R409)
  | taskCfg (k : Nat) | taskArg (k : Nat) | flowCfg (f : Nat) | flowStatus (f : Nat) | clvTick
  | aniseCtrl | anisePtr | aniseRd | thrCtrl (h : Nat) | thrStatus (h : Nat) | thrStart (h : Nat)
  | clvIpi | clvIpiClr | clvCoreCtrl (c : Nat)
  -- host ports (R435)
  | hstStatus (h : Nat) | hstCtrl (h : Nat) | sqBase (h f : Nat) | cqBase (h f : Nat) | sqPtr (h f : Nat) | cqPtr (h f : Nat)
  | fnStatus (h f : Nat)
  -- link ports and the block group (R461, R462)
  | lnkCtrl (p : Nat) | lnkStatus (p : Nat) | lnkThresh (p : Nat) | lnkCount (p i : Nat) | ethMac (p : Nat)
  | ethNexthop (p : Nat) | ethIp (p : Nat) (hi : Bool) | ethCfg (p : Nat)
  | grpCfg | grpMembers | grpStatus | grpLive | grpStage | distSrc | distLen | grpCmd | distDone
  | grpRoute (b : Nat) | grpImport (p : Nat) | peerIp (b : Nat) (hi : Bool)
  | gbarCfg (g : Nat) | gbarBlocks (g : Nat) | collDesc (k : Nat) | collCmd (k : Nat) | collStatus (k : Nat)
  -- vault controllers (R373)
  | vltStatus (v : Nat) | vltTemp (v : Nat) | vltErase (v : Nat) | vltCmd (v : Nat) | vltActThresh (v : Nat)
  | vltEraseThresh (v : Nat) | vltScrubPos (v : Nat) | vltSplit (v : Nat) | vltCount (v i : Nat)
  -- worker cores and their stream engines (R110, R304, R349, R520)
  | wrkCtrl (n : Nat) | wrkStatus (n : Nat) | wrkBootPc (n : Nat) | wrkFpdefault (n : Nat) | wrkFpStg (n : Nat)
  | wrkJobHead (n : Nat) | wrkJobTail (n : Nat) | wrkErr (n : Nat) | wrkSlot (n word : Nat) | l1Status (n : Nat)
  | chDesc (src : StreamSrc) | chCmd (src : StreamSrc) | chStatus (src : StreamSrc) | stragTimeout (n : Nat) | tagsUsed (n : Nat)
  -- barriers (R305), L2 slices (R350), traversal (R231, R263)
  | barMem (b j : Nat) | barCtl (b : Nat)
  | l2Status (n : Nat) | l2LockWays (n : Nat) | l2OfferThresh (n : Nat) | l2LockedInval (n : Nat)
  | tuStatus (m : Nat) | safStatus (q : Nat) | safSpillUsed (q : Nat) | safSplit (q : Nat) | safWarmCount (q : Nat)
  | ttSel | ttNextRoot | ttNextXs | ttCmd | ttStatus | ttCopy (i : Nat)
deriving DecidableEq, Repr

/-! ## Offsets. -/

def regIdentity (o : Nat) : Option Reg :=
  match o with
  | 0x000 => some .blkVersion
  | 0x008 => some .blkGeometry
  | 0x010 => some .blkState
  | 0x018 => some .blkCtrl
  | 0x020 => some .blkTime
  | 0x028 => some .blkSerial
  | 0x100 => some .modeEpoch
  | 0x108 => some .modeCommit
  | 0x110 => some .modeStatus
  | 0x118 => some .modeEpochTime
  | _ => none

def regLoader (o : Nat) : Option Reg :=
  match o with
  | 0x00 => some .shpSrcAddr
  | 0x08 => some .shpSrcLen
  | 0x10 => some .shpCmd
  | 0x18 => some .shpStatus
  | 0x20 => some .shpBootSeq
  | 0x28 => some .shpReshapeSeq
  | 0x30 => some .shpDrained
  | _ => none

def regPower (o : Nat) : Option Reg :=
  if o = 0x3000 then some .pinStatus
  else if 0x4000 ≤ o ∧ o < 0x4300 then some (.telemetry ((o - 0x4000) / 0x100) (o % 0x100 / 8))
  else if 0x100 ≤ o ∧ o < 0x120 then some (.dcal ((o - 0x100) / 8))
  else if 0x40 ≤ o ∧ o < 0x60 then some (.pdReq ((o - 0x40) / 8))
  else if 0x60 ≤ o ∧ o < 0x80 then some (.pdState ((o - 0x60) / 8))
  else match o with
    | 0x00 => some .clkStatus
    | 0x08 => some .clkStg
    | 0x10 => some .nutCap
    | 0x18 => some .nutStatus
    | 0x20 => some .nutCfg
    | 0x28 => some .nutEvent
    | 0x30 => some .nutCmd
    | 0x80 => some .pdClove
    | _ => none

def regCaraway (o : Nat) : Option Reg :=
  match o with
  | 0x00 => some .carHoldup
  | 0x08 => some .carRecCfg
  | 0x10 => some .carRecStatus
  | 0x18 => some .carBudget
  | _ => none

/-- ERR_CNT and ERR_POLICY exist for the detectors of R504 (DEDUCED, log 30). -/
def regError (o : Nat) : Option Reg :=
  if 0x1000 ≤ o ∧ o < 0x2000 then some (.errLog ((o - 0x1000) / 32) (o % 32 / 8))
  else if 0x2000 ≤ o ∧ o < 0x3000 then
    if (detectorRow ((o - 0x2000) / 8)).isSome then some (.errCnt ((o - 0x2000) / 8)) else none
  else if 0x3000 ≤ o ∧ o < 0x4000 then
    if (detectorRow ((o - 0x3000) / 8)).isSome then some (.errPolicy ((o - 0x3000) / 8)) else none
  else if 0x4100 ≤ o ∧ o < 0x4180 then
    if o % 16 = 0 then some (.wdtCfg ((o - 0x4100) / 16)) else some (.wdtKick ((o - 0x4100) / 16))
  else if 0x5200 ≤ o ∧ o < 0x5280 then some (.snapSeq ((o - 0x5200) / 8))
  else match o with
    | 0x0000 => some .errLogPtr
    | 0x0008 => some (.errIrq false)
    | 0x0010 => some (.errIrq true)
    | 0x0018 => some .errPartHeld
    | 0x5000 => some .injCtrl
    | 0x5008 => some .injAddr
    | 0x5010 => some .injStatus
    | 0x5100 => some .snapCmd
    | _ => none

/-- Counters exist for the units of R44. -/
def regCounter (snap : Bool) (o : Nat) : Option Reg :=
  if !unitListed (o / 64) then none
  else if snap then some (.pmcSnap (o / 64) (o % 64 / 8)) else some (.pmc (o / 64) (o % 64 / 8))

def regSecurity (o : Nat) : Option Reg :=
  if o < 0x140 then (if o % 64 < 48 then some (.secMeas (o / 64) (o % 64 / 8)) else none)
  else if 0x400 ≤ o ∧ o < 0x800 then (if o % 64 < 56 then some (.secKey ((o - 0x400) / 64) (o % 64 / 8)) else none)
  else if 0x1000 ≤ o ∧ o < 0x1020 then some (.dbgNonce ((o - 0x1000) / 8))
  else if 0x4000 ≤ o ∧ o < 0x4030 then some (.signDigest ((o - 0x4000) / 8))
  else if 0x4040 ≤ o ∧ o < 0x40A0 then some (.signSig ((o - 0x4040) / 8))
  else match o with
    | 0x0200 => some .secFwFloor
    | 0x0208 => some .secShapeFloor
    | 0x0800 => some .secFuseArg
    | 0x0810 => some .secFuseCmd
    | 0x0818 => some .secFuseStatus
    | 0x1020 => some .dbgCmd
    | 0x1028 => some .dbgStatus
    | 0x1030 => some .dbgExpiry
    | 0x4030 => some .signCmd
    | 0x4038 => some .signStatus
    | _ => none

def regMailbox (o : Nat) : Option Reg :=
  let c := o / 0x100
  let r := o % 0x100
  if r < 0x40 then some (.mbxMsg c (r / 8))
  else if r = 0x40 then some (.mbxPost c)
  else if r = 0x48 then some (.mbxTake c)
  else if r = 0x50 then some (.mbxStatus c)
  else none

/-- The doorbell registers exist for the agents of R53. -/
def regDoorbell (o : Nat) : Option Reg :=
  if !mbxAgent (o / 16) then none else if o % 16 = 0 then some (.dbPend (o / 16)) else some (.dbMask (o / 16))

def regClove (o : Nat) : Option Reg :=
  if o < 0x1000 then (if o % 16 = 0 then some (.taskCfg (o / 16)) else some (.taskArg (o / 16)))
  else if o < 0x1100 then (if o % 16 = 0 then some (.flowCfg ((o - 0x1000) / 16)) else some (.flowStatus ((o - 0x1000) / 16)))
  else if 0x2000 ≤ o ∧ o < 0x2800 then
    match o % 32 with
    | 0 => some (.thrCtrl ((o - 0x2000) / 32))
    | 8 => some (.thrStatus ((o - 0x2000) / 32))
    | 16 => some (.thrStart ((o - 0x2000) / 32))
    | _ => none
  else if 0x3000 ≤ o ∧ o < 0x3040 then some (.clvCoreCtrl ((o - 0x3000) / 8))
  else match o with
    | 0x1100 => some .clvTick
    | 0x1200 => some .aniseCtrl
    | 0x1208 => some .anisePtr
    | 0x1210 => some .aniseRd
    | 0x2800 => some .clvIpi
    | 0x2808 => some .clvIpiClr
    | _ => none

def regHost (h o : Nat) : Option Reg :=
  if o = 0 then some (.hstStatus h)
  else if o = 8 then some (.hstCtrl h)
  else if 0x1000 ≤ o ∧ o < 0x2100 then
    let f := (o - 0x1000) / 0x100
    match o % 0x100 with
    | 0x00 => some (.sqBase h f)
    | 0x08 => some (.sqPtr h f)
    | 0x10 => some (.cqBase h f)
    | 0x18 => some (.cqPtr h f)
    | 0x20 => some (.fnStatus h f)
    | _ => none
  else none

def regLink (p o : Nat) : Option Reg :=
  match o with
  | 0x00 => some (.lnkCtrl p)
  | 0x08 => some (.lnkStatus p)
  | 0x10 => some (.lnkThresh p)
  | 0x18 => some (.lnkCount p 0)
  | 0x20 => some (.lnkCount p 1)
  | 0x28 => some (.lnkCount p 2)
  | 0x30 => some (.lnkCount p 3)
  | 0x38 => some (.lnkCount p 4)
  | 0x40 => some (.ethMac p)
  | 0x48 => some (.ethNexthop p)
  | 0x50 => some (.ethIp p false)
  | 0x58 => some (.ethIp p true)
  | 0x60 => some (.ethCfg p)
  | _ => none

def regGroup (o : Nat) : Option Reg :=
  if 0x100 ≤ o ∧ o < 0x300 then some (.grpRoute ((o - 0x100) / 8))
  else if 0x400 ≤ o ∧ o < 0x480 then some (.grpImport ((o - 0x400) / 8))
  else if 0x800 ≤ o ∧ o < 0xC00 then some (.peerIp ((o - 0x800) / 16) (o % 16 == 8))
  else if 0x1000 ≤ o ∧ o < 0x1100 then
    if o % 16 = 0 then some (.gbarCfg ((o - 0x1000) / 16)) else some (.gbarBlocks ((o - 0x1000) / 16))
  else if 0x2000 ≤ o ∧ o < 0x2100 then
    match o % 32 with
    | 0 => some (.collDesc ((o - 0x2000) / 32))
    | 8 => some (.collCmd ((o - 0x2000) / 32))
    | 16 => some (.collStatus ((o - 0x2000) / 32))
    | _ => none
  else match o with
    | 0x00 => some .grpCfg
    | 0x08 => some .grpMembers
    | 0x10 => some .grpStatus
    | 0x18 => some .grpLive
    | 0x20 => some .grpStage
    | 0x28 => some .distSrc
    | 0x30 => some .distLen
    | 0x38 => some .grpCmd
    | 0x40 => some .distDone
    | _ => none

def regVault (v o : Nat) : Option Reg :=
  match o with
  | 0x00 => some (.vltStatus v)
  | 0x08 => some (.vltTemp v)
  | 0x10 => some (.vltErase v)
  | 0x18 => some (.vltCmd v)
  | 0x20 => some (.vltActThresh v)
  | 0x28 => some (.vltEraseThresh v)
  | 0x30 => some (.vltScrubPos v)
  | 0x38 => some (.vltSplit v)
  | 0x40 => some (.vltCount v 0)
  | 0x48 => some (.vltCount v 1)
  | 0x50 => some (.vltCount v 2)
  | _ => none

def regWorker (n o : Nat) : Option Reg :=
  if 0x100 ≤ o ∧ o < 0x300 then some (.wrkSlot n ((o - 0x100) / 8))
  else if 0x8000 ≤ o ∧ o < 0x8200 then
    let src := StreamSrc.chan (Fin.ofNat 256 n) (Fin.ofNat 16 ((o - 0x8000) / 32))
    match o % 32 with
    | 0 => some (.chDesc src)
    | 8 => some (.chCmd src)
    | 16 => some (.chStatus src)
    | _ => none
  else match o with
    | 0x00 => some (.wrkCtrl n)
    | 0x08 => some (.wrkStatus n)
    | 0x10 => some (.wrkBootPc n)
    | 0x18 => some (.wrkFpdefault n)
    | 0x20 => some (.wrkFpStg n)
    | 0x28 => some (.wrkJobHead n)
    | 0x30 => some (.wrkJobTail n)
    | 0x38 => some (.wrkErr n)
    | 0x2000 => some (.l1Status n)
    | 0x8200 => some (.stragTimeout n)
    | 0x8208 => some (.tagsUsed n)
    | _ => none

def regBarrier (o : Nat) : Option Reg :=
  if 64 ≤ o / 64 then none
  else if o % 64 < 32 then some (.barMem (o / 64) (o % 64 / 8))
  else if o % 64 = 32 then some (.barCtl (o / 64)) else none

def regDma (o : Nat) : Option Reg :=
  if 8 ≤ o / 256 then none
  else
    let src := StreamSrc.dma (Fin.ofNat 8 (o / 256))
    match o % 256 with
    | 0 => some (.chDesc src)
    | 8 => some (.chCmd src)
    | 16 => some (.chStatus src)
    | _ => none

def regSlice (n o : Nat) : Option Reg :=
  match o with
  | 0x00 => some (.l2Status n)
  | 0x08 => some (.l2LockWays n)
  | 0x10 => some (.l2OfferThresh n)
  | 0x18 => some (.l2LockedInval n)
  | _ => none

def regSaffron (q o : Nat) : Option Reg :=
  match o with
  | 0x00 => some (.safStatus q)
  | 0x08 => some (.safSpillUsed q)
  | 0x10 => some (.safSplit q)
  | 0x18 => some (.safWarmCount q)
  | _ => none

def regTreeTable (o : Nat) : Option Reg :=
  match o with
  | 0x00 => some .ttSel
  | 0x08 => some .ttNextRoot
  | 0x10 => some .ttNextXs
  | 0x18 => some .ttCmd
  | 0x20 => some .ttStatus
  | 0x28 => some (.ttCopy 0)
  | 0x30 => some (.ttCopy 1)
  | 0x38 => some (.ttCopy 2)
  | 0x40 => some (.ttCopy 3)
  | 0x48 => some (.ttCopy 4)
  | 0x50 => some (.ttCopy 5)
  | _ => none

/-- The window of quadrant `q` (R575). -/
def regQuadrant (q o : Nat) : Option Reg :=
  if o < 0x40_0000 then regWorker (64 * q + o / 0x1_0000) (o % 0x1_0000)
  else if 0x80_0000 ≤ o ∧ o < 0xA0_0000 then regSlice (64 * q + (o - 0x80_0000) / 0x8000) (o % 0x8000)
  else if 0xA0_0000 ≤ o ∧ o < 0xB0_0000 then
    if o % 0x1_0000 = 0 then some (.tuStatus (16 * q + (o - 0xA0_0000) / 0x1_0000)) else none
  else if 0xC0_0000 ≤ o ∧ o < 0xF0_0000 then regSaffron q (o - 0xC0_0000)
  else if q ≠ 0 then none
  else if 0x40_0000 ≤ o ∧ o < 0x50_0000 then regBarrier (o - 0x40_0000)
  else if 0x50_0000 ≤ o ∧ o < 0x60_0000 then regDma (o - 0x50_0000)
  else if 0xF0_0000 ≤ o then regTreeTable (o - 0xF0_0000)
  else none

/-- The register whose first byte lies at a block offset (R13, R574). -/
def regAt (o : Nat) : Option Reg :=
  if o < 0x10_0000 then regIdentity o
  else if o < 0x20_0000 then regLoader (o - 0x10_0000)
  else if o < 0x30_0000 then regPower (o - 0x20_0000)
  else if o < 0x40_0000 then regCaraway (o - 0x30_0000)
  else if o < 0x48_0000 then regError (o - 0x40_0000)
  else if o < 0x4C_0000 then regCounter false (o - 0x48_0000)
  else if o < 0x50_0000 then regCounter true (o - 0x4C_0000)
  else if o < 0x60_0000 then regSecurity (o - 0x50_0000)
  else if o < 0x60_4000 then regMailbox (o - 0x60_0000)
  else if o < 0x61_0000 then none
  else if o < 0x62_0000 then regDoorbell (o - 0x61_0000)
  else if o < 0x70_0000 then none
  else if o < 0x80_0000 then regClove (o - 0x70_0000)
  else if o < 0x88_0000 then regHost ((o - 0x80_0000) / 0x4_0000) (o % 0x4_0000)
  else if o < 0x90_0000 then none
  else if o < 0xB0_0000 then regLink ((o - 0x90_0000) / 0x1_0000) (o % 0x1_0000)
  else if o < 0xC0_0000 then regGroup (o - 0xB0_0000)
  else if o < 0xD0_0000 then regVault ((o - 0xC0_0000) / 0x1000) (o % 0x1000)
  else if o < 0x100_0000 then none
  else if o < 0x500_0000 then regQuadrant ((o - 0x100_0000) / 0x100_0000) (o % 0x100_0000)
  else none

/-- What a block offset reaches: a register, the debug-token buffer, or a Clove memory (R377, R548, R576). -/
inductive Place where
  | reg (r : Reg)
  | token (off : Nat)
  | clv (tcm : Bool) (off : Nat)
deriving DecidableEq, Repr

/-- The byte-addressed places (R576). -/
def placeBytes (o : Nat) : Option Place :=
  if 0x50_2000 ≤ o ∧ o < 0x50_4000 then some (.token (o - 0x50_2000))
  else if 0x800_0000 ≤ o ∧ o < 0x880_0000 then some (.clv false (o - 0x800_0000))
  else if 0xA00_0000 ≤ o ∧ o < 0xA40_0000 then some (.clv true (o - 0xA00_0000))
  else none

/-- The place an access of a width reaches; none where it completes with DECODE (R13, R576). -/
def placeAt (o : Nat) (w : Width) : Option Place :=
  match placeBytes o with
  | some p => if w = .other ∨ o % 8 = 0 then some p else none
  | none => if w = .other ∨ o % 8 ≠ 0 then none else (regAt o).map .reg

/-! ## Halves (R577). -/

end Sys2Proof.Machine

namespace Sys2Proof

/-- Whether an access covers the low half, and the high half, of a register. -/
def Width.low : Width → Bool | .full | .lo => true | _ => false
def Width.high : Width → Bool | .full | .hi => true | _ => false

/-- The bits an access covers. -/
def Width.mask (w : Width) : W64 :=
  BitVec.ofNat 64 ((if w.low then 0xFFFF_FFFF else 0) + (if w.high then 0xFFFF_FFFF_0000_0000 else 0))

end Sys2Proof

namespace Sys2Proof.Machine

/-- Bits [h:l] set. -/
def bitsOf (h l : Nat) : Nat := (2 ^ (h + 1 - l) - 1) * 2 ^ l

/-- The RW fields of a register: a write of one half keeps their bits in the other. -/
def Reg.rw : Reg → Nat
  | .shpSrcAddr => bitsOf 51 4
  | .shpSrcLen => bitsOf 22 0
  | .clkStg => 3
  | .nutCap => bitsOf 11 0
  | .nutCfg => bitsOf 21 0
  | .pdReq _ => bitsOf 63 0
  | .pdClove => bitsOf 7 0
  | .carHoldup => bitsOf 15 0
  | .carRecCfg => bitsOf 47 16 + bitsOf 10 0
  | .carBudget => bitsOf 7 0
  | .errLogPtr => bitsOf 7 0
  | .wdtCfg _ => bitsOf 31 0
  | .injCtrl => bitsOf 47 32 + bitsOf 17 0
  | .injAddr => bitsOf 51 7 + 1
  | .secFuseArg => bitsOf 63 0
  | .signDigest _ => bitsOf 63 0
  | .dbMask _ => bitsOf 31 0
  | .taskCfg _ => bitsOf 12 8 + bitsOf 7 0
  | .taskArg _ => bitsOf 63 0
  | .flowCfg _ => bitsOf 18 16 + bitsOf 13 0
  | .aniseCtrl => bitsOf 39 16 + 3
  | .aniseRd => bitsOf 11 0
  | .thrStart _ => bitsOf 51 2
  | .hstCtrl _ => bitsOf 37 32 + bitsOf 13 0
  | .sqBase _ _ | .cqBase _ _ => bitsOf 44 12 + bitsOf 4 0
  | .sqPtr _ _ | .cqPtr _ _ => bitsOf 43 32 + bitsOf 11 0
  | .lnkCtrl _ => bitsOf 11 8
  | .lnkThresh _ => bitsOf 15 0
  | .ethMac _ | .ethNexthop _ => bitsOf 47 0
  | .ethIp _ _ => bitsOf 63 0
  | .ethCfg _ => bitsOf 63 12 + 3
  | .grpCfg => bitsOf 63 32 + bitsOf 29 24 + bitsOf 16 16 + bitsOf 13 8 + 1
  | .grpMembers => bitsOf 63 0
  | .grpStage => bitsOf 51 12 + 1
  | .distSrc => bitsOf 51 4
  | .distLen => bitsOf 22 0
  | .grpRoute _ => bitsOf 31 0
  | .grpImport _ => bitsOf 63 0
  | .peerIp _ _ => bitsOf 63 0
  | .gbarCfg _ => bitsOf 8 8 + bitsOf 5 0
  | .gbarBlocks _ => bitsOf 63 0
  | .collDesc _ => bitsOf 51 6
  | .vltActThresh _ => bitsOf 12 0
  | .vltEraseThresh _ => bitsOf 7 0
  | .wrkBootPc _ => bitsOf 51 2
  | .wrkFpStg _ => bitsOf 3 0
  | .wrkJobTail _ => bitsOf 3 0
  | .wrkSlot _ _ => bitsOf 63 0
  | .chDesc _ => bitsOf 51 7
  | .stragTimeout _ => bitsOf 31 0
  | .barMem _ _ => bitsOf 63 0
  | .barCtl _ => bitsOf 19 16 + 1
  | .l2LockWays _ => bitsOf 15 0
  | .l2OfferThresh _ => bitsOf 4 0
  | .ttSel => bitsOf 19 16 + bitsOf 9 0
  | .ttNextRoot | .ttNextXs => bitsOf 63 0
  | .pmc _ _ => bitsOf 47 0
  | .mbxMsg _ w => if w = 0 then bitsOf 46 0 else bitsOf 63 0
  | _ => 0

end Sys2Proof.Machine
end

