-- ==== Sys2Proof/Machine/RegRead.lean ====
section
/-! DEFINITION. What a read of each register returns and what it changes (R10, R12, R495, R515, R577). -/

namespace Sys2Proof.Machine

/-- A register value from its fields: each field's value and lowest bit. -/
def fieldsOf (fs : List (Nat × Nat)) : W64 := BitVec.ofNat 64 (fs.foldl (fun a f => a + f.1 * 2 ^ f.2) 0)

/-! ## Codes of the state fields. -/

/-- SHP_STATUS.STATE (R67). -/
def LoaderState.code : LoaderState → Nat | .idle => 0 | .verifying => 1 | .staged => 2 | .committing => 3
/-- WRK_STATUS.STATE (R110). -/
def Wrk.stateCode (w : Wrk) : Nat :=
  match w.run with | .halted => 0 | .running => if w.monitor then 1 else 2 | .wfi | .jobgo => 3 | .stopped => 4
/-- CLV_THREAD_STATUS.STATE (R409). -/
def ThrRun.code : ThrRun → Nat | .halted => 0 | .running => 1 | .waitTask _ | .waitInt => 2 | .stopped => 3
/-- LNK_STATUS.STATE (R461). -/
def LinkRun.code : LinkRun → Nat | .disabled => 0 | .training => 1 | .up => 2 | .foreign => 3 | .down => 4
/-- LNK_COLL_STATUS.STATE (R462). -/
def CollRun.code : CollRun → Nat | .idle => 0 | .armed => 1 | .running => 2
/-- CLK_OP_STATUS.STANDBY (R496). -/
def Standby.code : Standby → Nat | .stopped => 0 | .locking => 1 | .locked => 2
/-- BLK_STATE.STATE (R548). -/
def BlkState.code : BlkState → Nat
  | .reset => 0 | .rom => 1 | .memory => 2 | .ready => 3 | .recovery => 4 | .failed => 5 | .romFail => 6

/-- BLK_FAIL_N is driven low (R566). -/
def BlkState.fails (b : BlkState) : Bool := b == .failed || b == .romFail

/-! ## Values by unit. -/

/-- BLK_STATE (R548). -/
def State.blkStateVal (s : State) : W64 :=
  let b := s.boot
  fieldsOf [(b.st.code, 0), (b2n b.dirCopy, 8), (b2n b.fwCopy, 9), (b2n b.shapeCopy, 10), (b.readyResult, 36), (b.failStage, 44),
    (b.failCode, 48), (b.count, 56)]

/-- MODE_STATUS (R70). -/
def State.modeStatusVal (s : State) : W64 :=
  let c := s.commit
  fieldsOf [(b2n c.active, 0), (b2n c.stageReject, 1), (b2n c.busyReject, 2), (c.result, 8), (c.parts.length, 12),
    ((c.parts.filter fun u => !c.acked.contains u).length, 24), (c.failUnit.toNat, 48)]

/-- NUT_STATUS (R496). -/
def State.nutStatusVal (s : State) : W64 :=
  let n := s.nut
  fieldsOf [(b2n n.warn, 0), (b2n n.trip, 1), (b2n n.staticGb, 2), (b2n n.protect, 3), (b2n n.exhausted, 4), (b2n n.baselineOnly, 5),
    (b2n n.planRunning, 6), (b2n n.pdReject, 7), (s.topLevel, 8), (n.usable.toNat, 12)]

/-- NUT_DCAL of an entry (R496). -/
def State.dcalVal (s : State) (i : Nat) : W64 :=
  let d := s.dcalOf i
  if d.present then fieldsOf [(d.i, 0), (d.g, 16), (1, 24), (min ((s.now - d.made) / secUnits) (2 ^ 32 - 1), 32)] else 0

/-- BLK_PIN_STATUS (R572). -/
def State.pinStatusVal (s : State) : W64 :=
  let p := s.pins
  fieldsOf [(b2n p.refclkOk, 2), (b2n s.boot.st.fails, 3), (b2n p.alertOut, 4), (b2n p.critOut, 5), (b2n p.holdupLow, 6),
    (b2n p.holdupEvent, 7)]

/-- CAR_HOLDUP (R497). -/
def State.carHoldupVal (s : State) : W64 :=
  let age := match s.car.holdupAt with | some t => min ((s.now - t) / msUnits) 0xFFFF | none => 0xFFFF
  fieldsOf [(s.car.mj, 0), (age, 16)]

/-- ERR_POLICY: the policy in force in the layout of a section 0x0F entry (R59, R520). -/
def State.errPolicyVal (s : State) (id : Nat) : W64 :=
  match detectorRow id with
  | some row =>
    let p := s.policy row
    fieldsOf [(id, 0), (p.action, 16), (p.flags, 24), (p.threshold, 32), (p.thread, 48)]
  | none => 0

/-- SEC_KEY word 6 and the words of its digest (R548). -/
def State.secKeyVal (s : State) (k w : Nat) : W64 :=
  let x := s.keySlot k
  if w = 6 then fieldsOf [(x.cls, 0), (b2n x.revoked, 2)] else x.digest.extractLsb' (64 * w) 64

/-- CLV_TASK_CFG (R408). -/
def State.taskCfgVal (s : State) (k : Nat) : W64 :=
  let t := s.task k
  fieldsOf [(t.aff.toNat, 0), (t.prio, 8), (b2n t.wakePend, 15), (t.st.code, 16)]

/-- CLV_FLOW_CFG and CLV_FLOW_STATUS (R408). -/
def Flow.cfgVal (f : Flow) : W64 :=
  fieldsOf [(f.wakeTask, 0), (f.wakeThread, 8), (b2n f.en, 16), (b2n f.wakeEn, 17), (b2n f.irqEn, 18)]
def Flow.statusVal (f : Flow) : W64 :=
  fieldsOf [(f.head.toNat, 0), ((f.head + BitVec.ofNat 16 f.ents.length).toNat, 16), (b2n f.releasable, 32)]

/-- HST_PORT_STATUS (R435). -/
def HostPort.statusVal (p : HostPort) : W64 :=
  fieldsOf [(p.width, 0), (p.rate, 8), (b2n p.ideUp, 11), (b2n p.trainFail, 12), (p.vfs % 16, 16)]

/-- The job-ring registers of a function; those of one that serves no partition read as zero (R414, R435). -/
def HostFn.val (x : HostFn) : Reg → W64
  | .sqBase _ _ => fieldsOf [(x.sqSize, 0), (b2n x.sqEn, 4), (x.sqBase, 0)]
  | .cqBase _ _ => fieldsOf [(x.cqSize, 0), (b2n x.cqEn, 4), (x.cqBase, 0)]
  | .sqPtr _ _ => fieldsOf [(x.sqHead, 0), (x.sqTail, 32)]
  | .cqPtr _ _ => fieldsOf [(x.cqTail, 0), (b2n x.phase, 12), (x.cqHead, 32)]
  | _ => fieldsOf [(b2n x.db, 0), (b2n x.ptrReject, 1)]

def State.fnVal (s : State) (h f : Nat) (r : Reg) : W64 := if s.fnRings h f then (s.hostFn h f).val r else 0

/-- LNK_STATUS and LNK_ETH_CFG (R461). -/
def LinkPort.statusVal (x : LinkPort) : W64 :=
  fieldsOf [(x.st.code, 0), (x.retired.toNat, 8), (popBits x.lanes.toNat 8, 16), (x.peerBlock, 32), (x.peerPort, 40)]
def LinkPort.ethCfgVal (x : LinkPort) : W64 :=
  fieldsOf [(x.maxpay, 0), (x.prio.toNat, 12), (x.dscp.toNat, 24), (x.rto, 48)]

/-- The error counters of a link port (R461). -/
def LinkPort.counter (x : LinkPort) (i : Nat) : Nat :=
  match i with | 0 => x.fecCe | 1 => x.fecUe | 2 => x.retry | 3 => x.fwdDrop | _ => x.rxDiscard
def LinkPort.clearCounter (x : LinkPort) (i : Nat) : LinkPort :=
  match i with
  | 0 => { x with fecCe := 0 }
  | 1 => { x with fecUe := 0 }
  | 2 => { x with retry := 0 }
  | 3 => { x with fwdDrop := 0 }
  | _ => { x with rxDiscard := 0 }

/-- LNK_GRP_CFG and LNK_GRP_STATUS (R462). -/
def GroupSt.cfgVal (g : GroupSt) : W64 :=
  fieldsOf [(b2n g.en, 0), (g.self, 8), (b2n g.privImport, 16), (g.irqThread, 24), (g.id.toNat, 32)]
def State.grpStatusVal (s : State) : W64 :=
  let g := s.grp
  fieldsOf [(b2n s.managerValid, 0), (b2n s.isManager, 1), (b2n g.distBusy, 2), (b2n g.imageRcvd, 3), (g.manager, 8),
    (b2n s.quorum, 16), (g.term.toNat, 32)]

/-- LNK_COLL_STATUS (R462). -/
def Coll.statusVal (c : Coll) : W64 := fieldsOf [(c.st.code, 0), (c.result, 4), (c.done, 8), (c.flags.toNat, 40)]

/-- VLT_STATUS, VLT_TEMP and VLT_ERASE (R373). -/
def Vlt.statusVal (x : Vlt) : W64 :=
  let er := (List.range 8).filter fun t => Tbl.get 0xF x.erase t != 0xF
  fieldsOf [(x.st, 0), (er.foldl (fun a t => a + 2 ^ t) 0, 8), (b2n x.zeroBusy, 16), (b2n (er != []), 17), (x.band, 18), (x.cmdResult, 20)]
def Vlt.tempVal (x : Vlt) : W64 := fieldsOf ((List.range 8).map fun t => (Tbl.get 0 x.temp t, 8 * t))
def Vlt.eraseVal (x : Vlt) : W64 := fieldsOf ((List.range 8).map fun t => (Tbl.get 0xF x.erase t, 4 * t))
/-- VLT_INNER_CE, VLT_OUTER_CE and VLT_UE (R373). -/
def Vlt.counter (x : Vlt) (i : Nat) : Nat := match i with | 0 => x.innerCe | 1 => x.outerCe | _ => x.ue
def Vlt.clearCounter (x : Vlt) (i : Nat) : Vlt :=
  match i with | 0 => { x with innerCe := 0 } | 1 => { x with outerCe := 0 } | _ => { x with ue := 0 }

/-- WRK_STATUS (R110). -/
def State.wrkStatusVal (s : State) (n : Nat) : W64 :=
  let w := s.core n
  fieldsOf [(w.stateCode, 0), (b2n (s.coreHeld n), 3), (w.stopCause.toNat, 8), (b2n w.jobOverrun, 16)]

/-- STR_CH_STATUS and SDMA_STATUS (R304). -/
def Channel.statusVal (c : Channel) : W64 := fieldsOf [(c.st.code, 0), (b2n (c.shadow != .none), 3), (c.result, 8)]

/-- BAR_CTL (R305). -/
def Barrier.ctlVal (b : Barrier) : W64 :=
  fieldsOf [(b2n b.en, 0), (b2n b.broken, 1), (b.count, 2), (b.part, 16), (b.phase.toNat, 32)]

/-- L2_STATUS (R350). -/
def State.l2StatusVal (s : State) (n : Nat) : W64 :=
  let x := s.slice n
  fieldsOf [((x.dir.filter fun e => !e.2.empty).length, 0), (x.locked.toNat, 16), (x.l2.dis.toNat, 32), (b2n (s.cfg.l2Mode.getLsbD n), 48)]

/-- SAF_STATUS (R263). -/
def Saffron.statusVal (f : Saffron) : W64 :=
  fieldsOf [(f.storeUsed, 0), ((f.bins.filter fun b => !b.2.qs.isEmpty).length, 32), (f.gen.length, 52), (b2n f.warm, 56)]

/-! ## The value of a register. -/

/-- The value that an agent reads; WO fields read as zero (R10, R12). -/
def State.regVal (s : State) (a : Agent) (r : Reg) : W64 :=
  match r with
  | .blkVersion => 0x09020000
  | .blkGeometry => fieldsOf [(0x100, 0), (0x40, 16), (4, 24), (0x20, 32), (2, 40), (8, 48), (0x10, 56)]
  | .blkState => s.blkStateVal
  | .blkTime => s.time.blk
  | .blkSerial => s.fuse.serial
  | .modeEpoch => s.commit.epoch
  | .modeStatus => s.modeStatusVal
  | .modeEpochTime => s.commit.epochTime
  | .shpSrcAddr => BitVec.ofNat 64 s.shape.srcAddr
  | .shpSrcLen => BitVec.ofNat 64 s.shape.srcLen
  | .shpStatus => fieldsOf [(s.shape.st.code, 0), (s.shape.sections.toNat, 8), (s.shape.result, 24)]
  | .shpBootSeq => s.shape.bootSeq
  | .shpReshapeSeq => s.shape.reshapeSeq
  | .shpDrained => BitVec.ofNat 64 s.drainedMask
  | .clkStatus => fieldsOf [(s.clk.cur, 0), (s.clk.mult, 8), (s.clk.standby.code, 16), (s.clk.switches, 32)]
  | .clkStg => fieldsOf [(s.clk.stgIndex, 0), (b2n s.clk.stgPend, 4)]
  | .nutCap => BitVec.ofNat 64 s.nut.capW
  | .nutStatus => s.nutStatusVal
  | .nutCfg => fieldsOf [(s.nut.warnT, 0), (s.nut.droopTrip, 8), (s.nut.irqThread, 16)]
  | .nutEvent => s.nut.event.setWidth 64
  | .pdReq j => s.nut.pdReq.extractLsb' (64 * j) 64
  | .pdState j => s.nut.pdState.extractLsb' (64 * j) 64
  | .pdClove => fieldsOf [(s.nut.clvReq.toNat, 0), (s.nut.clvState.toNat, 8)]
  | .dcal i => s.dcalVal i
  | .pinStatus => s.pinStatusVal
  | .telemetry g w => (s.teleRead a g w).2
  | .carHoldup => s.carHoldupVal
  | .carRecCfg => fieldsOf [(b2n s.car.recEn, 0), (s.car.recBlocks, 1), (s.car.recBase, 16)]
  | .carRecStatus => fieldsOf [(b2n s.car.aonHeld, 0), (s.car.held.length, 16), (s.car.deferrals, 32), (s.car.lost, 48)]
  | .carBudget => fieldsOf [(s.car.task, 0), (s.car.cloveUsed, 16)]
  | .errLogPtr => fieldsOf [(s.err.rd.toNat, 0), (s.err.write.toNat, 16), (s.err.lost, 48)]
  | .errIrq hi => s.err.irq.extractLsb' (if hi then 64 else 0) 64
  | .errPartHeld => s.err.partHeld.setWidth 64
  | .errLog i w => BitVec.ofNat 64 (le (Tbl.get LogRec.off s.err.log i).bytes (8 * w) 8)
  | .errCnt id => BitVec.ofNat 64 (s.err.cntRead id)
  | .errPolicy id => s.errPolicyVal id
  | .wdtCfg c => BitVec.ofNat 64 (Tbl.get 0 s.err.wdtPeriod c)
  | .injCtrl => fieldsOf [(s.err.injDet.toNat, 0), (s.err.injMode, 16), (s.err.injUnit.toNat, 32)]
  | .injAddr => s.err.injAddr
  | .injStatus => fieldsOf [(b2n s.err.injArmed, 0), (s.err.injResult, 4), (s.err.injFired, 32)]
  | .snapSeq g => (s.snapSeqRead a g).2
  | .pmc u i => if (s.cfg.counterOf u i).used then Tbl.get 0 s.err.pmc (8 * u + i) else 0
  | .pmcSnap u i => (s.snapRead a u i).2
  | .secMeas k w => (s.slot k).extractLsb' (64 * w) 64
  | .secFwFloor => BitVec.ofNat 64 s.fwFloor
  | .secShapeFloor => BitVec.ofNat 64 s.shapeFloor
  | .secKey k w => s.secKeyVal k w
  | .secFuseArg => s.sec.fuseArg
  | .secFuseStatus => fieldsOf [(b2n (s.sec.fuseOp != .none), 0), (s.sec.fuseResult, 4), (s.recordsLeft, 8)]
  | .dbgNonce w => s.sec.nonce.extractLsb' (64 * w) 64
  | .dbgStatus => fieldsOf [(s.sec.level, 0), (b2n s.sec.dbgBusy, 2), (s.sec.dbgResult, 8), (b2n s.sec.keyErased, 12)]
  | .dbgExpiry => s.sec.expiry
  | .signDigest w => Tbl.get 0 s.sec.signDigest w
  | .signStatus => fieldsOf [(b2n s.sec.signBusy, 0), (s.sec.signResult, 4)]
  | .signSig w => Tbl.get 0 s.sec.signSig w
  | .mbxMsg c w => s.mbxRead a.code c w
  | .mbxTake c => (s.mbxTake a.code c).1
  | .mbxStatus c => let x := s.mbxAt c
                    fieldsOf [(b2n x.full, 0), (b2n x.postReject, 1), (b2n x.writeReject, 2)]
  | .dbPend t => (s.dbPend t).setWidth 64
  | .dbMask t => (s.dbMaskOf t).setWidth 64
  | .taskCfg k => s.taskCfgVal k
  | .taskArg k => (s.task k).arg
  | .flowCfg f => (s.flow f).cfgVal
  | .flowStatus f => (s.flow f).statusVal
  | .clvTick => BitVec.ofNat 64 s.sched.tick
  | .aniseCtrl => fieldsOf [(b2n s.sched.aniseEn, 0), (b2n s.sched.aniseStop, 1), (s.sched.aniseBase, 16), (s.sched.evmask.toNat, 24)]
  | .anisePtr => fieldsOf [(s.sched.aniseWrite.toNat, 0), (s.sched.aniseLost, 48)]
  | .aniseRd => s.sched.aniseRd.setWidth 64
  | .thrStatus h => fieldsOf [((s.thread h).run.code, 0), ((s.thread h).stopCause, 8)]
  | .thrStart h => (s.thread h).start
  | .clvIpi => s.sched.ipi
  | .hstStatus h => (s.hostPort h).statusVal
  | .hstCtrl h => fieldsOf [((s.hostPort h).biTimeout, 0), ((s.hostPort h).irqThread, 32)]
  | .sqBase h f | .cqBase h f | .sqPtr h f | .cqPtr h f | .fnStatus h f => s.fnVal h f r
  | .lnkCtrl p => fieldsOf [((s.port p).minWidth, 8)]
  | .lnkStatus p => (s.port p).statusVal
  | .lnkThresh p => BitVec.ofNat 64 (s.port p).laneThresh
  | .lnkCount p i => BitVec.ofNat 64 ((s.port p).counter i)
  | .ethMac p => (s.port p).mac.setWidth 64
  | .ethNexthop p => (s.port p).nexthop.setWidth 64
  | .ethIp p hi => (s.port p).ip.extractLsb' (if hi then 64 else 0) 64
  | .ethCfg p => (s.port p).ethCfgVal
  | .grpCfg => s.grp.cfgVal
  | .grpMembers => s.grp.members
  | .grpStatus => s.grpStatusVal
  | .grpLive => s.grp.live
  | .grpStage => fieldsOf [(b2n s.grp.stageEn, 0), (s.grp.stageAddr, 0)]
  | .distSrc => BitVec.ofNat 64 s.grp.distSrc
  | .distLen => BitVec.ofNat 64 s.grp.distLen
  | .grpCmd => fieldsOf [(s.grp.cmdResult, 8)]
  | .distDone => s.grp.distDone
  | .grpRoute b => (Tbl.get 0 s.grp.route b).setWidth 64
  | .grpImport p => Tbl.get 0 s.grp.imports p
  | .peerIp b hi => (Tbl.get 0 s.grp.peerIp b).extractLsb' (if hi then 64 else 0) 64
  | .gbarCfg g => let x := s.gbar g
                  fieldsOf [(x.loc, 0), (b2n x.en, 8), (x.phase.toNat, 32)]
  | .gbarBlocks g => (s.gbar g).blocks
  | .collDesc k => BitVec.ofNat 64 (s.collOf k).desc
  | .collStatus k => (s.collOf k).statusVal
  | .vltStatus v => (s.vault v).statusVal
  | .vltTemp v => (s.vault v).tempVal
  | .vltErase v => (s.vault v).eraseVal
  | .vltActThresh v => BitVec.ofNat 64 (s.vault v).actThresh
  | .vltEraseThresh v => BitVec.ofNat 64 (s.vault v).eraseThresh
  | .vltScrubPos v => fieldsOf [((s.vault v).scrubLine, 0), ((s.vault v).passes, 48)]
  | .vltSplit v => let c := s.cfg.splitOf v
                   fieldsOf [(c.read, 0), (c.write, 8), (c.remote, 16)]
  | .vltCount v i => BitVec.ofNat 64 ((s.vault v).counter i)
  | .wrkStatus n => s.wrkStatusVal n
  | .wrkBootPc n => (s.core n).bootPc
  | .wrkFpdefault n => (s.core n).fpdefault.setWidth 64
  | .wrkFpStg n => fieldsOf [((s.core n).fpStg.toNat, 0), (b2n (s.core n).fpPend, 4)]
  | .wrkJobHead n => (s.core n).jobHead.setWidth 64
  | .wrkJobTail n => (s.core n).jobTail.setWidth 64
  | .wrkErr n => fieldsOf [(b2n (s.core n).errPend, 0), ((s.core n).errDet.toNat, 16)]
  | .wrkSlot n w => Tbl.get 0 (s.core n).slots w
  | .l1Status n => let c := s.cacheOf (.l1 (Fin.ofNat 256 n))
                   fieldsOf [(b2n c.miss.isSome, 0), (c.dis.toNat % 256, 8), (b2n (s.cfg.l1Mode.getLsbD n), 16)]
  | .chDesc src => BitVec.ofNat 64 (s.chanOf src).descAddr
  | .chStatus src => (s.chanOf src).statusVal
  | .stragTimeout n => BitVec.ofNat 64 (s.core n).stragTimeout
  | .tagsUsed n => BitVec.ofNat 64 (s.tagsUsed n)
  | .barMem b j => (s.bar b).mem.extractLsb' (64 * j) 64
  | .barCtl b => (s.bar b).ctlVal
  | .l2Status n => s.l2StatusVal n
  | .l2LockWays n => let x := s.slice n
                     fieldsOf [(x.lockReq.toNat, 0), (b2n x.lockBusy, 16), (b2n x.lockReject, 17)]
  | .l2OfferThresh n => BitVec.ofNat 64 (s.slice n).thresh
  | .l2LockedInval n => BitVec.ofNat 64 (s.slice n).lockedInval
  | .tuStatus m => fieldsOf [(s.cfg.tuOwner m, 0), ((s.trav m).held.length, 8), ((s.trav m).waiting.length, 16)]
  | .safStatus q => (s.saffron q).statusVal
  | .safSpillUsed q => BitVec.ofNat 64 (s.saffron q).spillUsed
  | .safSplit q => fieldsOf ((List.range 6).map fun t => ((s.saffron q).share.getD t 0, 8 * t))
  | .safWarmCount q => BitVec.ofNat 64 (s.saffron q).warmCount
  | .ttSel => fieldsOf [(s.ttRegs.entry, 0), (s.ttRegs.part, 16)]
  | .ttNextRoot => s.ttRegs.nextRoot
  | .ttNextXs => s.ttRegs.nextXs
  | .ttStatus => fieldsOf [(b2n s.ttRegs.busy, 0), (b2n s.ttRegs.cmdReject, 1), (s.ttRegs.result, 4)]
  | .ttCopy i => Tbl.get 0 s.ttRegs.copy i
  | .blkCtrl | .modeCommit | .shpCmd | .nutCmd | .wdtKick _ | .snapCmd | .secFuseCmd | .dbgCmd | .signCmd | .mbxPost _
  | .thrCtrl _ | .clvIpiClr | .clvCoreCtrl _ | .collCmd _ | .vltCmd _ | .wrkCtrl _ | .chCmd _ | .ttCmd => 0

/-! ## What a read changes. -/

/-- RC fields that a read covers clear (R10, R577), and a telemetry or snapshot read latches (R495, R515). -/
def State.regReadEffect (s : State) (a : Agent) (r : Reg) (w : Width) : State :=
  match r with
  | .telemetry g word => (s.teleRead a g word).1
  | .snapSeq g => (s.snapSeqRead a g).1
  | .pmcSnap u i => (s.snapRead a u i).1
  | .mbxTake c => if w = .full then (s.mbxTake a.code c).2 else s
  | .carRecStatus => if w.high then s.updCar fun c => { c with lost := 0, deferrals := 0 } else s
  | .errLogPtr => if w.high then s.updErr fun e => { e with lost := 0 } else s
  | .errCnt id => if w.low then s.updErr fun e => e.cntClear id else s
  | .injStatus => if w.high then s.updErr fun e => { e with injFired := 0 } else s
  | .anisePtr => if w.high then s.updSched fun c => { c with aniseLost := 0 } else s
  | .lnkCount p i => if w.low then s.updPort p fun x => x.clearCounter i else s
  | .vltCount v i => if w.low then s.updVault v fun x => x.clearCounter i else s
  | .l2LockedInval n => if w.low then s.updSlice n fun x => { x with lockedInval := 0 } else s
  | _ => s

end Sys2Proof.Machine
end

