-- ==== Sys2Proof/Machine/RegWrite.lean ====
section
/-! DEFINITION. What a write of each register does (R10, R12, R577). Where one write holds several action bits, the
actions run in ascending bit order on one another's results; a field whose value is out of its range keeps its value
while the others take theirs (log 30). -/

namespace Sys2Proof.Machine

/-! ## Writes with a rule of their own. -/

/-- WRK_CTRL (R110). RUN starts a halted core in monitor mode at WRK_BOOT_PC; KILL makes STOP pending. -/
def State.coreRun (s : State) (n : Nat) : State :=
  if (s.core n).run = .halted then s.updCore n fun w => { w with run := .running, monitor := true, pc := w.bootPc } else s
def State.coreKill (s : State) (n : Nat) : State := s.updCore n fun w => { w with killPend := true }
def State.wrkCtrl (s : State) (n : Nat) (run reset kill : Bool) : State :=
  let s1 := if run then s.coreRun n else s
  let s2 := if reset then s1.coreReset n else s1
  if kill then s2.coreKill n else s2

/-- WRK_JOB_TAIL: a tail more than eight past HEAD is ignored and sets JOB_OVERRUN (R110). -/
def Wrk.tailPut (w : Wrk) (t : BitVec 4) : Wrk :=
  if 8 < (t - w.jobHead).toNat then { w with jobOverrun := true } else { w with jobTail := t }

/-- A write of WRK_JOB_TAIL. A job that lands in the HK cycle in which the tile was asked off withdraws that request (R498). -/
def State.tailWrite (s : State) (n : Nat) (t : BitVec 4) : State :=
  let s1 := s.updCore n fun w => w.tailPut t
  let w := s1.core n
  if w.jobHead != w.jobTail && s.nut.pdReq.getLsbD n && !s.nut.pdState.getLsbD n && Tbl.get 0 s.nut.pdAt n == s.time.hk + 1 then
    s1.updNut fun x => { x with pdReq := x.pdReq &&& ~~~(BitVec.ofNat 256 (2 ^ n)), pdReject := true }
  else s1

/-- L2_LOCK_WAYS (R326). A bit that names a disabled way reads 0. -/
def Slice.lockPut (x : Slice) (ways : BitVec 16) (clear : Bool) : Slice :=
  let x1 := if clear then { x with lockReject := false } else x
  let want := ways &&& ~~~x.l2.dis
  if x.lockBusy ∨ 8 < popBits want.toNat 16 then { x1 with lockReject := true }
  else { x1 with lockReq := want, locked := x.locked &&& want, lockBusy := (want &&& ~~~x.lockReq) != 0 }

/-- LOCK_DRAIN_DONE: the newly locked ways have been drained, and the lock takes effect (R326). -/
def State.lockDrained (s : State) (n : Nat) : State :=
  let x := s.slice n
  if !x.lockBusy then s
  else
    let new := x.lockReq &&& ~~~x.locked
    let out (e : Nat × CLine) : Bool := new.getLsbD (e.1 % 16)
    let s1 := (x.l2.lines.filter fun e => out e && e.2.st == .m).foldl (fun t e =>
      t.memPut e.2.line e.2.data e.2.poison) s
    s1.updSlice n fun y =>
      { y with l2 := { y.l2 with lines := y.l2.lines.filter fun e => !out e }, locked := y.lockReq, lockBusy := false }

/-- VLT_CMD (R363, R373, R375): 1 MARK_ERASE, 2 ZERO_ALL. -/
def State.vltCmd (s : State) (v op tier sl : Nat) : State :=
  let x := s.vault v
  let say (r : Nat) : State := s.updVault v fun x => { x with cmdResult := r }
  if op = 1 then
    if x.zeroBusy then say 3
    else if 8 < sl then say 2
    else if Tbl.get 0xF x.erase tier ≠ 0xF then say 1
    else (s.eraseSlice v tier sl).updVault v fun x => { x with cmdResult := 0 }
  else if op = 2 then
    if x.zeroBusy then say 3 else s.updVault v fun x => { x with cmdResult := 0, zeroBusy := true }
  else s

/-- ZERO_ALL_DONE: every line of the vault is zero, unpoisoned, with fresh codes (R373). -/
def State.zeroDone (s : State) (v : Nat) : State :=
  if !(s.vault v).zeroBusy then s
  else
    let lo := 0x6000_0000 * v
    (s.updMem fun m =>
      { m with dram := Tbl.cut lo (lo + 0x6000_0000) m.dram, poison := Tbl.cut (lo / 128) ((lo + 0x6000_0000) / 128) m.poison,
               rawErr := Tbl.cut (lo / 128) ((lo + 0x6000_0000) / 128) m.rawErr }).updVault v fun x => { x with zeroBusy := false }

/-- NUT_CFG (R496). -/
def NutSt.cfgPut (n : NutSt) (v : Nat) : NutSt :=
  let t := field v 7 0
  let d := field v 15 8
  { n with irqThread := field v 21 16, warnT := if 60 ≤ t ∧ t ≤ 94 then t else n.warnT,
           droopTrip := if 10 ≤ d ∧ d ≤ 45 then d else n.droopTrip }

/-- CAR_REC_CFG (R497). -/
def CarSt.cfgPut (c : CarSt) (v : Nat) : CarSt :=
  if c.recEn then { c with recEn := bitOf v 0 }
  else { c with recEn := bitOf v 0, recBlocks := field v 10 1, recBase := field v 47 16 }

/-- HST_PORT_CTRL (R435). -/
def HostPort.ctrlPut (p : HostPort) (v : Nat) : HostPort :=
  let t := field v 13 0
  { p with irqThread := field v 37 32, biTimeout := if 10 ≤ t ∧ t ≤ 10000 then t else p.biTimeout }

/-- LNK_CTRL (R461). -/
def State.lnkCtrl (s : State) (p : Nat) (minWidth : Option Nat) (train down reset : Bool) : State :=
  let s0 := match minWidth with
    | some m => if 1 ≤ m ∧ m ≤ 8 then s.updPort p fun x => { x with minWidth := m } else s
    | none => s
  let s1 := if train then s0.linkTrain p else s0
  let s2 := if down then s1.linkDown p else s1
  if reset then s2.updPort p fun x => { x with lanesBack := true } else s2

/-- LNK_ETH_CFG (R461). -/
def LinkPort.ethPut (x : LinkPort) (v : Nat) : LinkPort :=
  let r := field v 63 48
  { x with rto := if 10 ≤ r ∧ r ≤ 10000 then r else x.rto, dscp := BitVec.ofNat 24 (field v 47 24), prio := BitVec.ofNat 12 (field v 23 12),
           maxpay := if v % 4 = 3 then x.maxpay else v % 4 }

/-- Put 64 bits into the low or the high half of 128. -/
def half128 (old : BitVec 128) (hi : Bool) (v : W64) : BitVec 128 :=
  if hi then (v ++ old.setWidth 64 : BitVec 128) else (old.extractLsb' 64 64 ++ v : BitVec 128)

/-- LNK_GRP_CFG: with EN = 1 only EN and IRQ_THREAD are written (R462). -/
def GroupSt.cfgPut (g : GroupSt) (v : Nat) : GroupSt :=
  let g1 := { g with en := bitOf v 0, irqThread := field v 29 24 }
  if g.en then g1
  else { g1 with id := BitVec.ofNat 32 (field v 63 32), privImport := bitOf v 16, self := field v 13 8 }

/-- LNK_GBAR_CFG (R462). -/
def Gbar.cfgPut (x : Gbar) (v : Nat) : Gbar := { x with en := bitOf v 8, loc := if x.en then x.loc else field v 5 0 }

/-- Clear the bits of a word that are written as 1. -/
def w1c (old v : W64) : W64 := old &&& ~~~v

/-- Write a job-ring register of a function, by the side that owns its field (R425, R427, R435). -/
def State.fnPut (s : State) (a : Agent) (h f : Nat) (r : Reg) (v : W64) : State :=
  let n := v.toNat
  let host := match a with | .host _ _ => true | _ => false
  if !s.fnRings h f then s
  else s.updFn h f fun x0 =>
    let x := x0.atCycle s.time.hk
    match r with
    | .sqBase _ _ => x.basePut false v
    | .cqBase _ _ => x.basePut true v
    | .sqPtr _ _ => if host then x.sqTailPut (field n 43 32) else x.sqHeadPut (field n 11 0)
    | .cqPtr _ _ => if host then x.cqHeadPut (field n 43 32) else x.cqTailPut (field n 11 0) (s.hostUp h && !x.d3hot)
    | .fnStatus _ _ => { x with db := x.db && (!bitOf n 0 || x.tailNow), ptrReject := x.ptrReject && !bitOf n 1 }
    | _ => x

/-! ## The write of a register. -/

/-- What a register holds after a write of `w`, as its fields keep the bits of the half that is not written (R577). -/
def State.regMerged (s : State) (a : Agent) (r : Reg) (w : Width) (val : W64) : W64 :=
  if w = .full then val else (s.regVal a r &&& BitVec.ofNat 64 r.rw &&& ~~~w.mask) ||| (val &&& w.mask)

/-- The effect of a write that R420 answers with OKAY. Bits of the half that is not written act as R577 says. -/
def State.regPut (s : State) (a : Agent) (r : Reg) (w : Width) (val : W64) : State :=
  let v := s.regMerged a r w val
  let n := v.toNat
  let on (i : Nat) : Bool := bitOf n i
  match r with
  | .blkCtrl =>
    let s1 := if on 0 then s.blkReady else s
    if on 1 then s1.coldReset else s1
  | .modeCommit => if on 0 && on 1 then s else if on 0 then s.commitGo else if on 1 then s.commitDiscard else s
  | .modeStatus =>
    { s with commit := { s.commit with busyReject := s.commit.busyReject && !on 2, stageReject := s.commit.stageReject && !on 1 } }
  | .shpSrcAddr => { s with shape := { s.shape with srcAddr := field n 51 4 * 16 } }
  | .shpSrcLen => { s with shape := { s.shape with srcLen := field n 22 0 } }
  | .shpCmd => if on 0 then s.shapeLoad else s
  | .clkStg => if w.low then s.opStage v else s
  | .nutCap => if w.low then s.capWrite v else s
  | .nutStatus => if on 7 then s.updNut fun x => { x with pdReject := false } else s
  | .nutCfg => if w.low then s.updNut fun x => x.cfgPut n else s
  | .nutEvent => s.updNut fun x => { x with event := x.event &&& ~~~v.setWidth 7 }
  | .nutCmd => if on 0 then s.planAsk else s
  | .pdReq j => s.pdTiles j v
  | .pdClove => if w.low then s.pdClove v else s
  | .pinStatus => if on 7 then { s with pins := { s.pins with holdupEvent := false } } else s
  | .carHoldup => if w.low then s.holdupWrite (field n 15 0) else s
  | .carRecCfg => s.updCar fun c => c.cfgPut n
  | .carRecStatus => if on 0 then s.updCar fun c => { c with aonHeld := false } else s
  | .carBudget => if w.low then s.updCar fun c => { c with task := field n 7 0 } else s
  | .errLogPtr => if w.low then s.updErr fun e => e.setRd (BitVec.ofNat 8 (field n 7 0)) else s
  | .errIrq hi => s.updErr fun e => { e with irq := e.irq &&& ~~~(BitVec.ofNat 128 (n * 2 ^ (if hi then 64 else 0))) }
  | .errPartHeld => s.updErr fun e => { e with partHeld := e.partHeld &&& ~~~v.setWidth 16 }
  | .wdtCfg c => if w.low then (s.updErr fun e => { e with wdtPeriod := Tbl.set 0 e.wdtPeriod c (field n 31 0) }).wdtRestart c else s
  | .wdtKick c => s.wdtRestart c
  | .injCtrl => s.injArm v
  | .injAddr => s.updErr fun e => { e with injAddr := v &&& BitVec.ofNat 64 r.rw }
  | .snapCmd => if w.low then s.snapCmd (field n 15 0) else s
  | .pmc u i => s.pmcWrite u i (~~~w.mask) val
  | .secFuseArg => { s with sec := { s.sec with fuseArg := v } }
  | .secFuseCmd => s.fuseCmd (field n 1 0)
  | .dbgCmd => s.debugCmd (field n 1 0)
  | .signDigest k => { s with sec := { s.sec with signDigest := Tbl.set 0 s.sec.signDigest k v } }
  | .signCmd => if on 0 then s.signCmd else s
  | .mbxMsg c k => s.mbxWrite a.code c k (~~~w.mask) val
  | .mbxPost c => if w.low then s.mbxPost a.code c v else s
  | .mbxStatus c => if on 1 || on 2 then s.mbxArrive c (.clear (on 1) (on 2)) else s
  | .dbMask t => if w.low then { s with dbMask := Tbl.set 0xFFFFFFFF s.dbMask t (v.setWidth 32) } else s
  | .taskCfg k => if w.low then s.taskCfg a.hart k v else s
  | .taskArg k => s.updTask k fun t => { t with arg := v }
  | .flowCfg f => if w.low then s.updFlow f fun y => y.setCfg v else s
  | .aniseCtrl => s.updSched fun c => c.setAnise v
  | .aniseRd => if w.low then s.updSched fun c => { c with aniseRd := v.setWidth 12 } else s
  | .thrCtrl h =>
    let s1 := if on 0 then s.threadRun h else s
    if on 1 then s1.threadReset h else s1
  | .thrStart h => s.updThr h fun t => { t with start := v &&& BitVec.ofNat 64 r.rw }
  | .clvIpi => s.updSched fun c => { c with ipi := c.ipi ||| v }
  | .clvIpiClr => s.updSched fun c => { c with ipi := c.ipi &&& ~~~v }
  | .clvCoreCtrl c => if on 0 then s.clvCoreReset c else s
  | .hstStatus h => if on 12 then s.updHost h fun p => { p with trainFail := false } else s
  | .hstCtrl h => s.updHost h fun p => p.ctrlPut n
  | .sqBase h f | .cqBase h f | .sqPtr h f | .cqPtr h f | .fnStatus h f => s.fnPut a h f r v
  | .lnkCtrl p => if w.low then s.lnkCtrl p (some (field n 11 8)) (on 0) (on 1) (on 2) else s
  | .lnkThresh p => if w.low then s.updPort p fun x => { x with laneThresh := field n 15 0 } else s
  | .ethMac p => s.updPort p fun x => if x.st = .up then x else { x with mac := v.setWidth 48 }
  | .ethNexthop p => s.updPort p fun x => if x.st = .up then x else { x with nexthop := v.setWidth 48 }
  | .ethIp p hi => s.updPort p fun x => if x.st = .up then x else { x with ip := half128 x.ip hi v }
  | .ethCfg p => s.updPort p fun x => x.ethPut n
  | .grpCfg => s.updGrp fun g => g.cfgPut n
  | .grpMembers => s.updGrp fun g => { g with members := v }
  | .grpStatus => if on 3 then s.updGrp fun g => { g with imageRcvd := false } else s
  | .grpStage => s.updGrp fun g => { g with stageAddr := field n 51 12 * 4096, stageEn := on 0 }
  | .distSrc => s.updGrp fun g => { g with distSrc := field n 51 4 * 16 }
  | .distLen => if w.low then s.updGrp fun g => { g with distLen := field n 22 0 } else s
  | .grpCmd => if field n 1 0 = 1 then s.distribute else s
  | .grpRoute b => if w.low then s.updGrp fun g => { g with route := Tbl.set 0 g.route b (v.setWidth 32) } else s
  | .grpImport p => s.updGrp fun g => { g with imports := Tbl.set 0 g.imports p v }
  | .peerIp b hi => s.updGrp fun g => { g with peerIp := Tbl.upd 0 g.peerIp b fun o => half128 o hi v }
  | .gbarCfg g => if w.low then s.updGbar g fun x => x.cfgPut n else s
  | .gbarBlocks g => s.updGbar g fun x => if x.en then x else { x with blocks := v }
  | .collDesc k => s.updColl k fun c => { c with desc := field n 51 6 * 64 }
  | .collCmd k => if field n 1 0 = 1 then s.collArm k else if field n 1 0 = 2 then s.collAbort k else s
  | .vltCmd v => s.vltCmd v (field n 1 0) (field n 6 4) (field n 11 8)
  | .vltActThresh v => if w.low ∧ 512 ≤ field n 12 0 ∧ field n 12 0 ≤ 4096 then s.updVault v fun x => { x with actThresh := field n 12 0 } else s
  | .vltEraseThresh v => if w.low ∧ field n 7 0 ≠ 0 then s.updVault v fun x => { x with eraseThresh := field n 7 0 } else s
  | .wrkCtrl k => s.wrkCtrl k (on 0) (on 1) (on 2)
  | .wrkStatus k => if on 16 then s.updCore k fun x => { x with jobOverrun := false } else s
  | .wrkBootPc k => s.updCore k fun x => { x with bootPc := v &&& BitVec.ofNat 64 r.rw }
  | .wrkFpStg k => if w.low then s.fpStage k v else s
  | .wrkJobTail k => if w.low then s.tailWrite k (v.setWidth 4) else s
  | .wrkErr k => if on 0 then s.updCore k fun x => { x with errPend := false } else s
  | .wrkSlot k i => s.updCore k fun x => { x with slots := Tbl.set 0 x.slots i v }
  | .chDesc src => s.updChan src fun c => { c with descAddr := field n 51 7 * 128 }
  | .chCmd src => s.privCmd a src (field n 1 0)
  | .stragTimeout k => if w.low then s.updCore k fun x => { x with stragTimeout := max 256 (field n 31 0) } else s
  | .barMem b j => s.barMem b j v
  | .barCtl b => if w.low then s.barCtl b v else s
  | .l2LockWays k => if w.low then s.updSlice k fun x => x.lockPut (v.setWidth 16) (on 17) else s
  | .l2OfferThresh k => if w.low then s.updSlice k fun x => { x with thresh := field n 4 0 } else s
  | .ttSel => { s with ttRegs := { s.ttRegs with entry := field n 9 0, part := field n 19 16 } }
  | .ttNextRoot => { s with ttRegs := { s.ttRegs with nextRoot := v } }
  | .ttNextXs => { s with ttRegs := { s.ttRegs with nextXs := v } }
  | .ttCmd => s.ttCmd (a.hart / 8) (field n 1 0)
  | .ttStatus => if on 1 then { s with ttRegs := { s.ttRegs with cmdReject := false } } else s
  | .blkVersion | .blkGeometry | .blkState | .blkTime | .blkSerial | .modeEpoch | .modeEpochTime | .shpStatus | .shpBootSeq
  | .shpReshapeSeq | .shpDrained | .clkStatus | .pdState _ | .dcal _ | .telemetry _ _ | .errLog _ _ | .errCnt _
  | .errPolicy _ | .injStatus | .snapSeq _ | .pmcSnap _ _ | .secMeas _ _ | .secFwFloor | .secShapeFloor | .secKey _ _ | .secFuseStatus
  | .dbgNonce _ | .dbgStatus | .dbgExpiry | .signStatus | .signSig _ | .mbxTake _ | .dbPend _ | .flowStatus _ | .clvTick | .anisePtr
  | .thrStatus _ | .lnkStatus _ | .lnkCount _ _ | .grpLive | .distDone | .collStatus _ | .vltStatus _ | .vltTemp _ | .vltErase _
  | .vltScrubPos _ | .vltSplit _ | .vltCount _ _ | .wrkFpdefault _ | .wrkJobHead _ | .l1Status _ | .chStatus _ | .tagsUsed _ | .l2Status _
  | .l2LockedInval _ | .tuStatus _ | .safStatus _ | .safSpillUsed _ | .safSplit _ | .safWarmCount _ | .ttCopy _ => s

end Sys2Proof.Machine
end

