-- ==== Sys2Proof/Machine/RegMap.lean ====
section
/-! DEFINITION. Who reaches which register, and an access to the block register window with its bus response (R13, R103,
R377, R414 to R416, R420, R430 to R432, R435, R473, R497, R503, R518, R548, R562, R576). -/

namespace Sys2Proof

/-- Whether an agent reaches the Clove memories and the token buffer (R377, R548). -/
def Agent.isClove : Agent → Bool | .clove _ => true | _ => false
def Agent.isDebug : Agent → Bool | .debug => true | _ => false

/-- The length and the offset of the bytes that an access of a width covers; one byte for a width of its own. -/
def Width.span : Width → Nat × Nat
  | .full => (8, 0) | .lo => (4, 0) | .hi => (4, 4) | .other => (1, 0)

end Sys2Proof

namespace Sys2Proof.Machine

/-! ## What a register belongs to. -/

/-- The source of privileged transfers that a channel register serves. -/
def Reg.chan? : Reg → Option StreamSrc
  | .chDesc src | .chCmd src | .chStatus src => some src
  | _ => none

/-- The worker core in whose region a register lies. -/
def Reg.core? : Reg → Option Nat
  | .wrkCtrl n | .wrkStatus n | .wrkBootPc n | .wrkFpdefault n | .wrkFpStg n | .wrkJobHead n | .wrkJobTail n | .wrkErr n
  | .wrkSlot n _ | .l1Status n | .stragTimeout n | .tagsUsed n => some n
  | .chDesc (.chan n _) | .chCmd (.chan n _) | .chStatus (.chan n _) => some n.val
  | _ => none

/-- The mailbox channel, and the agent of doorbell registers. -/
def Reg.mbx? : Reg → Option Nat
  | .mbxMsg c _ | .mbxPost c | .mbxTake c | .mbxStatus c => some c
  | _ => none
def Reg.db? : Reg → Option Nat
  | .dbPend t | .dbMask t => some t
  | _ => none

/-- The host function of a job-ring register. -/
def Reg.fn? : Reg → Option (Nat × Nat)
  | .sqBase h f | .cqBase h f | .sqPtr h f | .cqPtr h f | .fnStatus h f => some (h, f)
  | _ => none

/-- The identity region (R578), and the errors and injection region less the injection registers (R416, R518). -/
def Reg.identity : Reg → Bool
  | .blkVersion | .blkGeometry | .blkState | .blkCtrl | .blkTime | .blkSerial | .modeEpoch | .modeCommit | .modeStatus | .modeEpochTime => true
  | _ => false
def Reg.injection : Reg → Bool
  | .injCtrl | .injAddr | .injStatus => true
  | _ => false
def Reg.counts : Reg → Bool
  | .errCnt _ | .snapSeq _ | .pmc _ _ | .pmcSnap _ _ => true
  | _ => false
def Reg.errors : Reg → Bool
  | .errLogPtr | .errIrq _ | .errPartHeld | .errLog _ _ | .errPolicy _ | .wdtCfg _ | .wdtKick _ | .snapCmd => true
  | r => r.counts

/-- The trace registers of Anise (R408). -/
def Reg.trace : Reg → Bool
  | .aniseCtrl | .anisePtr | .aniseRd => true
  | _ => false

/-- Whether an access sees TILE n or CLOVE c as off: not in the HK cycle in which it turns off (R433, R473, R583). -/
def State.tileShut (s : State) (n : Nat) : Bool := s.tileOff n && s.offBefore n
def State.clvShut (s : State) (c : Nat) : Bool := s.clvOff c && s.offBefore (0x100 + 8 * c)

/-- Whether the power domain of a register is off (R473); that of a mailbox register is checked with its rules (R432). -/
def State.regOff (s : State) (r : Reg) : Bool :=
  match r with
  | .tuStatus m => s.tileShut (tuTile m)
  | .pmc u _ =>
    if u < 0x200 then s.tileShut (u % 256)
    else if 0x400 ≤ u ∧ u < 0x440 then s.tileShut (tuTile (u - 0x400))
    else decide (0x450 ≤ u ∧ u < 0x458) && s.clvShut (u - 0x450)
  | .thrCtrl h | .thrStatus h | .thrStart h => s.clvShut (h / 8)
  | .clvCoreCtrl c => s.clvShut c
  | r => match r.core? with | some n => s.tileShut n | none => false

/-! ## Rights. -/

/-- Whether the writer owns a field that a write of a job-ring register covers (R425, R435). -/
def fnMayWrite (host : Bool) (r : Reg) (w : Width) : Bool :=
  match r with
  | .sqPtr _ _ | .cqPtr _ _ => if host then w.high else w.low
  | .fnStatus _ _ => !host || w.low
  | _ => !host

/-- Whether a port has the function that a request names, and takes its memory requests: a required IDE is established
(R413, R414). -/
def State.hostKnows (s : State) (h f : Nat) : Bool :=
  decide (f ≤ (s.cfg.hostOf h).vfCount) && (!bitOf (s.cfg.hostOf h).flags 2 || (s.hostPort h).ideUp)

/-- Whether a host port answers memory requests of a function: the link is up and the function is not in D3hot (R411,
R432). -/
def State.hostServes (s : State) (h f : Nat) : Bool :=
  s.hostUp h && s.hostKnows h f && !(s.hostFn h f).d3hot

/-- Whether an agent cannot make an access at all, so that nothing answers: a host whose port is not enabled (R411), a
worker in job mode, or a core whose domain is off (R102, R429, R473). -/
def State.mute (s : State) (a : Agent) : Bool :=
  match a with
  | .host h _ => !s.hostEnabled h
  | .monitor n => !(s.core n).monitor || s.tileOff n
  | .clove h => s.clvOff (h.val / 8)
  | _ => false

/-- Whether a write is a job submission, which the physical function makes on no ring (R414). -/
def submits (r : Reg) (write : Bool) : Bool := write && (match r with | .sqPtr _ _ => true | _ => false)

/-- The right of a host function (R414 to R416, R503). -/
def State.hostCode (s : State) (h f : Nat) (r : Reg) (write : Bool) (w : Width) : BusResp :=
  let say (b : Bool) : BusResp := if b then .okay else .perm
  if !s.hostServes h f then .decode
  else if s.boot.halted then .perm
  else match r.fn? with
    | some (h', f') =>
      if h' = h ∧ (f = 0 ∨ f' = f) then say ((!write || fnMayWrite true r w) && !(f == 0 && submits r write))
      else if f = 0 then .perm else .decode
    | none =>
      if f ≠ 0 then .decode
      else match r.chan? with
        | some (.chan n k) => say (s.privChan n.val k.val && (s.cfg.privOf n.val).host.getLsbD k.val)
        | some (.dma d) => say (s.cfg.dmaOwnerOf d.val == h + 1)
        | some (.next _) => .perm
        | none => match r with
          | .hstStatus h' | .hstCtrl h' => say (h' == h && !write)
          | _ => say (!write && (r.identity || r.errors))

/-- The right of a Clove thread: every register, less what R435 gives the host, R497 the board and R518 the unlock. -/
def State.cloveCode (s : State) (r : Reg) (write : Bool) (w : Width) : BusResp :=
  if !write then .okay
  else if r = .carHoldup then .perm
  else if r = .injCtrl ∧ !s.injMay then .perm
  else if r.fn?.isSome ∧ !fnMayWrite false r w then .perm
  else .okay

/-- The right of the board controller (R562). -/
def boardCode (r : Reg) (write : Bool) : BusResp :=
  match r with
  | .blkVersion | .blkState | .modeEpoch | .pinStatus | .telemetry _ _ => if write then .perm else .okay
  | .carHoldup => if write then .okay else .perm
  | _ => .perm

/-- The right of the debug path: the debug command, the injection registers, and what LEVEL makes readable (R60, R518,
R548; log 29). -/
def State.debugCode (s : State) (r : Reg) (write : Bool) : BusResp :=
  if write then
    (if r = .dbgCmd ∨ (r = .injCtrl ∧ s.injMay) ∨ (r = .injAddr ∧ 2 ≤ s.cfg.debugLevel) then .okay else .perm)
  else if (1 ≤ s.cfg.debugLevel ∧ (r.counts ∨ r.trace)) ∨ (2 ≤ s.cfg.debugLevel ∧ r.injection) then .okay else .perm

/-- The bus response of an agent's access to its mailbox or doorbell registers, given that of the mailbox unit; a host
function that is off gets DOMAIN_OFF (R413, R432, R503). -/
def State.ownCode (s : State) (a : Agent) (c : BusResp) : BusResp :=
  match a with
  | .host h f =>
    if !s.hostKnows h.val f.val then .decode
    else if s.boot.halted then .perm
    else if c = .okay ∧ s.agentOff a.code then .domainOff else c
  | _ => c

/-- The bus response of an access to a register: the first of DECODE, PERM and DOMAIN_OFF (R420). -/
def State.regCode (s : State) (a : Agent) (r : Reg) (write : Bool) (w : Width) : BusResp :=
  if w = .other then .decode
  else
    match r.mbx?, r.db? with
    | some c, _ => s.ownCode a (s.mbxCode a.code c)
    | none, some t =>
      (match a with
       | .host _ f => if f ≠ 0 ∧ a.code ≠ t then .decode else s.ownCode a (s.dbCode a.code t)
       | _ => s.dbCode a.code t)
    | none, none =>
      let right := match a with
        | .monitor n => if r.core? = some n.val then BusResp.okay else .perm
        | .clove _ => s.cloveCode r write w
        | .host h f => s.hostCode h.val f.val r write w
        | .board => boardCode r write
        | .debug => s.debugCode r write
      if right ≠ .okay then right else if s.regOff r then .domainOff else .okay

/-! ## Accesses. -/

/-- A write of a register by an agent: the response, and its effect where it is OKAY (R10, R420). -/
def State.regWrite (s : State) (a : Agent) (r : Reg) (w : Width) (val : W64) : BusResp × State :=
  match s.regCode a r true w with
  | .okay => (.okay, s.regPut a r w val)
  | c => (c, s)

/-- A read of a register by an agent: the response, the bits it covers, and the state after it (R10, R420, R577). -/
def State.regRead (s : State) (a : Agent) (r : Reg) (w : Width) : BusResp × W64 × State :=
  match s.regCode a r false w with
  | .okay => (.okay, s.regVal a r &&& w.mask, s.regReadEffect a r w)
  | c => (c, 0, s)

/-- Whether the debug path has the memory access of LEVEL 3, under an active unlock of that level (R60, R547). -/
def State.debugMemory (s : State) : Bool := s.cfg.debugLevel == 3 && s.sec.level == 3

/-- The response of an access to the Clove memories or the token buffer; a function that cannot reach the window is not
answered from it (R413, R415). -/
def State.bytesCode (s : State) (a : Agent) (p : Place) : BusResp :=
  let out : Bool := match a with | .host h f => !s.hostServes h.val f.val || f.val != 0 | _ => false
  if out then .decode else
  match p with
  | .clv tcm off =>
    if !a.isClove && !(a.isDebug && s.debugMemory) then .perm
    else if tcm && s.clvShut (off / 0x8_0000) then .domainOff else .okay
  | .token _ => if a.isClove || a.isDebug then .okay else .perm
  | .reg _ => .okay

/-- Write bytes to the token buffer. -/
def State.tokenPut (s : State) (off : Nat) (bs : List Byte) : State :=
  { s with sec := { s.sec with token := Tbl.setMany 0 s.sec.token off bs } }

/-- A write of bytes to a byte-addressed place. -/
def State.bytesWrite (s : State) (a : Agent) (p : Place) (bs : List Byte) : BusResp × State :=
  match s.bytesCode a p with
  | .okay => (.okay, match p with | .clv tcm off => s.clvPut tcm off bs | .token off => s.tokenPut off bs | .reg _ => s)
  | c => (c, s)

/-- A read of bytes of a byte-addressed place; the token buffer is write-only and reads as zero. -/
def State.bytesRead (s : State) (a : Agent) (p : Place) (len : Nat) : BusResp × List Byte :=
  match s.bytesCode a p with
  | .okay => (match p with
    | .clv tcm off => let b := s.clvBytes tcm off len
                      (if b.2 then .poison else .okay, b.1)
    | _ => (.okay, List.replicate len 0))
  | c => (c, [])

/-- The place moved on by some bytes. -/
def Place.plus (p : Place) (k : Nat) : Place :=
  match p with | .token o => .token (o + k) | .clv t o => .clv t (o + k) | .reg r => .reg r

/-- The block offset that an access by a host function reaches: through BAR0 its function page, and through BAR2, which
only the physical function has, the block register window (R415). -/
def hostOffset (a : Agent) (page : Bool) (off : Nat) : Option Nat :=
  match a with
  | .host h f =>
    if !page then (if f = 0 then some off else none)
    else if off < 0x100 then some (0x80_0000 + 0x4_0000 * h.val + 0x1000 + 0x100 * f.val + off)
    else if 0x1000 ≤ off ∧ off < 0x5000 then some (0x60_0000 + (off - 0x1000))
    else if 0x8000 ≤ off ∧ off < 0x8010 then some (0x61_0000 + 0x10 * a.code + (off - 0x8000))
    else none
  | _ => some off

/-- A write to a block offset (R13, R420, R576). -/
def State.offWrite (s : State) (a : Agent) (off : Nat) (w : Width) (val : W64) : BusResp × State :=
  match placeAt off w with
  | none => (.decode, s)
  | some (.reg r) => s.regWrite a r w val
  | some p =>
    let k := Width.span w
    s.bytesWrite a (p.plus k.2) (natToBytes (val.toNat / 2 ^ (8 * k.2)) k.1)

/-- A read of a block offset. -/
def State.offRead (s : State) (a : Agent) (off : Nat) (w : Width) : BusResp × W64 × State :=
  match placeAt off w with
  | none => (.decode, 0, s)
  | some (.reg r) => s.regRead a r w
  | some p =>
    let k := Width.span w
    let b := s.bytesRead a (p.plus k.2) k.1
    (b.1, BitVec.ofNat 64 (bytesToNat b.2 * 2 ^ (8 * k.2)), s)

/-- The width of a naturally aligned access of `len` bytes at an address, and the offset of its register (R576). -/
def widthAt (off len : Nat) : Width × Nat :=
  if len = 8 ∧ off % 8 = 0 then (.full, off)
  else if len = 4 ∧ off % 8 = 0 then (.lo, off)
  else if len = 4 ∧ off % 8 = 4 then (.hi, off - 4)
  else (.other, off)

/-- A store of bytes into the register window by a core or a thread. -/
def State.winWrite (s : State) (a : Agent) (off : Nat) (bs : List Byte) : BusResp × State :=
  match placeBytes off with
  | some p => s.bytesWrite a p bs
  | none =>
    let k := widthAt off bs.length
    s.offWrite a k.2 k.1 (BitVec.ofNat 64 (bytesToNat bs * 2 ^ (8 * (off - k.2))))

/-- A load from the register window. -/
def State.winRead (s : State) (a : Agent) (off len : Nat) : BusResp × List Byte × State :=
  match placeBytes off with
  | some p => let b := s.bytesRead a p len
              (b.1, b.2, s)
  | none =>
    let k := widthAt off len
    let r := s.offRead a k.2 k.1
    (r.1, natToBytes (r.2.1.toNat / 2 ^ (8 * (off - k.2))) len, r.2.2)

/-- A write that a command makes, with its response as the command's answer; nothing answers a mute agent. -/
def State.regCmd (s : State) (a : Agent) (r : Reg) (w : Width) (val : W64) : State :=
  if s.mute a then s else
  let x := s.regWrite a r w val
  x.2.reply x.1 0

/-- A read that a command makes, with the response and the data as its answer. -/
def State.regAsk (s : State) (a : Agent) (r : Reg) (w : Width) : State :=
  if s.mute a then s else
  let x := s.regRead a r w
  x.2.2.reply x.1 x.2.1

end Sys2Proof.Machine
end

