-- ==== Sys2Proof/Machine/PinOps.lean ====
section
/-! DEFINITION. The pins: hold-up, the reference clock, the critical comparator, the I3C target and the test access
port (R551, R553, R562, R566, R567). -/

namespace Sys2Proof.Machine

/-! ## Hold-up, reference and comparator. -/

/-- HOLDUP_LOW_N is sampled high, and the hold is released (R553). -/
def State.holdupHigh (s : State) : State := { s with pins := { s.pins with holdupLow := false } }

/-- REFCLK stops: the root PLL goes into holdover (R551). -/
def State.refclkLoss (s : State) : State :=
  if !s.pins.refclkOk then s
  else State.raise { s with pins := { s.pins with refclkOk := false } } 0x2E 0x490 0 0

/-- REFCLK returns: the root PLL leaves holdover (R572). -/
def State.refclkBack (s : State) : State := { s with pins := { s.pins with refclkOk := true } }

/-- The comparator on the four spine sensors asserts at 110 °C (R566). -/
def State.critCompare (s : State) (spine : List Nat) : State :=
  if (spine.take 4).any fun t => decide (110 ≤ t) then { s with pins := { s.pins with critOut := true } } else s

/-! ## Output pins that follow the state (R550). -/

/-- BLK_FAIL_N: low while BLK_STATE.STATE is FAILED or ROM_FAIL (R566). -/
def State.blkFailN (s : State) : Bool := !s.boot.st.fails

/-- PIPE_RESET_N of host port `h`: low until stage e of the boot ROM enables the port, and once the port is isolated (R501,
R526, R557). -/
def State.pipeResetN (s : State) (h : Nat) : Bool := s.hostEnabled h && !(s.hostPort h).isolated

/-- LNK_MODE of lane `i` of link port `p`: 0 off, 1 Umbale, 2 Ethernet (R558). -/
def State.lnkMode (s : State) (p i : Nat) : Nat := if (s.cfg.linkOf p).lanes.getLsbD i then s.linkMode p else 0

/-- The k by which XSPI_SCLK divides CLOVE, a sixteenth of ROOT: 2 while CLOVE is at most 400 MHz, else 3 (R563). -/
def State.xspiDiv (s : State) : Nat := if s.clk.mult ≤ 64 then 2 else 3

/-- Whether the xSPI outputs are in high impedance: where the boot ROM has given up (R533). -/
def State.xspiHighZ (s : State) : Bool := s.boot.st == .romFail

/-! ## I3C (R562). -/

/-- A register access over I3C; before step 1 of the boot sequence nothing answers (R526). -/
def State.i3cAccess (s : State) (bs : List Byte) : State :=
  let b (i : Nat) : Nat := (bs.getD i 0).toNat
  let off := bytesToNat ((bs.drop 2).take 4)
  if !s.boot.released ∨ b 0 ≠ 0xA5 then s
  else if b 1 = 1 ∧ bs.length = 6 then
    let r := s.offRead .board off .full
    let t := r.2.2.reply r.1 r.2.1
    { t with pins := { t.pins with i3cOut := BitVec.ofNat 8 (busInfo r.1) :: natToBytes r.2.1.toNat 8 } }
  else if b 1 = 2 ∧ bs.length = 14 then
    let r := s.offWrite .board off .full (BitVec.ofNat 64 (bytesToNat (bs.drop 6)))
    r.2.reply r.1 0
  else s

/-- An MCTP packet is handed to firmware; any other first byte is no packet (R562). -/
def State.i3cPacket (s : State) (bs : List Byte) : State :=
  if !s.boot.released ∨ bs.head? ≠ some 0x01 then s
  else { s with pins := { s.pins with mctp := s.pins.mctp ++ [bs] } }

/-! ## Test access port (R567). -/

/-- The IEEE 1149.1 state after a rising edge of TCK. -/
def tapNext (t : TapState) (tms : Bool) : TapState :=
  match t, tms with
  | .testLogicReset, true => .testLogicReset | .testLogicReset, false => .runTestIdle
  | .runTestIdle, true => .selectDr          | .runTestIdle, false => .runTestIdle
  | .selectDr, true => .selectIr             | .selectDr, false => .captureDr
  | .captureDr, true => .exit1Dr             | .captureDr, false => .shiftDr
  | .shiftDr, true => .exit1Dr               | .shiftDr, false => .shiftDr
  | .exit1Dr, true => .updateDr              | .exit1Dr, false => .pauseDr
  | .pauseDr, true => .exit2Dr               | .pauseDr, false => .pauseDr
  | .exit2Dr, true => .updateDr              | .exit2Dr, false => .shiftDr
  | .updateDr, true => .selectDr             | .updateDr, false => .runTestIdle
  | .selectIr, true => .testLogicReset       | .selectIr, false => .captureIr
  | .captureIr, true => .exit1Ir             | .captureIr, false => .shiftIr
  | .shiftIr, true => .exit1Ir               | .shiftIr, false => .shiftIr
  | .exit1Ir, true => .updateIr              | .exit1Ir, false => .pauseIr
  | .pauseIr, true => .exit2Ir               | .pauseIr, false => .pauseIr
  | .exit2Ir, true => .updateIr              | .exit2Ir, false => .shiftIr
  | .updateIr, true => .selectDr             | .updateIr, false => .runTestIdle

/-- The identification register (R567). -/
def idCode : Nat := 0x00902A37

/-- The data register that the instruction selects, as it is captured: IDCODE, else BYPASS (PRESUMED, log 9). -/
def PinSt.capture (p : PinSt) : List Bool := if p.tapIr = 1 then (List.range 32).map (bitOf idCode) else [false]

/-- A rising edge of TCK: capture or shift, then the next state. -/
def PinSt.tckRise (p : PinSt) (tms tdi : Bool) : PinSt :=
  let q := match p.tap with
    | .captureDr => { p with tapDr := p.capture }
    | .shiftDr => { p with tapDr := p.tapDr.drop 1 ++ [tdi] }
    | .captureIr => { p with tapIrShift := 1 }
    | .shiftIr => { p with tapIrShift := (p.tapIrShift >>> 1) ||| (if tdi then 8 else 0) }
    | _ => p
  let t := tapNext p.tap tms
  { q with tap := t, tapIr := if t = .testLogicReset then 1 else q.tapIr }

/-- A falling edge of TCK: TDO changes, and an update of the instruction acts. -/
def PinSt.tckFall (p : PinSt) : PinSt :=
  { p with
    tdo := match p.tap with
      | .shiftDr => p.tapDr.head?
      | .shiftIr => some (p.tapIrShift.getLsbD 0)
      | _ => none
    tapIr := if p.tap = .updateIr then p.tapIrShift else p.tapIr }

/-- An edge of TCK. `trst` tells that TRST_N is low, which holds the port in Test-Logic-Reset. -/
def PinSt.tck (p : PinSt) (rising tms tdi trst : Bool) : PinSt :=
  if trst then { p with tap := .testLogicReset, tapIr := 1, tdo := none }
  else if rising then p.tckRise tms tdi
  else p.tckFall

end Sys2Proof.Machine
end

