-- ==== Sys2Proof/Machine/Scalar.lean ====
section
/-! DEFINITION. The scalar instructions of a worker core, its job and interrupt events, and the commands of its registers
(R91 to R110). -/

namespace Sys2Proof.Machine

/-! ## Accesses that may reach the register window. -/

/-- A scalar load: its checks, then the register window or memory (R102, R103, R106). -/
def State.coreLoad (s : State) (n : Core) (a : W64) (len : Nat) (k : State → List Byte → Res) : Res :=
  if (s.accFault n a len false).isNone && inWindow a.toNat then
    let r := s.winRead (.monitor n) (a.toNat - windowBase) len
    match r.1 with
    | .okay => k r.2.2 r.2.1
    | .poison => .fault s 8 0 a
    | c => .fault s 7 (busSub c) a
  else s.withLoad n a len k

/-- A scalar store: its checks, then the register window or memory (R102, R103, R106, R107). -/
def State.coreStore (s : State) (n : Core) (a : W64) (bs : List Byte) (release : Bool) (k : State → Res) : Res :=
  if (s.accFault n a bs.length true).isNone && inWindow a.toNat then
    if release && !s.storesDone n then .wait s
    else
      let r := s.winWrite (.monitor n) (a.toNat - windowBase) bs
      match r.1 with
      | .okay => k r.2
      | c => .fault s 7 (busSub c) a
  else s.withStore n a bs release k

/-! ## Integer instructions (R93 to R95). -/

/-- A register result, then the next instruction. -/
def State.put (s : State) (n : Core) (rd : SReg) (v : W64) : Res := .next (s.setSreg n rd v)

/-- Class 0x01. A word of another class that no other command spells faults ILLEGAL (R92); one that another command spells is
none of this command's (log 33). -/
def execIntRegisterOp (n : Core) (rd ra rb : SReg) (op : ClassFn) (s : State) : Out :=
  let cls := op.cls
  let fn := op.fn
  let v := intOp (field fn.toNat 5 0) (s.sreg n ra) (s.sreg n rb)
  if cls ≠ 1 ∧ (decodeWorker n (wordOf cls rd ra rb fn)).isSome then finish s s
  else finish s (s.instr n (regWord cls.toNat rd.val ra.val rb.val fn)
    (cls == 1 && fn.toNat / 64 == 0 && v.isSome && (!intOpUnary fn.toNat || rb.val == 0)) false fun s => s.put n rd (v.getD 0))

def execIntImmediateOp (n : Core) (rd ra : SReg) (fn : BitVec 5) (imm : BitVec 12) (s : State) : Out :=
  let v := intOp fn.toNat (s.sreg n ra) (imm.signExtend 64)
  finish s (s.instr n (immWord 0x02 rd.val ra.val fn.toNat imm) (intImmCode fn.toNat && intImmShiftOk fn.toNat imm) false
    fun s => s.put n rd (v.getD 0))

def execMulDivOp (n : Core) (rd ra rb : SReg) (fn : BitVec 12) (s : State) : Out :=
  let v := mulDiv (field fn.toNat 5 0) (s.sreg n ra) (s.sreg n rb)
  finish s (s.instr n (regWord 0x03 rd.val ra.val rb.val fn) (fn.toNat / 64 == 0 && v.isSome) false
    fun s => s.put n rd (v.getD 0))

/-- imm22 × 2^12, sign-extended from 34 bits (R95). -/
def upperImm (imm : BitVec 22) : W64 := imm.signExtend 64 <<< 12

def execLiu (n : Core) (rd : SReg) (imm : BitVec 22) (s : State) : Out :=
  finish s (s.instr n (upWord 0x04 rd.val imm) true false fun s => s.put n rd (upperImm imm))

def execAddpc (n : Core) (rd : SReg) (imm : BitVec 22) (s : State) : Out :=
  finish s (s.instr n (upWord 0x05 rd.val imm) true false fun s => s.put n rd ((s.core n).pc + upperImm imm))

/-! ## Loads, stores and atomics (R97, R98). -/

/-- Whether the size code and the register of a load are assigned (R97). -/
def loadLegal (fn : BitVec 5) (rd : SReg) : Bool := !fn.getLsbD 4 && (fn.toNat % 8 != 7 || rd.val % 2 == 0)

/-- Whether the size code and the register of a store are assigned (R97). -/
def storeLegal (fn : BitVec 5) (rs : SReg) : Bool :=
  !fn.getLsbD 4 && [0, 2, 4, 6, 7].contains (fn.toNat % 8) && (fn.toNat % 8 != 7 || rs.val % 2 == 0)

/-- The registers a load writes (R97). -/
def State.loadPut (s : State) (n : Core) (rd : SReg) (sz : Nat) (bs : List Byte) : State :=
  let s1 := s.setSreg n rd (loadValue sz bs)
  if sz = 7 then s1.updCore n fun w => w.setS (rd.val + 1) (loadValue 6 (bs.drop 8)) else s1

/-- The bytes a store writes (R97). -/
def State.storeBytes (s : State) (n : Core) (rs : SReg) (sz : Nat) : List Byte :=
  if sz = 7 then natToBytes (s.sreg n rs).toNat 8 ++ natToBytes ((s.core n).s (rs.val + 1)).toNat 8
  else natToBytes (s.sreg n rs).toNat (sizeBytes sz)

def execScalarLoad (n : Core) (rd ra : SReg) (fn : BitVec 5) (imm : BitVec 12) (s : State) : Out :=
  let sz := fn.toNat % 8
  finish s (s.instr n (immWord 0x06 rd.val ra.val fn.toNat imm) (loadLegal fn rd) false fun s =>
    s.coreLoad n (s.sreg n ra + imm.signExtend 64) (sizeBytes sz) fun t bs => .next (t.loadPut n rd sz bs))

def execScalarStore (n : Core) (rs ra : SReg) (fn : BitVec 5) (imm : BitVec 12) (s : State) : Out :=
  finish s (s.instr n (immWord 0x07 rs.val ra.val fn.toNat imm) (storeLegal fn rs) false fun s =>
    s.coreStore n (s.sreg n ra + imm.signExtend 64) (s.storeBytes n rs (fn.toNat % 8)) (fn.getLsbD 3) fun t => .next t)

/-- An atomic on an assigned code of `w` bytes (R98). -/
def State.coreAtomic (s : State) (n : Core) (rd : SReg) (a : W64) (w : Nat) (fn : BitVec 12) (b : W64) : Res :=
  if a.toNat % w ≠ 0 then .fault s 6 1 a
  else if inWindow a.toNat then .fault s 5 4 a
  else match s.accFault n a w true with
    | some f => .fault s f.1 f.2.1 f.2.2
    | none =>
      if s.tileHazard n [(a.toNat, w)] true then .stay s
      else if fn.getLsbD 11 && !s.storesDone n then .wait s
      else match s.atomicAt n a.toNat w fn b (s.sreg n rd) with
        | .wait t => .wait t
        | .ok t old => t.put n rd (atomicOld w old)
        | .bus t c => .fault t 7 (busSub c) a
        | .poison t => .fault t 8 0 a

def execAtomic (n : Core) (rd ra rb : SReg) (fn : BitVec 12) (s : State) : Out :=
  finish s (s.instr n (regWord 0x08 rd.val ra.val rb.val fn) (atomicSize fn).isSome false fun s =>
    s.coreAtomic n rd (s.sreg n ra) ((atomicSize fn).getD 8) fn (s.sreg n rb))

/-! ## Branches and jumps (R95, R96). -/

def execBranch (n : Core) (ra rb : SReg) (cond : BitVec 3) (off : BitVec 14) (s : State) : Out :=
  let c := branchCond cond.toNat (s.sreg n ra) (s.sreg n rb)
  let word := BitVec.ofNat 64 (0x09 * 2 ^ 27 + ra.val * 2 ^ 22 + rb.val * 2 ^ 17 + cond.toNat * 2 ^ 14 + off.toNat)
  finish s (s.instr n word c.isSome false fun s =>
    if c = some true then .goto s ((s.core n).pc + 4 * off.signExtend 64) else .next s)

def execJl (n : Core) (rd : SReg) (off : BitVec 22) (s : State) : Out :=
  finish s (s.instr n (upWord 0x0A rd.val off) true false fun s =>
    .goto (s.setSreg n rd ((s.core n).pc + 4)) ((s.core n).pc + 4 * off.signExtend 64))

def execJlr (n : Core) (rd ra : SReg) (fn : BitVec 5) (imm : BitVec 12) (s : State) : Out :=
  finish s (s.instr n (immWord 0x0B rd.val ra.val fn.toNat imm) (fn == 0) false fun s =>
    .goto (s.setSreg n rd ((s.core n).pc + 4)) ((s.sreg n ra + imm.signExtend 64) &&& ~~~3))

/-! ## Fences (R99, R348). -/

/-- A fence that orders earlier stores: it completes once every one of them is visible. Loads are performed when their
instructions complete. -/
def State.fence (s : State) (n : Core) (fn : Nat) : State :=
  s.instr n (immWord 0x0C 0 0 fn 0) true false fun s => if s.storesDone n then .next s else .wait s

def execFence (n : Core) (s : State) : Out := finish s (s.fence n 0)
def execFenceLd (n : Core) (s : State) : Out :=
  finish s (s.instr n (immWord 0x0C 0 0 1 0) true false fun s => .next s)
def execFenceSt (n : Core) (s : State) : Out := finish s (s.fence n 2)
def execFenceIo (n : Core) (s : State) : Out := finish s (s.fence n 3)
/-- IFLUSH discards the instruction cache (R99). -/
def execIflush (n : Core) (s : State) : Out :=
  finish s (s.instr n (immWord 0x0C 0 0 4 0) true false fun s => .next (s.updIcache n fun c => { c with lines := [] }))

/-! ## Control and status registers (R87, R100, R146, R177, R259, R303). -/

def execCsrw (n : Core) (rd ra : SReg) (csr : BitVec 12) (s : State) : Out := finish s (s.csrInstr n .w rd.val ra.val csr)
def execCsrs (n : Core) (rd ra : SReg) (csr : BitVec 12) (s : State) : Out := finish s (s.csrInstr n .s rd.val ra.val csr)
def execCsrc (n : Core) (rd ra : SReg) (csr : BitVec 12) (s : State) : Out := finish s (s.csrInstr n .c rd.val ra.val csr)
def execCsrwi (n : Core) (rd : SReg) (uimm : BitVec 5) (csr : BitVec 12) (s : State) : Out :=
  finish s (s.csrInstr n .wi rd.val uimm.toNat csr)
def execCsrsi (n : Core) (rd : SReg) (uimm : BitVec 5) (csr : BitVec 12) (s : State) : Out :=
  finish s (s.csrInstr n .si rd.val uimm.toNat csr)
def execCsrci (n : Core) (rd : SReg) (uimm : BitVec 5) (csr : BitVec 12) (s : State) : Out :=
  finish s (s.csrInstr n .ci rd.val uimm.toNat csr)
def execVlWrite (n : Core) (op : CsrOp) (rd src : SReg) (s : State) : Out :=
  finish s (s.csrInstr n op rd.val src.val 0x003)
def execMshapeWrite (n : Core) (op : CsrOp) (rd src : SReg) (s : State) : Out :=
  finish s (s.csrInstr n op rd.val src.val 0x040)
def execHrcfgWrite (n : Core) (op : CsrOp) (rd src : SReg) (ring : RingId) (s : State) : Out :=
  finish s (s.csrInstr n op rd.val src.val (BitVec.ofNat 12 (0x0C0 + 4 * ring.val)))
def execHrptrWrite (n : Core) (op : CsrOp) (rd src : SReg) (ring : RingId) (s : State) : Out :=
  finish s (s.csrInstr n op rd.val src.val (BitVec.ofNat 12 (0x0C1 + 4 * ring.val)))
def execStrptrWrite (n : Core) (op : CsrOp) (rd src : SReg) (k : Chan) (s : State) : Out :=
  finish s (s.csrInstr n op rd.val src.val (BitVec.ofNat 12 (0x080 + k.val)))

/-! ## System instructions and the job run model (R78 to R86, R101, R109). -/

/-- A word of class 0x0E (R101). -/
def sysWord (ra fn : Nat) : W64 := immWord 0x0E 0 ra fn 0

def execMcall (n : Core) (s : State) : Out :=
  finish s (s.instr n (sysWord 0 0) true false fun s => .fault s 0x09 0 ((s.core n).s 1))
def execBrk (n : Core) (s : State) : Out :=
  finish s (s.instr n (sysWord 0 1) true false fun s => .fault s 0x0A 0 (s.core n).pc)
def execJexit (n : Core) (ra : SReg) (s : State) : Out :=
  finish s (s.instr n (sysWord ra.val 2) true false fun s =>
    if !(s.core n).matOps.isEmpty then .stay s
    else .fault (s.updCore n fun w => { w with jobActive := false }) 0x0B 0 (s.sreg n ra))
def execRetm (n : Core) (s : State) : Out :=
  finish s (s.instr n (sysWord 0 3) true true fun s => .goto (s.updCore n fun w => w.retm) (s.core n).tpc)
def execWfi (n : Core) (s : State) : Out :=
  finish s (s.instr n (sysWord 0 4) true false fun s =>
    if s.ipOn n ≠ 0 then .next s else .stay (s.updCore n fun w => { w with run := .wfi }))

/-- A waiting WFI completes once an interrupt is pending and enabled (R86). -/
def State.wfiWake (s : State) (n : Core) : State :=
  if (s.core n).run ≠ .wfi ∨ s.tileOff n ∨ !s.coreRuns (n.val / 64) ∨ s.ipOn n = 0 then s
  else s.updCore n fun w => { w with run := .running, pc := w.pc + 4, instret := w.instret + 1 }

def execWfiWake (n : Core) (s : State) : Out := finish s (s.wfiWake n)
def execJobgo (n : Core) (s : State) : Out :=
  finish s (s.instr n (sysWord 0 5) true true fun s => .stay (s.updCore n fun w => { w with run := .jobgo }))
def execJobgoStart (n : Core) (s : State) : Out := finish s (s.jobStart n)
def execInterruptTake (n : Core) (s : State) : Out := finish s (s.takeIntr n)

/-- The fill or home write of a buffered store has failed (R585). A line that its home has granted is answered by its
fill. -/
def State.cachedStoreLost (s : State) (n : Core) (l : Nat) (c : BusResp) : State :=
  let r : Cacher := .l1 n
  if !((s.core n).sb.any fun e => e.line == l) ∨ c = .okay ∨ c = .poison
      ∨ ((s.cacheOf r).grants.any fun g => g.line == l && !g.gone) then s
  else
    ((s.updCache r fun x => { x with miss := if (x.miss.map (·.1)) = some l then none else x.miss,
                                      fills := x.fills.filter fun f => f.line != l }).storeLost n (128 * l) c).sbDrop n l

def execCachedStoreLost (n : Core) (line : Nat) (resp : BusResp) (s : State) : Out :=
  finish s (s.cachedStoreLost n line resp)

/-- BLK_TIME has reached a timer compare: the interrupt is pending from the comparison itself (R84, R387), which cs.ip
and tc.ip show, so that nothing else changes. -/
def execTimerInterrupt (_t : TimerTarget) (s : State) : Out := finish s s

/-! ## Registers of a core (R110). -/

def execWrkKill (a : Agent) (n : Core) (s : State) : Out := finish s (s.regCmd a (.wrkCtrl n) .full 4)
def execWrkReset (a : Agent) (n : Core) (s : State) : Out := finish s (s.regCmd a (.wrkCtrl n) .full 2)
def execWrkRun (a : Agent) (n : Core) (s : State) : Out := finish s (s.regCmd a (.wrkCtrl n) .full 1)
def execJobTailWrite (a : Agent) (n : Core) (val : W64) (s : State) : Out :=
  finish s (s.regCmd a (.wrkJobTail n) .full val)

/-! ## Cache maintenance (R330 to R334). -/

/-- Whether the store buffer of a core holds bytes of one of these lines, which a maintenance operation follows
(R344). -/
def State.sbHas (s : State) (n : Core) (ls : List Nat) : Bool := (s.core n).sb.any fun e => ls.contains e.line

/-- An operation on the line at an address. -/
def State.maintInstr (s : State) (n : Core) (fn : Nat) (ra : SReg) (imm : BitVec 12) (op : Maint) : State :=
  s.instr n (immWord 0x0F 0 ra.val fn imm) true false fun s =>
    let a := s.sreg n ra + imm.signExtend 64
    match s.accFault n a 1 op.store with
    | some f => .fault s f.1 f.2.1 f.2.2
    | none =>
      let l := a.toNat / 128
      if s.sbHas n [l] then .wait s
      else match s.maintOne (.l1 n) op l with
        | .ok t => .next t
        | .error t => .wait t

/-- A range operation (R332). -/
def State.rangeInstr (s : State) (n : Core) (fn : Nat) (rd ra : SReg) (imm : BitVec 12) (op : Maint) : State :=
  s.instr n (immWord 0x0F rd.val ra.val fn imm) true false fun s =>
    let a := (s.sreg n ra + imm.signExtend 64).toNat
    let len := rangeLen (s.sreg n rd)
    match (pagePieces a len).findSome? fun p => (s.accSub n p.1 p.2 op.store).map fun sub => (sub, p.1) with
    | some f => .fault s (if op.store then 5 else 4) f.1 (BitVec.ofNat 64 f.2)
    | none =>
      if s.sbHas n (rangeLines a len) then .wait s
      else match s.maintRange (.l1 n) op a len with
        | .ok t => t.put n rd (t.sreg n rd - BitVec.ofNat 64 len)
        | .error t => .wait t

/-- A prefetch, dropped where a check fails. -/
def State.prefInstr (s : State) (n : Core) (fn : Nat) (ra : SReg) (imm : BitVec 12) (write : Bool) : State :=
  s.instr n (immWord 0x0F 0 ra.val fn imm) true false fun s =>
    let a := s.sreg n ra + imm.signExtend 64
    match s.maintPref (.l1 n) (a.toNat / 128) write ((s.accFault n a 1 write).isNone && s.cacheable a.toNat) with
    | .ok t => .next t
    | .error t => .wait t

def execClean (n : Core) (ra : SReg) (imm : BitVec 12) (s : State) : Out := finish s (s.maintInstr n 0 ra imm .clean)
def execInval (n : Core) (ra : SReg) (imm : BitVec 12) (s : State) : Out := finish s (s.maintInstr n 1 ra imm .inval)
def execFlush (n : Core) (ra : SReg) (imm : BitVec 12) (s : State) : Out := finish s (s.maintInstr n 2 ra imm .flush)
def execZero (n : Core) (ra : SReg) (imm : BitVec 12) (s : State) : Out := finish s (s.maintInstr n 3 ra imm .zero)
def execPref (n : Core) (ra : SReg) (imm : BitVec 12) (s : State) : Out := finish s (s.prefInstr n 4 ra imm false)
def execPrefw (n : Core) (ra : SReg) (imm : BitVec 12) (s : State) : Out := finish s (s.prefInstr n 5 ra imm true)
def execLfill (n : Core) (rd ra : SReg) (imm : BitVec 12) (s : State) : Out :=
  finish s (s.instr n (immWord 0x0F rd.val ra.val 6 imm) true false fun s =>
    let a := s.sreg n ra + imm.signExtend 64
    match s.accFault n a 1 false with
    | some f => .fault s f.1 f.2.1 f.2.2
    | none =>
      let l := a.toNat / 128
      if s.sbHas n [l] then .wait s
      else match s.maintLock (.l1 n) l with
        | .ok r => r.2.put n rd (BitVec.ofNat 64 r.1)
        | .error t => .wait t)
def execCleanR (n : Core) (rd ra : SReg) (imm : BitVec 12) (s : State) : Out := finish s (s.rangeInstr n 8 rd ra imm .clean)
def execInvalR (n : Core) (rd ra : SReg) (imm : BitVec 12) (s : State) : Out := finish s (s.rangeInstr n 9 rd ra imm .inval)
def execFlushR (n : Core) (rd ra : SReg) (imm : BitVec 12) (s : State) : Out := finish s (s.rangeInstr n 10 rd ra imm .flush)

end Sys2Proof.Machine
end

