-- ==== Sys2Proof/Machine/Vector.lean ====
section
/-! DEFINITION. The vector instructions of a worker core (R143 to R174). -/

namespace Sys2Proof.Machine

/-! ## Registers and elements. -/

/-- A vector register and a mask register. -/
def Wrk.v (w : Wrk) (i : Nat) : VecReg := Tbl.get 0 w.vregs i
def Wrk.m (w : Wrk) (i : Nat) : MaskReg := Tbl.get 0 w.mregs i
def Wrk.setV (w : Wrk) (i : Nat) (x : VecReg) : Wrk := { w with vregs := Tbl.set 0 w.vregs i x }
def Wrk.setM (w : Wrk) (i : Nat) (x : MaskReg) : Wrk := { w with mregs := Tbl.set 0 w.mregs i x }

/-- The element count of an instruction whose format has `m` elements at most (R146). -/
def Wrk.count (w : Wrk) (m : Nat) : Nat := min w.vl m

/-- Whether element `j` is active under mask field `mk` (R147). -/
def Wrk.active (w : Wrk) (mk j : Nat) : Bool := mk == 0 || (w.m mk).getLsbD j

/-- Set the bits of cs.flags (R89, R174). -/
def Wrk.raise (w : Wrk) (f : Flags) : Wrk := { w with flags := w.flags ||| f }

/-- The vector registers that incomplete MRD instructions write (R182). -/
def Wrk.mrdRegs (w : Wrk) : List Nat :=
  w.matOps.flatMap fun o => match o.kind with
    | .rowRead vd _ => if o.pair then [vd, vd + 1] else [vd]
    | _ => []

/-- A vector instruction that names the vector registers `regs`: it waits for an MRD that writes one of them (R199). -/
def State.vinstr (s : State) (n : Core) (word : W64) (legal : Bool) (regs : List Nat) (body : State → Res) : State :=
  s.instr n word legal false fun s => if regs.any (s.core n).mrdRegs.contains then .stay s else body s

/-- The low bits of a scalar register as an element (R152). -/
def scalarElem (f : Nat) (v : W64) : Nat := v.toNat % 2 ^ fmtBits f

/-- Write the elements that `f` gives below the count, those that are not active excepted, and set the union of their
flags (R147, R174). -/
def Wrk.elements (w : Wrk) (vd width cnt : Nat) (act : Nat → Bool) (f : Nat → Nat × Flags) : Wrk :=
  let rs := (List.range cnt).map fun j => if act j then some (f j) else none
  let old := w.v vd
  let body := packElems width (rs.zipIdx.map fun r => match r.1 with | some x => x.1 | none => vecElem width old r.2)
  let new : VecReg := BitVec.ofNat 8192 ((old.toNat >>> (width * cnt)) * 2 ^ (width * cnt) + body)
  if cnt = 0 then w else (w.setV vd new).raise (unionFlags (rs.map fun r => match r with | some x => x.2 | none => 0))

/-- An element-wise instruction over the elements of a format. -/
def State.elementwise (s : State) (n : Core) (vd mk f : Nat) (g : Wrk → Nat → Nat × Flags) : Res :=
  let w := s.core n
  .next (s.updCore n fun _ => w.elements vd (fmtBits f) (w.count (vlmax f)) (w.active mk) (g w))

/-- A result of a vector instruction in a scalar register. -/
def State.scalarOut (s : State) (n : Core) (rd : SReg) (r : W64 × Flags) : Res :=
  .next (s.updCore n fun w => (w.setS rd.val r.1).raise r.2)

/-! ## Class 0x10 (R151). -/

/-- cs.vl takes a count, which is the result. -/
def State.setVl (s : State) (n : Core) (rd : SReg) (v : Nat) : Res :=
  .next (s.updCore n fun w => ({ w with vl := v }).setS rd.val (BitVec.ofNat 64 v))

def execVsetvl (n : Core) (rd ra : SReg) (fmt : BitVec 5) (s : State) : Out :=
  finish s (s.instr n (vecWord 0x10 rd.val ra.val 0 0 fmt.toNat 0) (fmtDefined fmt.toNat) false fun s =>
    s.setVl n rd (min (s.sreg n ra).toNat (vlmax fmt.toNat)))

def execVsetvli (n : Core) (rd : SReg) (uimm : BitVec 10) (fmt : BitVec 5) (s : State) : Out :=
  let m := vlmax fmt.toNat
  let word := vecWord 0x10 rd.val 0 0 0 fmt.toNat 1 + BitVec.ofNat 64 (uimm.toNat * 2 ^ 12)
  finish s (s.instr n word (fmtDefined fmt.toNat) false fun s =>
    s.setVl n rd (if uimm = 0 then m else min uimm.toNat m))

def execVmvr (n : Core) (vd va : VReg) (s : State) : Out :=
  finish s (s.vinstr n (vecWord 0x10 vd.val va.val 0 0 0 2) true [vd.val, va.val] fun s =>
    .next (s.updCore n fun w => w.setV vd.val (w.v va.val)))

def execVzero (n : Core) (vd : VReg) (s : State) : Out :=
  finish s (s.vinstr n (vecWord 0x10 vd.val 0 0 0 0 3) true [vd.val] fun s =>
    .next (s.updCore n fun w => w.setV vd.val 0))

def execMmvr (n : Core) (md ma : MReg) (s : State) : Out :=
  finish s (s.vinstr n (vecWord 0x10 md.val ma.val 0 0 0 4) true [] fun s =>
    .next (s.updCore n fun w => w.setM md.val (w.m ma.val)))

/-! ## Element-wise arithmetic (R152 to R156). -/

/-- VUNARY (R152). -/
def State.vunary (s : State) (n : Core) (vd va sub mk f : Nat) : State :=
  s.vinstr n (vecWord 0x11 vd va sub mk f 13) (fmtDefined f && unaryAccepts sub f) [vd, va] fun s =>
    s.elementwise n vd mk f fun w j => vecUnary w.fp.arith sub f (vecElem (fmtBits f) (w.v va) j)

/-- VMERGE and VMERGE.S: every element below the count is written (R152). -/
def State.vmerge (s : State) (n : Core) (scalarB : Bool) (vd va vb mk f : Nat) : State :=
  s.vinstr n (vecWord (if scalarB then 0x12 else 0x11) vd va vb mk f 14) (fmtDefined f && (isF f || isI f) && mk != 0)
    (if scalarB then [vd, va] else [vd, va, vb]) fun s =>
    s.elementwise n vd 0 f fun w j =>
      (if (w.m mk).getLsbD j then vecElem (fmtBits f) (w.v va) j
       else if scalarB then scalarElem f (w.s vb) else vecElem (fmtBits f) (w.v vb) j, 0)

def execVectorElementwiseOp (n : Core) (scalarB : Bool) (op : BitVec 4) (vd va vb : VReg) (mk : MReg) (fmt : BitVec 5)
    (s : State) : Out :=
  let f := fmt.toNat
  let o := op.toNat
  finish s (
    if o = 14 then s.vmerge n scalarB vd.val va.val vb.val mk.val f
    else if o = 13 ∧ !scalarB then s.vunary n vd.val va.val vb.val mk.val f
    else
      s.vinstr n (vecWord (if scalarB then 0x12 else 0x11) vd.val va.val vb.val mk.val f o)
        (fmtDefined f && binaryAccepts o f && (o != 13 || va.val == 0))
        (if scalarB then [vd.val, va.val] else [vd.val, va.val, vb.val]) fun s =>
        s.elementwise n vd.val mk.val f fun w j =>
          vecBinary w.fp.arith o f (vecElem (fmtBits f) (w.v va.val) j)
            (if scalarB then scalarElem f (w.s vb.val) else vecElem (fmtBits f) (w.v vb.val) j))

def execVunary (n : Core) (vd va : VReg) (sub : BitVec 5) (mk : MReg) (fmt : BitVec 5) (s : State) : Out :=
  finish s (s.vunary n vd.val va.val sub.toNat mk.val fmt.toNat)

def execVmerge (n : Core) (scalarB : Bool) (vd va vb : VReg) (mk : MReg) (fmt : BitVec 5) (s : State) : Out :=
  finish s (s.vmerge n scalarB vd.val va.val vb.val mk.val fmt.toNat)

def execVfma (n : Core) (op : BitVec 4) (vd va vb : VReg) (mk : MReg) (fmt : BitVec 5) (s : State) : Out :=
  let f := fmt.toNat
  let o := op.toNat
  finish s (s.vinstr n (vecWord 0x13 vd.val va.val vb.val mk.val f o)
    (fmtDefined f && (isF f || isI f) && decide (o < 8))
    (if 4 ≤ o then [vd.val, va.val] else [vd.val, va.val, vb.val]) fun s =>
    s.elementwise n vd.val mk.val f fun w j =>
      let e (r : Nat) : Nat := vecElem (fmtBits f) (w.v r) j
      vecFma w.fp.arith o f (e va.val) (if 4 ≤ o then scalarElem f (w.s vb.val) else e vb.val) (e vd.val))

/-! ## Compares and masks (R157). -/

/-- Class 0x15 ops 0 to 9. Ops 13 to 15 are unassigned, and ops 10 to 12 are other commands (log 33). -/
def execVectorCompare (n : Core) (op : BitVec 4) (md : MReg) (va vb : VReg) (mk : MReg) (fmt : BitVec 5) (s : State) : Out :=
  let f := fmt.toNat
  let o := op.toNat
  let sc := decide (5 ≤ o)
  let c := o % 5
  finish s (if 10 ≤ o ∧ o ≤ 12 then s else s.vinstr n (vecWord 0x15 md.val va.val vb.val mk.val f o)
    (fmtDefined f && decide (o < 10) && (isF f || (isI f && c != 4))) (if sc then [va.val] else [va.val, vb.val]) fun s =>
    let w := s.core n
    let cnt := w.count (vlmax f)
    let e (r j : Nat) : Nat := vecElem (fmtBits f) (w.v r) j
    let rs := (List.range cnt).map fun j =>
      if w.active mk.val j then
        some (j, vecCompare w.fp.arith c f (e va.val j) (if sc then scalarElem f (w.s vb.val) else e vb.val j))
      else none
    let set (m : MaskReg) (r : Option (Nat × Bool × Flags)) : MaskReg :=
      match r with
      | some x =>
        let b : MaskReg := BitVec.ofNat 2048 (2 ^ x.1)
        if x.2.1 then m ||| b else m &&& ~~~b
      | none => m
    .next (s.updCore n fun w => (w.setM md.val (rs.foldl set (w.m md.val))).raise
      (unionFlags (rs.map fun r => match r with | some x => x.2.2 | none => 0))))

/-- A mask operation (R157). -/
def maskOp (sub : Nat) (a b : MaskReg) : MaskReg :=
  match sub with
  | 0 => a &&& b
  | 1 => a ||| b
  | 2 => a ^^^ b
  | 3 => a &&& ~~~b
  | 4 => ~~~a
  | 5 => BitVec.allOnes 2048
  | _ => 0

def execMlogic (n : Core) (md ma mb : MReg) (sub : BitVec 5) (s : State) : Out :=
  let o := sub.toNat
  finish s (s.vinstr n (vecWord 0x15 md.val ma.val mb.val 0 o 10)
    (decide (o < 7) && (decide (o < 4) || mb.val == 0) && (decide (o < 5) || ma.val == 0)) [] fun s =>
    .next (s.updCore n fun w => w.setM md.val (maskOp o (w.m ma.val) (w.m mb.val))))

/-- The set bits of a mask below the count of a format, in ascending order. -/
def Wrk.maskBits (w : Wrk) (ma f : Nat) : List Nat := (List.range (w.count (vlmax f))).filter fun j => (w.m ma).getLsbD j

/-- With a count of 0 no register is written (R146). -/
def State.maskOut (s : State) (n : Core) (rd : SReg) (f : Nat) (v : W64) : Res :=
  if (s.core n).count (vlmax f) = 0 then .next s else s.scalarOut n rd (v, 0)

def execMpop (n : Core) (rd : SReg) (ma : MReg) (fmt : BitVec 5) (s : State) : Out :=
  finish s (s.vinstr n (vecWord 0x15 rd.val ma.val 0 0 fmt.toNat 11) (fmtDefined fmt.toNat) [] fun s =>
    s.maskOut n rd fmt.toNat (BitVec.ofNat 64 ((s.core n).maskBits ma.val fmt.toNat).length))

def execMfirst (n : Core) (rd : SReg) (ma : MReg) (fmt : BitVec 5) (s : State) : Out :=
  finish s (s.vinstr n (vecWord 0x15 rd.val ma.val 0 0 fmt.toNat 12) (fmtDefined fmt.toNat) [] fun s =>
    s.maskOut n rd fmt.toNat (match (s.core n).maskBits ma.val fmt.toNat with
      | j :: _ => BitVec.ofNat 64 j
      | [] => BitVec.allOnes 64))

/-! ## Reductions and permutations (R158, R159). -/

/-- A reduction; with a count of 0 it writes nothing (R146). -/
def State.reduce (s : State) (n : Core) (op : Nat) (rd : SReg) (va : VReg) (mk : MReg) (f : Nat) : State :=
  s.vinstr n (vecWord 0x16 rd.val va.val 0 mk.val f op)
    (fmtDefined f && decide (op < 6) && (isI f || (isF f && decide (op < 3)))) [va.val] fun s =>
    let w := s.core n
    let cnt := w.count (vlmax f)
    let cs := ((List.range cnt).filter (w.active mk.val)).map (vecElem (fmtBits f) (w.v va.val))
    if cnt = 0 then .next s else s.scalarOut n rd (vecReduce w.fp.arith op f cs)

def execVrsum (n : Core) (rd : SReg) (va : VReg) (mk : MReg) (fmt : BitVec 5) (s : State) : Out :=
  finish s (s.reduce n 0 rd va mk fmt.toNat)
def execVrmax (n : Core) (rd : SReg) (va : VReg) (mk : MReg) (fmt : BitVec 5) (s : State) : Out :=
  finish s (s.reduce n 1 rd va mk fmt.toNat)
def execVrmin (n : Core) (rd : SReg) (va : VReg) (mk : MReg) (fmt : BitVec 5) (s : State) : Out :=
  finish s (s.reduce n 2 rd va mk fmt.toNat)

/-- Class 0x16 op 3, 4 or 5. Ops 6, 7 and 15 are unassigned, and the other ops are other commands (log 33). -/
def execVectorBitwiseReduce (n : Core) (op : BitVec 4) (rd : SReg) (va : VReg) (mk : MReg) (fmt : BitVec 5) (s : State) : Out :=
  finish s (if 8 ≤ op.toNat ∧ op.toNat ≤ 14 then s else s.reduce n op.toNat rd va mk fmt.toNat)

/-- Whether a permutation accepts a format: any but the 6-bit ones (R158). -/
def permAccepts (f : Nat) : Bool := fmtDefined f && fmtBits f != 6

def execVslidedn (n : Core) (vd va : VReg) (rb : SReg) (mk : MReg) (fmt : BitVec 5) (s : State) : Out :=
  let f := fmt.toNat
  finish s (s.vinstr n (vecWord 0x16 vd.val va.val rb.val mk.val f 8) (permAccepts f) [vd.val, va.val] fun s =>
    s.elementwise n vd.val mk.val f fun w j =>
      let i := j + (w.s rb.val).toNat
      (if i < vlmax f then vecElem (fmtBits f) (w.v va.val) i else 0, 0))

def execVslideup (n : Core) (vd va : VReg) (rb : SReg) (mk : MReg) (fmt : BitVec 5) (s : State) : Out :=
  let f := fmt.toNat
  finish s (s.vinstr n (vecWord 0x16 vd.val va.val rb.val mk.val f 9) (permAccepts f) [vd.val, va.val] fun s =>
    s.elementwise n vd.val mk.val f fun w j =>
      let k := (w.s rb.val).toNat
      (if k ≤ j then vecElem (fmtBits f) (w.v va.val) (j - k) else vecElem (fmtBits f) (w.v vd.val) j, 0))

def execVperm (n : Core) (vd va vb : VReg) (mk : MReg) (fmt : BitVec 5) (s : State) : Out :=
  let f := fmt.toNat
  finish s (s.vinstr n (vecWord 0x16 vd.val va.val vb.val mk.val f 10) (permAccepts f) [vd.val, va.val, vb.val] fun s =>
    s.elementwise n vd.val mk.val f fun w j =>
      let i := vecElem (fmtBits f) (w.v vb.val) j
      (if i < vlmax f then vecElem (fmtBits f) (w.v va.val) i else 0, 0))

def execVcompress (n : Core) (vd va : VReg) (mk : MReg) (fmt : BitVec 5) (s : State) : Out :=
  let f := fmt.toNat
  finish s (s.vinstr n (vecWord 0x16 vd.val va.val 0 mk.val f 11) (permAccepts f) [vd.val, va.val] fun s =>
    let w := s.core n
    let js := (List.range (w.count (vlmax f))).filter (w.active mk.val)
    .next (s.updCore n fun w => w.elements vd.val (fmtBits f) js.length (fun _ => true)
      fun i => (vecElem (fmtBits f) (w.v va.val) (js.getD i 0), 0)))

def execVmvx (n : Core) (rd : SReg) (va : VReg) (rb : SReg) (fmt : BitVec 5) (s : State) : Out :=
  let f := fmt.toNat
  finish s (s.vinstr n (vecWord 0x16 rd.val va.val rb.val 0 f 12) (permAccepts f) [va.val] fun s =>
    let w := s.core n
    let i := (w.s rb.val).toNat
    s.scalarOut n rd (if i < vlmax f then extendElem f (vecElem (fmtBits f) (w.v va.val) i) else 0, 0))

def execVmvs (n : Core) (vd : VReg) (ra rb : SReg) (fmt : BitVec 5) (s : State) : Out :=
  let f := fmt.toNat
  finish s (s.vinstr n (vecWord 0x16 vd.val ra.val rb.val 0 f 13) (permAccepts f) [vd.val] fun s =>
    .next (s.updCore n fun w =>
      let i := (w.s rb.val).toNat
      if i < vlmax f then w.elements vd.val (fmtBits f) (i + 1) (· == i) fun _ => (scalarElem f (w.s ra.val), 0) else w))

def execVid (n : Core) (vd : VReg) (mk : MReg) (fmt : BitVec 5) (s : State) : Out :=
  let f := fmt.toNat
  finish s (s.vinstr n (vecWord 0x16 vd.val 0 0 mk.val f 14) (fmtDefined f && isI f) [vd.val] fun s =>
    s.elementwise n vd.val mk.val f fun _ j => (j % 2 ^ fmtBits f, 0))

/-! ## Conversion (R160 to R162). -/

/-- Zero the bits that a 6-bit format does not use (R145). -/
def sixTop (f : Nat) (r : VecReg) : VecReg := if fmtBits f = 6 then r &&& BitVec.ofNat 8192 (2 ^ 6144 - 1) else r

/-- A conversion of `cnt` elements, which are not 0 (R160, R161). `vw` is the element count of the wide side. -/
def Wrk.vcvt (w : Wrk) (vd va d mk f part vw cnt : Nat) : Wrk :=
  let md := w.fp
  let sWide := decide (vlmax f ≤ vlmax d)
  let si (j : Nat) : Nat := if sWide then j else part * vw + j
  let di (j : Nat) : Nat := if sWide ∧ vlmax f ≠ vlmax d then part * vw + j else j
  let src (j : Nat) : FVal × Flags :=
    let i := si j
    let c := vecElem (fmtBits f) (w.v va) i
    inputFlush md f (if fmtBlock f then decodeScaled f c (vecElem 8 (w.v (va + 1)) (i / 32)) else decodeElem f c)
  let seeded (w : Wrk) : Wrk := if md.srnd && decide (fmtBits d ≤ 16) then { w with srseed := w.srseed + 1 } else w
  let base := if sWide ∧ vlmax f ≠ vlmax d then part * vw else 0
  let write (w : Wrk) (r : Nat) (width lo : Nat) (codes : List (Option Nat)) : Wrk :=
    w.setV r (vecWrite width (lo + codes.length) (fun i => decide (lo ≤ i) && (codes.getD (i - lo) none).isSome) (w.v r)
      fun i => (codes.getD (i - lo) none).getD 0)
  if fmtBlock d then
    let blocks := (List.range (cnt / 32)).map fun b =>
      let vs := (List.range 32).map fun i => src (32 * b + i)
      let c := convertBlock md d (32 * b) (vs.map (·.1))
      (c.1, c.2.1, c.2.2 ||| unionFlags (vs.map (·.2)))
    let w1 := write w vd (fmtBits d) base ((blocks.flatMap (·.2.1)).map some)
    let w2 := w1.setV vd (sixTop d (w1.v vd))
    seeded ((write w2 (vd + 1) 8 (base / 32) (blocks.map fun b => some b.1)).raise (unionFlags (blocks.map (·.2.2))))
  else
    let rs := (List.range cnt).map fun j =>
      if w.active mk j then (let v := src j; let c := convertTo md d j v.1; some (c.1, c.2 ||| v.2)) else none
    let w1 := write w vd (fmtBits d) (di 0) (rs.map fun r => r.map (·.1))
    seeded ((w1.setV vd (sixTop d (w1.v vd))).raise (unionFlags (rs.map fun r => match r with | some x => x.2 | none => 0)))

def execVcvt (n : Core) (vd va : VReg) (dfmt : BitVec 5) (mk : MReg) (sfmt : BitVec 5) (part : BitVec 4) (s : State) : Out :=
  let f := sfmt.toNat
  let d := dfmt.toNat
  let vw := min (vlmax f) (vlmax d)
  let r := max (vlmax f) (vlmax d) / vw
  let blk := fmtBlock f || fmtBlock d
  finish s (s.vinstr n (vecWord 0x14 vd.val va.val d mk.val f part.toNat)
    (cvtAccepts f d && decide (part.toNat < r) && (!blk || mk.val == 0) && (!fmtBlock f || va.val % 2 == 0)
      && (!fmtBlock d || vd.val % 2 == 0))
    ([vd.val, va.val] ++ (if fmtBlock f then [va.val + 1] else []) ++ (if fmtBlock d then [vd.val + 1] else [])) fun s =>
    let cnt := (s.core n).count vw
    if blk && cnt % 32 != 0 then .fault s 0x0C 1 (BitVec.ofNat 64 cnt)
    else if cnt = 0 then .next s
    else .next (s.updCore n fun w => w.vcvt vd.val va.val d mk.val f part.toNat vw cnt))

/-! ## Memory (R163 to R168). -/

/-- One element of a vector access: its index, its address, its first byte in the register and its bytes. -/
structure VElem where
  idx : Nat
  addr : W64
  off : Nat
  len : Nat

/-- The elements of a whole-register access: the pieces of the range that share an 8-byte word, each named by its first
byte (DEDUCED, log 32). -/
def wholeElems (a : W64) (len : Nat) : List VElem :=
  let h := a.toNat % 8
  (List.range ((h + len + 7) / 8)).map fun i =>
    let lo := 8 * i - h
    let hi := min len (8 * i + 8 - h)
    ⟨lo, a + BitVec.ofNat 64 lo, lo, hi - lo⟩

/-- The active elements of an access of format `f`, at the offsets from the base that `at_` gives (R144, R163, R165). -/
def Wrk.elems (w : Wrk) (mk f : Nat) (base : W64) (at_ : Nat → W64) : List VElem :=
  let width := fmtBits f
  ((List.range (w.count (vlmax f))).filter (w.active mk)).map fun j =>
    let o := j * width / 8
    ⟨j, base + at_ j, o, (j * width + width - 1) / 8 + 1 - o⟩

/-- The check of one element: VECTOR SUB 2 in place of MISALIGNED, then the checks of its parts (R166, R167). -/
def State.elemFault (s : State) (n : Core) (e : VElem) (store : Bool) : Option (Nat × Nat × W64) :=
  let hs := halves e.addr e.len
  if hs.any fun h => uncachedAt s.cfg h.1 || inWindow h.1 then some (0x0C, 2, e.addr)
  else hs.findSome? fun h => (s.accSub n h.1 h.2 store).map fun sub => (if store then 5 else 4, sub, BitVec.ofNat 64 h.1)

/-- The fault of an element; cs.vfidx takes its index where the fault is taken (R83, R166). -/
def State.vecFault (s : State) (n : Core) (idx code sub : Nat) (info : W64) : Res :=
  .fault (s.updCore n fun w => if w.monitor then w else { w with vfidx := idx }) code sub info

/-- A vector load of elements, with what to do with the bytes of each (R166). -/
def State.vecLoad (s : State) (n : Core) (es : List VElem) (k : State → List (VElem × List Byte) → Res) : Res :=
  match es.findSome? fun e => (s.elemFault n e false).map fun f => (e.idx, f) with
  | some (i, f) => s.vecFault n i f.1 f.2.1 f.2.2
  | none =>
    let parts := es.flatMap fun e => (halves e.addr e.len).map fun h => (e.idx, h)
    if s.tileHazard n (parts.map (·.2)) false then .stay s else
    match s.loadParts n (parts.map (·.2)) with
    | .wait t => .wait t
    | .fail t i code sub =>
      let p := parts.getD i (0, 0, 0)
      t.vecFault n p.1 code sub (BitVec.ofNat 64 p.2.1)
    | .ok t bs =>
      let r := es.foldl (fun (r : List (List Byte) × List (VElem × List Byte)) e =>
        let h := (halves e.addr e.len).length
        (r.1.drop h, r.2 ++ [(e, (r.1.take h).flatten)])) (bs, [])
      k t r.2

/-- A vector store of elements with their bytes (R166, R168). -/
def State.vecStore (s : State) (n : Core) (es : List (VElem × List Byte)) : Res :=
  match es.findSome? fun e => (s.elemFault n e.1 true).map fun f => (e.1.idx, f) with
  | some (i, f) => s.vecFault n i f.1 f.2.1 f.2.2
  | none =>
    let parts := es.flatMap fun e => storeHalves e.1.addr e.2
    if s.tileHazard n (parts.map fun p => (p.1, p.2.length)) true then .stay s
    else s.storeParts n parts (fun t => .next t) 0

/-- Bytes of a register. -/
def VecReg.bytes (r : VecReg) (off len : Nat) : List Byte := natToBytes (r.toNat / 2 ^ (8 * off)) len

/-- Replace bytes of a register that `width` bits hold. -/
def putBytes {width : Nat} (r : BitVec width) (off : Nat) (bs : List Byte) : BitVec width :=
  let m : BitVec width := BitVec.ofNat width ((2 ^ (8 * bs.length) - 1) * 2 ^ (8 * off))
  (r &&& ~~~m) ||| BitVec.ofNat width (bytesToNat bs * 2 ^ (8 * off))

/-- A vector load into vd: a 6-bit destination that is written has its unused bits zero (R145). -/
def State.vecLoadTo (s : State) (n : Core) (vd f : Nat) (es : List VElem) : Res :=
  if es.isEmpty then .next s
  else s.vecLoad n es fun t bs =>
    .next (t.updCore n fun w => w.setV vd (sixTop f (bs.foldl (fun r e => putBytes r e.1.off e.2) (w.v vd))))

/-- A vector store from vd. -/
def State.vecStoreOf (s : State) (n : Core) (vd : Nat) (es : List VElem) : Res :=
  s.vecStore n (es.map fun e => (e, VecReg.bytes ((s.core n).v vd) e.off e.len))

/-- Whether a contiguous access keeps R164: formats narrower than a byte take no mask. -/
def contiguousLegal (mk f : Nat) : Bool := fmtDefined f && (decide (8 ≤ fmtBits f) || mk == 0)

/-- VLD and VST (R163, R164): a format narrower than a byte needs a count that fills blocks. -/
def State.contiguous (s : State) (n : Core) (ra : SReg) (mk f : Nat) (k : State → List VElem → Res) : Res :=
  let w := s.core n
  let cnt := w.count (vlmax f)
  if fmtBits f < 8 ∧ cnt % 32 ≠ 0 then .fault s 0x0C 1 (BitVec.ofNat 64 cnt)
  else k s (w.elems mk f (s.sreg n ra) fun j => BitVec.ofNat 64 (j * fmtBits f / 8))

/-- The elements of VLDS and VSTS. -/
def State.strided (s : State) (n : Core) (ra rb : SReg) (mk f : Nat) : List VElem :=
  (s.core n).elems mk f (s.sreg n ra) fun j => BitVec.ofNat 64 j * s.sreg n rb

/-- Registers in the index group of a format (R165). -/
def indexGroup (f : Nat) : Nat := if fmtBits f = 16 then 2 else if fmtBits f = 8 then 4 else 1

/-- The elements of VLDX and VSTX (R165). -/
def State.indexed (s : State) (n : Core) (ra : SReg) (vb mk f : Nat) : List VElem :=
  let w := s.core n
  w.elems mk f (s.sreg n ra) fun j =>
    BitVec.ofNat 64 (vecElem 32 (w.v (vb + j / 256)) (j % 256) * (fmtBits f / 8))

def execVld (n : Core) (vd : VReg) (ra : SReg) (mk : MReg) (fmt : BitVec 5) (s : State) : Out :=
  let f := fmt.toNat
  finish s (s.vinstr n (vecWord 0x17 vd.val ra.val 0 mk.val f 0) (contiguousLegal mk.val f) [vd.val] fun s =>
    s.contiguous n ra mk.val f fun s es => s.vecLoadTo n vd.val f es)

def execVst (n : Core) (vd : VReg) (ra : SReg) (mk : MReg) (fmt : BitVec 5) (s : State) : Out :=
  let f := fmt.toNat
  finish s (s.vinstr n (vecWord 0x17 vd.val ra.val 0 mk.val f 1) (contiguousLegal mk.val f) [vd.val] fun s =>
    s.contiguous n ra mk.val f fun s es => s.vecStoreOf n vd.val es)

def execVlds (n : Core) (vd : VReg) (ra rb : SReg) (mk : MReg) (fmt : BitVec 5) (s : State) : Out :=
  let f := fmt.toNat
  finish s (s.vinstr n (vecWord 0x17 vd.val ra.val rb.val mk.val f 2) (fmtDefined f && decide (8 ≤ fmtBits f)) [vd.val]
    fun s => s.vecLoadTo n vd.val f (s.strided n ra rb mk.val f))

def execVsts (n : Core) (vd : VReg) (ra rb : SReg) (mk : MReg) (fmt : BitVec 5) (s : State) : Out :=
  let f := fmt.toNat
  finish s (s.vinstr n (vecWord 0x17 vd.val ra.val rb.val mk.val f 3) (fmtDefined f && decide (8 ≤ fmtBits f)) [vd.val]
    fun s => s.vecStoreOf n vd.val (s.strided n ra rb mk.val f))

/-- Whether an indexed access is legal (R165). -/
def indexedLegal (vb f : Nat) : Bool := fmtDefined f && decide (8 ≤ fmtBits f) && vb % indexGroup f == 0

def execVldx (n : Core) (vd : VReg) (ra : SReg) (vb : VReg) (mk : MReg) (fmt : BitVec 5) (s : State) : Out :=
  let f := fmt.toNat
  finish s (s.vinstr n (vecWord 0x17 vd.val ra.val vb.val mk.val f 4) (indexedLegal vb.val f)
    (vd.val :: (List.range (indexGroup f)).map (vb.val + ·)) fun s => s.vecLoadTo n vd.val f (s.indexed n ra vb.val mk.val f))

def execVstx (n : Core) (vd : VReg) (ra : SReg) (vb : VReg) (mk : MReg) (fmt : BitVec 5) (s : State) : Out :=
  let f := fmt.toNat
  finish s (s.vinstr n (vecWord 0x17 vd.val ra.val vb.val mk.val f 5) (indexedLegal vb.val f)
    (vd.val :: (List.range (indexGroup f)).map (vb.val + ·)) fun s => s.vecStoreOf n vd.val (s.indexed n ra vb.val mk.val f))

def execMld (n : Core) (md : MReg) (ra : SReg) (s : State) : Out :=
  finish s (s.vinstr n (vecWord 0x17 md.val ra.val 0 0 0 6) true [] fun s =>
    s.vecLoad n (wholeElems (s.sreg n ra) 256) fun t bs =>
      .next (t.updCore n fun w => w.setM md.val (bs.foldl (fun r e => putBytes r e.1.off e.2) (w.m md.val))))

def execMst (n : Core) (md : MReg) (ra : SReg) (s : State) : Out :=
  finish s (s.vinstr n (vecWord 0x17 md.val ra.val 0 0 0 7) true [] fun s =>
    s.vecStore n ((wholeElems (s.sreg n ra) 256).map fun e =>
      (e, natToBytes (((s.core n).m md.val).toNat / 2 ^ (8 * e.off)) e.len)))

def execVldr (n : Core) (vd : VReg) (ra : SReg) (s : State) : Out :=
  finish s (s.vinstr n (vecWord 0x17 vd.val ra.val 0 0 0 8) true [vd.val] fun s =>
    s.vecLoadTo n vd.val 0 (wholeElems (s.sreg n ra) 1024))

def execVstr (n : Core) (vd : VReg) (ra : SReg) (s : State) : Out :=
  finish s (s.vinstr n (vecWord 0x17 vd.val ra.val 0 0 0 9) true [vd.val] fun s =>
    s.vecStoreOf n vd.val (wholeElems (s.sreg n ra) 1024))

end Sys2Proof.Machine
end

