-- ==== Sys2Proof/Machine/Matrix.lean ====
section
/-! DEFINITION. The matrix instructions of a worker core and the events of its matrix unit (R178 to R202). -/

namespace Sys2Proof.Machine

/-- MROWS and NCOLS (R177). -/
def Wrk.mrows (w : Wrk) : Nat := field w.mshape.toNat 7 0 + 1
def Wrk.ncols (w : Wrk) : Nat := field w.mshape.toNat 15 8 + 1

/-- Issue a matrix instruction once its checks have passed and the queue has room (R187, R197). One that rounds
stochastically takes the seed (R131). -/
def State.matIssue (s : State) (n : Core) (acc : Nat) (pair : Bool) (kind : MatKind) (seeded : Bool)
    (check : Option (Nat × W64)) : Res :=
  match check with
  | some c => .fault s 0x0D c.1 c.2
  | none =>
    let w := s.core n
    if 8 ≤ w.mq.length then .stay s
    else
      let o : MatOp := { kind, acc, pair, rows := w.mrows, cols := w.ncols, md := w.fp, order := w.mseq, done := 0 }
      .next (s.updCore n fun w =>
        { w with mq := w.mq ++ [o], mseq := w.mseq + 1,
                 srseed := if seeded && w.fp.srnd then w.srseed + 1 else w.srseed })

/-- Whether a pair of an accumulator and a format code names a tile or a pair (R181). -/
def accLegal (acc : AccId) (f : Nat) : Bool := f == 1 || (f == 0 && acc.val % 2 == 0)

def execMma (n : Core) (acc : AccId) (fa fb : BitVec 5) (ra rb rc : SReg) (s : State) : Out :=
  let a := fa.toNat
  let b := fb.toNat
  let word := BitVec.ofNat 64 (0x18 * 2 ^ 27 + acc.val * 2 ^ 25 + a * 2 ^ 20 + b * 2 ^ 15 + ra.val * 2 ^ 10 + rb.val * 2 ^ 5 + rc.val)
  finish s (s.instr n word (mmaAccepts a b && (a != 0 || acc.val % 2 == 0)) false fun s =>
    let w := s.core n
    s.matIssue n acc.val (a == 0) (.mma (mmaArgs a b (s.sreg n ra) (s.sreg n rb) (s.sreg n rc))) false
      (mmaCheck a b (s.sreg n ra) (s.sreg n rb) (s.sreg n rc) w.mrows w.ncols))

def execMzero (n : Core) (acc : AccId) (fmt : BitVec 5) (s : State) : Out :=
  let f := fmt.toNat
  finish s (s.instr n (maWord acc.val f 0 0 0) (accLegal acc f) false fun s =>
    s.matIssue n acc.val (f == 0) .zero false none)

/-- MACCLD and MACCST. -/
def State.accMove (s : State) (n : Core) (op : Nat) (acc : AccId) (f : Nat) (ra rb : SReg) (kind : Nat → Nat → MatKind) : State :=
  s.instr n (maWord acc.val f ra.val rb.val op) (accLegal acc f) false fun s =>
    let w := s.core n
    let pair := f == 0
    let p := accPitch pair (s.sreg n rb).toNat w.ncols
    s.matIssue n acc.val pair (kind (s.sreg n ra).toNat p) false
      (accMoveCheck pair (s.sreg n ra) (s.sreg n rb) w.mrows w.ncols)

def execMaccld (n : Core) (acc : AccId) (fmt : BitVec 5) (ra rb : SReg) (s : State) : Out :=
  finish s (s.accMove n 1 acc fmt.toNat ra rb .load)

def execMaccst (n : Core) (acc : AccId) (fmt : BitVec 5) (ra rb : SReg) (s : State) : Out :=
  finish s (s.accMove n 2 acc fmt.toNat ra rb .store)

/-- MACCSTC and MACCSTCD (R181, R196). -/
def State.accConv (s : State) (n : Core) (op : Nat) (acc : AccId) (pair : Bool) (f : Nat) (ra rb : SReg) : State :=
  s.instr n (maWord acc.val f ra.val rb.val op)
    (convAccepts pair f && (fmtBlock f || rb.val == 0) && (!pair || acc.val % 2 == 0)) false fun s =>
    let w := s.core n
    s.matIssue n acc.val pair (.conv f (s.sreg n ra).toNat (s.sreg n rb).toNat) (decide (fmtBits f ≤ 16))
      (accConvCheck f (s.sreg n ra) (s.sreg n rb) w.mrows w.ncols)

def execMaccstc (n : Core) (acc : AccId) (fmt : BitVec 5) (ra rb : SReg) (s : State) : Out :=
  finish s (s.accConv n 3 acc false fmt.toNat ra rb)

def execMaccstcd (n : Core) (acc : AccId) (fmt : BitVec 5) (ra rb : SReg) (s : State) : Out :=
  finish s (s.accConv n 4 acc true fmt.toNat ra rb)

/-- The check of a row index (R181, R187). -/
def rowCheck (w : Wrk) (v : W64) : Option (Nat × W64) := if w.mrows ≤ v.toNat then some (1, v) else none

/-- Whether MRD and MWR keep the rules of their registers (R182). -/
def rowLegal (acc : AccId) (f : Nat) (v : VReg) : Bool := accLegal acc f && (f != 0 || v.val % 2 == 0)

/-- The vector registers of MRD and MWR. -/
def rowRegs (f : Nat) (v : VReg) : List Nat := if f = 0 then [v.val, v.val + 1] else [v.val]

def execMrd (n : Core) (acc : AccId) (fmt : BitVec 5) (vd : VReg) (rb : SReg) (s : State) : Out :=
  let f := fmt.toNat
  finish s (s.instr n (maWord acc.val f vd.val rb.val 5) (rowLegal acc f vd) false fun s =>
    s.matIssue n acc.val (f == 0) (.rowRead vd.val (s.sreg n rb).toNat) false (rowCheck (s.core n) (s.sreg n rb)))

def execMwr (n : Core) (acc : AccId) (fmt : BitVec 5) (va : VReg) (rb : SReg) (s : State) : Out :=
  let f := fmt.toNat
  finish s (s.vinstr n (maWord acc.val f va.val rb.val 6) (rowLegal acc f va) (rowRegs f va) fun s =>
    let w := s.core n
    let pair := f == 0
    let data := (List.range w.ncols).map fun c =>
      if pair then vecElem 64 (w.v (va.val + c / 128)) (c % 128) else vecElem 32 (w.v va.val) c
    s.matIssue n acc.val pair (.rowWrite (s.sreg n rb).toNat data) false (rowCheck w (s.sreg n rb)))

def execMfence (n : Core) (s : State) : Out :=
  finish s (s.instr n (BitVec.ofNat 64 (0x1A * 2 ^ 27)) true false fun s =>
    if (s.core n).matOps.isEmpty then .next s else .stay s)

def execMshapei (n : Core) (mrowsm1 ncolsm1 : BitVec 8) (s : State) : Out :=
  finish s (s.instr n (BitVec.ofNat 64 (0x1A * 2 ^ 27 + mrowsm1.toNat * 2 ^ 19 + ncolsm1.toNat * 2 ^ 11 + 1))
    (decide (ncolsm1.toNat < 192)) false fun s =>
    .next (s.updCore n fun w => { w with mshape := ncolsm1 ++ mrowsm1 }))

/-! ## Events of the matrix unit (R197, R198). -/

/-- The engine of an instruction. -/
def MatOp.engine (o : MatOp) : MEngine := match o.kind with | .mma _ => .array | _ => .access

/-- Whether two instructions name the same accumulator. -/
def MatOp.shares (a b : MatOp) : Bool :=
  let tiles (o : MatOp) : List Nat := if o.pair then [o.acc, o.acc + 1] else [o.acc]
  (tiles a).any (tiles b).contains

/-- Whether `x` depends on the earlier `y` (R198). -/
def MatOp.dependsOn (x y : MatOp) : Bool :=
  (x.shares y && !(x.engine == .array && y.engine == .array)) ||
    (x.writes x.fmt).any (fun r => (y.reads ++ y.writes y.fmt).any (rangesMeet r)) ||
    (y.writes y.fmt).any (fun r => x.reads.any (rangesMeet r))

/-- Whether the matrix unit of a core is clocked (R473, R475). -/
def State.matRuns (s : State) (n : Core) : Bool := !s.tileOff n && s.coreRuns (n.val / 64)

/-- MATRIX_START: the engine's oldest queued instruction starts once nothing it depends on is incomplete; its completion
cycle follows from the cycle in which it can start (R198). -/
def State.matStart (s : State) (n : Core) (e : MEngine) : State :=
  let w := s.core n
  match w.mq.find? fun o => o.engine == e with
  | none => s
  | some o =>
    if !s.matRuns n || w.matOps.any fun y => decide (y.order < o.order) && o.dependsOn y then s
    else
      let at_ := max (max (Tbl.get 0 s.time.ran (n.val / 64)) w.matLast + 1) (if e = .array then w.arrayFree else w.accessFree)
      let x := { o with done := at_ + o.times.1 + o.times.2 }
      s.updCore n fun w =>
        { w with mq := w.mq.filter fun y => y.order != o.order,
                 arrayRun := if e = .array then w.arrayRun ++ [x] else w.arrayRun,
                 accessRun := if e = .access then w.accessRun ++ [x] else w.accessRun,
                 arrayFree := if e = .array then at_ + o.times.1 else w.arrayFree,
                 accessFree := if e = .access then at_ + o.times.1 else w.accessFree }

/-- The running instruction of an engine that completes first; the older of two that complete together (R198). -/
def firstDone (l : List MatOp) : Option MatOp :=
  match l with
  | [] => none
  | o :: rest => match firstDone rest with
    | some x => if x.done < o.done then some x else some o
    | none => some o

/-- MATRIX_COMPLETE: the running instruction of the engine whose completion cycle comes first completes. -/
def State.matComplete (s : State) (n : Core) (e : MEngine) : State :=
  let w := s.core n
  match firstDone (if e = .array then w.arrayRun else w.accessRun) with
  | none => s
  | some o =>
    if !s.matRuns n then s
    else (s.opEffect n o).updCore n fun w =>
      { w with arrayRun := w.arrayRun.filter fun y => y.order != o.order,
               accessRun := w.accessRun.filter fun y => y.order != o.order,
               matLast := max w.matLast o.done }

def execMatrixStart (n : Core) (e : MEngine) (s : State) : Out := finish s (s.matStart n e)
def execMatrixComplete (n : Core) (e : MEngine) (s : State) : Out := finish s (s.matComplete n e)

end Sys2Proof.Machine
end

