-- ==== Sys2Proof/Machine/Saffron.lean ====
section
/-! DEFINITION. Tree tables, query submission, Saffron and the traversal units: their instructions and events (R225 to
R262). -/

namespace Sys2Proof.Machine

/-! ## Firmware register set of the tree tables (R231). -/

def execTtSetnext (a : Agent) (s : State) : Out := finish s (s.regCmd a .ttCmd .full 1)
def execTtSwap (a : Agent) (s : State) : Out := finish s (s.regCmd a .ttCmd .full 2)
def execTtRead (a : Agent) (s : State) : Out := finish s (s.regCmd a .ttCmd .full 3)
def execTtRetireAdvance (p : Part) (x : TreeEntry) (s : State) : Out := finish s (s.treeRetire p.val x.val)

/-! ## Class 0x1D (R260, R262). -/

/-- A result code in s[rd]. -/
def State.codeOut (s : State) (n : Core) (rd : SReg) (c : Nat) : Res := s.put n rd (BitVec.ofNat 64 c)

/-- The enabled partition of a core (R262). -/
def State.onPart (s : State) (n : Core) : Option Nat := (s.partOf n).filter s.partOn

/-- The source of a submission: its range, its poison, and matrix instructions that still write it come first (R199,
R260); the read finds uncorrectable errors (R584). -/
def State.withSource (s : State) (n : Core) (off : W64) (align len : Nat) (k : State → Res) : Res :=
  match rangeFault off align len with
  | some f => .fault s f.1 f.2.1 f.2.2
  | none =>
    let base := 0x800_0000_0000 + 0x40_0000 * n.val
    if s.tileHazard n [(base + off.toNat, len)] false then .stay s
    else match s.badWord n off.toNat len with
      | some w => .fault ((s.tileFind n off.toNat len).raise 0x3F n (base + w) 1) 8 0 (BitVec.ofNat 64 w)
      | none => k s

/-- Bytes of a query record at a tile-memory offset: 64, or 128 with an extension (R240). -/
def State.recordLen (s : State) (n : Core) (off : W64) : Nat :=
  if bitOf (le (s.tileBytes n off.toNat 64).1 38 1) 7 then 128 else 64

def execQsub (n : Core) (rd ra : SReg) (s : State) : Out :=
  finish s (s.instr n (regWord 0x1D rd.val ra.val 0 0) true false fun s =>
    let off := s.sreg n ra
    let len := if (rangeFault off 64 64).isNone then s.recordLen n off else 64
    s.withSource n off 64 len fun s =>
      match s.onPart n with
      | none => s.codeOut n rd 11
      | some p =>
        match s.submitWait (n.val / 64) p (s.recordsAt n off.toNat 1) with
        | some t => .wait t
        | none =>
          let b := (s.tileBytes n off.toNat len).1
          match s.submit n p (b.take 64) (if len = 128 then some (b.drop 64) else none) with
          | none => .wait s
          | some r => r.2.codeOut n rd r.1)

def execQsubn (n : Core) (rd ra rb : SReg) (s : State) : Out :=
  finish s (s.instr n (regWord 0x1D rd.val ra.val rb.val 1) true false fun s =>
    let off := s.sreg n ra
    let cnt := (s.sreg n rb).toNat
    if cnt = 0 ∨ 64 < cnt then s.codeOut n rd (256 * if (s.onPart n).isNone then 11 else 2)
    else s.withSource n off 64 (64 * cnt) fun s =>
      match s.onPart n with
      | none => s.codeOut n rd (256 * 11)
      | some p =>
        match s.submitWait (n.val / 64) p (s.recordsAt n off.toNat cnt) with
        | some t => .wait t
        | none =>
          match s.submitMany n p off.toNat cnt cnt 0 with
          | none => .wait s
          | some r => r.2.2.codeOut n rd (r.1 + 256 * r.2.1))

def execQsrc (n : Core) (rd ra : SReg) (s : State) : Out :=
  finish s (s.instr n (regWord 0x1D rd.val ra.val 0 2) true false fun s =>
    let off := s.sreg n ra
    s.withSource n off 128 128 fun s =>
      match s.onPart n with
      | none => s.codeOut n rd 11
      | some p =>
        let r := s.submitSource n p (s.tileBytes n off.toNat 128).1
        r.2.codeOut n rd r.1)

def execQflush (n : Core) (s : State) : Out :=
  finish s (s.instr n (regWord 0x1D 0 0 0 3) true false fun s =>
    match s.onPart n with
    | none => .next s
    | some p => .next (s.binFlush (n.val / 64) p))

/-- An operation on a tree table of the core's partition: it is sent once, releasing where asked, takes effect at the end of
the HK cycle (R228), and its result code ends the instruction (R230, R261, R344). -/
def State.treeOp (s : State) (n : Core) (rd : SReg) (release : Bool) (op entry : Nat) (root xs : W64) : Res :=
  match (s.core n).ttRes with
  | some c => (s.updCore n fun w => { w with ttRes := none }).codeOut n rd c
  | none =>
    match s.onPart n with
    | none => s.codeOut n rd 11
    | some p =>
      if s.ttOps.any (fun o => o.unit == n.val) || (release && !s.storesDone n) then .wait s
      else .wait (s.ttPost ⟨n.val, p, entry, op, root, xs⟩)

def execTtnext (n : Core) (rd ra rb : SReg) (s : State) : Out :=
  finish s (s.instr n (regWord 0x1D rd.val ra.val rb.val 4) true false fun s =>
    s.treeOp n rd true 1 (field (s.sreg n rd).toNat 9 0) (s.sreg n ra) (s.sreg n rb))

def execTtswap (n : Core) (rd ra : SReg) (s : State) : Out :=
  finish s (s.instr n (regWord 0x1D rd.val ra.val 0 5) true false fun s =>
    s.treeOp n rd true 2 (field (s.sreg n ra).toNat 9 0) 0 0)

def execTtread (n : Core) (rd ra : SReg) (s : State) : Out :=
  finish s (s.instr n (regWord 0x1D rd.val ra.val 0 6) true false fun s =>
    s.treeOp n rd false 3 (field (s.sreg n ra).toNat 9 0) 0 0)

/-! ## Events (R237, R250 to R258). -/

def execBinAgeFire (q : Quad) (bin : BinId) (s : State) : Out := finish s (s.binAge q.val bin.val)
def execSaffronResplit (q : Quad) (s : State) : Out := finish s (s.resplitNow q.val)
def execBinDispatch (q : Quad) (s : State) : Out := finish s (s.binDispatch q.val)
def execSpillReturn (q : Quad) (s : State) : Out := finish s (s.spillReturn q.val)
def execGeneratorEmit (q : Quad) (s : State) : Out := finish s (s.genEmit q.val)
def execQueryEnd (m : Tu) (s : State) : Out := finish s (s.queryEnd m.val)
def execBinDeliver (m : Tu) (s : State) : Out := finish s (s.binDeliver m.val)
def execPacketWrite (m : Tu) (s : State) : Out := finish s (s.packetWrite m.val)

end Sys2Proof.Machine
end

