-- ==== Sys2Proof/Machine/Stream.lean ====
section
/-! DEFINITION. Stream engines, multicast, semaphores and barriers: class 0x1C, the stream programs, and the events of the
engines (R265 to R307). -/

namespace Sys2Proof.Machine

/-! ## Class 0x1C (R300, R301). -/

/-- An instruction of class 0x1C. -/
def State.syncInstr (s : State) (n : Core) (rd ra rb : SReg) (op : Nat) (body : State → Res) : State :=
  s.instr n (regWord 0x1C rd.val ra.val rb.val (BitVec.ofNat 12 op)) true false body

/-- The channel number in a register. -/
def State.chanArg (s : State) (n : Core) (ra : SReg) : Nat := (s.sreg n ra).toNat % 16

/-- A block of tile memory that an instruction names: its range first, then matrix instructions that write it. -/
def State.withBlock (s : State) (n : Core) (off : W64) (align len : Nat) (k : State → Res) : Res :=
  match rangeFault off align len with
  | some f => .fault s f.1 f.2.1 f.2.2
  | none =>
    if s.tileHazard n [(0x800_0000_0000 + 0x40_0000 * n.val + off.toNat, len)] false then .stay s else k s

/-- A start or re-arm from a block of tile memory (R284, R300): the offsets of the block and of its completion record, the
hold of an engine that has a commit's new setting (R71 step 4), and, where the code is OK, the release of the core's
earlier stores. `go` answers the code and the state. -/
def State.startInstr (s : State) (n : Core) (rd : SReg) (off : W64) (align len : Nat) (go : State → Nat × State) : Res :=
  s.withBlock n off align len fun s =>
    match s.recordOff n off.toNat with
    | some o => .fault s 6 1 (BitVec.ofNat 64 o)
    | none =>
      if s.appliedUnit (0x100 + n.val) then .wait s
      else
        let r := go (s.findBlock n off.toNat len)
        if r.1 = 0 ∧ !s.storesDone n then .wait s else r.2.codeOut n rd r.1

def execSstart (n : Core) (rd ra rb : SReg) (s : State) : Out :=
  finish s (s.syncInstr n rd ra rb 0 fun s => s.startInstr n rd (s.sreg n rb) 128 128 fun s =>
    s.sStart n (s.chanArg n ra) (s.sreg n rb).toNat)

def execSrearm (n : Core) (rd ra rb : SReg) (s : State) : Out :=
  finish s (s.syncInstr n rd ra rb 1 fun s => s.startInstr n rd (s.sreg n rb) 128 128 fun s =>
    s.sRearm n (s.chanArg n ra) (s.sreg n rb).toNat)

def execSstop (n : Core) (rd ra : SReg) (s : State) : Out :=
  finish s (s.syncInstr n rd ra 0 2 fun s =>
    let k := s.chanArg n ra
    let c := firstCode [(s.privChan n k, 5), ((s.partOf n).isNone, 6)]
    if c ≠ 0 then s.codeOut n rd c else (s.chanStop (chSrc n k)).codeOut n rd 0)

def execSwait (n : Core) (rd ra : SReg) (s : State) : Out :=
  finish s (s.syncInstr n rd ra 0 3 fun s =>
    let c := s.chanOf (chSrc n (s.chanArg n ra))
    if c.st = .idle then s.codeOut n rd c.last else .stay s)

def execSempost (n : Core) (rd ra : SReg) (s : State) : Out :=
  finish s (s.syncInstr n rd ra 0 4 fun s =>
    let v := (s.sreg n ra).toNat
    let m := v % 256
    let c := firstCode [((s.partOf n).isNone, 6), (decide (s.partOf m ≠ s.partOf n), 10)]
    if c ≠ 0 then s.codeOut n rd c
    else if !s.storesDone n then .wait s
    else (s.semPost m (field v 12 8) (bitOf v 13)).codeOut n rd 0)

/-- The semaphore pair and side that a register names, and the count taken from it. -/
def State.semArg (s : State) (n : Core) (ra : SReg) : Option (Nat × Wrk) :=
  let v := (s.sreg n ra).toNat
  (s.core n).semTake (v % 32) (bitOf v 5)

def execSemwait (n : Core) (rd ra : SReg) (s : State) : Out :=
  finish s (s.syncInstr n rd ra 0 5 fun s =>
    match s.semArg n ra with
    | none => .stay s
    | some r => (s.updCore n fun _ => r.2).codeOut n rd r.1)

def execSemtry (n : Core) (rd ra : SReg) (s : State) : Out :=
  finish s (s.syncInstr n rd ra 0 6 fun s =>
    match s.semArg n ra with
    | none => s.codeOut n rd 0
    | some r => (s.updCore n fun _ => r.2).codeOut n rd 1)

def execSemrd (n : Core) (rd ra : SReg) (s : State) : Out :=
  finish s (s.syncInstr n rd ra 0 10 fun s =>
    let p := (s.sreg n ra).toNat % 32
    let c (e : Bool) : Nat := Tbl.get 0 (s.core n).sems (semKey p e)
    s.codeOut n rd (c false + 2 ^ 16 * c true))

/-- Whether a core may use a barrier (R301). -/
def State.barMember (s : State) (n : Core) (b : Nat) : Bool :=
  let x := s.bar b
  x.en && x.has n && s.partOf n == some x.part

/-- Whether a core's last arrival at a barrier belongs to a phase that is not complete. -/
def State.barPending (s : State) (n : Core) (b : Nat) : Bool := (s.bar b).arrived.getLsbD n

def execBararv (n : Core) (rd ra rb : SReg) (s : State) : Out :=
  finish s (s.syncInstr n rd ra rb 7 fun s =>
    let b := (s.sreg n ra).toNat % 64
    let mask := s.sreg n rb
    let busy := (List.range 16).any fun k =>
      mask.getLsbD k && (let c := s.chanOf (chSrc n k); c.st == .running || c.st == .draining)
    let c := firstCode [((s.partOf n).isNone, 6), ((s.bar b).broken, 11), (!s.barMember n b, 12)]
    if c ≠ 0 then s.codeOut n rd c
    else if s.barPending n b then .stay s
    else if busy || !s.storesDone n then .wait s
    else
      let t := s.barArrive n b
      t.codeOut n rd (if (t.bar b).broken then 11 else 0))

def execBarwait (n : Core) (rd ra : SReg) (s : State) : Out :=
  finish s (s.syncInstr n rd ra 0 8 fun s =>
    let b := (s.sreg n ra).toNat % 64
    if (s.bar b).broken then s.codeOut n rd (2 ^ 63 + 11)
    else if s.barPending n b then .stay s
    else s.codeOut n rd (s.bar b).phase.toNat)

def execNlarm (n : Core) (rd ra : SReg) (s : State) : Out :=
  finish s (s.syncInstr n rd ra 0 9 fun s => s.startInstr n rd (s.sreg n ra) 32 32 fun s =>
    s.nlArm n (s.sreg n ra).toNat)

/-! ## Stream programs (R272, R273). -/

/-- HALT closes a tile that has begun, and the channel drains. -/
def execStreamHalt (n : Core) (k : Chan) (s : State) : Out :=
  finish s (s.progStep n k 0x0 fun _ _ =>
    (s.updChan (.chan n k) fun c => { c.close with st := .draining }).tileStep (.chan n k))
def execStreamArg (n : Core) (k : Chan) (s : State) : Out :=
  finish s (s.progReg n k 0x1 fun b _ w => b.args.getD (simmU w % 8) 0)
def execStreamLi (n : Core) (k : Chan) (s : State) : Out := finish s (s.progReg n k 0x2 fun _ _ w => simm64 w)
def execStreamAddi (n : Core) (k : Chan) (s : State) : Out :=
  finish s (s.progReg n k 0x3 fun _ c w => c.a (sas w) + simm64 w)
def execStreamAdd (n : Core) (k : Chan) (s : State) : Out :=
  finish s (s.progReg n k 0x4 fun _ c w => c.a (sas w) + c.a (sat w))
def execStreamSub (n : Core) (k : Chan) (s : State) : Out :=
  finish s (s.progReg n k 0x5 fun _ c w => c.a (sas w) - c.a (sat w))
def execStreamMul (n : Core) (k : Chan) (s : State) : Out :=
  finish s (s.progReg n k 0x6 fun _ c w => c.a (sas w) * c.a (sat w))
def execStreamShli (n : Core) (k : Chan) (s : State) : Out :=
  finish s (s.progReg n k 0x7 fun _ c w => c.a (sas w) <<< (simmU w % 64))
def execStreamAndi (n : Core) (k : Chan) (s : State) : Out :=
  finish s (s.progReg n k 0x8 fun _ c w => c.a (sas w) &&& simm64 w)
def execStreamLdt (n : Core) (k : Chan) (s : State) : Out := finish s (s.progStep n k 0x9 fun _ w => s.progLdt n k w)
def execStreamBnzd (n : Core) (k : Chan) (s : State) : Out :=
  finish s (s.progStep n k 0xA fun _ w => s.updChan (.chan n k) fun c =>
    let v := c.a (sad w) - 1
    (c.setA (sad w) v).jump w (v != 0))
def execStreamBltu (n : Core) (k : Chan) (s : State) : Out :=
  finish s (s.progStep n k 0xB fun _ w => s.updChan (.chan n k) fun c => c.jump w ((c.a (sas w)).ult (c.a (sat w))))
def execStreamXfer (n : Core) (k : Chan) (s : State) : Out :=
  finish s (s.progStep n k 0xC fun b w => s.xferStart n k b w)
def execStreamXferi (n : Core) (k : Chan) (s : State) : Out :=
  finish s (s.progStep n k 0xD fun b w => s.xferStart n k b w)
def execStreamEmit (n : Core) (k : Chan) (s : State) : Out :=
  finish s (s.progStep n k 0xE fun _ _ =>
    (s.updChan (.chan n k) fun c => { c.close with pc := c.pc + 1 }).tileStep (.chan n k))
def execStreamPost (n : Core) (k : Chan) (s : State) : Out := finish s (s.progStep n k 0xF fun _ w => s.progPost n k w)

/-! ## Events of the engines (R275 to R294). -/

def execLineRequestIssue (src : StreamSrc) (s : State) : Out := finish s (s.lineIssue src)
def execLineResponse (src : StreamSrc) (tag : Nat) (resp : BusResp) (s : State) : Out :=
  finish s (s.lineResponse src tag resp)
def execChannelComplete (src : StreamSrc) (s : State) : Out := finish s (s.chanComplete src)
def execMulticastAttachTimeout (n : Core) (k : Chan) (s : State) : Out := finish s (s.attachTimeout n k)
def execStragglerDetach (n : Core) (k : Chan) (r : Core) (s : State) : Out := finish s (s.straggler n k r)

/-! ## Registers (R304, R305). -/

def execPrivChannelStart (a : Agent) (src : StreamSrc) (s : State) : Out := finish s (s.regCmd a (.chCmd src) .full 1)
def execPrivChannelRearm (a : Agent) (src : StreamSrc) (s : State) : Out := finish s (s.regCmd a (.chCmd src) .full 2)
def execPrivChannelStop (a : Agent) (src : StreamSrc) (s : State) : Out := finish s (s.regCmd a (.chCmd src) .full 3)
def execBarCtlWrite (a : Agent) (b : BarId) (val : W64) (s : State) : Out := finish s (s.regCmd a (.barCtl b) .full val)

end Sys2Proof.Machine
end

