-- ==== Sys2Proof/Machine/Caches.lean ====
section
/-! DEFINITION. Caches, home slices and host coherence: the requests, fills, evictions and snoops that reach them (R318 to
R352, R417, R419). -/

namespace Sys2Proof

/-- Whether a cache can hold lines in E and M: any but a node cache (R338). -/
def Cacher.writes : Cacher → Bool | .node _ => false | _ => true

end Sys2Proof

namespace Sys2Proof.Machine

/-! ## Requests of caches at home (R321, R337). -/

/-- Whether a cache's request for a line can reach its home: the line may be cached, memory answers, no fill of it is on its
way, and the cache's eviction buffer does not hold it: a request for such a line waits until the eviction completes
(R352). -/
def State.mayRequest (s : State) (r : Cacher) (l : Nat) : Bool :=
  s.cacheable (128 * l) && s.busCode (128 * l) == .okay && !((s.cacheOf r).grants.any fun g => g.line == l && !g.gone)
    && !((s.cacheOf r).evict.any fun e => e.line == l)

def execGets (r : Cacher) (line : Nat) (s : State) : Out :=
  finish s (
    if s.mayRequest r line && (s.held r line).isNone then (if r.writes then s.getS r line else s.getSNode r line) else s)

def execGetm (r : Cacher) (line : Nat) (s : State) : Out :=
  finish s (if s.mayRequest r line && r.writes && !s.owns r line then s.getM r line else s)

/-- UPGRADE ends the miss that asked for it; no data comes (R337). -/
def execUpgrade (r : Cacher) (line : Nat) (s : State) : Out :=
  finish s (
    if s.mayRequest r line && r.writes && (s.held r line).isSome && !s.owns r line then
      let t := s.upgradeLine r line
      if t.owns r line then
        t.updCache r fun c => { c with miss := if (c.miss.map (·.1)) = some line then none else c.miss,
                                       pf := if (c.pf.map (·.1)) = some line then none else c.pf }
      else t
    else s)

/-- A store performed at the home slice (R324): a copy that the writer itself holds takes the bytes too, a hit (R320). -/
def State.homeWrite (s : State) (u l : Nat) (m : BitVec 128) (d : Line128) (poison : Bool) : State :=
  if !s.cacheable (128 * l) || s.busCode (128 * l) != .okay then s
  else match s.homeWait l true (m != BitVec.allOnes 128) with
    | some t => t
    | none =>
      let r := cacherOf u
      if (s.dirEnt l).units.contains u then
        ((s.ownMerge r l m d).updCache r fun c => c.modify (r.set l) r.ways l fun x => { x with poison := x.poison || poison }).homeStoreBy
          u (128 * l) l m d poison (some u)
      else s.homeStoreBy u (128 * l) l m d poison none

def execHomeWrite (u : BitVec 16) (line : Nat) (mask : BitVec 128) (data : BitVec 1024) (poison : Bool) (s : State) : Out :=
  finish s (s.homeWrite u.toNat line mask data poison)

/-- FILL_COMPLETE: a fill that fails for a buffered store of a worker loses the store (R585). -/
def State.fillDone (s : State) (r : Cacher) (c : BusResp) : State :=
  let t := s.fill r c
  match r, (s.cacheOf r).miss with
  | .l1 n, some (l, true) =>
    if c = .okay ∨ c = .poison ∨ ((t.cacheOf r).miss.map (·.1)) = some l then t else t.cachedStoreLost n l c
  | _, _ => t

def execFillComplete (r : Cacher) (resp : BusResp) (s : State) : Out := finish s (s.fillDone r resp)

def execOffer (r : Cacher) (line bankQueue : Nat) (s : State) : Out := finish s (s.evictHome r line false bankQueue)
def execWriteback (r : Cacher) (x : HomeLine) (s : State) : Out := finish s (s.evictHome r x.line true x.queue)

def execStoreBufferDrain (n : Core) (line : Nat) (s : State) : Out :=
  finish s (if s.tileOff n then s else s.sbDrain n line)

/-! ## L2 locks and reset invalidation (R326, R329). -/

def execL2LockWaysWrite (a : Agent) (n : Sys2Proof.Slice) (val : W64) (s : State) : Out :=
  finish s (s.regCmd a (.l2LockWays n.val) .full val)
def execLockDrainDone (n : Sys2Proof.Slice) (s : State) : Out := finish s (s.lockDrained n.val)

/-- A cache that has invalidated itself: every line is invalid and every age 3. -/
def Cache.fresh (c : Cache) : Cache := if c.busy then { c with busy := false, lines := [], ages := [] } else c

def State.invalidated (s : State) : CacheId → State
  | .l1 n => s.updCache (.l1 n) Cache.fresh
  | .icache n => s.updIcache n Cache.fresh
  | .l2 n => s.updSlice n fun x => { x with l2 := x.l2.fresh }
  | .node m => s.updCache (.node m) Cache.fresh
  | .clv c => s.updCache (.clv c) Cache.fresh

def execCacheInvalidateDone (c : CacheId) (s : State) : Out := finish s (s.invalidated c)

/-! ## Host snoops of host lines (R339). -/

/-- Whether a snoop of a line by a host port is served: the line is that host's, CXL.cache is open, and the home slice
accepts requests. -/
def State.snoops (s : State) (h : HostId) (l : Nat) : Bool :=
  spaceOf (128 * l) == .host h.val && s.cxlCache h && s.cxlOpen h && !s.homeStall l

/-- The dirty data that a snoop returns: that of an owner, or of the home slice. -/
def State.dirtyOf (s : State) (l : Nat) : Option (Line128 × Bool) :=
  ((s.dirEnt l).owner.bind fun u => s.dirtyData (cacherOf u) l).or
    ((s.l2Line l).bind fun x => if x.st = .m then some (x.data, x.poison) else none)

/-- The answer to a snoop: the dirty data where there is any. -/
def State.snoopReply (s : State) (d : Option (Line128 × Bool)) : State :=
  match d with
  | some x => s.replyLine (if x.2 then .poison else .okay) x.1 x.2
  | none => s.reply .okay 0

/-- A served snoop is counted at the home slice (R351). -/
def State.snooped (s : State) (l : Nat) : State := s.count (0x200 + homeOf s.cfg l) 8

def execSnpInv (h : HostId) (line : Nat) (s : State) : Out :=
  finish s (if s.snoops h line then (((s.killCopies line none).l2Drop line true).snooped line).snoopReply (s.dirtyOf line) else s)

def execSnpData (h : HostId) (line : Nat) (s : State) : Out :=
  finish s (if s.snoops h line then (((s.shareOwner line).l2Clean line).snooped line).snoopReply (s.dirtyOf line) else s)

def execSnpCur (h : HostId) (line : Nat) (s : State) : Out :=
  finish s (if s.snoops h line then (s.snooped line).snoopReply (s.dirtyOf line) else s)

/-! ## Host accesses to stacked memory (R340, R417). -/

/-- Whether a port carries CXL.mem (R55). -/
def State.cxlMem (s : State) (h : HostId) : Bool := s.cxlOpen h && bitOf (s.cfg.hostOf h).flags 1

/-- The state in which a host request at home waits, `fetch` being whether it needs the line from the vault: as for any
request there, but of the copies that hosts hold only the other port's stands in the way, and none of a SHARE = 0 line. -/
def State.hostWait (s : State) (h : HostId) (l : Nat) (write fetch : Bool) : Option State :=
  if s.homeStall l then some s
  else match if s.isPrivate l then none else s.recall l write (some h.val) with
    | some t => some t
    | none => if fetch && s.needsFill l then some (s.l2Miss l false) else none

/-- The home slice records a host copy of a line in the way made for it: 1 shared, 2 exclusive. A port's copy keeps what
it already has. -/
def State.hostRecord (s : State) (h : HostId) (l w kind : Nat) : State :=
  let e := s.dirEnt l
  s.dirPut l w ({ e with line := l }.setHost h.val (max kind (e.host h.val)))

/-- A host read (R340): a SHARE = 0 line is served without disturbing private copies. -/
def State.hostRead (s : State) (h : HostId) (a len : Nat) (excl : Bool) : State :=
  let l := a / 128
  let answer (t : State) (d : Line128 × Bool) : State :=
    let t1 := t.replyLine (if d.2 then .poison else .okay) (lineOf (lineSlice d.1 (a % 128) len)) d.2
    if d.2 then t1.raise 0x3F (0x480 + h.val) a 6 else t1
  if s.isPrivate l then
    let x := s.l2Serve l none false
    answer x.2 x.1
  else match s.dirRoom l with
    | .error t => t
    | .ok (w, s1) =>
      let x := s1.l2Serve l (s1.ownerData l) false
      let s2 := if excl then x.2.killCopies l none else x.2.shareOwner l
      answer (s2.hostRecord h l w (if excl then 2 else 1)) x.1

/-- A host write (R340): the copy that the port may keep is recorded as exclusive (DESIGN CHOICE, log 34). -/
def State.hostWrite (s : State) (h : HostId) (a len : Nat) (data : Line128) (poison : Bool) : State :=
  let l := a / 128
  let store (t : State) : State :=
    (t.homeStoreBy (0x480 + h.val) a l (byteMask (a % 128) len) (data <<< (8 * (a % 128))) poison none).reply .okay 0
  if s.isPrivate l then store s
  else match s.dirRoom l with
    | .error t => t
    | .ok (w, s1) => (store s1).hostRecord h l w 2

/-- A host request at a host physical address: halted, beyond what the port's HDM decoder maps, or served at home at the
address in block memory (R417); a request crosses no line. -/
def State.hostMem (s : State) (h : HostId) (x len : Nat) (write fetch : Bool) (f : State → Nat → State) : State :=
  let base := (s.hostPort h).hdmBase.toNat
  let a := x - base
  if s.boot.halted then s.reply .perm 0
  else if !s.cxlMem h ∨ len = 0 ∨ 128 < a % 128 + len then s
  else if x < base ∨ stackedBytes ≤ a then s.replyLine .poison 0 true
  else match s.hostWait h (a / 128) write fetch with
    | some t => t
    | none => f s a

def execHostMemRead (h : HostId) (addr : BitVec 52) (len : Fin 129) (excl : Bool) (s : State) : Out :=
  finish s (s.hostMem h addr.toNat len.val excl false fun t a => t.hostRead h a len.val excl)

def execHostMemWrite (h : HostId) (addr : BitVec 52) (len : Fin 129) (data : BitVec 1024) (poison : Bool) (s : State) : Out :=
  finish s (s.hostMem h addr.toNat len.val true (len.val != 128) fun t a => t.hostWrite h a len.val data poison)

/-! ## Back-invalidation responses (R340, R419). -/

/-- The back-invalidation of a line that waits for a port. -/
def State.biOf (s : State) (h : HostId) (l : Nat) : Option BiWait :=
  (s.slice (homeOf s.cfg l)).bi.find? fun b => b.h == h.val && b.line == l

/-- A back-invalidation ends, with the copy that remains at the port. -/
def State.biEnd (s : State) (h : HostId) (l kind : Nat) : State :=
  (s.updSlice (homeOf s.cfg l) fun x => { x with bi := x.bi.filter fun b => !(b.line == l && b.h == h.val) }).dirMap l fun e =>
    e.setHost h.val kind

/-- BIRSP: dirty data lands at home; one that comes after the timeout is discarded, and a port that carries no CXL.mem
delivers none (R413). -/
def State.biRsp (s : State) (h : HostId) (l : Nat) (dirty : Option Line128) : State :=
  match s.biOf h l with
  | none => s
  | some b =>
    if !s.cxlMem h then s else
    let t := s.biEnd h l (if b.inv then 0 else 1)
    match dirty with
    | some d => t.homePut l d false 0
    | none => t

/-- BI_TIMEOUT: the host copy is removed, and a line held exclusively is poisoned. -/
def State.biTimeout (s : State) (h : HostId) (l : Nat) : State :=
  match s.biOf h l with
  | none => s
  | some b =>
    if s.now < b.since + (s.hostPort h).biTimeout * usUnits then s
    else
      let s1 := if (s.dirEnt l).host h.val = 2 then
          (s.memPut l (s.homeData l).1 true).l2Modify l fun x => { x with poison := true }
        else s
      (s1.biEnd h l 0).raise 0x29 (0x480 + h.val) (128 * l) (128 * l)

def execBirsp (h : HostId) (line : Nat) (dirty : Option (BitVec 1024)) (s : State) : Out := finish s (s.biRsp h line dirty)
def execBiTimeout (h : HostId) (line : Nat) (s : State) : Out := finish s (s.biTimeout h line)

end Sys2Proof.Machine
end

