-- ==== Sys2Proof/Machine/Vault.lean ====
section
/-! DEFINITION. Vault commands: accepted requests, patrol scrub, refresh, temperature reports, controller commands and
training (R358 to R375, R561). -/

namespace Sys2Proof.Machine

/-- Whether a controller takes a request for a line: open, and not holding a commit's new setting (R71, R375). -/
def State.vaultTakes (s : State) (v l : Nat) : Bool := s.vaultOpen v l && !s.appliedUnit (0x300 + v)

/-- VAULT_READ: the line goes to whoever asked, and to the home slice where it has a miss of that line out (R321,
R360). -/
def State.vaultRead (s : State) (v l : Nat) (hit : List SymErr) : State :=
  let r := s.vaultFetch v l hit
  (r.2.2.l2Arrive v (s.vaultLine v l) r.1).replyLine (if r.1.2 then .poison else .okay) r.1.1 r.1.2

def execVaultRead (v : Vault) (l : Nat) (hit : List SymErr) (s : State) : Out :=
  finish s (if s.vaultTakes v.val l then s.vaultRead v.val l hit else s)

def execVaultWrite (v : Vault) (l : Nat) (data : BitVec 1024) (poison : Bool) (s : State) : Out :=
  finish s (if s.vaultTakes v.val l then (s.vaultStore v.val l data poison).reply .okay 0 else s)

def execVaultPartialWrite (v : Vault) (l : Nat) (mask : BitVec 128) (data : BitVec 1024) (hit : List SymErr) (s : State) :
    Out :=
  finish s (if s.vaultTakes v.val l then ((s.vaultMerge v.val l mask data false hit).1).reply .okay 0 else s)

/-- A scrub of the line at VLT_SCRUB_POS, after which the position moves on (R364). -/
def State.scrub (s : State) (v : Nat) (hit : List SymErr) : State :=
  let l := (s.vault v).scrubLine
  let r := (s.openRow v l false).vaultDecode v l hit
  let d := r.2.decodedLine v l r.1
  let s1 := match r.1 with
    | .poisoned _ => r.2
    | .bad _ => r.2.vaultPut v l d.1 true
    | .data _ fixed inner => if inner || fixed != 0 then r.2.vaultPut v l d.1 false else r.2
  (s1.updVault v fun x =>
    if l + 1 < vaultLines then { x with scrubLine := l + 1 }
    else { x with scrubLine := 0, passes := min (x.passes + 1) 0xFFFF }).count (0x300 + v) 8

/-- SCRUB_LINE in the slot it may take, which is charged to the budget; `claimed` says that a class of R281 claims the
slot, so that it is a forced one (R365). -/
def State.scrubGo (s : State) (v : Nat) (claimed : Bool) (hit : List SymErr) : State :=
  match s.scrubSlot v claimed with
  | none => s
  | some n =>
    let t := (s.charge v n).scrub v hit
    if claimed then (t.updVault v fun x => { x with forcedAt := some (n / 20) }).count (0x300 + v) 9 else t

def execScrubLine (v : Vault) (slot : ScrubSlot) (s : State) : Out :=
  finish s (if s.vaultTakes v.val (s.vault v.val).scrubLine then s.scrubGo v.val slot.claimed slot.hit else s)

/-- REFRESH_SLOT (R366, R367, R369): a band change and the end of the period each start a refresh window, which clears
the activation tables. -/
def State.refresh (s : State) (v : Nat) : State :=
  let x := s.vault v
  let fresh := x.bandNext.isSome || decide (x.winStart + bandPeriod x.band ≤ s.now)
  (s.updVault v fun x => if fresh then { x with winStart := s.now, bandNext := none, act := [] } else x).count (0x300 + v) 6

def execRefreshSlot (v : Vault) (s : State) : Out :=
  finish s (if (s.vault v.val).st = 2 then s.refresh v.val else s)

/-- A temperature frame (R366, R561): one without VALID changes nothing. -/
def State.tierReport (s : State) (v t : Nat) (frame : Nat) : State :=
  if bitOf frame 15 then
    (s.updVault v fun x =>
      { x with temp := Tbl.set 0 x.temp t (field frame 7 0), tempAt := Tbl.set 0 x.tempAt t s.now,
               stale := Tbl.set false x.stale t false }).vaultTemps v t
  else s

def execTierTempReport (v : Vault) (t : Tier) (frame : BitVec 16) (s : State) : Out :=
  finish s (s.tierReport v.val t.val frame.toNat)

/-- BAND_FALL (R367): every report of the last 10 ms lay 2 °C below the edge. -/
def State.bandFall (s : State) (v : Nat) : State :=
  let x := s.vault v
  match x.coolSince with
  | some t => if t + 2000000 ≤ s.now then
      s.updVault v fun x => { x with band := bandOf x.hottest, bandNext := some (bandOf x.hottest), coolSince := none }
    else s
  | none => s

def execBandFall (v : Vault) (s : State) : Out := finish s (s.bandFall v.val)

/-- TIER_TEMP_TIMEOUT (R561): no valid frame for 3 ms. -/
def State.tierTimeout (s : State) (v t : Nat) : State :=
  let x := s.vault v
  if Tbl.get false x.stale t ∨ s.now < Tbl.get 0 x.tempAt t + 600000 then s
  else (s.updVault v fun x => { x with stale := Tbl.set false x.stale t true }).vaultTemps v t

def execTierTempTimeout (v : Vault) (t : Tier) (s : State) : Out := finish s (s.tierTimeout v.val t.val)

/-! ## Commands (R373) and training (R561). -/

def execMarkErase (a : Agent) (v : Vault) (val : W64) (s : State) : Out :=
  finish s (s.regCmd a (.vltCmd v.val) .full ((val &&& 0xFFC#64) ||| 1#64))
def execZeroAll (a : Agent) (v : Vault) (s : State) : Out := finish s (s.regCmd a (.vltCmd v.val) .full 2)
def execZeroAllDone (v : Vault) (s : State) : Out := finish s (s.zeroDone v.val)
def execVaultTrainingDone (v : Vault) (badBond : Bool) (s : State) : Out := finish s (s.trainingDone v.val badBond)

/-- BANK_ROW_CLOSE (R371): the row closes after 64 MEM cycles without an access, which the command stands for. -/
def execBankRowClose (v : Vault) (bank : BankId) (s : State) : Out :=
  finish s (s.updVault v.val fun x => { x with row := Tbl.set 0 x.row bank.val 0 })

end Sys2Proof.Machine
end

