-- ==== Sys2Proof/Machine/Clove.lean ====
section
/-! DEFINITION. The instructions of a Clove thread, its traps, and the commands of the task scheduler and its registers
(R376 to R410). -/

namespace Sys2Proof.Machine

/-- A register result, then the next instruction. -/
def State.gput (s : State) (h : Thread) (rd : GReg) (v : W64) : Res := .next (s.setG h rd.val v)

/-! ## Integer instructions (R381, R382). -/

/-- The code of R93 that an immediate operation has; none for LIH and the unassigned codes (R382). -/
def clvImmCode (fn : Nat) : Option Nat :=
  match fn with
  | 0 => some 0x00 | 1 => some 0x02 | 2 => some 0x03 | 3 => some 0x04
  | 4 => some 0x07 | 5 => some 0x08 | 6 => some 0x09 | 10 => some 0x0A
  | 7 => some 0x0B | 8 => some 0x0C
  | _ => none

/-- Class 0x3, but for LIH, which has a row of its own (log 33). -/
def State.clvImm (s : State) (h : Thread) (rd ra : GReg) (fn : Nat) (imm : BitVec 16) : State :=
  let code := (clvImmCode fn).getD 0
  let okShift := !((code == 0x07 || code == 0x08 || code == 0x09 || code == 0x0A) && decide (64 ≤ imm.toNat))
  s.cinstr h (gImmWord 3 rd.val ra.val fn imm) ((clvImmCode fn).isSome && okShift) fun s =>
    s.gput h rd ((intOp code (s.greg h ra) (imm.signExtend 64)).getD 0)

/-- Classes 0x1 and 0x2; bits [15:12] are zero. -/
def State.clvReg (s : State) (h : Thread) (cls : Nat) (rd ra rb : GReg) (imm : BitVec 16) : State :=
  let fn := imm.toNat
  let v := if cls = 1 then (if fn ≤ 0x13 then intOp fn (s.greg h ra) (s.greg h rb) else none)
           else (if fn ≤ 0x0F then mulDiv fn (s.greg h ra) (s.greg h rb) else none)
  s.cinstr h (gImmWord cls rd.val ra.val rb.val imm) (v.isSome && !(cls == 1 && intOpUnary fn && rb.val != 0)) fun s =>
    s.gput h rd (v.getD 0)

/-- CLV_INT_OP. A word that no other command spells faults ILLEGAL (R381); one that another command spells is none of this
command's (log 33). -/
def execClvIntOp (h : Thread) (cls : BitVec 4) (rd ra fld : GReg) (top : BitVec 4) (fn : BitVec 12) (s : State) : Out :=
  let imm : BitVec 16 := top ++ fn
  finish s (if cls = 1 ∨ cls = 2 then s.clvReg h cls.toNat rd ra fld imm
            else if cls = 3 ∧ fld ≠ 9 then s.clvImm h rd ra fld.val imm
            else if (decodeClove h (cloveWordOf cls rd ra fld imm)).isSome then s
            else s.cinstr h (gImmWord cls.toNat rd.val ra.val fld.val imm) false fun s => .next s)

def execLih (h : Thread) (rd : GReg) (imm : BitVec 16) (s : State) : Out :=
  finish s (s.cinstr h (gImmWord 3 rd.val 0 9 imm) true fun s => s.gput h rd (imm.signExtend 64 <<< 16))

/-! ## Accesses. -/

/-- A load of a thread: its checks, then the register window or memory. -/
def State.clvLoad (s : State) (h : Thread) (a : W64) (len : Nat) (k : State → List Byte → Res) : Res :=
  if (s.clvFault h a len false).isNone && inWindow a.toNat && (clvMem a.toNat).isNone then
    let r := s.winRead (.clove h) (a.toNat - windowBase) len
    match r.1 with
    | .okay => k r.2.2 r.2.1
    | .poison => .fault r.2.2 8 0 a
    | c => .fault r.2.2 7 (busSub c) a
  else s.withClvLoad h a len k

/-- A store of a thread: its checks, then the register window or memory. -/
def State.clvStore (s : State) (h : Thread) (a : W64) (bs : List Byte) (k : State → Res) : Res :=
  if (s.clvFault h a bs.length true).isNone && inWindow a.toNat && (clvMem a.toNat).isNone then
    let r := s.winWrite (.clove h) (a.toNat - windowBase) bs
    match r.1 with
    | .okay => k r.2
    | c => .fault r.2 7 (busSub c) a
  else s.withClvStore h a bs k

def execClvLoad (h : Thread) (rd ra : GReg) (fn : BitVec 4) (imm : BitVec 16) (s : State) : Out :=
  finish s (s.cinstr h (gImmWord 4 rd.val ra.val fn.toNat imm) (decide (fn.toNat < 7)) fun s =>
    s.clvLoad h (s.greg h ra + imm.signExtend 64) (sizeBytes fn.toNat) fun t bs => t.gput h rd (loadValue fn.toNat bs))

def execClvStore (h : Thread) (rs ra : GReg) (fn : BitVec 4) (imm : BitVec 16) (s : State) : Out :=
  finish s (s.cinstr h (gImmWord 5 rs.val ra.val fn.toNat imm) ([0, 2, 4, 6].contains fn.toNat) fun s =>
    s.clvStore h (s.greg h ra + imm.signExtend 64) (natToBytes (s.greg h rs).toNat (sizeBytes fn.toNat)) fun t => .next t)

/-- An atomic of `w` bytes. -/
def State.clvAmo (s : State) (h : Thread) (rd : GReg) (a : W64) (w : Nat) (fn : BitVec 12) (b : W64) : Res :=
  if a.toNat % w ≠ 0 then .fault s 6 1 a
  else match s.clvFault h a w true with
    | some f => .fault s f.1 f.2.1 f.2.2
    | none =>
      match s.clvAtomic h a.toNat w fn b (s.greg h rd) with
      | .wait t => .wait t
      | .ok t old => t.gput h rd (atomicOld w old)
      | .bus t c => .fault t 7 (busSub c) a
      | .poison t => .fault t 8 0 a

def execClvAtomic (h : Thread) (rd ra rb : GReg) (fn : BitVec 12) (s : State) : Out :=
  finish s (s.cinstr h (gRegWord 6 rd.val ra.val rb.val fn) (fn.toNat < 2 ^ 10 && (atomicSize fn).isSome) fun s =>
    s.clvAmo h rd (s.greg h ra) ((atomicSize fn).getD 8) fn (s.greg h rb))

/-! ## Branches and jumps. -/

def execClvBranch (h : Thread) (ra rb : GReg) (cond : BitVec 3) (off : BitVec 16) (s : State) : Out :=
  let c := branchCond cond.toNat (s.greg h ra) (s.greg h rb)
  let word := BitVec.ofNat 64 (7 * 2 ^ 28 + ra.val * 2 ^ 24 + rb.val * 2 ^ 20 + cond.toNat * 2 ^ 17 + off.toNat)
  finish s (s.cinstr h word c.isSome fun s =>
    if c = some true then .goto s ((s.thread h).pc + 4 * off.signExtend 64) else .next s)

def execClvJl (h : Thread) (rd : GReg) (off : BitVec 24) (s : State) : Out :=
  finish s (s.cinstr h (gJumpWord 8 rd.val off) true fun s =>
    .goto (s.setG h rd.val ((s.thread h).pc + 4)) ((s.thread h).pc + 4 * off.signExtend 64))

def execClvJlr (h : Thread) (rd ra : GReg) (fn : BitVec 4) (imm : BitVec 16) (s : State) : Out :=
  finish s (s.cinstr h (gImmWord 9 rd.val ra.val fn.toNat imm) (fn == 0) fun s =>
    .goto (s.setG h rd.val ((s.thread h).pc + 4)) ((s.greg h ra + imm.signExtend 64) &&& ~~~3))

/-! ## System instructions (R383 to R387). -/

def execClvFence (h : Thread) (s : State) : Out := finish s (s.cinstr h (gImmWord 0xA 0 0 0 0) true fun s => .next s)

def execTrd (h : Thread) (rd : GReg) (num : BitVec 12) (s : State) : Out :=
  let v := s.tcRead h num.toNat
  finish s (s.cinstr h (gImmWord 0xA rd.val 0 1 (num.setWidth 16)) v.isSome fun s => s.gput h rd (v.getD 0))

def execTwr (h : Thread) (ra : GReg) (num : BitVec 12) (s : State) : Out :=
  let t := (s.thread h).tcWrite num.toNat (s.greg h ra)
  finish s (s.cinstr h (gImmWord 0xA 0 ra.val 2 (num.setWidth 16)) t.isSome fun s => .next (s.updThr h fun x => t.getD x))

def execRett (h : Thread) (s : State) : Out :=
  finish s (s.cinstr h (gImmWord 0xA 0 0 3 0) true fun s =>
    .goto (s.updThr h fun t => { t with ie := t.pie, trap := false }) (s.thread h).epc)

/-- WFI completes once an interrupt is pending and enabled, at once or from its wait. -/
def State.clvWfi (s : State) (h : Thread) : State :=
  if (s.thread h).run = .waitInt then
    if s.clvRuns h && s.tcOn h != 0 then
      (s.updThr h fun t => { t with run := .running, pc := t.pc + 4 }).count (clvUnit h) 1
    else s
  else s.cinstr h (gImmWord 0xA 0 0 4 0) true fun s =>
    if s.tcOn h ≠ 0 then .next s else .stay (s.updThr h fun t => { t with run := .waitInt })

def execClvWfi (h : Thread) (s : State) : Out := finish s (s.clvWfi h)

def execClvBreak (h : Thread) (s : State) : Out :=
  finish s (s.cinstr h (gImmWord 0xA 0 0 5 0) true fun s => .fault s 0x0A 0 (s.thread h).pc)

/-! ## Maintenance (R330 to R334, R383, R385). -/

/-- The maintenance operation of a code, and whether it acts on a range. -/
def maintCode (fn : Nat) : Option (Maint × Bool) :=
  match fn with
  | 0 => some (.clean, false) | 1 => some (.inval, false) | 2 => some (.flush, false) | 3 => some (.zero, false)
  | 8 => some (.clean, true) | 9 => some (.inval, true) | 10 => some (.flush, true)
  | _ => none

/-- A range operation of a thread. -/
def State.clvRange (s : State) (h : Thread) (rd : GReg) (a : W64) (op : Maint) : Res :=
  let len := rangeLen (s.greg h rd)
  match (pagePieces a.toNat len).findSome? fun p => (s.clvSub h p.1 op.store).map fun sub => (sub, p.1) with
  | some f => .fault s (if op.store then 5 else 4) f.1 (BitVec.ofNat 64 f.2)
  | none =>
    match s.maintRange (clvCacher h) op a.toNat len with
    | .ok t => t.gput h rd (t.greg h rd - BitVec.ofNat 64 len)
    | .error t => .wait t

/-- The effect of CMO with an assigned code. -/
def State.clvMaint (s : State) (h : Thread) (rd ra : GReg) (fn : Nat) : Res :=
  let a := s.greg h ra
  let l := a.toNat / 128
  let r := clvCacher h
  if (s.thread h).fixed then .fault s 4 6 a
  else match maintCode fn with
    | some (op, true) => s.clvRange h rd a op
    | some (op, false) =>
      match s.clvFault h a 1 op.store with
      | some f => .fault s f.1 f.2.1 f.2.2
      | none => match s.maintOne r op l with
        | .ok t => .next t
        | .error t => .wait t
    | none =>
      if fn = 6 then
        match s.clvFault h a 1 false with
        | some f => .fault s f.1 f.2.1 f.2.2
        | none => match s.maintLock r l with
          | .ok x => x.2.gput h rd (BitVec.ofNat 64 x.1)
          | .error t => .wait t
      else match s.maintPref r l (fn == 5) ((s.clvFault h a 1 (fn == 5)).isNone && s.cacheable a.toNat) with
        | .ok t => .next t
        | .error t => .wait t

def execCmo (h : Thread) (rd ra : GReg) (fn : BitVec 5) (s : State) : Out :=
  let f := fn.toNat
  finish s (s.cinstr h (gImmWord 0xA rd.val ra.val 6 (fn.setWidth 16)) (f ≤ 10 && f != 7 && (6 ≤ f || rd.val == 0)) fun s =>
    s.clvMaint h rd ra f)

def execClvTrap (h : Thread) (s : State) : Out := finish s (s.thrTrap h)

/-! ## Task scheduler (R395 to R405). -/

def execGettask (h : Thread) (rd ra : GReg) (s : State) : Out :=
  finish s (s.schedOp h rd.val ra.val 0 0 (rd.val % 2 == 0) fun s => s.getTask h rd.val ra.val)

/-- TASK_DISPATCH: the matching that is due. The scheduler stands still with its clock (R467). -/
def execTaskDispatch (s : State) : Out := finish s (if s.clk.relock then s else s.dispatch)

def execTready (h : Thread) (rd ra : GReg) (s : State) : Out :=
  finish s (s.schedOp h rd.val ra.val 0 1 true fun s => s.treadyOp h rd.val ra.val)
def execTend (h : Thread) (rd : GReg) (s : State) : Out :=
  finish s (s.schedOp h rd.val 0 0 2 true fun s => s.tend h rd.val)
def execTblock (h : Thread) (rd ra : GReg) (s : State) : Out :=
  finish s (s.schedOp h rd.val ra.val 0 3 true fun s => s.tblock h rd.val ra.val)
def execTdelay (h : Thread) (rd ra : GReg) (s : State) : Out :=
  finish s (s.schedOp h rd.val ra.val 0 4 true fun s => s.tdelay h rd.val ra.val)
def execTyield (h : Thread) (rd : GReg) (s : State) : Out :=
  finish s (s.schedOp h rd.val 0 0 5 true fun s => s.tyield h rd.val)
def execTprio (h : Thread) (rd ra rb : GReg) (s : State) : Out :=
  finish s (s.schedOp h rd.val ra.val rb.val 6 true fun s => s.tprio h rd.val ra.val rb.val)
def execFlowput (h : Thread) (rd ra rb : GReg) (s : State) : Out :=
  finish s (s.schedOp h rd.val ra.val rb.val 7 true fun s => s.flowPut h rd.val ra.val rb.val)
def execFlowdone (h : Thread) (rd ra : GReg) (s : State) : Out :=
  finish s (s.schedOp h rd.val ra.val 0 8 true fun s => s.flowDone h rd.val ra.val)
def execFlowtake (h : Thread) (rd ra : GReg) (s : State) : Out :=
  finish s (s.schedOp h rd.val ra.val 0 9 (rd.val % 2 == 0) fun s => s.flowTake h rd.val ra.val)

def execTick (s : State) : Out := finish s s.tickNow

/-- The entry of a task that expires next. -/
def State.expiry (s : State) (x : Nat) (timeout : Bool) : State :=
  match s.sched.expired with
  | some e => if e.1.task = x ∧ e.2 = timeout ∧ !s.clk.relock then s.timeUp e else s
  | none => s

def execDelayExpiry (x : TaskId) (s : State) : Out := finish s (s.expiry x.val false)
def execTimeoutExpiry (x : TaskId) (s : State) : Out := finish s (s.expiry x.val true)

/-! ## Registers (R408, R409). -/

def execTaskCfgWrite (a : Agent) (x : TaskId) (val : W64) (s : State) : Out := finish s (s.regCmd a (.taskCfg x.val) .full val)
def execAniseCtrlWrite (a : Agent) (val : W64) (s : State) : Out := finish s (s.regCmd a .aniseCtrl .full val)
def execClvThreadReset (a : Agent) (h : Thread) (s : State) : Out := finish s (s.regCmd a (.thrCtrl h.val) .full 2)
def execClvThreadRun (a : Agent) (h : Thread) (s : State) : Out := finish s (s.regCmd a (.thrCtrl h.val) .full 1)
def execClvIpiSet (a : Agent) (mask : W64) (s : State) : Out := finish s (s.regCmd a .clvIpi .full mask)
def execClvIpiClear (a : Agent) (mask : W64) (s : State) : Out := finish s (s.regCmd a .clvIpiClr .full mask)
def execClvCoreReset (a : Agent) (c : Clove) (s : State) : Out := finish s (s.regCmd a (.clvCoreCtrl c.val) .full 1)

end Sys2Proof.Machine
end

