-- ==== Sys2Proof/Machine/Host.lean ====
section
/-! DEFINITION. Host ports, job rings and mailboxes (R411 to R435). -/

namespace Sys2Proof.Machine

/-! ## Ring pointers (R424 to R428, R435): the host's lie in the high halves of their registers, firmware's in the low. -/

def execHostSqTailWrite (a : Agent) (h : HostId) (f : FnId) (tail : BitVec 12) (s : State) : Out :=
  finish s (s.regCmd a (.sqPtr h.val f.val) .hi (tail.setWidth 64 <<< 32))
def execSqHeadWrite (a : Agent) (h : HostId) (f : FnId) (head : BitVec 12) (s : State) : Out :=
  finish s (s.regCmd a (.sqPtr h.val f.val) .lo (head.setWidth 64))
def execCqTailWrite (a : Agent) (h : HostId) (f : FnId) (tail : BitVec 12) (s : State) : Out :=
  finish s (s.regCmd a (.cqPtr h.val f.val) .lo (tail.setWidth 64))
def execCqHeadWrite (a : Agent) (h : HostId) (f : FnId) (head : BitVec 12) (s : State) : Out :=
  finish s (s.regCmd a (.cqPtr h.val f.val) .hi (head.setWidth 64 <<< 32))
def execRingBaseWrite (a : Agent) (h : HostId) (f : FnId) (cq : Bool) (val : W64) (s : State) : Out :=
  finish s (s.regCmd a (if cq then .cqBase h.val f.val else .sqBase h.val f.val) .full val)

/-! ## The link (R411 to R414, R432). -/

def execHostLinkTrain (h : HostId) (width rate : Nat) (s : State) : Out := finish s (s.hostTrain h.val width rate)
def execIdeEstablish (h : HostId) (s : State) : Out := finish s (s.ideEstablish h.val)
def execIdeFailure (h : HostId) (stream : W64) (s : State) : Out := finish s (s.ideFailure h.val stream)
def execHostLinkDown (h : HostId) (s : State) : Out := finish s (s.hostLinkDown h.val)
def execHostConfigWrite (h : HostId) (c : HostCfg) (s : State) : Out := finish s (s.hostConfig h.val c)

/-! ## Mailboxes and doorbells (R429 to R433). -/

def execMbxWordWrite (a : Agent) (c : MbxId) (w : Fin 8) (val : W64) (s : State) : Out :=
  finish s (s.regCmd a (.mbxMsg c.val w.val) .full val)
def execMbxPost (a : Agent) (c : MbxId) (val : W64) (s : State) : Out := finish s (s.regCmd a (.mbxPost c.val) .full val)
def execMbxTake (a : Agent) (c : MbxId) (s : State) : Out := finish s (s.regAsk a (.mbxTake c.val) .full)
def execMbxDbMaskWrite (a : Agent) (target : BitVec 16) (val : W64) (s : State) : Out :=
  finish s (s.regCmd a (.dbMask target.toNat) .full val)

end Sys2Proof.Machine
end

