-- ==== Sys2Proof/Machine/Link.lean ====
section
/-! DEFINITION. Link ports, the transport, the block group and collectives (R436 to R464). -/

namespace Sys2Proof.Machine

/-! ## Ports (R436 to R441, R456, R461). -/

def execFlitReceive (p : Port) (f : FlitIn) (s : State) : Out :=
  finish s (s.flitIn p.val f.bytes f.words.toNat f.fixed f.bad)
def execFlitReplay (p : Port) (s : State) : Out := finish s (s.flitReplay p.val)

/-- CREDIT_RETURN: freed receive-buffer space goes back to the partner in a flit (R439). -/
def State.creditReturn (s : State) (p vc n : Nat) : State :=
  let x := s.port p
  if x.st ≠ .up ∨ s.linkMode p ≠ 1 ∨ Tbl.get 0 x.credOwed vc < n ∨ x.flitRoom = 0 then s
  else (s.updPort p fun x => x.sendFlit ((List.range 4).map fun v => if v = vc then n else 0) []).count (0x460 + p) 1

def execCreditReturn (p : Port) (vc : Fin 4) (n : BitVec 12) (s : State) : Out :=
  finish s (s.creditReturn p.val vc.val n.toNat)
def execLaneRetire (p : Port) (x : LaneFail) (s : State) : Out := finish s (s.laneRetire p.val x.lane.val x.lock)
/-- LINK_DOWN: whatever its cause, the link goes to DOWN. -/
def execLinkDown (p : Port) (_why : DownCause) (s : State) : Out := finish s (s.linkDown p.val)
def execLnkTrain (a : Agent) (p : Port) (s : State) : Out := finish s (s.regCmd a (.lnkCtrl p.val) .full 1)
def execLnkDownCmd (a : Agent) (p : Port) (s : State) : Out := finish s (s.regCmd a (.lnkCtrl p.val) .full 2)
def execResetLanes (a : Agent) (p : Port) (s : State) : Out := finish s (s.regCmd a (.lnkCtrl p.val) .full 4)
def execLinkTrainingDone (p : Port) (group : BitVec 32) (block : BitVec 6) (port : BitVec 5) (s : State) : Out :=
  finish s (s.linkTrained p.val group block.toNat port.toNat)

/-! ## Packets (R442 to R452). -/

/-- A packet for this block with the opcode of its row. -/
def State.mine (s : State) (k : Packet) (op : Nat) : Bool := s.grp.en && k.op == op && k.dst.val == s.grp.self

/-- A numbered packet: it leaves its buffer, its connection checks it, and where it is the expected one its effect
follows. A packet whose effect must wait stays in the buffer, in the state that `wait` names (R444). A frame of an Ethernet
port comes into the buffer first (R450). -/
def State.incoming (s : State) (p : Nat) (k : Packet) (op : Nat) (wait : State → Option State) (f : State → State) : State :=
  if !s.mine k op then s
  else
    let s := s.frameIn p k
    match s.takeRx p k with
    | none => s
    | some t =>
      match t.receive k with
      | .drop u => u
      | .take u => match wait s with
        | some w => w
        | none => f u

/-- An acknowledgement, which has no number of its own (log 24). -/
def State.ackComes (s : State) (p : Nat) (k : Packet) (op : Nat) (f : State → State) : State :=
  if !s.mine k op then s
  else
    let s := s.frameIn p k
    match s.takeRx p k with
    | none => s
    | some t => f t

def execPut (p : Port) (k : Packet) (s : State) : Out :=
  finish s (s.incoming p.val k 1 (fun t => t.importWait k k.data.length true) fun t => t.putIn p.val k)
def execGet (p : Port) (k : Packet) (s : State) : Out :=
  finish s (s.incoming p.val k 2 (fun t => t.importWait k k.len false) fun t => t.getIn p.val k)
def execTransportAtomic (p : Port) (k : Packet) (s : State) : Out :=
  finish s (s.incoming p.val k 3 (fun t => t.importWait k (atomicBytes k) true) fun t => t.atomicIn p.val k)
def execResp (p : Port) (k : Packet) (s : State) : Out :=
  finish s (s.incoming p.val k 0x10 (fun _ => none) fun t => t.respIn k)
def execAck (p : Port) (k : Packet) (s : State) : Out := finish s (s.ackComes p.val k 0x11 fun t =>
  if k.ece then (t.count (0x460 + p.val) 6).ackIn k else t.ackIn k)
def execNack (p : Port) (k : Packet) (s : State) : Out := finish s (s.ackComes p.val k 0x12 fun t => t.nackIn k)

def execRetransmitTimeout (dst : BlockNo) (vc : Fin 4) (s : State) : Out := finish s (s.rtoExpired dst.val vc.val)

/-- A dropped packet; INFO gives a reason that the spec does not number (log 1). -/
def State.dropPacket (s : State) (p : Nat) (eth : Bool) : State :=
  let r := s.draw
  if eth then
    (r.2.linkCount p (·.rxDiscard) (fun x v => { x with rxDiscard := v })).raise 0x24 (0x460 + p) 0 r.1.toNat
  else r.2.fwdDrop p r.1.toNat

/-- PACKET_FORWARD (R445). On an Ethernet port the frame is discarded. -/
def State.forward (s : State) (p : Nat) (k : Packet) : State :=
  if !s.grp.en ∨ k.dst.val = s.grp.self then s
  else
  let s := s.frameIn p k
  if k.hops = 0 ∨ s.linkMode p = 2 then
    match s.takeRx p k with
    | some t => t.dropPacket p (s.linkMode p == 2)
    | none => s
  else match s.routeUp k.dst.val, s.takeRx p k with
    | q :: _, some t => (t.transmit q 0 { k with hops := k.hops - 1 }).count (0x460 + p) 9
    | _, _ => s

def execPacketForward (p : Port) (k : Packet) (s : State) : Out := finish s (s.forward p.val k)
def execRateIncrease (dst : BlockNo) (s : State) : Out := finish s (s.rateRise dst.val)
def execPfcPause (p : Port) (prio : BitVec 3) (xoff : Bool) (s : State) : Out := finish s (s.pauseIn p.val prio.toNat xoff)

/-! ## The block group (R456 to R460). -/

def execHeartbeatSend (s : State) : Out := finish s s.beatSend

/-- A group control packet takes effect through its connection; where its payload stands the spec does not say (log 16). -/
def State.control (s : State) (p : Nat) (k : Packet) (op : Nat) (f : State → State) : State :=
  s.incoming p k op (fun _ => none) f

/-- HEARTBEAT: the live mask, the manager, the term and the stage of the sender. -/
def execHeartbeat (r : Arrival) (live : W64) (mgr : BitVec 8) (term : BitVec 32) (stage : W64) (s : State) : Out :=
  let k := r.pkt.beat live mgr.toNat term stage.toNat
  finish s (s.control r.port.val k 0x18 fun t =>
    t.beatIn k.src.val (if le k.data 8 1 < 64 then some (le k.data 8 1) else none) (BitVec.ofNat 32 (le k.data 9 4))
      (BitVec.ofNat 64 (le k.data 13 8)))
def execLivenessExpiry (b : BlockNo) (s : State) : Out := finish s (s.expire b.val)
def execClaim (p : Port) (k : Packet) (s : State) : Out :=
  finish s (s.control p.val k 0x19 fun t => t.claimIn k.src.val (BitVec.ofNat 32 k.addr))
def execGrant (p : Port) (k : Packet) (s : State) : Out :=
  finish s (s.control p.val k 0x1A fun t => t.grantIn k.src.val (BitVec.ofNat 32 k.addr))

/-- CLAIM_TIMEOUT: 500 µs without a quorum of GRANTs; the next heartbeat claims again (R458). -/
def State.claimLost (s : State) : State :=
  if s.isManager ∨ s.grp.claiming.isNone ∨ s.now < s.grp.claimAt + 500 * usUnits then s
  else s.updGrp fun g => { g with claiming := none, votes := 0 }

def execClaimTimeout (s : State) : Out := finish s s.claimLost

def execArrive (p : Port) (k : Packet) (phase : BitVec 52) (s : State) : Out :=
  let k := { k with addr := phase.toNat }
  finish s (s.control p.val k 0x1B fun t => t.gbarArrive k.src.val (k.tag % 16) (BitVec.ofNat 32 k.addr))
def execRelease (p : Port) (k : Packet) (s : State) : Out :=
  finish s (s.control p.val k 0x1C fun t => t.gbarRelease (k.tag % 16) (BitVec.ofNat 32 k.addr))

/-- A received BREAK: the local barrier becomes BROKEN. -/
def State.gbarBroken (s : State) (g : Nat) : State :=
  if (s.gbar g).en then (s.updGbar g fun x => { x with sent := none }).barBreak (s.gbar g).loc else s

def execGroupBreak (r : Arrival) (s : State) : Out :=
  finish s (s.control r.port.val r.pkt 0x1D fun t => t.gbarBroken (r.pkt.tag % 16))
def execDistribute (a : Agent) (s : State) : Out := finish s (s.regCmd a .grpCmd .full 1)

/-- IMAGE_RECEIVED: a member whose stage is enabled has the whole image (R460). -/
def State.imageReceived (s : State) : State :=
  if s.grp.en && s.grp.stageEn then
    (s.updGrp fun g => { g with imageRcvd := true }).updSched fun q =>
      { q with ipi := q.ipi ||| BitVec.ofNat 64 (2 ^ s.grp.irqThread) }
  else s

def execImageReceived (s : State) : Out := finish s s.imageReceived

/-! ## Collectives (R453 to R455). -/

def execCollArm (a : Agent) (k : CollCtx) (s : State) : Out := finish s (s.regCmd a (.collCmd k.val) .full 1)
def execCollAbort (a : Agent) (k : CollCtx) (s : State) : Out := finish s (s.regCmd a (.collCmd k.val) .full 2)

/-- The state in which a COLL packet waits: no context is armed for it, or the home slice of its contribution or of its
result must wait. -/
def State.collWait (s : State) (k : Packet) : Option State :=
  match s.collFor k with
  | none => some s
  | some c =>
    let x := s.collOf c
    match s.rangeWait (x.src + k.addr) k.data.length false with
    | some w => some w
    | none => if x.step = 2 then s.rangeWait (x.dst + k.addr) k.data.length true else none

def execColl (p : Port) (k : Packet) (s : State) : Out :=
  finish s (s.incoming p.val k 4 (fun t => t.collWait k) fun t =>
    match t.collFor k with
    | some c => t.collIn p.val c k
    | none => t)

/-- COLL_UNARMED_TIMEOUT: a packet that has waited for a context for 1 ms is answered with NACK (R455). -/
def State.collUnarmed (s : State) (p : Nat) (k : Packet) : State :=
  if (s.collFor k).isSome || !(s.port p).rxq.any (fun j => j.pkt == k && decide (j.at_ + msUnits ≤ s.now)) then s
  else s.incoming p k 4 (fun _ => none) fun t => t.sendAck 0x12 k.src k.vc 0xFFFFFF false k.tag

def execCollUnarmedTimeout (p : Port) (k : Packet) (s : State) : Out := finish s (s.collUnarmed p.val k)
def execCollComplete (k : CollCtx) (s : State) : Out := finish s (s.collDone k.val)

end Sys2Proof.Machine
end

