-- ==== Sys2Proof/Machine/Power.lean ====
section
/-! DEFINITION. Clock, power and thermal commands: operating points, AVSBus, the cap, thermal limits, the margin planner,
droop and power domains (R465 to R487). -/

namespace Sys2Proof.Machine

/-! ## Operating points (R466 to R468). -/

def execOpStageWrite (a : Agent) (val : W64) (s : State) : Out := finish s (s.regCmd a .clkStg .full val)
def execStandbyPllLock (s : State) : Out := finish s s.pllLock
/-- RAIL_RISE_DONE: Nutmeg acknowledges where its boundary is reached (R467 step 2). -/
def execRailRiseDone (s : State) : Out := finish s (s.partApply 0x491)
def execRelockEnd (s : State) : Out := finish s s.relockEnd

/-! ## Rails (R472, R474). -/

def execAvsTransaction (rail : Rail) (cmd : AvsCmd) (ok : Bool) (val : Nat) (s : State) : Out :=
  finish s (s.avsDo rail.val cmd ok val)

/-- RAIL_POLL: the voltage and the current of every rail are read, every 100 µs. -/
def State.railPoll (s : State) (mv amps : List Nat) : State :=
  if s.pollDue 1 (100 * usUnits) then
    ((List.range 4).foldl (fun t r => (t.avsVolts r (mv.getD r 0)).avsAmps r (amps.getD r 0)) s).polledNow 1 (100 * usUnits)
  else s

def execRailPoll (mv amps : List Nat) (s : State) : Out := finish s (s.railPoll mv amps)
def execCapEvaluation (s : State) : Out := finish s s.capEval
def execCapSustained (s : State) : Out := finish s s.capSustain
def execCapWrite (a : Agent) (val : W64) (s : State) : Out := finish s (s.regCmd a .nutCap .full val)

/-! ## Temperature (R477 to R479). -/

/-- THERMAL_SAMPLE: every 10 µs. -/
def execThermalSample (die spine : List Nat) (s : State) : Out :=
  finish s (if s.pollDue 2 (10 * usUnits) then (s.thermal die spine).polledNow 2 (10 * usUnits) else s)
def execTripRelease (s : State) : Out := finish s s.untrip

/-! ## The margin planner (R480 to R483). -/

def execPlan (a : Agent) (s : State) : Out := finish s (s.regCmd a .nutCmd .full 1)

/-- PLAN_TRIGGER: a trigger of R481. While a plan runs, only the drift at a 10 ms boundary is a new one; a plan that Nutmeg
held through a commit starts after it (R71). Triggers of one HK cycle make one plan (R498). -/
def State.planTrigger (s : State) : State :=
  let fire (t : State) : State := t.planAsk.updNut fun n => { n with planHk := s.time.hk + 1 }
  if s.nut.planRunning then
    (if s.atTick (10 * msUnits) && s.planDue && s.nut.planHk != s.time.hk + 1 then fire s else s)
  else if s.nut.planAgain && !s.appliedUnit 0x491 then fire (s.updNut fun n => { n with planAgain := false })
  else if s.planDue then fire s else s

def execPlanTrigger (s : State) : Out := finish s s.planTrigger
def execPlanDone (shift : List Int) (s : State) : Out := finish s (s.planEnd shift)

/-! ## Droop (R484 to R487). -/

def execDroopTrip (sensor : Tu) (halfMv : Nat) (s : State) : Out := finish s (s.droop sensor.val halfMv)
def execDroopHoldExpiry (q : Quad) (s : State) : Out := finish s (s.droopExpire q.val)
def execDroopValidityLoss (iLoad : Nat) (s : State) : Out := finish s (s.validityLoss iLoad)
def execStaticGbRelease (iLoad : Nat) (s : State) : Out := finish s (s.gbRelease iLoad)
def execCalibrationBurstStart (iLoad : Nat) (s : State) : Out := finish s (s.burstStart iLoad)
def execCalibrationBurstEnd (d iMax : Nat) (s : State) : Out := finish s (s.burstEnd d iMax)

/-- CALIBRATION_BURST_CANCEL: a scheduled burst that has not started by 10 s after the crossing (R487, R498). -/
def State.burstCancel (s : State) : State :=
  match s.nut.lossAt with
  | some t => if t + 10 * secUnits ≤ s.now then s.updNut fun n => { n with lossAt := none } else s
  | none => s

def execCalibrationBurstCancel (s : State) : Out := finish s s.burstCancel

/-! ## Power domains (R473). -/

def execPdReqWrite (a : Agent) (r : PdReg) (val : W64) (s : State) : Out :=
  finish s (s.regCmd a (match r with | .tiles j => .pdReq j.val | .clove => .pdClove) .full val)

/-- A domain asked off is off, and its contents are lost. -/
def State.domainOff (s : State) : Domain → State
  | .tile n =>
    if s.nut.pdReq.getLsbD n && !s.nut.pdState.getLsbD n then
      (((s.tileReset n).unstage (tileUnits n)).updNut fun x => { x with pdState := x.pdState ||| BitVec.ofNat 256 (2 ^ n.val) }).markOff n
    else s
  | .clove c =>
    if s.nut.clvReq.getLsbD c && !s.nut.clvState.getLsbD c then
      (((s.clvReset c).unstage [0x450 + c.val]).updNut fun x =>
        { x with clvState := x.clvState ||| BitVec.ofNat 8 (2 ^ c.val) }).markOff (0x100 + 8 * c.val)
    else s

/-- A domain asked on comes up with reset values, zeroed memory and the settings in force. -/
def State.domainOn (s : State) : Domain → State
  | .tile n =>
    if !s.nut.pdReq.getLsbD n && s.nut.pdState.getLsbD n then
      (s.tileReset n).updNut fun x => { x with pdState := x.pdState &&& ~~~(BitVec.ofNat 256 (2 ^ n.val)) }
    else s
  | .clove c =>
    if !s.nut.clvReq.getLsbD c && s.nut.clvState.getLsbD c then
      (s.clvReset c).updNut fun x => { x with clvState := x.clvState &&& ~~~(BitVec.ofNat 8 (2 ^ c.val)) }
    else s

def execDomainOffDone (d : Domain) (s : State) : Out := finish s (s.domainOff d)
def execDomainOnDone (d : Domain) (s : State) : Out := finish s (s.domainOn d)

end Sys2Proof.Machine
end

