-- ==== Sys2Proof/Machine/Caraway.lean ====
section
/-! DEFINITION. Caraway: records, canaries, its Clove budget and telemetry (R488 to R495). -/

namespace Sys2Proof.Machine

def execCarHoldupWrite (a : Agent) (mj : BitVec 16) (s : State) : Out :=
  finish s (s.regCmd a .carHoldup .full (mj.setWidth 64))
def execRecordWrite (s : State) : Out := finish s s.recStart
def execFlashProgramDone (s : State) : Out := finish s s.flashDone
def execAgeingRecord (s : State) : Out := finish s s.ageDueNow.carReady

/-- Corrections found since `s` carry the flag RETENTION (R488). -/
def State.retention (s t : State) : State :=
  let k := s.err.queue.length
  t.updErr fun e => { e with queue := e.queue.take k ++ (e.queue.drop k).map fun d =>
    if d.det = 0x10 ∨ d.det = 0x11 then { d with retention := true } else d }

/-- RETENTION_CANARY: Caraway reads a canary line of a vault in a slot that it charges to VAULT_BUDGET (R365, R488). Which
lines are listed the factory decides, so that the command names the line. -/
def State.canary (s : State) (v l : Nat) (hit : List SymErr) : State :=
  match s.nextSlot v with
  | none => s
  | some n =>
    if s.vaultTakes v l && s.slotLeft v n then
      let t := s.charge v n
      t.retention (t.vaultFetch v l hit).2.2
    else s

def execRetentionCanary (v : Vault) (l : Nat) (hit : List SymErr) (s : State) : Out := finish s (s.canary v.val l hit)

def execCarawayBudgetWindow (s : State) : Out := finish s s.budgetWindow.carReady
def execTelemetryCapture (s : State) : Out := finish s s.teleCapture
def execTelemetryLatchRead (a : Agent) (g : TelGroup) (word : Fin 32) (s : State) : Out :=
  finish s (s.regAsk a (.telemetry g.val word.val) .full)

end Sys2Proof.Machine
end

