-- ==== Sys2Proof/Machine/Error.lean ====
section
/-! DEFINITION. Error detection, watchdogs, injection and counter snapshots (R499 to R521). -/

namespace Sys2Proof.Machine

/-- ERROR_DETECT: a detector detects. -/
def execErrorDetect (d : Detection) (s : State) : Out := finish s (s.detect d)
def execErrorLogFlush (s : State) : Out := finish s s.logFlush
def execPartHeldRelease (a : Agent) (mask : BitVec 16) (s : State) : Out :=
  finish s (s.regCmd a .errPartHeld .full (mask.setWidth 64))

def execWatchdogKick (a : Agent) (c : Clove) (s : State) : Out := finish s (s.regCmd a (.wdtKick c.val) .full 1)
def execWatchdogExpiry (c : Clove) (s : State) : Out := finish s (s.wdtExpire c.val)

def execInjectionArm (a : Agent) (val : W64) (s : State) : Out := finish s (s.regCmd a .injCtrl .full val)
def execInjectionFire (e : InjEvent) (s : State) : Out := finish s (s.injFire e.det.toNat e.unit.toNat e.line)

def execPmcWrap (u : BitVec 16) (i : Fin 8) (s : State) : Out := finish s (s.pmcWrap u.toNat i.val)
def execSnapCmd (a : Agent) (mask : BitVec 16) (s : State) : Out := finish s (s.regCmd a .snapCmd .full (mask.setWidth 64))

/-- A read that latches a snapshot; a unit without counters has no register (R13, R44). -/
def State.snapLatchRead (s : State) (a : Agent) : SnapRead → State
  | .seq g => s.regAsk a (.snapSeq g.val) .full
  | .pmc u i => if unitListed u.toNat then s.regAsk a (.pmcSnap u.toNat i.val) .full else s.reply .decode 0

def execSnapLatchRead (a : Agent) (r : SnapRead) (s : State) : Out := finish s (s.snapLatchRead a r)

end Sys2Proof.Machine
end

