-- ==== Sys2Proof/Machine/Boot.lean ====
section
/-! DEFINITION. Reset, the boot sequence, fuses, debug and signing (R522 to R549). -/

namespace Sys2Proof.Machine

def execPwrgoodFall (s : State) : Out := finish s s.pwrgoodFall
def execResetNLow (cycles : Nat) (s : State) : Out := finish s (s.resetNLow cycles)
def execColdReset (a : Agent) (s : State) : Out := finish s (s.regCmd a .blkCtrl .full 2)
def execVaonLoss (s : State) : Out := finish s s.vaonLoss

def execBootRelease (pufOk : Bool) (s : State) : Out := finish s (s.bootRelease pufOk)
def execBootRootLock (s : State) : Out := finish s s.bootRootLock
def execBootRomStages (s : State) : Out := finish s s.bootRomStages
/-- RECORD_SCAN_DONE: the scan that stage a of the boot ROM started has completed. -/
def execRecordScanDone (s : State) : Out :=
  finish s (if s.boot.dirRead && !s.boot.scanDone then s.recScanDone else s)
def execBlkReady (a : Agent) (s : State) : Out := finish s (s.regCmd a .blkCtrl .full 1)

/-! ## The security unit (R535 to R548). -/

def execAdvanceFwFloor (a : Agent) (s : State) : Out := finish s (s.regCmd a .secFuseCmd .full 1)
def execAdvanceShapeFloor (a : Agent) (s : State) : Out := finish s (s.regCmd a .secFuseCmd .full 2)
def execRevokeKey (a : Agent) (s : State) : Out := finish s (s.regCmd a .secFuseCmd .full 3)
def execFuseProgramDone (ok : Bool) (s : State) : Out := finish s (s.fuseDone ok)
def execDebugCheck (a : Agent) (s : State) : Out := finish s (s.regCmd a .dbgCmd .full 1)
def execDebugLock (a : Agent) (s : State) : Out := finish s (s.regCmd a .dbgCmd .full 2)
def execUnlockExpiry (s : State) : Out := finish s s.unlockExpiry
def execSign (a : Agent) (s : State) : Out := finish s (s.regCmd a .signCmd .full 1)
def execSignDone (s : State) : Out := finish s s.signDone

end Sys2Proof.Machine
end

