-- ==== Sys2Proof/Machine/Pins.lean ====
section
/-! DEFINITION. Pins and the board and debug ports (R550 to R573). -/

namespace Sys2Proof.Machine

def execHoldupLow (s : State) : Out := finish s s.holdupLow
def execHoldupRestore (s : State) : Out := finish s s.holdupHigh
def execRefclkLoss (s : State) : Out := finish s s.refclkLoss
def execRefclkRestore (s : State) : Out := finish s s.refclkBack
def execCritComparator (spine : List Nat) (s : State) : Out := finish s (s.critCompare spine)
def execI3cRegisterAccess (bytes : List Byte) (s : State) : Out := finish s (s.i3cAccess bytes)
def execI3cMctpPacket (bytes : List Byte) (s : State) : Out := finish s (s.i3cPacket bytes)
def execTckEdge (rising tms tdi trst : Bool) (s : State) : Out :=
  finish s { s with pins := s.pins.tck rising tms tdi trst }

end Sys2Proof.Machine
end

