-- ==== Sys2Proof/Machine/Block.lean ====
section
/-! DEFINITION. The timebase, accesses to the register window, the shape-image loader and mode commits (R10 to R13, R25,
R33 to R77, R577). -/

namespace Sys2Proof.Machine

/-! ## Time (R22, R25, R475). -/

/-- BLK_TIME moves on by some units of 5 ns / 10,560; the step from its greatest value to 0 raises detector 0x42
(R513). -/
def State.blkAdd (s : State) (parts : Nat) : State :=
  let all := s.time.rem + parts
  let next := s.time.blk.toNat + all / 10560
  let t : State := { s with time := { s.time with blk := BitVec.ofNat 64 next, rem := all % 10560 } }
  if 2 ^ 64 ≤ next then t.raise 0x42 0x494 0 0 else t

/-- The CORE cycles, of the twelve from `from_`, that a hold level leaves (R475). -/
def coreCycles (from_ level : Nat) : Nat :=
  (List.range 12).foldl (fun a j => if level ≤ (from_ + j) % 8 then a + 1 else a) 0

/-- Threads that hold Caraway's task (R489). -/
def State.carThreads (s : State) : Nat :=
  (List.range 64).foldl (fun a h => if (s.thread h).task = some s.car.task then a + 1 else a) 0

/-- Whether the next request of a source is a posted write, which takes no tag (R279). -/
def State.nextPosted (s : State) (src : StreamSrc) : Bool :=
  let c := s.chanOf src
  match c.job with
  | .prog b => match c.xfer with
    | some x => b.dir == 1 && postedPath (x.addr + x.issued) (min (x.len - x.issued) (128 - (x.addr + x.issued) % 128))
    | none => false
  | .desc _ => match c.toWrite with
    | w :: _ => postedPath w.addr w.len
    | [] => false
  | _ => false

/-- Whether a source has a request ready that waits for a tag (R278). -/
def State.tagWait (s : State) (src : StreamSrc) : Bool :=
  (s.chanOf src).wantsLine && !s.nextPosted src && (freeNum (s.engineReqs src) 0 1024).isNone

/-- Whether the program of a channel waits under R271. -/
def State.aheadWait (s : State) (src : StreamSrc) : Bool :=
  match src, (s.chanOf src).blk with
  | .chan n k, some b => (s.chanOf src).st == .running && (s.chanOf src).xfer.isNone && b.dir != 3 && s.tileHeld n k b
  | _, _ => false

/-- The waiting cycles of an HK cycle that engines count: the 12 CORE cycles while a request waits for a tag, and those not
held while a program waits under R271 (R306, R475). -/
def State.engineWaits (s : State) (n : Nat) : State :=
  let chans := (List.range 16).map fun k => chSrc n k
  let s1 := if chans.any s.tagWait then s.countBy (0x100 + n) 4 12 else s
  if chans.any s.aheadWait then s1.countBy (0x100 + n) 5 (coreCycles s.time.core (s.holdLevel (n / 64))) else s1

/-- The waiting cycles of an HK cycle that counters count (R306, R351, R409, R463): of an L1 access, the cycles while the
miss of a load is outstanding (log 5). -/
def State.countWaits (s : State) : State :=
  if s.cfg.counters.isEmpty then s else
  let s1 := if s.coreClock then
      let t := s.wrk.foldl (fun t e => t.engineWaits e.1) s
      let t1 := t.dma.foldl (fun t e => if t.tagWait (.dma (Fin.ofNat 8 e.1)) then t.countBy (0x458 + e.1) 4 12 else t) t
      t1.l1.foldl (fun t e => match e.2.miss with
        | some (_, false) => t.countBy e.1 0x105 12
        | _ => t) t1
    else s
  let s2 := s1.sched.waiters.foldl (fun t h => t.countBy (clvUnit h) 5 3) s1
  s2.link.foldl (fun t e => if (e.2.st == .up) && e.2.starved then t.countBy (0x460 + e.1) 8 12 else t) s2

/-- What takes effect as an HK cycle ends: the tree-table operations, mailbox operations, captures and debug checks that came
in it, the lanes' FIFOs and the straggler timers (R228, R293, R433, R515, R546, R568); and then the next cycle starts. -/
def State.hkEnd (s : State) : State :=
  let s1 := s.countWaits.ttTick.mbxTick.snapTick.debugTick.signTick.carTick
  let s2 := s1.link.foldl (fun t e => t.lanesTick e.1) s1
  ((if s2.coreClock then s2.stragTick 8 else s2).readyTick).errTick

/-- BLK_TIME_ADVANCE: one HK cycle of 96 / mult units, with its 12 CORE and 3 CLOVE cycles; while ROOT is not locked or
relocks, one reference cycle of 2 units, in which every other clock stands. -/
def State.timeAdvance (s : State) : State :=
  if s.clk.relock ∨ !s.clk.rootLocked then s.blkAdd (2 * 10560)
  else
    let s1 := { s.hkEnd with time := s.time }.blkAdd (1013760 / max 1 s.clk.mult)
    let s2 := s1.updCar fun c => { c with cloveCount := c.cloveCount + 3 * s.carThreads }
    let ran := if s.coreClock then
        (List.range 4).foldl (fun t q => Tbl.upd 0 t q (· + coreCycles s.time.core (s.holdLevel q))) s.time.ran
      else s.time.ran
    { s2 with time := { s2.time with hk := s.time.hk + 1, core := if s.coreClock then s.time.core + 12 else s.time.core,
                                     ran := ran } }

def execBlkTimeAdvance (s : State) : Out := finish s s.timeAdvance

/-! ## The register window (R10 to R13, R420, R576, R577). -/

/-- REGISTER_WRITE: the value stands in the register's bits. -/
def execRegisterWrite (a : Agent) (x : RegAt) (w : Width) (val : W64) (s : State) : Out :=
  if s.mute a then finish s s else
  match hostOffset a x.page x.off.toNat with
  | none => finish s (s.reply .decode 0)
  | some o =>
    let r := s.offWrite a o w val
    finish s (r.2.reply r.1 0)

/-- RC_READ: a read of a register; its RC fields clear. -/
def execRcRead (a : Agent) (x : RegAt) (w : Width) (s : State) : Out :=
  if s.mute a then finish s s else
  match hostOffset a x.page x.off.toNat with
  | none => finish s (s.reply .decode 0)
  | some o =>
    let r := s.offRead a o w
    finish s (r.2.2.reply r.1 r.2.1)

/-! ## The loader and mode commits (R61 to R74). -/

def execShapeLoad (a : Agent) (s : State) : Out := finish s (s.regCmd a .shpCmd .full 1)
def execShapeLoadDone (s : State) : Out := finish s s.shapeLoadDone
def execModeCommitGo (a : Agent) (s : State) : Out := finish s (s.regCmd a .modeCommit .full 1)
def execModeCommitDiscard (a : Agent) (s : State) : Out := finish s (s.regCmd a .modeCommit .full 2)
def execParticipantApply (u : BitVec 16) (s : State) : Out := finish s (s.partApply u.toNat)
def execModeCommitComplete (s : State) : Out := finish s s.commitComplete
def execModeCommitRevert (s : State) : Out := finish s s.commitRevert
def execFpdefaultStageWrite (a : Agent) (n : Core) (val : W64) (s : State) : Out :=
  finish s (s.regCmd a (.wrkFpStg n.val) .full val)

end Sys2Proof.Machine
end

