-- ==== Sys2Proof/Machine/Dispatch.lean ====
section
/-! DEFINITION. One arm per command: exec calls the command's meaning, or rejects it by name. -/

namespace Sys2Proof.Machine

def exec (i : Instr) (s : State) : Host.Outcome State Fault Refusal :=
  match i with
  | .blkTimeAdvance => Sys2Proof.Machine.execBlkTimeAdvance s
  | .registerWrite a r w val => Sys2Proof.Machine.execRegisterWrite a r w val s
  | .shapeLoad a => Sys2Proof.Machine.execShapeLoad a s
  | .shapeLoadDone => Sys2Proof.Machine.execShapeLoadDone s
  | .modeCommitGo a => Sys2Proof.Machine.execModeCommitGo a s
  | .modeCommitDiscard a => Sys2Proof.Machine.execModeCommitDiscard a s
  | .participantApply u => Sys2Proof.Machine.execParticipantApply u s
  | .modeCommitComplete => Sys2Proof.Machine.execModeCommitComplete s
  | .modeCommitRevert => Sys2Proof.Machine.execModeCommitRevert s
  | .fpdefaultStageWrite a n val => Sys2Proof.Machine.execFpdefaultStageWrite a n val s
  | .intRegisterOp n rd ra rb op => Sys2Proof.Machine.execIntRegisterOp n rd ra rb op s
  | .intImmediateOp n rd ra fn imm => Sys2Proof.Machine.execIntImmediateOp n rd ra fn imm s
  | .mulDivOp n rd ra rb fn => Sys2Proof.Machine.execMulDivOp n rd ra rb fn s
  | .liu n rd imm => Sys2Proof.Machine.execLiu n rd imm s
  | .addpc n rd imm => Sys2Proof.Machine.execAddpc n rd imm s
  | .scalarLoad n rd ra fn imm => Sys2Proof.Machine.execScalarLoad n rd ra fn imm s
  | .scalarStore n rs ra fn imm => Sys2Proof.Machine.execScalarStore n rs ra fn imm s
  | .atomic n rd ra rb fn => Sys2Proof.Machine.execAtomic n rd ra rb fn s
  | .branch n ra rb cond off => Sys2Proof.Machine.execBranch n ra rb cond off s
  | .jl n rd off => Sys2Proof.Machine.execJl n rd off s
  | .jlr n rd ra fn imm => Sys2Proof.Machine.execJlr n rd ra fn imm s
  | .fence n => Sys2Proof.Machine.execFence n s
  | .fenceLd n => Sys2Proof.Machine.execFenceLd n s
  | .fenceSt n => Sys2Proof.Machine.execFenceSt n s
  | .fenceIo n => Sys2Proof.Machine.execFenceIo n s
  | .iflush n => Sys2Proof.Machine.execIflush n s
  | .csrw n rd ra csr => Sys2Proof.Machine.execCsrw n rd ra csr s
  | .csrs n rd ra csr => Sys2Proof.Machine.execCsrs n rd ra csr s
  | .csrc n rd ra csr => Sys2Proof.Machine.execCsrc n rd ra csr s
  | .csrwi n rd uimm csr => Sys2Proof.Machine.execCsrwi n rd uimm csr s
  | .csrsi n rd uimm csr => Sys2Proof.Machine.execCsrsi n rd uimm csr s
  | .csrci n rd uimm csr => Sys2Proof.Machine.execCsrci n rd uimm csr s
  | .vlWrite n op rd src => Sys2Proof.Machine.execVlWrite n op rd src s
  | .mshapeWrite n op rd src => Sys2Proof.Machine.execMshapeWrite n op rd src s
  | .mcall n => Sys2Proof.Machine.execMcall n s
  | .brk n => Sys2Proof.Machine.execBrk n s
  | .jexit n ra => Sys2Proof.Machine.execJexit n ra s
  | .retm n => Sys2Proof.Machine.execRetm n s
  | .wfi n => Sys2Proof.Machine.execWfi n s
  | .wfiWake n => Sys2Proof.Machine.execWfiWake n s
  | .jobgo n => Sys2Proof.Machine.execJobgo n s
  | .jobgoStart n => Sys2Proof.Machine.execJobgoStart n s
  | .interruptTake n => Sys2Proof.Machine.execInterruptTake n s
  | .cachedStoreLost n line resp => Sys2Proof.Machine.execCachedStoreLost n line resp s
  | .wrkKill a n => Sys2Proof.Machine.execWrkKill a n s
  | .wrkReset a n => Sys2Proof.Machine.execWrkReset a n s
  | .wrkRun a n => Sys2Proof.Machine.execWrkRun a n s
  | .jobTailWrite a n val => Sys2Proof.Machine.execJobTailWrite a n val s
  | .vsetvl n rd ra fmt => Sys2Proof.Machine.execVsetvl n rd ra fmt s
  | .vsetvli n rd uimm fmt => Sys2Proof.Machine.execVsetvli n rd uimm fmt s
  | .vmvr n vd va => Sys2Proof.Machine.execVmvr n vd va s
  | .vzero n vd => Sys2Proof.Machine.execVzero n vd s
  | .mmvr n md ma => Sys2Proof.Machine.execMmvr n md ma s
  | .vectorElementwiseOp n scalarB op vd va vb mk fmt => Sys2Proof.Machine.execVectorElementwiseOp n scalarB op vd va vb mk fmt s
  | .vunary n vd va sub mk fmt => Sys2Proof.Machine.execVunary n vd va sub mk fmt s
  | .vmerge n scalarB vd va vb mk fmt => Sys2Proof.Machine.execVmerge n scalarB vd va vb mk fmt s
  | .vfma n op vd va vb mk fmt => Sys2Proof.Machine.execVfma n op vd va vb mk fmt s
  | .vectorCompare n op md va vb mk fmt => Sys2Proof.Machine.execVectorCompare n op md va vb mk fmt s
  | .mlogic n md ma mb sub => Sys2Proof.Machine.execMlogic n md ma mb sub s
  | .mpop n rd ma fmt => Sys2Proof.Machine.execMpop n rd ma fmt s
  | .mfirst n rd ma fmt => Sys2Proof.Machine.execMfirst n rd ma fmt s
  | .vrsum n rd va mk fmt => Sys2Proof.Machine.execVrsum n rd va mk fmt s
  | .vrmax n rd va mk fmt => Sys2Proof.Machine.execVrmax n rd va mk fmt s
  | .vrmin n rd va mk fmt => Sys2Proof.Machine.execVrmin n rd va mk fmt s
  | .vectorBitwiseReduce n op rd va mk fmt => Sys2Proof.Machine.execVectorBitwiseReduce n op rd va mk fmt s
  | .vslidedn n vd va rb mk fmt => Sys2Proof.Machine.execVslidedn n vd va rb mk fmt s
  | .vslideup n vd va rb mk fmt => Sys2Proof.Machine.execVslideup n vd va rb mk fmt s
  | .vperm n vd va vb mk fmt => Sys2Proof.Machine.execVperm n vd va vb mk fmt s
  | .vcompress n vd va mk fmt => Sys2Proof.Machine.execVcompress n vd va mk fmt s
  | .vmvx n rd va rb fmt => Sys2Proof.Machine.execVmvx n rd va rb fmt s
  | .vmvs n vd ra rb fmt => Sys2Proof.Machine.execVmvs n vd ra rb fmt s
  | .vid n vd mk fmt => Sys2Proof.Machine.execVid n vd mk fmt s
  | .vcvt n vd va dfmt mk sfmt part => Sys2Proof.Machine.execVcvt n vd va dfmt mk sfmt part s
  | .vld n vd ra mk fmt => Sys2Proof.Machine.execVld n vd ra mk fmt s
  | .vst n vd ra mk fmt => Sys2Proof.Machine.execVst n vd ra mk fmt s
  | .vlds n vd ra rb mk fmt => Sys2Proof.Machine.execVlds n vd ra rb mk fmt s
  | .vsts n vd ra rb mk fmt => Sys2Proof.Machine.execVsts n vd ra rb mk fmt s
  | .vldx n vd ra vb mk fmt => Sys2Proof.Machine.execVldx n vd ra vb mk fmt s
  | .vstx n vd ra vb mk fmt => Sys2Proof.Machine.execVstx n vd ra vb mk fmt s
  | .mld n md ra => Sys2Proof.Machine.execMld n md ra s
  | .mst n md ra => Sys2Proof.Machine.execMst n md ra s
  | .vldr n vd ra => Sys2Proof.Machine.execVldr n vd ra s
  | .vstr n vd ra => Sys2Proof.Machine.execVstr n vd ra s
  | .mma n acc fa fb ra rb rc => Sys2Proof.Machine.execMma n acc fa fb ra rb rc s
  | .mzero n acc fmt => Sys2Proof.Machine.execMzero n acc fmt s
  | .maccld n acc fmt ra rb => Sys2Proof.Machine.execMaccld n acc fmt ra rb s
  | .maccst n acc fmt ra rb => Sys2Proof.Machine.execMaccst n acc fmt ra rb s
  | .maccstc n acc fmt ra rb => Sys2Proof.Machine.execMaccstc n acc fmt ra rb s
  | .maccstcd n acc fmt ra rb => Sys2Proof.Machine.execMaccstcd n acc fmt ra rb s
  | .mrd n acc fmt vd rb => Sys2Proof.Machine.execMrd n acc fmt vd rb s
  | .mwr n acc fmt va rb => Sys2Proof.Machine.execMwr n acc fmt va rb s
  | .mfence n => Sys2Proof.Machine.execMfence n s
  | .mshapei n mrowsm1 ncolsm1 => Sys2Proof.Machine.execMshapei n mrowsm1 ncolsm1 s
  | .matrixStart n e => Sys2Proof.Machine.execMatrixStart n e s
  | .matrixComplete n e => Sys2Proof.Machine.execMatrixComplete n e s
  | .ttSetnext a => Sys2Proof.Machine.execTtSetnext a s
  | .ttSwap a => Sys2Proof.Machine.execTtSwap a s
  | .ttRead a => Sys2Proof.Machine.execTtRead a s
  | .ttRetireAdvance p x => Sys2Proof.Machine.execTtRetireAdvance p x s
  | .qsub n rd ra => Sys2Proof.Machine.execQsub n rd ra s
  | .qsubn n rd ra rb => Sys2Proof.Machine.execQsubn n rd ra rb s
  | .qsrc n rd ra => Sys2Proof.Machine.execQsrc n rd ra s
  | .qflush n => Sys2Proof.Machine.execQflush n s
  | .ttnext n rd ra rb => Sys2Proof.Machine.execTtnext n rd ra rb s
  | .ttswap n rd ra => Sys2Proof.Machine.execTtswap n rd ra s
  | .ttread n rd ra => Sys2Proof.Machine.execTtread n rd ra s
  | .binAgeFire q bin => Sys2Proof.Machine.execBinAgeFire q bin s
  | .saffronResplit q => Sys2Proof.Machine.execSaffronResplit q s
  | .binDispatch q => Sys2Proof.Machine.execBinDispatch q s
  | .spillReturn q => Sys2Proof.Machine.execSpillReturn q s
  | .generatorEmit q => Sys2Proof.Machine.execGeneratorEmit q s
  | .queryEnd m => Sys2Proof.Machine.execQueryEnd m s
  | .binDeliver m => Sys2Proof.Machine.execBinDeliver m s
  | .packetWrite m => Sys2Proof.Machine.execPacketWrite m s
  | .hrcfgWrite n op rd src ring => Sys2Proof.Machine.execHrcfgWrite n op rd src ring s
  | .hrptrWrite n op rd src ring => Sys2Proof.Machine.execHrptrWrite n op rd src ring s
  | .sstart n rd ra rb => Sys2Proof.Machine.execSstart n rd ra rb s
  | .srearm n rd ra rb => Sys2Proof.Machine.execSrearm n rd ra rb s
  | .sstop n rd ra => Sys2Proof.Machine.execSstop n rd ra s
  | .swait n rd ra => Sys2Proof.Machine.execSwait n rd ra s
  | .sempost n rd ra => Sys2Proof.Machine.execSempost n rd ra s
  | .semwait n rd ra => Sys2Proof.Machine.execSemwait n rd ra s
  | .semtry n rd ra => Sys2Proof.Machine.execSemtry n rd ra s
  | .semrd n rd ra => Sys2Proof.Machine.execSemrd n rd ra s
  | .bararv n rd ra rb => Sys2Proof.Machine.execBararv n rd ra rb s
  | .barwait n rd ra => Sys2Proof.Machine.execBarwait n rd ra s
  | .nlarm n rd ra => Sys2Proof.Machine.execNlarm n rd ra s
  | .streamHalt n k => Sys2Proof.Machine.execStreamHalt n k s
  | .streamArg n k => Sys2Proof.Machine.execStreamArg n k s
  | .streamLi n k => Sys2Proof.Machine.execStreamLi n k s
  | .streamAddi n k => Sys2Proof.Machine.execStreamAddi n k s
  | .streamAdd n k => Sys2Proof.Machine.execStreamAdd n k s
  | .streamSub n k => Sys2Proof.Machine.execStreamSub n k s
  | .streamMul n k => Sys2Proof.Machine.execStreamMul n k s
  | .streamShli n k => Sys2Proof.Machine.execStreamShli n k s
  | .streamAndi n k => Sys2Proof.Machine.execStreamAndi n k s
  | .streamLdt n k => Sys2Proof.Machine.execStreamLdt n k s
  | .streamBnzd n k => Sys2Proof.Machine.execStreamBnzd n k s
  | .streamBltu n k => Sys2Proof.Machine.execStreamBltu n k s
  | .streamXfer n k => Sys2Proof.Machine.execStreamXfer n k s
  | .streamXferi n k => Sys2Proof.Machine.execStreamXferi n k s
  | .streamEmit n k => Sys2Proof.Machine.execStreamEmit n k s
  | .streamPost n k => Sys2Proof.Machine.execStreamPost n k s
  | .lineRequestIssue src => Sys2Proof.Machine.execLineRequestIssue src s
  | .lineResponse src tag resp => Sys2Proof.Machine.execLineResponse src tag resp s
  | .channelComplete src => Sys2Proof.Machine.execChannelComplete src s
  | .strptrWrite n op rd src k => Sys2Proof.Machine.execStrptrWrite n op rd src k s
  | .multicastAttachTimeout n k => Sys2Proof.Machine.execMulticastAttachTimeout n k s
  | .stragglerDetach n k r => Sys2Proof.Machine.execStragglerDetach n k r s
  | .privChannelStart a src => Sys2Proof.Machine.execPrivChannelStart a src s
  | .privChannelRearm a src => Sys2Proof.Machine.execPrivChannelRearm a src s
  | .privChannelStop a src => Sys2Proof.Machine.execPrivChannelStop a src s
  | .barCtlWrite a b val => Sys2Proof.Machine.execBarCtlWrite a b val s
  | .storeBufferDrain n line => Sys2Proof.Machine.execStoreBufferDrain n line s
  | .gets r line => Sys2Proof.Machine.execGets r line s
  | .getm r line => Sys2Proof.Machine.execGetm r line s
  | .upgrade r line => Sys2Proof.Machine.execUpgrade r line s
  | .homeWrite u line mask data poison => Sys2Proof.Machine.execHomeWrite u line mask data poison s
  | .fillComplete r resp => Sys2Proof.Machine.execFillComplete r resp s
  | .offer r line bankQueue => Sys2Proof.Machine.execOffer r line bankQueue s
  | .writeback r x => Sys2Proof.Machine.execWriteback r x s
  | .l2LockWaysWrite a n val => Sys2Proof.Machine.execL2LockWaysWrite a n val s
  | .lockDrainDone n => Sys2Proof.Machine.execLockDrainDone n s
  | .clean n ra imm => Sys2Proof.Machine.execClean n ra imm s
  | .inval n ra imm => Sys2Proof.Machine.execInval n ra imm s
  | .flush n ra imm => Sys2Proof.Machine.execFlush n ra imm s
  | .zero n ra imm => Sys2Proof.Machine.execZero n ra imm s
  | .pref n ra imm => Sys2Proof.Machine.execPref n ra imm s
  | .prefw n ra imm => Sys2Proof.Machine.execPrefw n ra imm s
  | .lfill n rd ra imm => Sys2Proof.Machine.execLfill n rd ra imm s
  | .cleanR n rd ra imm => Sys2Proof.Machine.execCleanR n rd ra imm s
  | .invalR n rd ra imm => Sys2Proof.Machine.execInvalR n rd ra imm s
  | .flushR n rd ra imm => Sys2Proof.Machine.execFlushR n rd ra imm s
  | .cacheInvalidateDone c => Sys2Proof.Machine.execCacheInvalidateDone c s
  | .snpInv h line => Sys2Proof.Machine.execSnpInv h line s
  | .snpData h line => Sys2Proof.Machine.execSnpData h line s
  | .snpCur h line => Sys2Proof.Machine.execSnpCur h line s
  | .hostMemRead h addr len excl => Sys2Proof.Machine.execHostMemRead h addr len excl s
  | .hostMemWrite h addr len data poison => Sys2Proof.Machine.execHostMemWrite h addr len data poison s
  | .birsp h line dirty => Sys2Proof.Machine.execBirsp h line dirty s
  | .biTimeout h line => Sys2Proof.Machine.execBiTimeout h line s
  | .vaultRead v l hit => Sys2Proof.Machine.execVaultRead v l hit s
  | .vaultWrite v l data poison => Sys2Proof.Machine.execVaultWrite v l data poison s
  | .vaultPartialWrite v l mask data hit => Sys2Proof.Machine.execVaultPartialWrite v l mask data hit s
  | .scrubLine v slot => Sys2Proof.Machine.execScrubLine v slot s
  | .refreshSlot v => Sys2Proof.Machine.execRefreshSlot v s
  | .tierTempReport v t frame => Sys2Proof.Machine.execTierTempReport v t frame s
  | .bandFall v => Sys2Proof.Machine.execBandFall v s
  | .tierTempTimeout v t => Sys2Proof.Machine.execTierTempTimeout v t s
  | .markErase a v val => Sys2Proof.Machine.execMarkErase a v val s
  | .zeroAll a v => Sys2Proof.Machine.execZeroAll a v s
  | .zeroAllDone v => Sys2Proof.Machine.execZeroAllDone v s
  | .vaultTrainingDone v badBond => Sys2Proof.Machine.execVaultTrainingDone v badBond s
  | .clvIntOp h cls rd ra fld top fn => Sys2Proof.Machine.execClvIntOp h cls rd ra fld top fn s
  | .lih h rd imm => Sys2Proof.Machine.execLih h rd imm s
  | .clvLoad h rd ra fn imm => Sys2Proof.Machine.execClvLoad h rd ra fn imm s
  | .clvStore h rs ra fn imm => Sys2Proof.Machine.execClvStore h rs ra fn imm s
  | .clvAtomic h rd ra rb fn => Sys2Proof.Machine.execClvAtomic h rd ra rb fn s
  | .clvBranch h ra rb cond off => Sys2Proof.Machine.execClvBranch h ra rb cond off s
  | .clvJl h rd off => Sys2Proof.Machine.execClvJl h rd off s
  | .clvJlr h rd ra fn imm => Sys2Proof.Machine.execClvJlr h rd ra fn imm s
  | .clvFence h => Sys2Proof.Machine.execClvFence h s
  | .trd h rd num => Sys2Proof.Machine.execTrd h rd num s
  | .twr h ra num => Sys2Proof.Machine.execTwr h ra num s
  | .rett h => Sys2Proof.Machine.execRett h s
  | .clvWfi h => Sys2Proof.Machine.execClvWfi h s
  | .clvBreak h => Sys2Proof.Machine.execClvBreak h s
  | .cmo h rd ra fn => Sys2Proof.Machine.execCmo h rd ra fn s
  | .clvTrap h => Sys2Proof.Machine.execClvTrap h s
  | .gettask h rd ra => Sys2Proof.Machine.execGettask h rd ra s
  | .taskDispatch => Sys2Proof.Machine.execTaskDispatch s
  | .tready h rd ra => Sys2Proof.Machine.execTready h rd ra s
  | .tend h rd => Sys2Proof.Machine.execTend h rd s
  | .tblock h rd ra => Sys2Proof.Machine.execTblock h rd ra s
  | .tdelay h rd ra => Sys2Proof.Machine.execTdelay h rd ra s
  | .tyield h rd => Sys2Proof.Machine.execTyield h rd s
  | .tprio h rd ra rb => Sys2Proof.Machine.execTprio h rd ra rb s
  | .flowput h rd ra rb => Sys2Proof.Machine.execFlowput h rd ra rb s
  | .flowdone h rd ra => Sys2Proof.Machine.execFlowdone h rd ra s
  | .flowtake h rd ra => Sys2Proof.Machine.execFlowtake h rd ra s
  | .tick => Sys2Proof.Machine.execTick s
  | .delayExpiry x => Sys2Proof.Machine.execDelayExpiry x s
  | .timeoutExpiry x => Sys2Proof.Machine.execTimeoutExpiry x s
  | .taskCfgWrite a x val => Sys2Proof.Machine.execTaskCfgWrite a x val s
  | .aniseCtrlWrite a val => Sys2Proof.Machine.execAniseCtrlWrite a val s
  | .clvThreadReset a h => Sys2Proof.Machine.execClvThreadReset a h s
  | .clvThreadRun a h => Sys2Proof.Machine.execClvThreadRun a h s
  | .clvIpiSet a mask => Sys2Proof.Machine.execClvIpiSet a mask s
  | .clvIpiClear a mask => Sys2Proof.Machine.execClvIpiClear a mask s
  | .clvCoreReset a c => Sys2Proof.Machine.execClvCoreReset a c s
  | .hostSqTailWrite a h f tail => Sys2Proof.Machine.execHostSqTailWrite a h f tail s
  | .sqHeadWrite a h f head => Sys2Proof.Machine.execSqHeadWrite a h f head s
  | .cqTailWrite a h f tail => Sys2Proof.Machine.execCqTailWrite a h f tail s
  | .cqHeadWrite a h f head => Sys2Proof.Machine.execCqHeadWrite a h f head s
  | .ringBaseWrite a h f cq val => Sys2Proof.Machine.execRingBaseWrite a h f cq val s
  | .hostLinkTrain h width rate => Sys2Proof.Machine.execHostLinkTrain h width rate s
  | .ideEstablish h => Sys2Proof.Machine.execIdeEstablish h s
  | .ideFailure h stream => Sys2Proof.Machine.execIdeFailure h stream s
  | .hostLinkDown h => Sys2Proof.Machine.execHostLinkDown h s
  | .mbxWordWrite a c w val => Sys2Proof.Machine.execMbxWordWrite a c w val s
  | .mbxPost a c val => Sys2Proof.Machine.execMbxPost a c val s
  | .mbxTake a c => Sys2Proof.Machine.execMbxTake a c s
  | .mbxDbMaskWrite a target val => Sys2Proof.Machine.execMbxDbMaskWrite a target val s
  | .flitReceive p f => Sys2Proof.Machine.execFlitReceive p f s
  | .flitReplay p => Sys2Proof.Machine.execFlitReplay p s
  | .creditReturn p vc n => Sys2Proof.Machine.execCreditReturn p vc n s
  | .laneRetire p x => Sys2Proof.Machine.execLaneRetire p x s
  | .linkDown p why => Sys2Proof.Machine.execLinkDown p why s
  | .lnkTrain a p => Sys2Proof.Machine.execLnkTrain a p s
  | .lnkDownCmd a p => Sys2Proof.Machine.execLnkDownCmd a p s
  | .resetLanes a p => Sys2Proof.Machine.execResetLanes a p s
  | .linkTrainingDone p group block port => Sys2Proof.Machine.execLinkTrainingDone p group block port s
  | .put p k => Sys2Proof.Machine.execPut p k s
  | .get p k => Sys2Proof.Machine.execGet p k s
  | .transportAtomic p k => Sys2Proof.Machine.execTransportAtomic p k s
  | .resp p k => Sys2Proof.Machine.execResp p k s
  | .ack p k => Sys2Proof.Machine.execAck p k s
  | .nack p k => Sys2Proof.Machine.execNack p k s
  | .retransmitTimeout dst vc => Sys2Proof.Machine.execRetransmitTimeout dst vc s
  | .packetForward p k => Sys2Proof.Machine.execPacketForward p k s
  | .rateIncrease dst => Sys2Proof.Machine.execRateIncrease dst s
  | .pfcPause p prio xoff => Sys2Proof.Machine.execPfcPause p prio xoff s
  | .heartbeatSend => Sys2Proof.Machine.execHeartbeatSend s
  | .heartbeat r live mgr term stage => Sys2Proof.Machine.execHeartbeat r live mgr term stage s
  | .livenessExpiry b => Sys2Proof.Machine.execLivenessExpiry b s
  | .claim p k => Sys2Proof.Machine.execClaim p k s
  | .grant p k => Sys2Proof.Machine.execGrant p k s
  | .claimTimeout => Sys2Proof.Machine.execClaimTimeout s
  | .arrive p k phase => Sys2Proof.Machine.execArrive p k phase s
  | .release p k => Sys2Proof.Machine.execRelease p k s
  | .groupBreak r => Sys2Proof.Machine.execGroupBreak r s
  | .distribute a => Sys2Proof.Machine.execDistribute a s
  | .imageReceived => Sys2Proof.Machine.execImageReceived s
  | .collArm a k => Sys2Proof.Machine.execCollArm a k s
  | .collAbort a k => Sys2Proof.Machine.execCollAbort a k s
  | .coll p k => Sys2Proof.Machine.execColl p k s
  | .collUnarmedTimeout p k => Sys2Proof.Machine.execCollUnarmedTimeout p k s
  | .collComplete k => Sys2Proof.Machine.execCollComplete k s
  | .opStageWrite a val => Sys2Proof.Machine.execOpStageWrite a val s
  | .standbyPllLock => Sys2Proof.Machine.execStandbyPllLock s
  | .railRiseDone => Sys2Proof.Machine.execRailRiseDone s
  | .relockEnd => Sys2Proof.Machine.execRelockEnd s
  | .avsTransaction rail cmd ok val => Sys2Proof.Machine.execAvsTransaction rail cmd ok val s
  | .railPoll mv amps => Sys2Proof.Machine.execRailPoll mv amps s
  | .capEvaluation => Sys2Proof.Machine.execCapEvaluation s
  | .capSustained => Sys2Proof.Machine.execCapSustained s
  | .thermalSample die spine => Sys2Proof.Machine.execThermalSample die spine s
  | .tripRelease => Sys2Proof.Machine.execTripRelease s
  | .plan a => Sys2Proof.Machine.execPlan a s
  | .planTrigger => Sys2Proof.Machine.execPlanTrigger s
  | .planDone shift => Sys2Proof.Machine.execPlanDone shift s
  | .droopTrip sensor halfMv => Sys2Proof.Machine.execDroopTrip sensor halfMv s
  | .droopHoldExpiry q => Sys2Proof.Machine.execDroopHoldExpiry q s
  | .droopValidityLoss iLoad => Sys2Proof.Machine.execDroopValidityLoss iLoad s
  | .staticGbRelease iLoad => Sys2Proof.Machine.execStaticGbRelease iLoad s
  | .calibrationBurstStart iLoad => Sys2Proof.Machine.execCalibrationBurstStart iLoad s
  | .calibrationBurstEnd d iMax => Sys2Proof.Machine.execCalibrationBurstEnd d iMax s
  | .pdReqWrite a r val => Sys2Proof.Machine.execPdReqWrite a r val s
  | .domainOffDone d => Sys2Proof.Machine.execDomainOffDone d s
  | .domainOnDone d => Sys2Proof.Machine.execDomainOnDone d s
  | .capWrite a val => Sys2Proof.Machine.execCapWrite a val s
  | .carHoldupWrite a mj => Sys2Proof.Machine.execCarHoldupWrite a mj s
  | .recordWrite => Sys2Proof.Machine.execRecordWrite s
  | .flashProgramDone => Sys2Proof.Machine.execFlashProgramDone s
  | .ageingRecord => Sys2Proof.Machine.execAgeingRecord s
  | .retentionCanary v l hit => Sys2Proof.Machine.execRetentionCanary v l hit s
  | .carawayBudgetWindow => Sys2Proof.Machine.execCarawayBudgetWindow s
  | .telemetryCapture => Sys2Proof.Machine.execTelemetryCapture s
  | .telemetryLatchRead a g word => Sys2Proof.Machine.execTelemetryLatchRead a g word s
  | .errorDetect d => Sys2Proof.Machine.execErrorDetect d s
  | .errorLogFlush => Sys2Proof.Machine.execErrorLogFlush s
  | .partHeldRelease a mask => Sys2Proof.Machine.execPartHeldRelease a mask s
  | .watchdogKick a c => Sys2Proof.Machine.execWatchdogKick a c s
  | .watchdogExpiry c => Sys2Proof.Machine.execWatchdogExpiry c s
  | .injectionArm a val => Sys2Proof.Machine.execInjectionArm a val s
  | .injectionFire e => Sys2Proof.Machine.execInjectionFire e s
  | .pmcWrap u c => Sys2Proof.Machine.execPmcWrap u c s
  | .snapCmd a mask => Sys2Proof.Machine.execSnapCmd a mask s
  | .snapLatchRead a r => Sys2Proof.Machine.execSnapLatchRead a r s
  | .pwrgoodFall => Sys2Proof.Machine.execPwrgoodFall s
  | .resetNLow cycles => Sys2Proof.Machine.execResetNLow cycles s
  | .coldReset a => Sys2Proof.Machine.execColdReset a s
  | .bootRelease pufOk => Sys2Proof.Machine.execBootRelease pufOk s
  | .bootRootLock => Sys2Proof.Machine.execBootRootLock s
  | .bootRomStages => Sys2Proof.Machine.execBootRomStages s
  | .recordScanDone => Sys2Proof.Machine.execRecordScanDone s
  | .blkReady a => Sys2Proof.Machine.execBlkReady a s
  | .advanceFwFloor a => Sys2Proof.Machine.execAdvanceFwFloor a s
  | .advanceShapeFloor a => Sys2Proof.Machine.execAdvanceShapeFloor a s
  | .revokeKey a => Sys2Proof.Machine.execRevokeKey a s
  | .fuseProgramDone ok => Sys2Proof.Machine.execFuseProgramDone ok s
  | .debugCheck a => Sys2Proof.Machine.execDebugCheck a s
  | .debugLock a => Sys2Proof.Machine.execDebugLock a s
  | .unlockExpiry => Sys2Proof.Machine.execUnlockExpiry s
  | .sign a => Sys2Proof.Machine.execSign a s
  | .signDone => Sys2Proof.Machine.execSignDone s
  | .holdupLow => Sys2Proof.Machine.execHoldupLow s
  | .holdupRestore => Sys2Proof.Machine.execHoldupRestore s
  | .refclkLoss => Sys2Proof.Machine.execRefclkLoss s
  | .critComparator spine => Sys2Proof.Machine.execCritComparator spine s
  | .i3cRegisterAccess bytes => Sys2Proof.Machine.execI3cRegisterAccess bytes s
  | .i3cMctpPacket bytes => Sys2Proof.Machine.execI3cMctpPacket bytes s
  | .timerInterrupt t => Sys2Proof.Machine.execTimerInterrupt t s
  | .rcRead a r w => Sys2Proof.Machine.execRcRead a r w s
  | .vaonLoss => Sys2Proof.Machine.execVaonLoss s
  | .refclkRestore => Sys2Proof.Machine.execRefclkRestore s
  | .hostConfigWrite h c => Sys2Proof.Machine.execHostConfigWrite h c s
  | .bankRowClose v bank => Sys2Proof.Machine.execBankRowClose v bank s
  | .calibrationBurstCancel => Sys2Proof.Machine.execCalibrationBurstCancel s
  | .tckEdge rising tms tdi trst => Sys2Proof.Machine.execTckEdge rising tms tdi trst s

end Sys2Proof.Machine
end

