-- ==== Sys2Proof/WellFormed.lean ====
section
/-! DEFINITION. The checks on a command's operands that their types do not make: ranges the spec gives to addresses,
packets, readings and codes. `exec` answers on every command; these say which ones the spec speaks of. -/

namespace Sys2Proof

/-- Whether an agent is a host function, which alone has a function page (R415). -/
def Agent.isHost : Agent → Bool | .host _ _ => true | _ => false

/-- A line of the 52-bit address space (R28, R308). -/
def lineOk (l : Nat) : Bool := decide (l < 2 ^ 45)

/-- A line of a vault (R353). -/
def vaultLineOk (l : Nat) : Bool := decide (l < 12582912)

/-- A wrong symbol of a vault line: one of its 144 symbols or of the check bits of its nine slices, with some wrong bit (R355,
R359). -/
def SymErr.ok (e : SymErr) : Bool := decide (e.sym < 153) && e.bits != 0

/-- A transport packet whose fields fit their places (R442). -/
def Packet.ok (k : Packet) : Bool :=
  [1, 2, 3, 4, 0x10, 0x11, 0x12, 0x18, 0x19, 0x1A, 0x1B, 0x1C, 0x1D].contains k.op && decide (k.vc < 4)
    && decide (k.part ≤ 16) && decide (k.hops ≤ 3) && decide (k.len ≤ 4096) && decide (k.psn < 2 ^ 24)
    && decide (k.tag < 2 ^ 32) && decide (k.addr < 2 ^ 52) && decide (k.attr < 2 ^ 32) && decide (k.data.length ≤ 4096)

/-- Readings of a given number, each in a byte (R477, R566). -/
def tempsOk (l : List Nat) (n : Nat) : Bool := l.length == n && l.all (decide <| · < 256)

/-- A command whose operands the spec speaks of. -/
def Instr.wellFormed : Instr → Bool
  | .intRegisterOp n rd ra rb op => op.cls == 1 || (decodeWorker n (wordOf op.cls rd ra rb op.fn)).isNone
  | .clvIntOp h cls rd ra fld top fn =>
    (decide (1 ≤ cls.toNat ∧ cls.toNat ≤ 3) && (cls != 3 || fld != 9)) || (decodeClove h (cloveWordOf cls rd ra fld (top ++ fn))).isNone
  | .registerWrite a x _ _ | .rcRead a x _ => !x.page || a.isHost
  | .vectorBitwiseReduce _ op _ _ _ _ => !decide (8 ≤ op.toNat ∧ op.toNat ≤ 14)
  | .vectorCompare _ op _ _ _ _ _ => !decide (10 ≤ op.toNat ∧ op.toNat ≤ 12)
  | .cachedStoreLost _ line _ | .storeBufferDrain _ line | .gets _ line | .getm _ line | .upgrade _ line
  | .homeWrite _ line _ _ _ | .offer _ line _ | .writeback _ ⟨line, _⟩ | .snpInv _ line | .snpData _ line | .snpCur _ line
  | .birsp _ line _ | .biTimeout _ line => lineOk line
  | .hostMemRead _ a len _ | .hostMemWrite _ a len _ _ => decide (1 ≤ len.val) && decide (a.toNat % 128 + len.val ≤ 128)
  | .lineResponse _ tag _ => decide (tag < 1280)
  | .vaultRead _ l hit | .vaultPartialWrite _ l _ _ hit | .retentionCanary _ l hit => vaultLineOk l && hit.all SymErr.ok
  | .vaultWrite _ l _ _ => vaultLineOk l
  | .scrubLine _ ⟨_, hit⟩ => hit.all SymErr.ok
  | .flitReceive _ f => f.bytes.length == 432
  | .put _ k | .get _ k | .transportAtomic _ k | .resp _ k | .ack _ k | .nack _ k | .packetForward _ k | .coll _ k
  | .collUnarmedTimeout _ k | .heartbeat ⟨_, k⟩ _ _ _ _ | .claim _ k | .grant _ k | .arrive _ k _ | .release _ k
  | .groupBreak ⟨_, k⟩ => k.ok
  | .railPoll mv amps => mv.length == 4 && amps.length == 4
  | .thermalSample die spine => tempsOk die 64 && tempsOk spine 4
  | .critComparator spine => tempsOk spine 4
  | .planDone shift => shift.length == 268
  | .i3cRegisterAccess bytes | .i3cMctpPacket bytes => !bytes.isEmpty
  | _ => true

end Sys2Proof
end

