-- ==== Sys2Proof/Safety.lean ====
section
/-! DEFINITION. The words in which claims about the machine are stated: the settled block, the canonical form of the
memories, and the conditions under which a worker core or a Clove thread runs an instruction to its end. -/

namespace Sys2Proof.Machine

/-! ## What a command leaves. -/

/-- The state that a command of effect `e` leaves of `s`: the detections that it made are handled (R508, R509), the
doorbells that have risen are sent (R431), and the queue is as it was. -/
def State.after (s e : State) : State := { e.settle with pending := s.pending }

/-- Nothing waits for the error unit between commands, and no doorbell has risen or fallen unseen (R431, R509). -/
def State.Settled (s : State) : Prop :=
  s.err.queue = [] ∧ s.err.injected = false
    ∧ (∀ h < 2, ∀ f < 17, (s.hostFn h f).dbSeen = s.doorbell (0x200 + 0x20 * h + f))
    ∧ s.pins.boardDbSeen = s.doorbell 0x300

/-! ## Memory. -/

/-- The canonical form of the memories: addresses rise strictly, and nothing is listed at the value that an unlisted
address reads as. -/
def MemSt.wf (m : MemSt) : Bool :=
  Tbl.wf 0 m.dram && Tbl.wf 0 m.poison && Tbl.wf [] m.rawErr && Tbl.wf 0 m.tile && Tbl.wf false m.tilePoison
    && Tbl.wf false m.tileErr && Tbl.wf 0 m.host && Tbl.wf false m.hostPoison && Tbl.wf 0 m.sram && Tbl.wf 0 m.tcm
    && Tbl.wf false m.clvPoison && Tbl.wf 0xFF m.flash

/-! ## Worker cores. -/

/-- Whether the fetch of core `n` at its pc has its word at hand: the instruction cache holds the line, last used, or its
target answers, and nothing of the block changes (R316, R318, R320). -/
def State.wordAt (s : State) (n : Core) : Bool :=
  match s.fetch n (s.core n).pc.toNat with
  | .ok t => decide (t = s)
  | _ => false

/-- Core `n` executes its next instruction now: it runs with its tile on and its clock not held, no interrupt comes first, the
fetch passes its checks and has its word at hand (R82 to R85, R104, R329, R473, R475). -/
def State.ready (s : State) (n : Core) : Bool :=
  s.canIssue n && !(s.icacheOf n).busy && ((s.core n).issued || (s.intrDue n).isNone)
    && (s.fetchSub n (s.core n).pc).isNone && s.wordAt n

/-- The instruction ends with its effect `e` made: the pc moves on by one word, cs.instret counts it, and what it held
of the memory system is free. -/
def State.retire (e : State) (n : Core) : State :=
  (e.endIssue n).updCore n fun w => { w with pc := w.pc + 4, instret := w.instret + 1 }

/-- The instruction ends with its effect `e` made and a new pc. -/
def State.retireTo (e : State) (n : Core) (pc : W64) : State :=
  (e.endIssue n).updCore n fun w => { w with pc := pc, instret := w.instret + 1 }

/-- The state of the block outside its worker cores and what their instructions hold of the memory system is the
same. -/
def State.sameOutside (s t : State) (n : Core) : Prop :=
  t = { s with wrk := t.wrk, l1 := t.l1, grp := { s.grp with dones := t.grp.dones } }
    ∧ ∀ m : Core, m ≠ n → t.core m = s.core m ∧ t.cacheOf (.l1 m) = s.cacheOf (.l1 m)

/-- A vector instruction that names these vector registers runs now: no matrix read that has not completed writes one of
them (R199). -/
def State.readyV (s : State) (n : Core) (regs : List Nat) : Bool := s.ready n && !(regs.any (s.core n).mrdRegs.contains)

/-- The bytes of an element of a vector access, where they lie in the tile memory of core `m`. -/
def State.tileElem (s : State) (m : Nat) (e : VElem) : List Byte :=
  (halves e.addr e.len).flatMap fun h => (s.tileBytes m (h.1 % 0x40_0000) h.2).1

/-- Whether the elements of an access of core `n` pass their checks and lie in the tile memory of core `m`, which is on:
a load's words are not poisoned, and no matrix instruction has the bytes in use (R102, R166, R199, R584). -/
def State.elemsInTile (s : State) (n : Core) (m : Nat) (es : List VElem) (store : Bool) : Bool :=
  !s.tileOff m && !(s.tileHazard n (es.flatMap fun e => halves e.addr e.len) store) && es.all fun e =>
    (s.elemFault n e store).isNone && (halves e.addr e.len).all fun h =>
      spaceOf h.1 == .tile m && decide (h.1 % 0x40_0000 + h.2 ≤ 0x40_0000)
        && (store || !(s.tileBytes m (h.1 % 0x40_0000) h.2).2)

/-! ## Clove threads. -/

/-- Whether thread `h` has the word at its pc at hand: it has fetched it, or a Clove memory or the Clove cache gives it and
nothing of the block changes (R377, R378, R394). -/
def State.wordAtT (s : State) (h : Thread) : Bool :=
  (s.thread h).issued || ((s.clvFetchSub h (s.thread h).pc).isNone &&
    match s.clvLoadPart h (s.thread h).pc.toNat 4 with
    | .ok t _ bad => decide (t = s) && !bad
    | _ => false)

/-- Thread `h` executes its next instruction now (R384 to R387, R467, R473). -/
def State.readyT (s : State) (h : Thread) : Bool :=
  decide ((s.thread h).run = .running) && s.clvRuns h && !s.romRuns h && ((s.thread h).issued || (s.tcDue h).isNone)
    && s.wordAtT h

/-- The instruction of a thread ends with its effect `e` made. -/
def State.retireT (e : State) (h : Thread) : State := Res.settleT h (.next e)

/-- The instruction of a thread ends with its effect `e` made and a new pc. -/
def State.retireToT (e : State) (h : Thread) (pc : W64) : State := Res.settleT h (.goto e pc)

end Sys2Proof.Machine
end

