-- ==== Sys2Proof/Certificates/Slice0/Obligations.lean ====
section
/-! DEFINITION. The statements of this model, from the spec's rules. Each says what a command does, or what every step
keeps. -/

open Sys2Proof Sys2Proof.Machine

/-! ## The block as a queue of commands. -/

/-- A step takes the command at the front of the queue and runs it with the rest; an empty queue leaves the block as it
is (log 35). -/
def Obligations.StepRunsFrontCommand : Prop :=
  (∀ (c : Instr) (rest : List Instr) (s : State), s.pending = c :: rest → step s = exec c { s with pending := rest })
    ∧ ∀ s : State, s.pending = [] → step s = .next s

/-- No command stops the block: each one answers a next state, whose queue is the one it found. A command whose effect
leaves the block settled has exactly that effect.
The model's choices of log 2 enter. -/
def Obligations.EveryCommandAnswersNextState : Prop :=
  (∀ (c : Instr) (s : State), ∃ t, exec c s = .next t ∧ t.pending = s.pending)
    ∧ ∀ s e : State, e.Settled → s.after e = { e with pending := s.pending }

/-- The block right after reset is settled, and its memories are in canonical form with nothing listed. -/
def Obligations.SettledAtReset : Prop :=
  State.reset.Settled ∧ State.reset.pending = [] ∧ State.reset.mem.wf = true ∧ State.reset.mem.dram = []
    ∧ State.reset.mem.tile = [] ∧ State.reset.mem.host = []

/-- Every step from a settled block leaves it settled: all detections of the command have been handled by the error unit
(R508, R509) and no doorbell has risen or fallen unseen (R431). -/
def Obligations.EveryStepKeepsSettled : Prop :=
  ∀ s t : State, s.Settled → step s = .next t → t.Settled

/-- A doorbell that rises sends one message: a function's unmasked MSI-X vector 1, or an in-band interrupt to the board;
one that stays or falls sends none, and nothing else changes with it (R431, R562). -/
def Obligations.DoorbellsSendOnTheirRise : Prop :=
  ∀ (s : State) (h f : Nat), h < 2 → f < 17 → s.err.queue = [] → s.err.injected = false →
    let on := s.doorbell (0x200 + 0x20 * h + f)
    let x := s.hostFn h f
    let onBoard := s.doorbell 0x300
    let t := s.settle
    t.hostFn h f = { x with dbSeen := on, sent1 := if on && !x.dbSeen && !x.mask1 then x.sent1 + 1 else x.sent1 }
      ∧ t.pins = { s.pins with boardDbSeen := onBoard,
                               ibiDoorbell := if onBoard && !s.pins.boardDbSeen then s.pins.ibiDoorbell + 1 else s.pins.ibiDoorbell }
      ∧ t.mem = s.mem ∧ t.wrk = s.wrk ∧ t.err = s.err ∧ t.mbx = s.mbx

/-! ## Scalar instructions of a worker core. -/

/-- s0 reads as zero and a write to it is discarded; any other register reads back what was written, and a write leaves
the others alone (R76). -/
def Obligations.RegisterZeroAndRegisterWrites : Prop :=
  ∀ (w : Wrk) (v : W64), w.s 0 = 0 ∧ w.setS 0 v = w
    ∧ ∀ i j : Nat, i ≠ 0 → (w.setS i v).s i = v ∧ (j ≠ i → (w.setS i v).s j = w.s j)

/-- The instructions of class 0x03, each with the result of its row, at 64 and at 32 bits; no exception, no flag and nothing
else changes. Quotients round toward zero, a quotient that does not exist or is not representable saturates, and otherwise
the dividend is the quotient times the divisor plus the remainder (R94). -/
def Obligations.MultiplyAndDivideFollowTheirTable : Prop :=
  let quoS (w : Nat) (x y : BitVec w) : BitVec w :=
    if y = 0 then (if 0 ≤ x.toInt then BitVec.intMax w else BitVec.intMin w)
    else if x = BitVec.intMin w ∧ y = BitVec.allOnes w then BitVec.intMax w else BitVec.ofInt w (x.toInt.tdiv y.toInt)
  let remS (w : Nat) (x y : BitVec w) : BitVec w :=
    if y = 0 then x else if x = BitVec.intMin w ∧ y = BitVec.allOnes w then 0 else BitVec.ofInt w (x.toInt.tmod y.toInt)
  let quoU (w : Nat) (x y : BitVec w) : BitVec w := if y = 0 then BitVec.allOnes w else BitVec.ofNat w (x.toNat / y.toNat)
  let remU (w : Nat) (x y : BitVec w) : BitVec w := if y = 0 then x else BitVec.ofNat w (x.toNat % y.toNat)
  (∀ (n : Core) (rd ra rb : SReg) (s : State), s.ready n = true →
    let a := s.sreg n ra
    let b := s.sreg n rb
    let c : BitVec 32 := a.setWidth 32
    let d : BitVec 32 := b.setWidth 32
    let gives (fn : BitVec 12) (v : W64) : Prop :=
      exec (.mulDivOp n rd ra rb fn) s = .next (s.after ((s.setSreg n rd v).retire n))
    gives 0x00 (BitVec.ofInt 64 (a.toInt * b.toInt)) ∧ gives 0x01 (BitVec.ofInt 64 (a.toInt * b.toInt / 2 ^ 64))
    ∧ gives 0x02 (BitVec.ofNat 64 (a.toNat * b.toNat / 2 ^ 64))
    ∧ gives 0x03 (BitVec.ofInt 64 (a.toInt * (b.toNat : Int) / 2 ^ 64))
    ∧ gives 0x04 (quoS 64 a b) ∧ gives 0x05 (quoU 64 a b) ∧ gives 0x06 (remS 64 a b) ∧ gives 0x07 (remU 64 a b)
    ∧ gives 0x08 ((BitVec.ofInt 32 (c.toInt * d.toInt)).signExtend 64)
    ∧ gives 0x0C ((quoS 32 c d).signExtend 64) ∧ gives 0x0D ((quoU 32 c d).signExtend 64)
    ∧ gives 0x0E ((remS 32 c d).signExtend 64) ∧ gives 0x0F ((remU 32 c d).signExtend 64))
  ∧ ∀ w ∈ [32, 64], ∀ x y : BitVec w, y ≠ 0 →
      x = quoU w x y * y + remU w x y
      ∧ (¬(x = BitVec.intMin w ∧ y = BitVec.allOnes w) →
        x.toInt = (quoS w x y).toInt * y.toInt + (remS w x y).toInt
        ∧ ((remS w x y).toInt = 0 ∨ ((remS w x y).toInt < 0 ↔ x.toInt < 0)))

/-- The integer instructions of a ready core write their result to rd and move on; nothing else changes (R93, R95). -/
def Obligations.IntegerInstructionsWriteTheirResult : Prop :=
  ∀ (n : Core) (rd ra rb : SReg) (s : State), s.ready n = true →
    (∀ (fn : BitVec 12) (v : W64), fn.toNat < 64 → (intOpUnary fn.toNat = true → rb.val = 0) →
        intOp fn.toNat (s.sreg n ra) (s.sreg n rb) = some v →
        exec (.intRegisterOp n rd ra rb ⟨1, fn⟩) s = .next (s.after ((s.setSreg n rd v).retire n)))
    ∧ (∀ (fn : BitVec 5) (imm : BitVec 12) (v : W64), intImmCode fn.toNat = true → intImmShiftOk fn.toNat imm = true →
        intOp fn.toNat (s.sreg n ra) (imm.signExtend 64) = some v →
        exec (.intImmediateOp n rd ra fn imm) s = .next (s.after ((s.setSreg n rd v).retire n)))
    ∧ (∀ imm : BitVec 22,
        exec (.liu n rd imm) s = .next (s.after ((s.setSreg n rd (imm.signExtend 64 <<< 12)).retire n))
        ∧ exec (.addpc n rd imm) s
            = .next (s.after ((s.setSreg n rd ((s.core n).pc + (imm.signExtend 64 <<< 12))).retire n)))

/-- A branch goes to pc + 4 × off14 when its condition holds and falls through when not; conditions 6 and 7 are unassigned
and trap ILLEGAL in job mode. JL and JLR go where they say and link pc + 4 (R95, R96). -/
def Obligations.BranchesAndJumpsGoWhereTheySay : Prop :=
  ∀ (n : Core) (rd ra rb : SReg) (s : State), s.ready n = true →
    let pc := (s.core n).pc
    let a := s.sreg n ra
    let b := s.sreg n rb
    (∀ (cond : BitVec 3) (off : BitVec 14),
      let holds : Bool := match cond.toNat with
        | 0 => a == b
        | 1 => a != b
        | 2 => decide (a.toInt < b.toInt)
        | 3 => decide (b.toInt ≤ a.toInt)
        | 4 => decide (a.toNat < b.toNat)
        | _ => decide (b.toNat ≤ a.toNat)
      (cond.toNat < 6 → holds = true →
        exec (.branch n ra rb cond off) s = .next (s.after (s.retireTo n (pc + 4 * off.signExtend 64))))
      ∧ (cond.toNat < 6 → holds = false → exec (.branch n ra rb cond off) s = .next (s.after (s.retireTo n (pc + 4))))
      ∧ (6 ≤ cond.toNat → (s.core n).monitor = false → (s.core n).matOps = [] →
        exec (.branch n ra rb cond off) s = .next (s.after ((s.endIssue n).updCore n fun w => w.trap false 1 0
          (BitVec.ofNat 64 (0x09 * 2 ^ 27 + ra.val * 2 ^ 22 + rb.val * 2 ^ 17 + cond.toNat * 2 ^ 14 + off.toNat))))))
    ∧ (∀ off : BitVec 22, exec (.jl n rd off) s
        = .next (s.after ((s.setSreg n rd (pc + 4)).retireTo n (pc + 4 * off.signExtend 64))))
    ∧ (∀ imm : BitVec 12, exec (.jlr n rd ra 0 imm) s
        = .next (s.after ((s.setSreg n rd (pc + 4)).retireTo n ((a + imm.signExtend 64) &&& ~~~3))))

/-- An unassigned code or a word that no command spells traps ILLEGAL with the instruction word, and a job-mode RETM or JOBGO
traps PRIVILEGED: the trap of R80 in job mode. In monitor mode no exception is taken: the core stops with its code as
STOP_CAUSE, and detector 0x3C is raised. While an earlier matrix instruction has not completed, the exception waits (R79, R81,
R82, R83, R92, R187). -/
def Obligations.ExceptionsTrapOrStopTheCore : Prop :=
  ∀ (n : Core) (s : State), s.ready n = true →
    let none_ (cls : BitVec 5) (rd ra rb : SReg) (fn : BitVec 12) : Prop :=
      if cls = 1 then fn.toNat ≥ 64 ∨ intOp fn.toNat (s.sreg n ra) (s.sreg n rb) = none ∨ (intOpUnary fn.toNat = true ∧ rb.val ≠ 0)
      else decodeWorker n (wordOf cls rd ra rb fn) = none
    let stopped (code : Nat) : Host.Outcome State Fault Refusal :=
      .next (s.after ((((s.endIssue n).raise 0x3C n 0 code).updCore n fun w =>
        { w with run := .stopped, stopCause := BitVec.ofNat 8 code, jobActive := false, issued := false, partsDone := 0 }).breakOf n))
    ((s.core n).matOps = [] → (s.core n).monitor = false →
      (∀ (cls : BitVec 5) (rd ra rb : SReg) (fn : BitVec 12), none_ cls rd ra rb fn →
        exec (.intRegisterOp n rd ra rb ⟨cls, fn⟩) s
          = .next (s.after ((s.endIssue n).updCore n fun w => w.trap false 1 0 (regWord cls.toNat rd.val ra.val rb.val fn))))
      ∧ exec (.retm n) s = .next (s.after ((s.endIssue n).updCore n fun w => w.trap false 2 0 (sysWord 0 3)))
      ∧ exec (.jobgo n) s = .next (s.after ((s.endIssue n).updCore n fun w => w.trap false 2 0 (sysWord 0 5))))
    ∧ ((s.core n).matOps = [] → (s.core n).monitor = true →
      (∀ (cls : BitVec 5) (rd ra rb : SReg) (fn : BitVec 12), none_ cls rd ra rb fn →
        exec (.intRegisterOp n rd ra rb ⟨cls, fn⟩) s = stopped 1)
      ∧ exec (.mcall n) s = stopped 9 ∧ exec (.brk n) s = stopped 0x0A)
    ∧ ((s.core n).matOps ≠ [] →
      (∀ (cls : BitVec 5) (rd ra rb : SReg) (fn : BitVec 12), none_ cls rd ra rb fn →
        exec (.intRegisterOp n rd ra rb ⟨cls, fn⟩) s = .next (s.after s))
      ∧ exec (.mcall n) s = .next (s.after s) ∧ exec (.brk n) s = .next (s.after s))

/-- The system instructions of a ready core: MCALL, BREAK and JEXIT trap from job mode with their own codes once no matrix
instruction is left, and RETM reverses a trap (R80, R81, R101). -/
def Obligations.SystemInstructionsTrapAndReturn : Prop :=
  ∀ (n : Core) (ra : SReg) (s : State), s.ready n = true →
    ((s.core n).monitor = false → (s.core n).matOps = [] →
      exec (.mcall n) s = .next (s.after ((s.endIssue n).updCore n fun w => w.trap false 9 0 ((s.core n).s 1)))
      ∧ exec (.brk n) s = .next (s.after ((s.endIssue n).updCore n fun w => w.trap false 0x0A 0 (s.core n).pc))
      ∧ exec (.jexit n ra) s = .next (s.after (((s.updCore n fun w =>
          { w with jobActive := false }).endIssue n).updCore n fun w => w.trap false 0x0B 0 (s.sreg n ra))))
    ∧ ((s.core n).monitor = true →
      exec (.retm n) s = .next (s.after ((s.updCore n fun w =>
        { w with monitor := w.prevMode, ien := w.prevIen, pc := w.tpc }).retireTo n (s.core n).tpc))
      ∧ exec (.jobgo n) s = .next (s.after (s.updCore n fun w => { w with run := .jobgo })))
    ∧ exec (.wfi n) s = .next (s.after (if s.ipOn n = 0 then s.updCore n fun w => { w with run := .wfi } else s.retire n))

/-- The trap of R80: what it saves, what the mode and the enable become, and where the pc goes. -/
def Obligations.TrapSavesAndEnters : Prop :=
  ∀ (w : Wrk) (intr : Bool) (code sub : Nat) (info : W64), code < 256 → sub < 256 →
    let t := w.trap intr code sub info
    t.tpc = w.pc ∧ t.tcode.toNat = (if intr then 65536 else 0) + 256 * sub + code ∧ t.tdata = info
      ∧ t.prevMode = w.monitor ∧ t.prevIen = w.ien ∧ t.ien = false ∧ t.monitor = true
      ∧ t.pc = (w.tentry >>> 12 <<< 12) + BitVec.ofNat 64 ((if intr then 0x800 else 0) + 16 * code)
      ∧ t.retm = { t with monitor := w.monitor, ien := w.ien, pc := w.pc }
      ∧ t.sregs = w.sregs ∧ t.vregs = w.vregs ∧ t.instret = w.instret

/-- A waiting core: WFI ends once an interrupt is pending and enabled, an interrupt at a boundary is taken lowest code
first, and a JOBGO that waits starts the job of its ring's head (R84 to R86, R109).
The model's choices of log 26 enter. -/
def Obligations.WaitingCoresWakeTrapAndStart : Prop :=
  ∀ (n : Core) (s : State), s.tileOff n = false → s.coreRuns (n.val / 64) = true →
    ((s.core n).run = .wfi → s.ipOn n ≠ 0 →
      exec (.wfiWake n) s = .next (s.after (s.updCore n fun w =>
        { w with run := .running, pc := w.pc + 4, instret := w.instret + 1 })))
    ∧ (∀ k : Nat, s.atBoundary n = true → s.intrDue n = some k → 0 < k →
      exec (.interruptTake n) s = .next (s.after (s.updCore n fun w => { w.trap true k 0 0 with run := .running })))
    ∧ (s.atBoundary n = true → s.intrDue n = some 0 →
      exec (.interruptTake n) s = .next (s.after (s.updCore n fun w =>
        { w.trap true 0 0 0 with run := .running, killPend := false, jobActive := false })))
    ∧ ∀ k : Nat, s.intrDue n = some k → k < 8 ∧ (s.ipOn n).getLsbD k = true
        ∧ (∀ j < k, (s.ipOn n).getLsbD j = false) ∧ ((s.core n).monitor = true → (s.core n).ien = true)

/-- Fences of a ready core complete: those that order stores once every earlier store is visible, FENCE.LD at once, and IFLUSH
with the instruction cache empty; a fence whose stores are not visible waits (R99, R348). -/
def Obligations.FencesCompleteOnceStoresAreVisible : Prop :=
  ∀ (n : Core) (s : State), s.ready n = true →
    exec (.fenceLd n) s = .next (s.after (s.retire n)) 
    ∧ exec (.iflush n) s = .next (s.after ((s.updIcache n fun c => { c with lines := [] }).retire n))
    ∧ ∀ c ∈ [Instr.fence n, .fenceSt n, .fenceIo n],
        exec c s = .next (s.after (if s.storesDone n then s.retire n
                                   else s.updCore n fun w => { w with issued := true }))

/-- What a job starts with (R108, R109). -/
def Obligations.JobStartLoadsItsDescriptor : Prop :=
  ∀ (n : Core) (s : State),
    let w := s.core n
    let d (i : Nat) : W64 := Tbl.get 0 w.slots (8 * (w.jobHead.toNat % 8) + i)
    w.run = .jobgo → s.tileOff n = false → s.coreRuns (n.val / 64) = true → s.intrDue n = none → w.jobHead ≠ w.jobTail →
    s.coreHeld n = false → w.matOps = [] →
    ∃ j : Wrk, exec (.jobgoStart n) s = .next (s.after (s.updCore n fun _ => j))
      ∧ j.pc = d 1 &&& ~~~3 ∧ j.jobid = d 0 ∧ j.flags = 0 ∧ j.monitor = false ∧ j.run = .running
      ∧ j.fpmode.getLsbD 4 = (d 7).getLsbD 0 ∧ j.fpmode.setWidth 4 = w.fpdefault ∧ j.jobHead = w.jobHead + 1
      ∧ (∀ i < 5, j.s (i + 1) = d (2 + i)) ∧ (∀ i, 6 ≤ i → j.s i = 0)
      ∧ (∀ i, j.v i = 0 ∧ j.m i = 0) ∧ j.acc = []
      ∧ j.slots = w.slots ∧ j.jobTail = w.jobTail ∧ j.tentry = w.tentry ∧ j.tpc = w.tpc ∧ j.mspare = w.mspare

/-- Loads, stores and atomics of a ready core on tile memory that its checks admit: the bytes read come from the tile, the
bytes written go there, and a doubleword or word is exchanged in one step (R97, R98, R106, R584). -/
def Obligations.TileMemoryAccessesComplete : Prop :=
  ∀ (n : Core) (m : Nat) (s : State), s.ready n = true → s.tileOff m = false →
    (∀ (rd ra : SReg) (fn : BitVec 5) (imm : BitVec 12),
      let a := s.sreg n ra + imm.signExtend 64
      let len := sizeBytes (fn.toNat % 8)
      let off := a.toNat % 0x40_0000
      loadLegal fn rd = true → spaceOf a.toNat = .tile m → off + len ≤ 0x40_0000 → s.accFault n a len false = none →
      s.tileHazard n (halves a len) false = false → (s.tileBytes m off len).2 = false →
      exec (.scalarLoad n rd ra fn imm) s
        = .next (s.after ((s.loadPut n rd (fn.toNat % 8) (s.tileBytes m off len).1).retire n)))
    ∧ (∀ (rs ra : SReg) (fn : BitVec 5) (imm : BitVec 12),
      let a := s.sreg n ra + imm.signExtend 64
      let bs := s.storeBytes n rs (fn.toNat % 8)
      storeLegal fn rs = true → spaceOf a.toNat = .tile m → a.toNat % 0x40_0000 + bs.length ≤ 0x40_0000 →
      s.accFault n a bs.length true = none → s.tileHazard n (halves a bs.length) true = false →
      (s.core n).partsDone = 0 → (fn.getLsbD 3 = true → s.storesDone n = true) →
      exec (.scalarStore n rs ra fn imm) s = .next (s.after (((storeHalves a bs).foldl
        (fun t p => t.tileWrite m (p.1 % 0x40_0000) p.2 false) s).retire n)))
    ∧ (∀ (rd ra rb : SReg) (fn : BitVec 12) (w : Nat) (new : Option W64),
      let a := s.sreg n ra
      let old : W64 := BitVec.ofNat 64 (bytesToNat (s.tileBytes m (a.toNat % 0x40_0000) w).1)
      atomicSize fn = some w → a.toNat % w = 0 → spaceOf a.toNat = .tile m → s.accFault n a w true = none →
      s.tileHazard n [(a.toNat, w)] true = false → (fn.getLsbD 11 = true → s.storesDone n = true) →
      (s.tileBytes m (a.toNat % 0x40_0000) w).2 = false →
      atomicNew (field fn.toNat 4 0) w old (s.sreg n rb) (s.sreg n rd) = some new →
      exec (.atomic n rd ra rb fn) s = .next (s.after (((match new with
        | some v => s.tileWrite m (a.toNat % 0x40_0000) (natToBytes v.toNat w) false
        | none => s).setSreg n rd (atomicOld w old)).retire n)))

/-- What tile memory holds after bytes are written to it: the bytes written, and every other byte of it and of every
other memory as before (the frame of a store). -/
def Obligations.TileWriteChangesItsBytesOnly : Prop :=
  ∀ (s : State) (n off : Nat) (bs : List Byte) (p : Bool),
    let t := s.tileWrite n off bs p
    (∀ a, Tbl.get 0 t.mem.tile a = if 0x40_0000 * n + off ≤ a ∧ a < 0x40_0000 * n + off + bs.length
        then bs.getD (a - (0x40_0000 * n + off)) 0 else Tbl.get 0 s.mem.tile a)
      ∧ (∀ w, ¬(off / 8 ≤ w ∧ 8 * w < off + bs.length) →
          Tbl.get false t.mem.tilePoison (0x8_0000 * n + w) = Tbl.get false s.mem.tilePoison (0x8_0000 * n + w)
            ∧ Tbl.get false t.mem.tileErr (0x8_0000 * n + w) = Tbl.get false s.mem.tileErr (0x8_0000 * n + w))
      ∧ t = { s with mem := { s.mem with tile := t.mem.tile, tilePoison := t.mem.tilePoison, tileErr := t.mem.tileErr } }

/-- A store to cacheable memory enters the store buffer of a ready core, where it waits; a load takes its bytes from the buffer
or the L1 line, or misses; a buffered line that its L1 owns drains into it, and one that is lost raises detector 0x43 and leaves
the buffer (R107, R321, R322, R324, R585). -/
def Obligations.StoreBufferTakesDrainsAndLosesStores : Prop :=
  ∀ (n : Core) (s : State),
    (∀ (rs ra : SReg) (fn : BitVec 5) (imm : BitVec 12) (w : Wrk),
      let a := s.sreg n ra + imm.signExtend 64
      let bs := s.storeBytes n rs (fn.toNat % 8)
      s.ready n = true → storeLegal fn rs = true → spaceOf a.toNat = .stacked → s.cacheable a.toNat = true →
      a.toNat % 128 + bs.length ≤ 128 → s.accFault n a bs.length true = none → (s.core n).partsDone = 0 →
      (fn.getLsbD 3 = true → s.storesDone n = true) → (s.core n).buffer a.toNat bs = some w →
      exec (.scalarStore n rs ra fn imm) s = .next (s.after ((s.updCore n fun _ => w).retire n)))
    ∧ (∀ (rd ra : SReg) (fn : BitVec 5) (imm : BitVec 12),
      let a := s.sreg n ra + imm.signExtend 64
      let len := sizeBytes (fn.toNat % 8)
      let l := a.toNat / 128
      let r : Cacher := .l1 n
      let loads (t : State) (bs : List Byte) : Host.Outcome State Fault Refusal :=
        .next (s.after ((t.loadPut n rd (fn.toNat % 8) bs).retire n))
      s.ready n = true → loadLegal fn rd = true → spaceOf a.toNat = .stacked → s.cacheable a.toNat = true →
      a.toNat % 128 + len ≤ 128 → s.accFault n a len false = none → s.tileHazard n (halves a len) false = false →
      ((s.core n).covers a.toNat len = true → exec (.scalarLoad n rd ra fn imm) s
        = loads s ((s.core n).overlay a.toNat (List.replicate len 0)))
      ∧ ((s.core n).covers a.toNat len = false → (s.cacheOf r).fills.find? (fun f => f.line == l) = none → s.l1Serves n = true →
        (∀ x, s.held r l = some x → x.poison = false → exec (.scalarLoad n rd ra fn imm) s
          = loads ((s.updCache r fun c => c.touch (r.set l) r.ways l).count n 0x101)
              ((s.core n).overlay a.toNat (lineSlice x.data (a.toNat % 128) len)))
        ∧ (s.held r l = none → s.busCode a.toNat = .okay → exec (.scalarLoad n rd ra fn imm) s
          = .next (s.after ((s.missFor n l false).updCore n fun w => { w with issued := true })))))
    ∧ (∀ (l : Nat) (e : SbEntry), s.tileOff n = false → (s.core n).sb.find? (fun e => e.line == l) = some e →
      s.busCode (128 * l) = .okay → s.cacheable (128 * l) = true → (attrOf s.cfg (128 * l)).wpol = 0 →
      s.l1Serves n = true → s.l1Owns n l = true →
      exec (.storeBufferDrain n l) s = .next (s.after (((s.l1Write n l e.mask e.data).updCache (.l1 n) fun c =>
        { c with fills := c.fills.filter fun f => f.line != l }).sbDrop n l)))
    ∧ ∀ (l : Nat) (c : BusResp) (e : SbEntry), e ∈ (s.core n).sb → e.line = l → c ≠ .okay → c ≠ .poison →
      (s.cacheOf (.l1 n)).grants = [] →
      ∃ t : State, exec (.cachedStoreLost n l c) s = .next (s.after t)
        ∧ t.err.queue = s.err.queue ++ [mkDet 0x43 n (128 * l) (busInfo c)]
        ∧ (t.core n).sb = (s.core n).sb.filter (fun e => e.line != l) ∧ t.mem = s.mem

/-- A CSR instruction reads its CSR and puts the old value in rd. The CSR takes the operand, the old value with the
operand's bits set or with them cleared; CSRS, CSRC, CSRSI and CSRCI write it only where ra or uimm5 is not zero, and only a
write meets the write rules (R87, R100). -/
def Obligations.CsrInstructionsSwapTheOldValue : Prop :=
  ∀ (n : Core) (rd ra : SReg) (uimm : BitVec 5) (csr : BitVec 12) (old : W64) (s : State), s.ready n = true →
    let a := s.sreg n ra
    let i : W64 := uimm.setWidth 64
    let runs (csr : Nat) (writes : Bool) (v : W64) : Prop :=
      csr < 4096 ∧ s.csrRead n csr = some old ∧ (csr / 2048 = 1 → (s.core n).monitor = true)
        ∧ (writes = true → csrLegal csr old v = true) ∧ (csr = 2 → (s.core n).matOps = [])
    let ends (csr : Nat) (writes : Bool) (v : W64) : Host.Outcome State Fault Refusal :=
      let t := s.csrTouch n csr
      .next (s.after (((if writes then t.csrWrite n csr v else t).updCore n fun w => w.setS rd.val old).retire n))
    (runs csr.toNat true a → exec (.csrw n rd ra csr) s = ends csr.toNat true a)
    ∧ (runs csr.toNat (ra.val != 0) (old ||| a) → exec (.csrs n rd ra csr) s = ends csr.toNat (ra.val != 0) (old ||| a))
    ∧ (runs csr.toNat (ra.val != 0) (old &&& ~~~a) →
        exec (.csrc n rd ra csr) s = ends csr.toNat (ra.val != 0) (old &&& ~~~a))
    ∧ (runs csr.toNat true i → exec (.csrwi n rd uimm csr) s = ends csr.toNat true i)
    ∧ (runs csr.toNat (uimm != 0) (old ||| i) → exec (.csrsi n rd uimm csr) s = ends csr.toNat (uimm != 0) (old ||| i))
    ∧ (runs csr.toNat (uimm != 0) (old &&& ~~~i) →
        exec (.csrci n rd uimm csr) s = ends csr.toNat (uimm != 0) (old &&& ~~~i))
    ∧ ∀ (op : CsrOp) (ring : RingId) (k : Chan),
        let x : W64 := match op with
          | .w | .s | .c => a
          | .wi | .si | .ci => BitVec.ofNat 64 ra.val
        let v : W64 := match op with
          | .w | .wi => x
          | .s | .si => old ||| x
          | .c | .ci => old &&& ~~~x
        let writes : Bool := op == .w || op == .wi || ra.val != 0
        (runs 0x003 writes v → exec (.vlWrite n op rd ra) s = ends 0x003 writes v)
        ∧ (runs 0x040 writes v → exec (.mshapeWrite n op rd ra) s = ends 0x040 writes v)
        ∧ (runs (0x0C0 + 4 * ring.val) writes v → exec (.hrcfgWrite n op rd ra ring) s = ends (0x0C0 + 4 * ring.val) writes v)
        ∧ (runs (0x0C1 + 4 * ring.val) writes v → exec (.hrptrWrite n op rd ra ring) s = ends (0x0C1 + 4 * ring.val) writes v)
        ∧ (runs (0x080 + k.val) writes v → exec (.strptrWrite n op rd ra k) s = ends (0x080 + k.val) writes v)

/-- What the operation writes: CSRW the operand, CSRS the old value with its bits set, CSRC with them cleared; CSRS and
CSRC with register 0 or a zero immediate write nothing (R100). -/
def Obligations.CsrOperationsFollowTheirTable : Prop :=
  ∀ (old a : W64) (w : Wrk) (i : Nat),
    csrValue .w old a = a ∧ csrValue .wi old a = a
    ∧ (∀ k < 64, (csrValue .s old a).getLsbD k = (old.getLsbD k || a.getLsbD k)
        ∧ (csrValue .si old a).getLsbD k = (old.getLsbD k || a.getLsbD k)
        ∧ (csrValue .c old a).getLsbD k = (old.getLsbD k && !a.getLsbD k)
        ∧ (csrValue .ci old a).getLsbD k = (old.getLsbD k && !a.getLsbD k))
    ∧ (∀ op, w.csrArg op 0 = 0 ∧ (csrWrites op i = false ↔ i = 0 ∧ op ≠ .w ∧ op ≠ .wi))

/-- The commands of a core's registers, where the agent may write them: RUN starts a halted core in monitor mode at its
boot pc, KILL makes STOP pending, RESET resets, and a tail more than eight past the head only sets JOB_OVERRUN (R110). -/
def Obligations.WorkerRegisterCommandsAct : Prop :=
  ∀ (a : Agent) (n : Core) (s : State), s.mute a = false →
    (s.regCode a (.wrkCtrl n) true .full = .okay →
      exec (.wrkKill a n) s = .next (s.after ((s.updCore n fun w => { w with killPend := true }).reply .okay 0))
      ∧ exec (.wrkReset a n) s = .next (s.after ((s.coreReset n).reply .okay 0))
      ∧ exec (.wrkRun a n) s = .next (s.after ((if (s.core n).run = .halted
          then s.updCore n fun w => { w with run := .running, monitor := true, pc := w.bootPc } else s).reply .okay 0)))
    ∧ ∀ val : W64, s.regCode a (.wrkJobTail n) true .full = .okay →
      let t := s.updCore n fun w =>
        if 8 < (val.setWidth 4 - w.jobHead).toNat then { w with jobOverrun := true } else { w with jobTail := val.setWidth 4 }
      (s.nut.pdReq.getLsbD n = false ∨ s.nut.pdState.getLsbD n = true ∨ Tbl.get 0 s.nut.pdAt n ≠ s.time.hk + 1 →
        exec (.jobTailWrite a n val) s = .next (s.after (t.reply .okay 0)))
      ∧ (s.nut.pdReq.getLsbD n = true → s.nut.pdState.getLsbD n = false → Tbl.get 0 s.nut.pdAt n = s.time.hk + 1 →
        (t.core n).jobHead ≠ (t.core n).jobTail →
        exec (.jobTailWrite a n val) s = .next (s.after ((t.updNut fun x =>
          { x with pdReq := x.pdReq &&& ~~~(BitVec.ofNat 256 (2 ^ n.val)), pdReject := true }).reply .okay 0)))

/-- The reset of a core whose tile is on: what it clears and what it keeps (R110, R201).
The model's choices of log 3 enter. -/
def Obligations.CoreResetClearsItsState : Prop :=
  ∀ (s : State) (n : Core), s.tileOff n = false →
    let w := (s.coreReset n).core n
    w.run = .halted ∧ w.monitor = true ∧ w.sregs = [] ∧ w.flags = 0 ∧ w.vl = 0 ∧ w.fpmode = 0 ∧ w.mshape = 0xBFFF
      ∧ w.ie = 0 ∧ w.instret = 0 ∧ w.killPend = false ∧ w.mq = [] ∧ w.acc = []
      ∧ w.jobHead = (s.core n).jobHead ∧ w.jobTail = (s.core n).jobTail ∧ w.slots = (s.core n).slots
      ∧ w.vregs = (s.core n).vregs ∧ w.mregs = (s.core n).mregs ∧ w.bootPc = (s.core n).bootPc ∧ w.stopCause = (s.core n).stopCause
      ∧ ∀ m : Nat, m ≠ n.val → (s.coreReset n).thread m = s.thread m

/-! ## Vector instructions. -/

/-- cs.vl takes the count asked for, at most VLMAX of the format, and VMVR, VZERO and MMVR move whole registers (R151). -/
def Obligations.VectorLengthAndWholeMoves : Prop :=
  ∀ (n : Core) (s : State), s.ready n = true →
    (∀ (rd ra : SReg) (fmt : BitVec 5), fmtDefined fmt.toNat = true →
      let v := min (s.sreg n ra).toNat (vlmax fmt.toNat)
      exec (.vsetvl n rd ra fmt) s
        = .next (s.after ((s.updCore n fun w => ({ w with vl := v }).setS rd.val (BitVec.ofNat 64 v)).retire n)))
    ∧ (∀ (rd : SReg) (uimm : BitVec 10) (fmt : BitVec 5), fmtDefined fmt.toNat = true →
      let v := if uimm = 0 then vlmax fmt.toNat else min uimm.toNat (vlmax fmt.toNat)
      exec (.vsetvli n rd uimm fmt) s
        = .next (s.after ((s.updCore n fun w => ({ w with vl := v }).setS rd.val (BitVec.ofNat 64 v)).retire n)))
    ∧ (∀ vd va : VReg, s.readyV n [vd.val, va.val] = true →
      exec (.vmvr n vd va) s = .next (s.after ((s.updCore n fun w => w.setV vd.val ((s.core n).v va.val)).retire n)))
    ∧ (∀ vd : VReg, s.readyV n [vd.val] = true →
      exec (.vzero n vd) s = .next (s.after ((s.updCore n fun w => w.setV vd.val 0).retire n)))
    ∧ ∀ md ma : MReg,
      exec (.mmvr n md ma) s = .next (s.after ((s.updCore n fun w => w.setM md.val ((s.core n).m ma.val)).retire n))

/-- An element-wise write changes the active elements below the count of one vector register and adds flags; every other
element, register, mask and scalar is as before (R147, R174). -/
def Obligations.ElementWritesChangeActiveElementsOnly : Prop :=
  ∀ (w : Wrk) (vd width cnt : Nat) (act : Nat → Bool) (f : Nat → Nat × Flags),
    0 < width → width * cnt ≤ 8192 → (∀ j, (f j).1 < 2 ^ width) →
    let t := w.elements vd width cnt act f
    (∀ j, width * (j + 1) ≤ 8192 →
        vecElem width (t.v vd) j = if j < cnt ∧ act j = true then (f j).1 else vecElem width (w.v vd) j)
      ∧ (∀ i, i ≠ vd → t.v i = w.v i)
      ∧ (∀ k < 7, t.flags.getLsbD k = (w.flags.getLsbD k
          || (List.range cnt).any fun j => act j && (f j).2.getLsbD k))
      ∧ t = { w with vregs := t.vregs, flags := t.flags }

/-- The element-wise instructions of a ready core write the elements that their operation gives (R147, R152 to R156, R158). -/
def Obligations.ElementwiseInstructionsWriteTheirElements : Prop :=
  ∀ (n : Core) (vd va vb : VReg) (rb : SReg) (mk : MReg) (fmt : BitVec 5) (s : State),
    s.readyV n [vd.val, va.val, vb.val] = true →
    let f := fmt.toNat
    let w := s.core n
    let e (r j : Nat) : Nat := vecElem (fmtBits f) (w.v r) j
    let done (mk : Nat) (g : Nat → Nat × Flags) : Host.Outcome State Fault Refusal :=
      .next (s.after ((s.updCore n fun _ => w.elements vd.val (fmtBits f) (min w.vl (vlmax f)) (w.active mk) g).retire n))
    (∀ op : BitVec 4, op.toNat ≠ 13 → op.toNat ≠ 14 → fmtDefined f = true → binaryAccepts op.toNat f = true →
      exec (.vectorElementwiseOp n false op vd va vb mk fmt) s
        = done mk.val (fun j => vecBinary w.fp.arith op.toNat f (e va.val j) (e vb.val j))
      ∧ exec (.vectorElementwiseOp n true op vd va vb mk fmt) s
        = done mk.val (fun j => vecBinary w.fp.arith op.toNat f (e va.val j) (scalarElem f (w.s vb.val))))
    ∧ (va.val = 0 → fmtDefined f = true → (isF f || isI f) = true →
      exec (.vectorElementwiseOp n true 13 vd va vb mk fmt) s = done mk.val (fun _ => (scalarElem f (w.s vb.val), 0)))
    ∧ (∀ sub : BitVec 5, fmtDefined f = true → unaryAccepts sub.toNat f = true →
      exec (.vunary n vd va sub mk fmt) s = done mk.val (fun j => vecUnary w.fp.arith sub.toNat f (e va.val j)))
    ∧ (fmtDefined f = true → (isF f || isI f) = true → mk.val ≠ 0 →
      exec (.vmerge n false vd va vb mk fmt) s
        = done 0 (fun j => (if (w.m mk.val).getLsbD j then e va.val j else e vb.val j, 0))
      ∧ exec (.vmerge n true vd va vb mk fmt) s
        = done 0 (fun j => (if (w.m mk.val).getLsbD j then e va.val j else scalarElem f (w.s vb.val), 0)))
    ∧ (∀ op : BitVec 4, fmtDefined f = true → (isF f || isI f) = true → op.toNat < 8 →
      exec (.vfma n op vd va vb mk fmt) s
        = done mk.val (fun j => vecFma w.fp.arith op.toNat f (e va.val j)
            (if 4 ≤ op.toNat then scalarElem f (w.s vb.val) else e vb.val j) (e vd.val j)))
    ∧ (permAccepts f = true →
      exec (.vslidedn n vd va rb mk fmt) s
        = done mk.val (fun j => (if j + (w.s rb.val).toNat < vlmax f then e va.val (j + (w.s rb.val).toNat) else 0, 0))
      ∧ exec (.vslideup n vd va rb mk fmt) s
        = done mk.val (fun j => (if (w.s rb.val).toNat ≤ j then e va.val (j - (w.s rb.val).toNat) else e vd.val j, 0))
      ∧ exec (.vperm n vd va vb mk fmt) s
        = done mk.val (fun j => (if e vb.val j < vlmax f then e va.val (e vb.val j) else 0, 0)))
    ∧ (fmtDefined f = true → isI f = true →
      exec (.vid n vd mk fmt) s = done mk.val (fun j => (j % 2 ^ fmtBits f, 0)))

/-- A compare writes one mask bit for each active element below the count and no other; MLOGIC combines whole masks, and
MPOP and MFIRST count and find the bits below the count (R157). -/
def Obligations.ComparesAndMaskOperations : Prop :=
  ∀ (n : Core) (s : State), s.ready n = true →
    let w := s.core n
    (∀ (op : BitVec 4) (md : MReg) (va vb : VReg) (mk : MReg) (fmt : BitVec 5),
      let f := fmt.toNat
      let cnt := min w.vl (vlmax f)
      let e (r j : Nat) : Nat := vecElem (fmtBits f) (w.v r) j
      let r (j : Nat) : Bool × Flags := vecCompare w.fp.arith (op.toNat % 5) f (e va.val j)
        (if 5 ≤ op.toNat then scalarElem f (w.s vb.val) else e vb.val j)
      op.toNat < 10 → fmtDefined f = true → (isF f || (isI f && op.toNat % 5 != 4)) = true →
      s.readyV n [va.val, vb.val] = true →
      ∃ t : Wrk, exec (.vectorCompare n op md va vb mk fmt) s = .next (s.after ((s.updCore n fun _ => t).retire n))
        ∧ (∀ j < 2048, (t.m md.val).getLsbD j = if j < cnt ∧ w.active mk.val j = true then (r j).1 else (w.m md.val).getLsbD j)
        ∧ (∀ i, i ≠ md.val → t.m i = w.m i)
        ∧ (∀ k < 7, t.flags.getLsbD k = (w.flags.getLsbD k
            || (List.range cnt).any fun j => w.active mk.val j && (r j).2.getLsbD k))
        ∧ t = { w with mregs := t.mregs, flags := t.flags })
    ∧ (∀ (md ma mb : MReg) (sub : BitVec 5),
      sub.toNat < 4 ∨ (sub.toNat = 4 ∧ mb.val = 0) ∨ (sub.toNat < 7 ∧ mb.val = 0 ∧ ma.val = 0) →
      exec (.mlogic n md ma mb sub) s = .next (s.after ((s.updCore n fun w =>
        w.setM md.val (maskOp sub.toNat (w.m ma.val) (w.m mb.val))).retire n)))
    ∧ ∀ (rd : SReg) (ma : MReg) (fmt : BitVec 5), fmtDefined fmt.toNat = true →
      let bits := w.maskBits ma.val fmt.toNat
      (min w.vl (vlmax fmt.toNat) ≠ 0 →
        exec (.mpop n rd ma fmt) s = .next (s.after ((s.setSreg n rd (BitVec.ofNat 64 bits.length)).retire n))
        ∧ exec (.mfirst n rd ma fmt) s = .next (s.after ((s.setSreg n rd
            (if bits = [] then BitVec.allOnes 64 else BitVec.ofNat 64 (bits.headD 0))).retire n)))
      ∧ (min w.vl (vlmax fmt.toNat) = 0 →
        exec (.mpop n rd ma fmt) s = .next (s.after (s.retire n)) ∧ exec (.mfirst n rd ma fmt) s = .next (s.after (s.retire n)))

/-- Reductions and moves between scalar and vector registers: where they put their results, and that a reduction of no
elements writes nothing. VCOMPRESS packs the active elements below the count from element 0 up, and VCVT converts the
count of the wider format's elements; the block formats need a count that fills blocks and otherwise trap VECTOR 1 (R146,
R158 to R161). -/
def Obligations.ReductionsMovesAndConversions : Prop :=
  (∀ (n : Core) (va : VReg) (mk : MReg) (fmt : BitVec 5) (s : State), s.readyV n [va.val] = true →
      let f := fmt.toNat
      let w := s.core n
      let cnt := min w.vl (vlmax f)
      let cs := ((List.range cnt).filter (w.active mk.val)).map (vecElem (fmtBits f) (w.v va.val))
      let done (rd : SReg) (op : Nat) : Host.Outcome State Fault Refusal :=
        .next (s.after (if cnt = 0 then s.retire n else (s.updCore n fun w =>
          (w.setS rd.val (vecReduce w.fp.arith op f cs).1).raise (vecReduce w.fp.arith op f cs).2).retire n))
      ∀ rd : SReg,
        (fmtDefined f = true → (isF f || isI f) = true →
          exec (.vrsum n rd va mk fmt) s = done rd 0 ∧ exec (.vrmax n rd va mk fmt) s = done rd 1
          ∧ exec (.vrmin n rd va mk fmt) s = done rd 2)
        ∧ (∀ op : BitVec 4, fmtDefined f = true → isI f = true → 3 ≤ op.toNat → op.toNat < 6 →
          exec (.vectorBitwiseReduce n op rd va mk fmt) s = done rd op.toNat)
        ∧ (∀ rb : SReg, permAccepts f = true →
          let i := (w.s rb.val).toNat
          exec (.vmvx n rd va rb fmt) s = .next (s.after ((s.updCore n fun w =>
            (w.setS rd.val (if i < vlmax f then extendElem f (vecElem (fmtBits f) (w.v va.val) i) else 0)).raise 0).retire n)))
        ∧ ∀ (ra rb : SReg), permAccepts f = true →
          let i := (w.s rb.val).toNat
          exec (.vmvs n va ra rb fmt) s = .next (s.after ((s.updCore n fun w =>
            if i < vlmax f then w.elements va.val (fmtBits f) (i + 1) (· == i) (fun _ => (scalarElem f (w.s ra.val), 0)) else w).retire n)))
  ∧ ∀ (n : Core) (vd va : VReg) (mk : MReg) (s : State), s.readyV n [vd.val, va.val, va.val + 1, vd.val + 1] = true →
      let w := s.core n
      (∀ fmt : BitVec 5, permAccepts fmt.toNat = true →
        let f := fmt.toNat
        let js := (List.range (min w.vl (vlmax f))).filter (w.active mk.val)
        exec (.vcompress n vd va mk fmt) s = .next (s.after ((s.updCore n fun _ =>
          w.elements vd.val (fmtBits f) js.length (fun _ => true)
            (fun i => (vecElem (fmtBits f) (w.v va.val) (js.getD i 0), 0))).retire n)))
      ∧ ∀ (sfmt dfmt : BitVec 5) (part : BitVec 4),
        let f := sfmt.toNat
        let d := dfmt.toNat
        let vw := min (vlmax f) (vlmax d)
        let blk := fmtBlock f || fmtBlock d
        let cnt := min w.vl vw
        cvtAccepts f d = true → part.toNat < max (vlmax f) (vlmax d) / vw → (blk = true → mk.val = 0) →
        (fmtBlock f = true → va.val % 2 = 0) → (fmtBlock d = true → vd.val % 2 = 0) →
        ((blk = false ∨ cnt % 32 = 0) → cnt ≠ 0 → exec (.vcvt n vd va dfmt mk sfmt part) s
            = .next (s.after ((s.updCore n fun w => w.vcvt vd.val va.val d mk.val f part.toNat vw cnt).retire n)))
        ∧ (blk = true → cnt % 32 ≠ 0 → w.monitor = false → w.matOps = [] → exec (.vcvt n vd va dfmt mk sfmt part) s
            = .next (s.after ((s.endIssue n).updCore n fun w => w.trap false 0x0C 1 (BitVec.ofNat 64 cnt))))

/-- Vector and mask loads from tile memory put the bytes of their elements into the register and leave its others
(R145, R163 to R166). -/
def Obligations.VectorLoadsFromTileMemory : Prop :=
  ∀ (n : Core) (m : Nat) (vd : VReg) (ra : SReg) (mk : MReg) (fmt : BitVec 5) (s : State), s.readyV n [vd.val] = true →
    let f := fmt.toNat
    let w := s.core n
    let load (es : List VElem) (f : Nat) : Host.Outcome State Fault Refusal :=
      .next (s.after ((s.updCore n fun w => w.setV vd.val (sixTop f (es.foldl (fun r e =>
        putBytes r e.off (s.tileElem m e)) (w.v vd.val)))).retire n))
    let fits (es : List VElem) : Prop := es ≠ [] ∧ s.elemsInTile n m es false = true
    let unit := w.elems mk.val f (s.sreg n ra) fun j => BitVec.ofNat 64 (j * fmtBits f / 8)
    (contiguousLegal mk.val f = true → (8 ≤ fmtBits f ∨ min w.vl (vlmax f) % 32 = 0) → fits unit →
      exec (.vld n vd ra mk fmt) s = load unit f)
    ∧ (∀ rb : SReg, fmtDefined f = true → 8 ≤ fmtBits f → fits (s.strided n ra rb mk.val f) →
      exec (.vlds n vd ra rb mk fmt) s = load (s.strided n ra rb mk.val f) f)
    ∧ (∀ vb : VReg, indexedLegal vb.val f = true → fits (s.indexed n ra vb.val mk.val f) →
      s.readyV n (vd.val :: (List.range (indexGroup f)).map (vb.val + ·)) = true →
      exec (.vldx n vd ra vb mk fmt) s = load (s.indexed n ra vb.val mk.val f) f)
    ∧ (fits (wholeElems (s.sreg n ra) 1024) → exec (.vldr n vd ra) s = load (wholeElems (s.sreg n ra) 1024) 0)
    ∧ ∀ md : MReg, fits (wholeElems (s.sreg n ra) 256) →
      exec (.mld n md ra) s = .next (s.after ((s.updCore n fun w => w.setM md.val ((wholeElems (s.sreg n ra) 256).foldl
        (fun r e => putBytes r e.off (s.tileElem m e)) (w.m md.val))).retire n))

/-- Vector and mask stores to tile memory write the bytes of their active elements, and nothing else (R163 to R168). -/
def Obligations.VectorStoresToTileMemory : Prop :=
  ∀ (n : Core) (m : Nat) (vd : VReg) (ra : SReg) (mk : MReg) (fmt : BitVec 5) (s : State), s.readyV n [vd.val] = true →
    (s.core n).partsDone = 0 →
    let f := fmt.toNat
    let w := s.core n
    let store (es : List VElem) (bytes : VElem → List Byte) : Host.Outcome State Fault Refusal :=
      .next (s.after ((es.foldl (fun t e => (storeHalves e.addr (bytes e)).foldl (fun t p =>
        t.tileWrite m (p.1 % 0x40_0000) p.2 false) t) s).retire n))
    let reg (e : VElem) : List Byte := VecReg.bytes (w.v vd.val) e.off e.len
    let fits (es : List VElem) : Prop := s.elemsInTile n m es true = true
    let unit := w.elems mk.val f (s.sreg n ra) fun j => BitVec.ofNat 64 (j * fmtBits f / 8)
    (contiguousLegal mk.val f = true → (8 ≤ fmtBits f ∨ min w.vl (vlmax f) % 32 = 0) → fits unit →
      exec (.vst n vd ra mk fmt) s = store unit reg)
    ∧ (∀ rb : SReg, fmtDefined f = true → 8 ≤ fmtBits f → fits (s.strided n ra rb mk.val f) →
      exec (.vsts n vd ra rb mk fmt) s = store (s.strided n ra rb mk.val f) reg)
    ∧ (∀ vb : VReg, indexedLegal vb.val f = true → fits (s.indexed n ra vb.val mk.val f) →
      s.readyV n (vd.val :: (List.range (indexGroup f)).map (vb.val + ·)) = true →
      exec (.vstx n vd ra vb mk fmt) s = store (s.indexed n ra vb.val mk.val f) reg)
    ∧ (fits (wholeElems (s.sreg n ra) 1024) → exec (.vstr n vd ra) s = store (wholeElems (s.sreg n ra) 1024) reg)
    ∧ ∀ md : MReg, fits (wholeElems (s.sreg n ra) 256) →
      exec (.mst n md ra) s = store (wholeElems (s.sreg n ra) 256)
        (fun e => natToBytes ((w.m md.val).toNat / 2 ^ (8 * e.off)) e.len)

/-! ## Matrix instructions. -/

/-- A matrix instruction whose checks pass and whose queue has room joins the queue, oldest first, with the shape and mode
in force (R187, R197).
The model's choices of log 58 enter. -/
def Obligations.MatrixInstructionsQueue : Prop :=
  ∀ (n : Core) (acc : AccId) (ra rb rc : SReg) (fmt : BitVec 5) (s : State), s.ready n = true →
    let f := fmt.toNat
    let w := s.core n
    let join (pair : Bool) (kind : MatKind) (seeded : Bool) : Host.Outcome State Fault Refusal :=
      .next (s.after ((s.updCore n fun w =>
        { w with mq := w.mq ++ [{ kind, acc := acc.val, pair, rows := w.mrows, cols := w.ncols, md := w.fp, order := w.mseq, done := 0 }],
                 mseq := w.mseq + 1, srseed := if seeded && w.fp.srnd then w.srseed + 1 else w.srseed }).retire n))
    let a := s.sreg n ra
    let b := s.sreg n rb
    w.mq.length < 8 →
    (∀ fb : BitVec 5, (mmaAccepts f fb.toNat && (f != 0 || acc.val % 2 == 0)) = true →
      mmaCheck f fb.toNat a b (s.sreg n rc) w.mrows w.ncols = none →
      exec (.mma n acc fmt fb ra rb rc) s = join (f == 0) (.mma (mmaArgs f fb.toNat a b (s.sreg n rc))) false)
    ∧ (accLegal acc f = true →
      exec (.mzero n acc fmt) s = join (f == 0) .zero false
      ∧ (accMoveCheck (f == 0) a b w.mrows w.ncols = none →
        exec (.maccld n acc fmt ra rb) s = join (f == 0) (.load a.toNat (accPitch (f == 0) b.toNat w.ncols)) false
        ∧ exec (.maccst n acc fmt ra rb) s = join (f == 0) (.store a.toNat (accPitch (f == 0) b.toNat w.ncols)) false))
    ∧ (∀ pair : Bool, convAccepts pair f = true → (fmtBlock f = true ∨ rb.val = 0) → (pair = true → acc.val % 2 = 0) →
      accConvCheck f a b w.mrows w.ncols = none →
      exec (if pair then .maccstcd n acc fmt ra rb else .maccstc n acc fmt ra rb) s
        = join pair (.conv f a.toNat b.toNat) (decide (fmtBits f ≤ 16)))
    ∧ (∀ v : VReg, rowLegal acc f v = true → b.toNat < w.mrows →
      exec (.mrd n acc fmt v rb) s = join (f == 0) (.rowRead v.val b.toNat) false
      ∧ (s.readyV n (rowRegs f v) = true → exec (.mwr n acc fmt v rb) s = join (f == 0) (.rowWrite b.toNat
          ((List.range w.ncols).map fun c => if f == 0 then vecElem 64 (w.v (v.val + c / 128)) (c % 128) else vecElem 32 (w.v v.val) c))
          false))

/-- The engines take the queue in order: the oldest instruction of an engine starts once nothing it depends on is
incomplete, which fixes its completion cycle, and of those that run the one with the first completion cycle has its effect
made; MFENCE waits for all of them, and MSHAPEI sets the shape (R177, R197, R198).
The model's choices of log 58 enter. -/
def Obligations.MatrixEnginesStartAndComplete : Prop :=
  (∀ l : List MatOp, (firstDone l = none ↔ l = []) ∧ ∀ o, firstDone l = some o → o ∈ l ∧ ∀ y ∈ l, o.done ≤ y.done)
  ∧ ∀ (n : Core) (s : State),
    let w := s.core n
    (∀ (e : MEngine) (o : MatOp), s.matRuns n = true → w.mq.find? (fun o => o.engine == e) = some o →
      (w.matOps.any fun y => decide (y.order < o.order) && o.dependsOn y) = false →
      let begin_ := max (max (Tbl.get 0 s.time.ran (n.val / 64)) w.matLast + 1) (if e = .array then w.arrayFree else w.accessFree)
      let x := { o with done := begin_ + o.times.1 + o.times.2 }
      exec (.matrixStart n e) s = .next (s.after (s.updCore n fun w =>
        { w with mq := w.mq.filter fun y => y.order != o.order,
                 arrayRun := if e = .array then w.arrayRun ++ [x] else w.arrayRun,
                 accessRun := if e = .access then w.accessRun ++ [x] else w.accessRun,
                 arrayFree := if e = .array then begin_ + o.times.1 else w.arrayFree,
                 accessFree := if e = .access then begin_ + o.times.1 else w.accessFree })))
    ∧ (∀ (e : MEngine) (o : MatOp), s.matRuns n = true →
      firstDone (if e = .array then w.arrayRun else w.accessRun) = some o →
      exec (.matrixComplete n e) s = .next (s.after ((s.opEffect n o).updCore n fun w =>
        { w with arrayRun := w.arrayRun.filter fun y => y.order != o.order,
                 accessRun := w.accessRun.filter fun y => y.order != o.order, matLast := max w.matLast o.done })))
    ∧ (s.ready n = true →
      exec (.mfence n) s = .next (s.after (if w.matOps = [] then s.retire n else s))
      ∧ ∀ mrowsm1 ncolsm1 : BitVec 8, ncolsm1.toNat < 192 →
        exec (.mshapei n mrowsm1 ncolsm1) s
          = .next (s.after ((s.updCore n fun w => { w with mshape := ncolsm1 ++ mrowsm1 }).retire n)))

/-! ## Tree tables, queries and hit delivery. -/

/-- SWAP makes the staged root current under the next epoch, and is refused with NO_NEXT or FULL without any change; SETNEXT
stages a root (R227). -/
def Obligations.TreeTableOperations : Prop :=
  ∀ (s : State) (p x : Nat) (root xs : W64),
    let t := s.tree p x
    (t.nextValid = true → t.epoch - t.retired ≠ 3 →
      (s.treeSwap p x).1 = 0 ∧ (s.treeSwap p x).2.tree p x
        = { t with curRoot := t.nextRoot, curXs := t.nextXs, epoch := t.epoch + 1, nextValid := false })
    ∧ (t.nextValid = false → s.treeSwap p x = (7, s))
    ∧ (t.nextValid = true → t.epoch - t.retired = 3 → s.treeSwap p x = (8, s))
    ∧ (s.rootOk p root.toNat = false → s.setNext p x root xs = (9, s))
    ∧ (s.rootOk p root.toNat = true → s.xsFits p xs.toNat = false → s.setNext p x root xs = (10, s))
    ∧ (s.rootOk p root.toNat = true → s.xsFits p xs.toNat = true →
      (s.setNext p x root xs).1 = 0
        ∧ (s.setNext p x root xs).2.tree p x = { t with nextRoot := root, nextXs := xs, nextValid := true })
    ∧ ∀ p' x' : Nat, x < 1024 → x' < 1024 → (p' ≠ p ∨ x' ≠ x) →
      (s.treeSwap p x).2.tree p' x' = s.tree p' x' ∧ (s.setNext p x root xs).2.tree p' x' = s.tree p' x'

/-- The tree-table commands: an instruction or the firmware register set sends its operation once, and those of an HK cycle take
effect at its end in ascending order of their requesters; then the instruction ends with the result code in rd, and the
registers show the result. A command written while BUSY is ignored and sets CMD_REJECT (R227 to R231, R261, R262).
The model's choices of log 27 enter. -/
def Obligations.TreeTableCommandsComplete : Prop :=
  (∀ l : List TtOp, (ttOrder l).Perm l ∧ (ttOrder l).Pairwise fun a b => a.unit ≤ b.unit)
  ∧ ∀ s : State,
    (∀ (n : Core) (rd ra rb : SReg), s.ready n = true →
      (∀ (c : Nat) (i : Instr), i ∈ [Instr.ttnext n rd ra rb, .ttswap n rd ra, .ttread n rd ra] → (s.core n).ttRes = some c →
        exec i s = .next (s.after ((((s.updCore n fun w => { w with ttRes := none })).setSreg n rd (BitVec.ofNat 64 c)).retire n)))
      ∧ (∀ i ∈ [Instr.ttnext n rd ra rb, .ttswap n rd ra, .ttread n rd ra], (s.core n).ttRes = none → s.onPart n = none →
        exec i s = .next (s.after ((s.setSreg n rd 11).retire n)))
      ∧ ∀ p : Nat, (s.core n).ttRes = none → s.onPart n = some p → (s.ttOps.any fun o => o.unit == n.val) = false →
        let posts (o : TtOp) : Host.Outcome State Fault Refusal :=
          .next (s.after (({ s with ttOps := s.ttOps ++ [o] } : State).updCore n fun w => { w with issued := true }))
        (s.storesDone n = true →
          exec (.ttnext n rd ra rb) s = posts ⟨n.val, p, field (s.sreg n rd).toNat 9 0, 1, s.sreg n ra, s.sreg n rb⟩
          ∧ exec (.ttswap n rd ra) s = posts ⟨n.val, p, field (s.sreg n ra).toNat 9 0, 2, 0, 0⟩)
        ∧ exec (.ttread n rd ra) s = posts ⟨n.val, p, field (s.sreg n ra).toNat 9 0, 3, 0, 0⟩)
    ∧ (∀ a : Agent, s.mute a = false → s.regCode a .ttCmd true .full = .okay →
      let r := s.ttRegs
      (r.busy = false →
        let posts (op : Nat) : Host.Outcome State Fault Refusal :=
          .next (s.after (State.reply { s with ttRegs := { r with busy := true }, ttOps := s.ttOps ++
            [⟨0x450 + a.hart / 8, r.part, r.entry, op, r.nextRoot, r.nextXs⟩] } .okay 0))
        exec (.ttSetnext a) s = posts 1 ∧ exec (.ttSwap a) s = posts 2 ∧ exec (.ttRead a) s = posts 3)
      ∧ ∀ i ∈ [Instr.ttSetnext a, .ttSwap a, .ttRead a], r.busy = true →
        exec i s = .next (s.after (State.reply { s with ttRegs := { r with cmdReject := true } } .okay 0)))
    ∧ (∀ o : TtOp, s.ttOps = [o] → s.partOn o.part = true →
      let t := s.ttTick
      let x := s.tree o.part o.entry
      let code := if o.op = 1 then (s.setNext o.part o.entry o.root o.xs).1
        else if o.op = 2 then (s.treeSwap o.part o.entry).1 else 0
      t.ttOps = [] ∧ (o.unit < 0x100 → (t.core o.unit).ttRes = some code ∧ t.ttRegs = s.ttRegs
          ∧ (o.op = 3 → (t.core o.unit).tt = x.copy))
        ∧ (0x100 ≤ o.unit → t.wrk = s.wrk ∧ t.ttRegs = { s.ttRegs with
            result := ttResult code, busy := false, copy := if o.op = 3 then x.copy else s.ttRegs.copy })
        ∧ (o.op = 2 → x.nextValid = true → x.epoch - x.retired ≠ 3 → code = 0 ∧ t.tree o.part o.entry =
            { x with curRoot := x.nextRoot, curXs := x.nextXs, epoch := x.epoch + 1, nextValid := false })
        ∧ (o.op = 1 → s.rootOk o.part o.root.toNat = true → s.xsFits o.part o.xs.toNat = true → code = 0 ∧
            t.tree o.part o.entry = { x with nextRoot := o.root, nextXs := o.xs, nextValid := true }))
    ∧ ∀ (p : Part) (x : TreeEntry), ∃ r : Nat,
      exec (.ttRetireAdvance p x) s = .next (s.after (s.updTree p.val x.val fun t => { t with retired := r }))
        ∧ (s.tree p.val x.val).retired ≤ r
        ∧ (∀ e, (s.tree p.val x.val).retired ≤ e → e < r → e < (s.tree p.val x.val).epoch
            ∧ Tbl.get 0 (s.tree p.val x.val).inflight e = 0)
        ∧ (r < (s.tree p.val x.val).retired + 4 → r < (s.tree p.val x.val).epoch →
            Tbl.get 0 (s.tree p.val x.val).inflight r ≠ 0)

/-- The submissions of a ready core whose source range is readable, once no home they need must wait: the record or the source
description is taken or refused, with the code in rd, and QFLUSH fires every bin of the partition (R240, R255, R260, R262).
The model's choices of logs 48 and 73 enter. -/
def Obligations.QuerySubmissionsAnswerTheirCode : Prop :=
  ∀ (n : Core) (rd ra rb : SReg) (p : Nat) (s : State), s.ready n = true →
    let off := s.sreg n ra
    let readable (align len : Nat) : Prop := rangeFault off align len = none ∧ s.badWord n off.toNat len = none
      ∧ s.tileHazard n [(0x800_0000_0000 + 0x40_0000 * n.val + off.toNat, len)] false = false
    let done (t : State) (code : Nat) : Host.Outcome State Fault Refusal :=
      .next (s.after ((t.setSreg n rd (BitVec.ofNat 64 code)).retire n))
    (let len := s.recordLen n off
     let b := (s.tileBytes n off.toNat len).1
     readable 64 len → rangeFault off 64 64 = none →
      (s.onPart n = none → exec (.qsub n rd ra) s = done s 11)
      ∧ ∀ r : Nat × State, s.onPart n = some p → s.submitWait (n.val / 64) p (s.recordsAt n off.toNat 1) = none →
        s.submit n p (b.take 64) (if len = 128 then some (b.drop 64) else none) = some r →
        exec (.qsub n rd ra) s = done r.2 r.1)
    ∧ (let cnt := (s.sreg n rb).toNat
       (∀ r : Nat × Nat × State, 1 ≤ cnt → cnt ≤ 64 → readable 64 (64 * cnt) → s.onPart n = some p →
        s.submitWait (n.val / 64) p (s.recordsAt n off.toNat cnt) = none → s.submitMany n p off.toNat cnt cnt 0 = some r →
        exec (.qsubn n rd ra rb) s = done r.2.2 (r.1 + 256 * r.2.1))
       ∧ (cnt = 0 ∨ 64 < cnt → s.onPart n = some p → exec (.qsubn n rd ra rb) s = done s 512))
    ∧ (readable 128 128 → s.onPart n = some p →
      exec (.qsrc n rd ra) s = (let r := s.submitSource n p (s.tileBytes n off.toNat 128).1
                                done r.2 r.1))
    ∧ (s.onPart n = some p → exec (.qflush n) s = .next (s.after ((s.binFlush (n.val / 64) p).retire n)))

/-- A query is refused with the first code that applies, and an accepted one binds the current root: INFLIGHT of its epoch
rises, its slots are taken and its acceptance is counted. A split that is due takes effect first (R226, R250, R253, R262,
R264).
The model's choices of logs 15, 49 and 73 enter. -/
def Obligations.AcceptedQueriesBindAndTakeRoom : Prop :=
  ∀ (s : State) (n p : Nat) (body : List Byte) (ext : Option (List Byte)),
    let s1 := s.resplitNow (n / 64)
    (parseQuery body ext = none → s.submit n p body ext = some (2, s))
    ∧ (∀ r : Query, parseQuery body ext = some r → s1.queryCode (n / 64) p r ≠ 0 →
      s.submit n p body ext = some (s1.queryCode (n / 64) p r, s))
    ∧ (∀ r : Query, parseQuery body ext = some r → s1.queryCode (n / 64) p r = 0 →
      (s1.saffron (n / 64)).room r.slots = false →
      (s.cfg.safOf (n / 64)).spillRecords < (s1.saffron (n / 64)).spillUsed + r.slots →
      s.submit n p body ext = some (1, s))
    ∧ ∀ (r : Query) (t : State), parseQuery body ext = some r → s1.queryCode (n / 64) p r = 0 →
      s1.acceptQuery (n / 64) p r = .ok t →
      s.submit n p body ext = some (0, t)
        ∧ Tbl.get 0 (t.tree p r.tree).inflight (s.tree p r.tree).epoch
            = Tbl.get 0 (s.tree p r.tree).inflight (s.tree p r.tree).epoch + 1
        ∧ (t.tree p r.tree).curRoot = (s.tree p r.tree).curRoot ∧ (t.tree p r.tree).epoch = (s.tree p r.tree).epoch
        ∧ (t.saffron (n / 64)).warmCount = min ((s1.saffron (n / 64)).warmCount + 1) (2 ^ 20)
        ∧ ((s1.saffron (n / 64)).room r.slots = true →
            (t.saffron (n / 64)).storeUsed = (s.saffron (n / 64)).storeUsed + r.slots)

/-- The events of Saffron: a bin of age 2,048 cycles fires, the end of warm-up or of a window computes the split anew, a
spilled query returns when there is room, and the generator emits its next query; a return and an emission wait for the homes
of what they read, and for a bin that a held partition's queries block (R250, R252 to R254, R256).
The model's choices of logs 15, 49 and 73 enter. -/
def Obligations.SaffronEventsAct : Prop :=
  ∀ (q : Quad) (s : State), s.safRuns q.val = true →
    let f := s.saffron q.val
    (∀ (bin : BinId) (e : QEntry) (rest : List QEntry), (Tbl.get Bin.off f.bins bin.val).qs = e :: rest →
      e.since + 2048 ≤ s.time.core → s.partHeld e.part = false →
      exec (.binAgeFire q bin) s = .next (s.after (s.updSaf q.val fun f =>
        { f with bins := Tbl.set Bin.off f.bins bin.val Bin.off,
                 fire := Tbl.upd [] f.fire e.part (fireAt ⟨s.time.core, bin.val, e :: rest⟩) })))
    ∧ (s.splitDue q.val = true → ∃ g : Saffron,
      exec (.saffronResplit q) s = .next (s.after (s.updSaf q.val fun _ => g))
        ∧ g.warm = false ∧ g.storeUsed = f.storeUsed ∧ g.spill = f.spill ∧ g.gen = f.gen
        ∧ (bitOf (s.cfg.safOf q.val).flags 0 = true → g.share = resplit f.counts ∧ g.counts = [0, 0, 0, 0, 0, 0])
        ∧ (bitOf (s.cfg.safOf q.val).flags 0 = false → g = { f with warm := false }))
    ∧ (∀ (x : Spilled) (rest : List Spilled) (r : Query), f.spill = x :: rest → f.room x.e.slots = true →
      ((s.spillSlots q.val x).findSome? fun a => s.rangeWait a 64 false) = none →
      s.rootWait x.e.part x.e.root.toNat = none →
      let rd := (s.spillSlots q.val x).foldl (fun (v : State × List Byte × Bool) a =>
        let y := v.1.rangeRead a 64
        (y.1, v.2.1 ++ y.2.2.1, v.2.2 || y.2.2.2)) (s, [], false)
      let key := s.queryKey x.e.part x.e.root.toNat r
      rd.2.2 = false → parseQuery (rd.2.1.take 64) (if x.e.slots = 2 then some (rd.2.1.drop 64) else none) = some r →
      r.slots = x.e.slots → groupFits r x.e.xs.toNat = true → f.mayEnter s.partHeld key r.qtype = true →
      let s1 := (rd.1.updSaf q.val fun f =>
        { f with spill := rest, spillUsed := f.spillUsed - x.e.slots }).rootRead x.e.part x.e.root.toNat
      exec (.spillReturn q) s = .next (s.after (s1.updSaf q.val fun f =>
        ({ f with storeUsed := f.storeUsed + x.e.slots } : Saffron).enter s.time.core key (s.partHeld x.e.part)
          { x.e with q := r })))
    ∧ ∀ (g : GenRun) (rest : List GenRun) (t : State), f.gen = g :: rest → s.partHeld g.part = false →
      let r := sourceQuery g.src g.done
      let s1 := s.resplitNow q.val
      (s1.saffron q.val).share.getD r.qtype 0 ≠ 0 → s1.hasTu q.val g.part = true →
      s1.submitWait q.val g.part [r] = none → s1.acceptQuery q.val g.part r = .ok t →
      exec (.generatorEmit q) s = .next (s.after (t.updSaf q.val fun f =>
        { f with gen := if g.done + 1 = g.src.count then rest else { g with done := g.done + 1 } :: rest }))

/-- Saffron dispatches the fire-queue head that fired earliest, of those whose partition is not held and has a free
traversal unit, and frees its store slots (R254). -/
def Obligations.DispatchTakesTheEarliestFiredBin : Prop :=
  ∀ (q : Quad) (s : State), s.safRuns q.val = true →
    let f := s.saffron q.val
    let may (p : Nat) (h : Fired) (m : Nat) : Prop :=
      (∃ rest, (p, h :: rest) ∈ f.fire) ∧ s.partHeld p = false ∧ s.freeTu q.val p = some m
    (∃ p h m, may p h m) →
      ∃ p h m, may p h m
        ∧ (∀ p' h' m', may p' h' m' → h.at_ < h'.at_ ∨ (h.at_ = h'.at_ ∧ h.bin ≤ h'.bin))
        ∧ exec (.binDispatch q) s = .next (s.after ((s.updSaf q.val fun f =>
            { f with fire := Tbl.upd [] f.fire p (·.drop 1), storeUsed := f.storeUsed - (h.qs.map (·.slots)).sum }).updTu m
              fun u => { u with held := u.held ++ [⟨h.bin, h.qs, [], none⟩] }))

/-- A traversal unit ends the queries of its bins one by one, from the lines that its node cache gives or fetches; it forms
packets once a bin's queries have all ended, and writes a waiting packet into its hit ring: the slot's bytes, then TAIL, SEQ and
the ended queries' epochs. A packet whose ring is disabled, or whose core is stopped or off, is discarded (R237, R257 to R259,
R321).
The model's choices of logs 28, 38 and 65 enter. -/
def Obligations.TraversalUnitsEndAndDeliver : Prop :=
  (∀ (r : Cacher) (e : QEntry) (fuel : Nat) (s t : State) (buf buf' : List Fill) (rs : List HitRec),
      State.walkLines r e fuel s buf = .ended t buf' rs →
      rs = runQuery (bufFetch s.cfg e.part buf') e.q e.root.toNat e.xs.toNat
        ∧ ∀ x ∈ rs, ¬(x.kind = 9 ∧ 2 ^ 32 ≤ x.data0))
  ∧ ∀ (m : Tu) (s : State),
    let u := s.trav m.val
    let node : Cacher := .node m
    (s.tuRuns m.val = true →
      (∀ (i k : Nat) (e : QEntry) (rest : List (Nat × Nat × QEntry)), s.tuLost.getLsbD m.val = false → u.waiting.length ≠ 8 →
        (s.cacheOf node).busy = false → (s.cacheOf node).miss = none → u.todo = (i, k, e) :: rest →
        (∀ (t : State) (buf : List Fill) (rs : List HitRec),
          State.walkLines node e walkFuel s (s.cacheOf node).fills = .ended t buf rs →
          (rs.any fun r => r.kind == 9 && r.data0 == 5) = false →
          exec (.queryEnd m) s = .next (s.after ((t.updTu m.val fun u => { u with held := u.held.zipIdx.map fun h =>
            if h.2 = i then { h.1 with recs := Tbl.set [] h.1.recs k rs } else h.1 }).updCache node fun c => { c with fills := [] })))
        ∧ ∀ (t : State) (buf : List Fill) (l : Nat),
          State.walkLines node e walkFuel s (s.cacheOf node).fills = .needs t buf l → s.cacheable (128 * l) = true →
          s.cacheHeld node = false →
          exec (.queryEnd m) s = .next (s.after (t.updCache node fun c => { c with fills := buf, miss := some (l, false) })))
      ∧ exec (.binDeliver m) s = .next (s.after (s.updTu m.val fun u => u.deliver (m.val / 16)))
      ∧ ∀ (h : HeldBin) (rest : List HeldBin), u.held = h :: rest → u.form = [] → h.ended = true → h.packs = none →
        u.waiting.length < 8 →
        let n := 8 - u.waiting.length
        let ps := h.packets (m.val / 16)
        let left := if ps.drop n = [] then rest else { h with packs := some (ps.drop n) } :: rest
        u.deliver (m.val / 16) = { u with waiting := u.waiting ++ ps.take n, held := left })
    ∧ ∀ p : HitPacket, s.coreClock = true → s.tileOff (tuTile m.val) = false →
      let ring := fun (p : HitPacket) => Tbl.get HitRing.off (s.core p.core).rings p.ring
      (u.waiting.find? fun p => s.packetLost p || decide ((ring p).filled + 1 < (ring p).slots)) = some p →
      let s1 := p.binds.foldl State.queryDone (s.updTu m.val fun u => { u with waiting := u.waiting.erase p })
      (s.packetLost p = false →
        exec (.packetWrite m) s = .next (s.after ((s1.tileWrite p.core (4096 * ((ring p).base + (ring p).tail))
          (p.bytes m.val (ring p).seq) false).updCore p.core fun w => { w with rings := Tbl.upd HitRing.off w.rings p.ring fun r =>
            { r with tail := (r.tail + 1) % r.slots, seq := (r.seq + 1) % 2 ^ 32 } })))
      ∧ (s.packetLost p = true →
        exec (.packetWrite m) s = .next (s.after (if s.tileOff p.core then s1 else s1.ringDrop p.core p.ring 1)))

/-! ## Streams, semaphores and barriers. -/

/-- The class 0x1C instructions of a ready core put their code in rd: SSTART runs the block it names on an idle channel and
SREARM holds it as the shadow, a refused one starts nothing; the semaphore and barrier instructions act on their counts and
arrivals, and a wait holds until its condition. A start waits for the core's earlier stores and while its engine holds a
commit's new setting, and one whose completion record is misaligned is an exception (R71 step 4, R284, R295, R296, R300, R301).
The model's choices of logs 47, 59 and 71 enter. -/
def Obligations.StreamInstructionsAnswerTheirCode : Prop :=
  ∀ (n : Core) (rd ra rb : SReg) (s : State), s.ready n = true →
    let done (t : State) (code : Nat) : Host.Outcome State Fault Refusal :=
      .next (s.after ((t.setSreg n rd (BitVec.ofNat 64 code)).retire n))
    let waits : Host.Outcome State Fault Refusal := .next (s.after (s.updCore n fun w => { w with issued := true }))
    let a := (s.sreg n ra).toNat
    let k := a % 16
    let src := chSrc n k
    let whole (off : W64) (align len : Nat) : Prop := rangeFault off align len = none
      ∧ s.tileHazard n [(0x800_0000_0000 + 0x40_0000 * n.val + off.toNat, len)] false = false
    let block (off : W64) (align len : Nat) : Prop :=
      whole off align len ∧ s.recordOff n off.toNat = none ∧ s.appliedUnit (0x100 + n.val) = false
    let ends (i : Instr) (r : Nat × State) : Prop :=
      (r.1 ≠ 0 ∨ s.storesDone n = true → exec i s = done r.2 r.1) ∧ (r.1 = 0 → s.storesDone n = false → exec i s = waits)
    (block (s.sreg n rb) 128 128 →
      let u := s.findBlock n (s.sreg n rb).toNat 128
      (let r := u.sStart n k (s.sreg n rb).toNat
       ends (.sstart n rd ra rb) r ∧ (r.1 ≠ 0 → r.2 = u)
        ∧ (r.1 = 0 → (u.chanOf src).st = .idle ∧ ∃ b, u.readChan n (s.sreg n rb).toNat = some b ∧ progOk b.prog = true
            ∧ u.privChan n k = false ∧ (b.dir ≤ 1 → r.2 = u.updChan src fun c =>
                { c.begin (.prog b) .running with fromShadow := false })))
      ∧ (let r := u.sRearm n k (s.sreg n rb).toNat
         ends (.srearm n rd ra rb) r ∧ (r.1 ≠ 0 → r.2 = u)
          ∧ ((u.chanOf src).st = .idle → r = u.sStart n k (s.sreg n rb).toNat)
          ∧ ((u.chanOf src).st ≠ .idle → r.1 = 0 → ∃ b, r.2 = u.updChan src fun c => { c with shadow := .prog b })))
    ∧ (block (s.sreg n ra) 32 32 →
      ends (.nlarm n rd ra) ((s.findBlock n a 32).nlArm n a))
    ∧ (∀ (i : Instr) (off : W64) (align len : Nat), whole off align len → s.recordOff n off.toNat = none →
      (i ∈ [Instr.sstart n rd ra rb, .srearm n rd ra rb] ∧ off = s.sreg n rb ∧ align = 128 ∧ len = 128)
        ∨ (i = .nlarm n rd ra ∧ off = s.sreg n ra ∧ align = 32 ∧ len = 32) →
      s.appliedUnit (0x100 + n.val) = true → exec i s = waits)
    ∧ (∀ o : Nat, s.recordOff n (s.sreg n rb).toNat = some o → whole (s.sreg n rb) 128 128 → (s.core n).matOps = [] →
      exec (.sstart n rd ra rb) s = .next (s.after (s.except n 6 1 (BitVec.ofNat 64 o)))
        ∧ exec (.srearm n rd ra rb) s = .next (s.after (s.except n 6 1 (BitVec.ofNat 64 o))))
    ∧ (s.privChan n k = true → exec (.sstop n rd ra) s = done s 5)
    ∧ (s.privChan n k = false → s.partOf n = none → exec (.sstop n rd ra) s = done s 6)
    ∧ (s.privChan n k = false → (s.partOf n).isSome = true → exec (.sstop n rd ra) s = done (s.chanStop src) 0)
    ∧ ((s.chanOf src).st = .idle → s.chanStop src = s ∧ exec (.swait n rd ra) s = done s (s.chanOf src).last)
    ∧ ((s.chanOf src).st ≠ .idle → exec (.swait n rd ra) s = .next (s.after s))
    ∧ ((s.partOf n).isSome = true → s.partOf (a % 256) = s.partOf n →
      exec (.sempost n rd ra) s = if s.storesDone n then done (s.semPost (a % 256) (field a 12 8) (bitOf a 13)) 0 else waits)
    ∧ ((s.partOf n).isSome = true → s.partOf (a % 256) ≠ s.partOf n → exec (.sempost n rd ra) s = done s 10)
    ∧ (s.partOf n = none → exec (.sempost n rd ra) s = done s 6 ∧ exec (.bararv n rd ra rb) s = done s 6)
    ∧ (let key := semKey (a % 32) (bitOf a 5)
       let v := Tbl.get 0 (s.core n).sems key
       let took := s.updCore n fun w => { w with sems := Tbl.set 0 w.sems key (v - 1) }
       (0 < v → exec (.semwait n rd ra) s = done took (v - 1) ∧ exec (.semtry n rd ra) s = done took 1)
       ∧ (v = 0 → exec (.semwait n rd ra) s = .next (s.after s) ∧ exec (.semtry n rd ra) s = done s 0))
    ∧ exec (.semrd n rd ra) s = done s (Tbl.get 0 (s.core n).sems (semKey (a % 32) false)
        + 65536 * Tbl.get 0 (s.core n).sems (semKey (a % 32) true))
    ∧ (let x := s.bar (a % 64)
       (x.broken = true → exec (.barwait n rd ra) s = done s (2 ^ 63 + 11))
       ∧ (x.broken = false → exec (.barwait n rd ra) s
          = if x.arrived.getLsbD n then .next (s.after s) else done s x.phase.toNat)
       ∧ ((s.partOf n).isSome = true →
          (x.broken = true → exec (.bararv n rd ra rb) s = done s 11)
          ∧ (x.broken = false → s.barMember n (a % 64) = false → exec (.bararv n rd ra rb) s = done s 12)
          ∧ (x.broken = false → s.barMember n (a % 64) = true → x.arrived.getLsbD n = true →
            exec (.bararv n rd ra rb) s = .next (s.after s))
          ∧ (x.broken = false → s.barMember n (a % 64) = true → x.arrived.getLsbD n = false →
            (s.storesDone n = false → exec (.bararv n rd ra rb) s = waits)
            ∧ (s.storesDone n = true →
              (∀ j < 16, (s.sreg n rb).getLsbD j = true → (s.chanOf (chSrc n j)).st ≠ .running
                ∧ (s.chanOf (chSrc n j)).st ≠ .draining) →
              ∃ t, s.barArrive n (a % 64) = t
                ∧ exec (.bararv n rd ra rb) s = done t (if (t.bar (a % 64)).broken then 11 else 0)
                ∧ ((s.barMark n (a % 64)).gbarOf (a % 64) = none → t = if ((s.barMark n (a % 64)).bar (a % 64)).full
                    then (s.barMark n (a % 64)).barComplete (a % 64) else s.barMark n (a % 64))))))

/-- A stream program's instruction of the channel whose turn it is, the next in round-robin order of those that run: the
register operations and branches, a transfer that starts, the end of a tile, a post, and the faults of an access that fails its
checks; with another instruction there, or for another channel, nothing happens (R270, R272, R273, R275, R279, R287).
The model's choices of log 71 enter. -/
def Obligations.StreamProgramsRun : Prop :=
  ∀ (n : Core) (k : Chan) (s : State) (b : ChanBlock),
    let src : StreamSrc := .chan n k
    let c := s.chanOf src
    let w := c.word b
    let u := simmU w
    let a := (c.a (sas w)).toNat
    let all : List (Nat × Instr) := [(0, .streamHalt n k), (1, .streamArg n k), (2, .streamLi n k), (3, .streamAddi n k),
      (4, .streamAdd n k), (5, .streamSub n k), (6, .streamMul n k), (7, .streamShli n k), (8, .streamAndi n k),
      (9, .streamLdt n k), (10, .streamBnzd n k), (11, .streamBltu n k), (12, .streamXfer n k), (13, .streamXferi n k),
      (14, .streamEmit n k), (15, .streamPost n k)]
    (s.chanRuns n k = true → (∀ j < 16, s.chanRuns n j = true →
        (k.val + 15 * ((s.core n).execLast + 1)) % 16 ≤ (j + 15 * ((s.core n).execLast + 1)) % 16) → s.execTurn n = some k.val)
    ∧ (∀ i ∈ all, s.execTurn n ≠ some k.val ∨ (c.job = .prog b ∧ sop w ≠ i.1) → exec i.2 s = .next (s.after s))
    ∧ (c.job = .prog b → s.execTurn n = some k.val →
    let ran (t : State) : Host.Outcome State Fault Refusal :=
      .next (s.after (t.updCore n fun x => { x with execLast := k.val }))
    let chan (f : Channel → Channel) : Host.Outcome State Fault Refusal := ran (s.updChan src f)
    let set (v : W64) : Host.Outcome State Fault Refusal := chan fun c => { c.setA (sad w) v with pc := c.pc + 1 }
    let go (c : Channel) (taken : Bool) : Channel := { c with pc := if taken then ((c.pc : Int) + simm w).toNat else c.pc + 1 }
    let first (len : Nat) : Option Nat := s.lineCause true (s.partOf n) a (min len (128 - a % 128)) (b.dir == 1)
    let moves (i : Instr) (len : Nat) : Prop :=
      (len = 0 ∨ 4096 < len → exec i s = ran (s.chanFault src 0x0D c.begun a))
      ∧ (1 ≤ len → len ≤ 4096 → ∀ x, first len = some x → exec i s = ran (s.chanFault src x c.begun a))
      ∧ (1 ≤ len → len ≤ 4096 → first len = none → 2 ^ b.slotLog2 < c.cursor + len →
        exec i s = ran (s.chanFault src 0x09 c.begun a))
      ∧ (1 ≤ len → len ≤ 4096 → first len = none → c.cursor + len ≤ 2 ^ b.slotLog2 → exec i s = chan fun c =>
        { c with xfer := some ⟨a, len, c.cursor, 0, c.begun⟩, begun := c.begun + len, cursor := c.cursor + len, pc := c.pc + 1,
                 starts := if c.cursor = 0 then c.starts ++ [c.begun] else c.starts })
    (sop w = 0x0 → c.cursor = 0 → c.tiles = c.closed →
      exec (.streamHalt n k) s = chan fun c => { c with st := .draining })
    ∧ (sop w = 0x0 → exec (.streamHalt n k) s
        = ran ((s.updChan src fun c => { c.close with st := .draining }).tileStep src))
    ∧ (sop w = 0x1 → exec (.streamArg n k) s = set (b.args.getD (u % 8) 0))
    ∧ (sop w = 0x2 → exec (.streamLi n k) s = set (simm64 w))
    ∧ (sop w = 0x3 → exec (.streamAddi n k) s = set (c.a (sas w) + simm64 w))
    ∧ (sop w = 0x4 → exec (.streamAdd n k) s = set (c.a (sas w) + c.a (sat w)))
    ∧ (sop w = 0x5 → exec (.streamSub n k) s = set (c.a (sas w) - c.a (sat w)))
    ∧ (sop w = 0x6 → exec (.streamMul n k) s = set (c.a (sas w) * c.a (sat w)))
    ∧ (sop w = 0x7 → exec (.streamShli n k) s = set (c.a (sas w) <<< (u % 64)))
    ∧ (sop w = 0x8 → exec (.streamAndi n k) s = set (c.a (sas w) &&& simm64 w))
    ∧ (sop w = 0x9 →
      (a % 8 ≠ 0 ∨ 0x40_0000 < a + 8 → exec (.streamLdt n k) s = ran (s.chanFault src 0x0A c.begun a))
      ∧ (a % 8 = 0 → a + 8 ≤ 0x40_0000 → (s.tileBytes n a 8).2 = true → exec (.streamLdt n k) s
        = ran (((s.tileFind n a 8).raise 0x3F (0x100 + n) (0x800_0000_0000 + 0x40_0000 * n + a) 3).chanFault src 0x05 c.begun a))
      ∧ (a % 8 = 0 → a + 8 ≤ 0x40_0000 → (s.tileBytes n a 8).2 = false →
        exec (.streamLdt n k) s = set (BitVec.ofNat 64 (bytesToNat (s.tileBytes n a 8).1))))
    ∧ (sop w = 0xA → exec (.streamBnzd n k) s = chan fun c => go (c.setA (sad w) (c.a (sad w) - 1)) (c.a (sad w) - 1 != 0))
    ∧ (sop w = 0xB → exec (.streamBltu n k) s = chan fun c => go c ((c.a (sas w)).ult (c.a (sat w))))
    ∧ (sop w = 0xC → moves (.streamXfer n k) (c.a (sat w)).toNat)
    ∧ (sop w = 0xD → moves (.streamXferi n k) (u % 8192))
    ∧ (sop w = 0xE → exec (.streamEmit n k) s
        = ran ((s.updChan src fun c => { c.close with pc := c.pc + 1 }).tileStep src))
    ∧ (sop w = 0xE → c.cursor ≠ 0 → c.tiles = c.closed → (∀ r ∈ c.reqs, r.post = none → r.tile ≠ c.tiles) → b.dir ≤ 1 →
      exec (.streamEmit n k) s = ran (((s.updChan src fun c =>
        { c with closed := c.closed + 1, cursor := 0, pc := c.pc + 1 }).updChan src fun c =>
          { c with tiles := c.tiles + 1, starts := c.starts.drop 1,
                   head := if b.dir = 1 then (c.head + 1) % b.slots else c.head,
                   tail := if b.dir = 1 then c.tail else (c.tail + 1) % b.slots }).count (0x100 + n.val) 6))
    ∧ (sop w = 0xF → s.partOf n = none ∨ s.partOf (u % 256) ≠ s.partOf n →
      exec (.streamPost n k) s = ran (s.chanFault src 0x0B c.begun 0))
    ∧ (sop w = 0xF → (s.partOf n).isSome = true → s.partOf (u % 256) = s.partOf n →
      (∀ r ∈ c.reqs, r.post ≠ none) ∧ ∀ t, freeNum (s.engineReqs src) 1024 1280 = some t →
      exec (.streamPost n k) s = ran (((s.updChan src fun c =>
        { c with pc := c.pc + 1, reqs := c.reqs ++
            [⟨t, true, 0, 0, 0, 0, c.begun, [], false, some (u % 256, field u 12 8, bitOf u 13)⟩]
        }).count (0x100 + n.val) 2).count (0x100 + n.val) 3)))

/-- The events of a stream engine: the channel whose turn it is requests a line under a free tag, its answer lands in the tile
memory, a drained channel writes its record and becomes idle, and a multicast stream starts without or sheds a member once its
timer has run out (R275, R277, R278, R283, R291, R293, R299).
The model's choices of logs 25 and 71 enter. -/
def Obligations.StreamEventsAct : Prop :=
  ∀ s : State,
    (∀ (n : Core) (k : Chan) (b : ChanBlock) (x : Xfer),
      let src : StreamSrc := .chan n k
      let c := s.chanOf src
      s.engineRuns src = true → c.st = .running → c.job = .prog b → c.xfer = some x → b.dir = 0 →
      (s.genTurn n ≠ some k.val → exec (.lineRequestIssue src) s = .next (s.after s))
      ∧ (s.genTurn n = some k.val →
      let a := x.addr + x.issued
      let len := min (x.len - x.issued) (128 - a % 128)
      ∀ t : Nat, s.lineCause true (s.partOf n) a len false = none → freeNum (s.engineReqs src) 0 1024 = some t →
      (∀ p, spaceOf a ≠ .peer p) →
      exec (.lineRequestIssue src) s = .next (s.after (((s.updCore n fun y => { y with genLast := k.val }).updChan src fun c =>
        { c with xfer := if x.issued + len = x.len then none else some { x with issued := x.issued + len },
                 reqs := c.reqs ++ [⟨t, false, a, len, b.slot c.closed + x.cursor + x.issued, c.closed, x.off + x.issued, [],
                   false, none⟩]
        }).count (0x100 + n.val) 1))))
    ∧ (∀ (n : Core) (b : NextBlock) (r : LineReq) (t : State) (bytes : List Byte),
      let src : StreamSrc := .next n
      (s.chanOf src).reqs.find? (fun q => q.tag == r.tag) = some r → r.write = false → r.post = none →
      (∀ p, spaceOf r.addr ≠ .peer p) →
      s.busCode r.addr = .okay → s.busRead r.addr r.len = .done t .okay bytes false → (t.chanOf src).st ≠ .aborting →
      (t.chanOf src).job = .next b →
      exec (.lineResponse src r.tag .okay) s = .next (s.after ((t.updChan src fun c =>
        { c with reqs := c.reqs.filter fun q => q.tag != r.tag }).tileWrite n r.dest bytes false)))
    ∧ (∀ (n : Core) (k : Chan) (r : LineReq) (p : Nat × Nat × Bool),
      let src : StreamSrc := .chan n k
      (s.chanOf src).reqs.find? (fun q => q.tag == r.tag) = some r → r.post = some p → s.tileOff p.1 = false →
      (s.chanOf src).st = .aborting →
      exec (.lineResponse src r.tag .okay) s = .next (s.after ((s.semPost p.1 p.2.1 p.2.2).updChan src fun c =>
        { c with reqs := c.reqs.filter fun q => q.tag != r.tag })))
    ∧ (∀ (n : Core) (k : Chan) (b : ChanBlock),
      let src : StreamSrc := .chan n k
      let c := s.chanOf src
      s.engineRuns src = true → c.st = .draining ∨ c.st = .aborting → c.reqs = [] → c.toWrite = [] → c.job = .prog b →
      b.dir ≤ 1 → b.crecEn = true → c.shadow = .none →
      let e := c.fin.getD ⟨0, 0xFF, 0, c.begun, 0, false⟩
      exec (.channelComplete src) s = .next (s.after (((s.tileWrite n b.crecOff (c.record src e false) false).updCore n fun w =>
        { w with stdone := w.stdone ||| BitVec.ofNat 17 (if b.irq then 2 ^ k.val else 0) }).updChan src fun c =>
          { c with st := .idle, last := e.status, xfer := none, toWrite := [] })))
    ∧ (∀ (n : Core) (k : Chan) (b : ChanBlock) (m : McStream),
      let src : StreamSrc := .chan n k
      (s.chanOf src).st = .waitGroup → (s.chanOf src).job = .prog b → b.dir = 2 → (s.group b.group).active = some m →
      m.leader = n.val → m.chan = k.val →
      (s.nocNow < (s.chanOf src).since + (s.core n).stragTimeout →
        exec (.multicastAttachTimeout n k) s = .next (s.after s))
      ∧ ((s.chanOf src).since + (s.core n).stragTimeout ≤ s.nocNow →
        ∃ t, exec (.multicastAttachTimeout n k) s = .next (s.after t)
          ∧ (t.chanOf src).st = .running ∧ (t.group b.group).lastSeq = some m.mseq))
    ∧ ∀ (n r : Core) (k : Chan) (b y : ChanBlock) (m : McStream) (q : Nat × Nat),
      let lead := s.chanOf (.chan n k)
      let x := s.chanOf (chSrc q.1 q.2)
      lead.job = .prog b → s.leads n k b = some m → lead.st = .running → m.recv.filter (fun q => q.1 == r.val) = [q] →
      x.job = .prog y → x.fin = none → lead.cursor = 0 → x.released + min 8 (y.slots - 1) ≤ lead.closed →
      exec (.stragglerDetach n k r) s = .next (s.after (if x.strag < (s.core n).stragTimeout then s
        else (s.updChan (chSrc q.1 q.2) fun c =>
          { c with fin := some ⟨4, 0xFF, 0, lead.begun, 0, false⟩, closed := lead.closed,
                   st := if c.tiles = lead.closed then .draining else c.st }).count (0x100 + n.val) 7))

/-- The commands of a privileged channel or a system DMA engine, by an agent that may write its register: START runs the
descriptor and REARM holds it as the shadow for the owner alone, STOP ends the run for any agent; a start waits while the engine
holds a commit's new setting and for the home of its descriptor; and EN and PART of a barrier change as BAR_CTL says (R71 step 4,
R265, R289, R298, R304, R305).
The model's choices of logs 40 and 47 enter. -/
def Obligations.PrivilegedChannelsAndBarriersObeyTheirRegisters : Prop :=
  ∀ (a : Agent) (s : State), s.mute a = false →
    (∀ (src : StreamSrc), s.regCode a (.chCmd src) true .full = .okay →
      let answered (t : State) (code : Nat) : Host.Outcome State Fault Refusal :=
        .next (s.after ((t.updChan src fun c => { c with result := code }).reply .okay 0))
      let c := s.chanOf src
      exec (.privChannelStop a src) s = answered (s.chanStop src) 0
      ∧ (s.ownerCode a src ≠ 0 → exec (.privChannelStart a src) s = answered s (s.ownerCode a src)
          ∧ exec (.privChannelRearm a src) s = answered s (s.ownerCode a src))
      ∧ (s.ownerCode a src = 0 → c.st ≠ .idle → exec (.privChannelStart a src) s = answered s 1)
      ∧ (s.ownerCode a src = 0 → c.st = .idle → s.appliedUnit src.unit = true →
        ∀ i ∈ [Instr.privChannelStart a src, .privChannelRearm a src], exec i s = .next (s.after (s.reply .okay 0)))
      ∧ ∀ t : State, s.ownerCode a src = 0 → s.appliedUnit src.unit = false →
        (s.readDesc src = .ok (none, t) → c.st = .idle →
          ∀ i ∈ [Instr.privChannelStart a src, .privChannelRearm a src], exec i s = answered t 3)
        ∧ ∀ d : PrivDesc, s.readDesc src = .ok (some d, t) →
          (∀ m p, src.core? = some m → s.partOf m = some p → s.partHeld p = false) →
          (c.st = .idle →
            let u := t.updChan src fun c => { c.begin (.desc d) .running with fromShadow := false }
            exec (.privChannelStart a src) s = answered u 0 ∧ exec (.privChannelRearm a src) s = answered u 0)
          ∧ (c.st ≠ .idle → c.shadow = .none → c.st ≠ .aborting →
            exec (.privChannelRearm a src) s = answered (t.updChan src fun c => { c with shadow := .desc d }) 0))
    ∧ ∀ (b : BarId) (val : W64), s.regCode a (.barCtl b) true .full = .okay →
      let x := s.bar b
      let en := val.getLsbD 0
      ∃ t, exec (.barCtlWrite a b val) s = .next (s.after (t.reply .okay 0)) ∧ t = s.updBar b (fun _ => t.bar b)
        ∧ (t.bar b).en = en ∧ (t.bar b).mem = x.mem ∧ (t.bar b).phase = x.phase
        ∧ (t.bar b).part = (if x.en then x.part else field val.toNat 19 16)
        ∧ (t.bar b).broken = (if x.en && !en then x.broken || x.arrived != 0 else if !x.en && en then false else x.broken)
        ∧ (t.bar b).arrived = (if !x.en && en then 0 else x.arrived)

/-! ## Caches, directories and host coherence. -/

/-- The requests of caches at their home and what comes back: GetS and GetM record the copy and grant it, a node cache holds
lines in S only and allocates none, Upgrade turns a shared copy into a modified one, a store reaches the home slice, a fill ends
the miss that waits for it, and an evicted line goes home (R320, R321, R324, R325, R335 to R338, R351, R352).
The model's choices of logs 10 and 65 enter. -/
def Obligations.CoherenceRequestsGrantAndEvict : Prop :=
  ∀ (r : Cacher) (l : Nat) (s : State),
    let grants (t : State) (st : Mesi) : Prop := ∃ d p, (⟨l, st, d, p, false⟩ : Grant) ∈ (t.cacheOf r).grants
    let n := homeOf s.cfg l
    (s.mayRequest r l = true → s.held r l = none →
      (r.writes = true → s.homeWait l false = none →
        let v := s.l2Serve l none (s.l2Allocates l)
        (s.isPrivate l = true → exec (.gets r l) s = .next (s.after (v.2.grant r l .e v.1)))
        ∧ (∀ w, s.isPrivate l = false → (s.slice n).dirWay l = none → s.dirRoom l = .ok (w, s) →
          exec (.gets r l) s = .next (s.after ((v.2.dirPut l w ⟨l, [], some r.unit, 0, 0⟩).grant r l .e v.1)))
        ∧ (s.isPrivate l = false → (s.dirEnt l).empty = false → (s.dirEnt l).owner = none → r.unit ∉ (s.dirEnt l).sharers →
          ∃ t, exec (.gets r l) s = .next (s.after t) ∧ grants t .s ∧ (t.dirEnt l).owner = none
            ∧ (t.dirEnt l).sharers = r.unit :: (s.dirEnt l).sharers))
      ∧ (∀ w, r.writes = false → s.homeWait l false false = none → (s.slice n).dirWay l = none → s.dirRoom l = .ok (w, s) →
        let v := s.l2Serve l none false
        exec (.gets r l) s = .next (s.after ((v.2.dirPut l w ⟨l, [r.unit], none, 0, 0⟩).grant r l .s v.1)))
      ∧ ∀ t, s.homeWait l false r.writes = some t → exec (.gets r l) s = .next (s.after t))
    ∧ (s.mayRequest r l = true → r.writes = true → s.owns r l = false →
      (s.homeWait l true = none →
        let v := s.l2Serve l none (s.l2Allocates l)
        (s.isPrivate l = true → exec (.getm r l) s = .next (s.after (v.2.grant r l .m v.1)))
        ∧ (∀ w, s.isPrivate l = false → s.dirRoom l = .ok (w, s) →
          ∃ t, exec (.getm r l) s = .next (s.after t) ∧ grants t .m ∧ (t.dirEnt l).sharers = []
            ∧ (t.dirEnt l).owner = some r.unit))
      ∧ (∀ t, s.homeWait l true = some t → exec (.getm r l) s = .next (s.after t))
      ∧ ∀ (m : Core) (x : CLine), r = .l1 m → s.isPrivate l = false → s.held r l = some x → x.st = .s →
        s.homeWait l true false = none →
        ∃ t, exec (.upgrade r l) s = .next (s.after t) ∧ t.held r l = some { x with st := .m })
    ∧ (∀ (u : BitVec 16) (m : BitVec 128) (d : BitVec 1024) (p : Bool), s.cacheable (128 * l) = true →
      s.busCode (128 * l) = .okay →
      (∀ t, s.homeWait l true (m != BitVec.allOnes 128) = some t → exec (.homeWrite u l m d p) s = .next (s.after t))
      ∧ (s.homeWait l true (m != BitVec.allOnes 128) = none → u.toNat ∉ (s.dirEnt l).units →
        exec (.homeWrite u l m d p) s = .next (s.after (s.homeStoreBy u.toNat (128 * l) l m d p none)))
      ∧ ∀ x, (s.slice n).dirWay l = none → s.l2Line l = some x → x.poison = false → (attrOf s.cfg (128 * l)).wpol ≠ 3 →
        s.homeStoreBy u.toNat (128 * l) l m d p none
          = (s.l2Hit l).l2Modify l fun _ => ⟨l, .m, mergeLine x.data m d, p⟩)
    ∧ (∀ (g : Grant) (rest : List Grant) (w : Bool), (s.cacheOf r).grants = g :: rest → (s.cacheOf r).miss = some (g.line, w) →
      ∃ t, exec (.fillComplete r .okay) s = .next (s.after t) ∧ (t.cacheOf r).grants = rest ∧ (t.cacheOf r).miss = none
        ∧ (t.cacheOf r).fills = (s.cacheOf r).fills ++ [⟨g.line, .okay, g.data, g.poison⟩])
    ∧ ∀ (ev : Evicted) (q : Nat), s.isPrivate l = true ∨ r.unit ∈ (s.dirEnt l).units → s.homeStall l = false →
      let out := (s.updCache r fun c => { c with evict := c.evict.erase ev }).dirMap l fun e => e.forget r.unit
      ((s.cacheOf r).evict.find? (fun e => e.line == l && e.dirty == true) = some ev →
        exec (.writeback r ⟨l, q⟩) s = .next (s.after (out.homePut l ev.data ev.poison q)))
      ∧ ((s.cacheOf r).evict.find? (fun e => e.line == l && e.dirty == false) = some ev →
        (out.declines l q = true → exec (.offer r l q) s = .next (s.after (out.count (0x200 + n) 5)))
        ∧ (out.declines l q = false → let out := out.count (0x200 + n) 4
          exec (.offer r l q) s = .next (s.after (if (out.l2Line l).isSome then out.l2SetAge l 1
            else out.l2Install l (out.slice n).open ⟨l, .e, ev.data, ev.poison⟩ 1))))

/-- Host coherence: a served snoop answers with dirty data where there is any, host reads and writes of stacked memory go
through the home slice, at the address that the port's HDM decoder gives, and a back-invalidation of one port's copy ends with
that port's answer or with its timeout (R339, R340, R417, R419).
The model's choices of logs 34, 41 and 65 enter. -/
def Obligations.HostCoherenceIsServedAtHome : Prop :=
  ∀ (h : HostId) (l : Nat) (s : State),
    (s.snoops h l = true →
      let answer (t : State) : Host.Outcome State Fault Refusal := .next (s.after (match s.dirtyOf l with
        | some x => t.replyLine (if x.2 then .poison else .okay) x.1 x.2
        | none => t.reply .okay 0))
      let n := 0x200 + homeOf s.cfg l
      exec (.snpInv h l) s = answer (((s.killCopies l none).l2Drop l true).count n 8)
      ∧ exec (.snpData h l) s = answer (((s.shareOwner l).l2Clean l).count n 8)
      ∧ exec (.snpCur h l) s = answer (s.count n 8))
    ∧ (∀ (x : BitVec 52) (len : Fin 129) (excl : Bool) (d : BitVec 1024) (poison : Bool),
      let base := (s.hostPort h).hdmBase.toNat
      let a := x.toNat - base
      (s.boot.halted = true → exec (.hostMemRead h x len excl) s = .next (s.after (s.reply .perm 0))
        ∧ exec (.hostMemWrite h x len d poison) s = .next (s.after (s.reply .perm 0)))
      ∧ (s.boot.halted = false → s.cxlMem h = true → 0 < len.val → a % 128 + len.val ≤ 128 →
        (x.toNat < base ∨ stackedBytes ≤ a →
          exec (.hostMemRead h x len excl) s = .next (s.after (s.replyLine .poison 0 true))
          ∧ exec (.hostMemWrite h x len d poison) s = .next (s.after (s.replyLine .poison 0 true)))
        ∧ (base ≤ x.toNat → a < stackedBytes → a / 128 = l →
          let served (t : State) (v : Line128 × Bool) : Host.Outcome State Fault Refusal :=
            let t1 := t.replyLine (if v.2 then .poison else .okay) (lineOf (lineSlice v.1 (a % 128) len.val)) v.2
            .next (s.after (if v.2 then t1.raise 0x3F (0x480 + h.val) a 6 else t1))
          let stored := (s.homeStoreBy (0x480 + h.val) a l
            (byteMask (a % 128) len.val) (d <<< (8 * (a % 128))) poison none).reply .okay 0
          (∀ t, s.hostWait h l excl false = some t → exec (.hostMemRead h x len excl) s = .next (s.after t))
          ∧ (s.hostWait h l excl false = none →
            (s.isPrivate l = true → let v := s.l2Serve l none false
              exec (.hostMemRead h x len excl) s = served v.2 v.1)
            ∧ (∀ w, s.isPrivate l = false → s.dirRoom l = .ok (w, s) → let v := s.l2Serve l (s.ownerData l) false
              exec (.hostMemRead h x len excl) s = served
                ((if excl then v.2.killCopies l none else v.2.shareOwner l).hostRecord h l w (if excl then 2 else 1)) v.1))
          ∧ (∀ t, s.hostWait h l true (len.val != 128) = some t → exec (.hostMemWrite h x len d poison) s = .next (s.after t))
          ∧ (s.hostWait h l true (len.val != 128) = none →
            (s.isPrivate l = true → exec (.hostMemWrite h x len d poison) s = .next (s.after stored))
            ∧ (∀ w, s.isPrivate l = false → s.dirRoom l = .ok (w, s) →
              exec (.hostMemWrite h x len d poison) s = .next (s.after (stored.hostRecord h l w 2)))))))
    ∧ (∀ w k : Nat, (s.slice (homeOf s.cfg l)).dirWay l = some w → let e := (s.hostRecord h l w k).dirEnt l
      e.host (1 - h.val) = (s.dirEnt l).host (1 - h.val) ∧ e.host h.val = max k ((s.dirEnt l).host h.val)
        ∧ e.sharers = (s.dirEnt l).sharers ∧ e.owner = (s.dirEnt l).owner)
    ∧ ∀ b : BiWait, (s.slice (homeOf s.cfg l)).bi.find? (fun b => b.h == h.val && b.line == l) = some b →
      let ended (t : State) (kind : Nat) : State := (t.updSlice (homeOf s.cfg l) fun x =>
        { x with bi := x.bi.filter fun b => !(b.line == l && b.h == h.val) }).dirMap l fun e => e.setHost h.val kind
      (s.cxlMem h = true →
        exec (.birsp h l none) s = .next (s.after (ended s (if b.inv then 0 else 1)))
        ∧ ∀ d, exec (.birsp h l (some d)) s = .next (s.after ((ended s (if b.inv then 0 else 1)).homePut l d false 0)))
      ∧ (s.now < b.since + (s.hostPort h).biTimeout * usUnits → exec (.biTimeout h l) s = .next (s.after s))
      ∧ (b.since + (s.hostPort h).biTimeout * usUnits ≤ s.now →
        let lost := if (s.dirEnt l).host h.val = 2 then
          (s.memPut l (s.homeData l).1 true).l2Modify l fun x => { x with poison := true } else s
        exec (.biTimeout h l) s = .next (s.after ((ended lost 0).raise 0x29 (0x480 + h.val) (128 * l) (128 * l))))

/-- The maintenance instructions of a worker core act on the line, or the range's lines, that they name, once the core's
own stores to them have drained and the home serves them; ZERO and INVAL are checked as stores, and a prefetch is dropped
where its checks fail. New way locks drain their ways first, and a cache is empty, with every age 3, when it has invalidated
itself (R326, R327, R329 to R332).
The model's choices of log 56 enter. -/
def Obligations.MaintenanceAndLocksAct : Prop :=
  (∀ (n : Core) (rd ra : SReg) (imm : BitVec 12) (s : State), s.ready n = true →
    let a := s.sreg n ra + imm.signExtend 64
    let l := a.toNat / 128
    let r : Cacher := .l1 n
    let done (t : State) : Host.Outcome State Fault Refusal := .next (s.after (t.retire n))
    (s.sbHas n [l] = false → (s.cacheOf r).busy = false → maintains l = true →
      (s.accFault n a 1 false = none → s.homeStall l = false →
        exec (.clean n ra imm) s = done (s.cleanLine r l))
      ∧ (s.homeWait l true false = none →
        (s.accFault n a 1 false = none → exec (.flush n ra imm) s = done (s.invalLine r l true))
        ∧ (s.accFault n a 1 true = none → exec (.inval n ra imm) s = done (s.invalLine r l false))
        ∧ (∀ t, s.accFault n a 1 true = none → s.zeroLine r l = .ok t → exec (.zero n ra imm) s = done t))
      ∧ (s.lfillWait l = none → s.accFault n a 1 false = none →
        (let x := s.lfillLine l
         exec (.lfill n rd ra imm) s = done (x.2.setSreg n rd (BitVec.ofNat 64 x.1)))))
    ∧ (s.sbHas n [l] = false → maintains l = false →
      (s.accFault n a 1 false = none → exec (.clean n ra imm) s = done s ∧ exec (.flush n ra imm) s = done s
        ∧ exec (.lfill n rd ra imm) s = done (s.setSreg n rd 2))
      ∧ (s.accFault n a 1 true = none → exec (.inval n ra imm) s = done s ∧ exec (.zero n ra imm) s = done s))
    ∧ (∀ w : Bool, let c : Instr := if w then .prefw n ra imm else .pref n ra imm
      ((s.accFault n a 1 w).isSome = true ∨ s.cacheable a.toNat = false → exec c s = done s)
      ∧ ((s.accFault n a 1 w).isSome = false → s.cacheable a.toNat = true → (s.cacheOf r).busy = false →
        exec c s = done (s.prefetch r l w)))
    ∧ (let len := min (s.sreg n rd).toNat 65536
       let rangeOk (store : Bool) : Prop := (∀ p ∈ pagePieces a.toNat len, s.accSub n p.1 p.2 store = none)
         ∧ s.sbHas n (rangeLines a.toNat len) = false
       let ended (t : State) : Host.Outcome State Fault Refusal :=
         done (t.setSreg n rd (t.sreg n rd - BitVec.ofNat 64 len))
       ∀ t : State,
        (rangeOk false → s.maintRange r .clean a.toNat len = .ok t → exec (.cleanR n rd ra imm) s = ended t)
        ∧ (rangeOk false → s.maintRange r .flush a.toNat len = .ok t → exec (.flushR n rd ra imm) s = ended t)
        ∧ (rangeOk true → s.maintRange r .inval a.toNat len = .ok t → exec (.invalR n rd ra imm) s = ended t)))
    ∧ ∀ s : State,
    (∀ (a : Agent) (n : Sys2Proof.Slice) (val : W64), s.mute a = false → s.regCode a (.l2LockWays n.val) true .full = .okay →
      exec (.l2LockWaysWrite a n val) s = .next (s.after ((s.updSlice n.val fun x =>
        x.lockPut (val.setWidth 16) (bitOf val.toNat 17)).reply .okay 0)))
    ∧ (∀ n : Sys2Proof.Slice, (s.slice n.val).lockBusy = true →
      ∃ t, exec (.lockDrainDone n) s = .next (s.after t)
        ∧ (t.slice n.val).locked = (s.slice n.val).lockReq ∧ (t.slice n.val).lockBusy = false
        ∧ (t.slice n.val).lockReq = (s.slice n.val).lockReq
        ∧ ∀ set w : Nat, w < 16 → ((s.slice n.val).lockReq &&& ~~~(s.slice n.val).locked).getLsbD w = true →
          (t.slice n.val).l2.way set w = CLine.off)
    ∧ (∀ n : Core, (s.icacheOf n).busy = true → exec (.cacheInvalidateDone (.icache n)) s
        = .next (s.after (s.updIcache n fun c => { c with busy := false, lines := [], ages := [] })))
    ∧ (∀ n : Core, (s.cacheOf (.l1 n)).busy = true → exec (.cacheInvalidateDone (.l1 n)) s
        = .next (s.after (s.updCache (.l1 n) fun c => { c with busy := false, lines := [], ages := [] })))
    ∧ (∀ m : Tu, (s.cacheOf (.node m)).busy = true → exec (.cacheInvalidateDone (.node m)) s
        = .next (s.after (s.updCache (.node m) fun c => { c with busy := false, lines := [], ages := [] })))
    ∧ (∀ c : Sys2Proof.Clove, (s.cacheOf (.clv c)).busy = true → exec (.cacheInvalidateDone (.clv c)) s
        = .next (s.after (s.updCache (.clv c) fun c => { c with busy := false, lines := [], ages := [] })))
    ∧ ∀ n : Sys2Proof.Slice, (s.slice n.val).l2.busy = true → exec (.cacheInvalidateDone (.l2 n)) s
        = .next (s.after (s.updSlice n.val fun x => { x with l2 := { x.l2 with busy := false, lines := [], ages := [] } }))

/-! ## Vaults. -/

/-- A controller that is open serves its requests: a read delivers the decoded line, to a home slice that waits for it too, writes
keep to their bytes, the patrol scrub moves on in the slots that the budget leaves it, and its refresh slots, temperature frames,
commands and training act on the vault alone (R358 to R375, R561).
The model's choices of logs 11, 36 and 37 enter. -/
def Obligations.VaultCommandsAct : Prop :=
  ∀ (v : Vault) (s : State),
    let x := s.vault v.val
    let u := 0x300 + v.val
    (∀ (l : Nat) (hit : List SymErr), s.vaultTakes v.val l = true →
      let opened := (s.openRow v.val l true).vaultDecode v.val l hit
      let d := opened.2.decodedLine v.val l opened.1
      let read := opened.2.count u 1
      let fetched := if opened.1.isBad then read.vaultPut v.val l d.1 true else read
      exec (.vaultRead v l hit) s = .next (s.after ((fetched.l2Arrive v.val (fetched.vaultLine v.val l) d).replyLine
          (if d.2 then .poison else .okay) d.1 d.2))
      ∧ (∀ (m : BitVec 128) (w : BitVec 1024), m ≠ BitVec.allOnes 128 →
        exec (.vaultPartialWrite v l m w hit) s = .next (s.after
          ((((fetched.vaultPut v.val l (mergeLine d.1 m w) d.2).count u 2).count u 3).reply .okay 0)))
      ∧ ∀ (w : BitVec 1024) (poison : Bool),
        exec (.vaultWrite v l w poison) s
          = .next (s.after ((((s.openRow v.val l false).vaultPut v.val l w poison).count u 2).reply .okay 0))
        ∧ exec (.vaultPartialWrite v l (BitVec.allOnes 128) w hit) s = exec (.vaultWrite v l w false) s)
    ∧ (∀ (l n : Nat) (claimed : Bool), x.scrubLine = l → s.vaultTakes v.val l = true →
      s.marked (vaultLines * v.val + l) = false → Tbl.get [] s.mem.rawErr (vaultLines * v.val + l) = [] →
      s.scrubSlot v.val claimed = some n →
      let moved := ((((s.updVault v.val fun x => { x with charged := (n :: x.charged).take 100 }).openRow v.val l false).updVault
        v.val fun x => if l + 1 < vaultLines then { x with scrubLine := l + 1 }
          else { x with scrubLine := 0, passes := min (x.passes + 1) 0xFFFF }).count u 8)
      exec (.scrubLine v ⟨claimed, []⟩) s = .next (s.after (if claimed
        then (moved.updVault v.val fun x => { x with forcedAt := some (n / 20) }).count u 9 else moved)))
    ∧ (∀ (claimed : Bool) (hit : List SymErr), s.scrubSlot v.val claimed = none →
      exec (.scrubLine v ⟨claimed, hit⟩) s = .next (s.after s))
    ∧ (∀ (n : Nat) (claimed : Bool), s.scrubSlot v.val claimed = some n →
      6 * s.time.hk ≤ n ∧ n < 6 * s.time.hk + 6 ∧ (∀ m ∈ x.charged.head?, m < n)
        ∧ (x.charged.filter fun m => decide (n < m + 1000)).length < s.cfg.budget.vault
        ∧ (claimed = true → 65536 < s.scrubLag v.val ∧ x.forcedAt ≠ some (n / 20)))
    ∧ (x.st = 2 → exec (.refreshSlot v) s = .next (s.after ((s.updVault v.val fun x =>
        if x.bandNext.isSome || decide (x.winStart + bandPeriod x.band ≤ s.now)
        then { x with winStart := s.now, bandNext := none, act := [] } else x).count u 6)))
    ∧ (∀ (t : Tier) (frame : BitVec 16),
      (bitOf frame.toNat 15 = false → exec (.tierTempReport v t frame) s = .next (s.after s))
      ∧ (bitOf frame.toNat 15 = true → exec (.tierTempReport v t frame) s = .next (s.after ((s.updVault v.val fun x =>
          { x with temp := Tbl.set 0 x.temp t.val (field frame.toNat 7 0), tempAt := Tbl.set 0 x.tempAt t.val s.now,
                   stale := Tbl.set false x.stale t.val false }).vaultTemps v.val t.val)))
      ∧ (Tbl.get false x.stale t.val = false → Tbl.get 0 x.tempAt t.val + 600000 ≤ s.now →
        exec (.tierTempTimeout v t) s = .next (s.after ((s.updVault v.val fun x =>
          { x with stale := Tbl.set false x.stale t.val true }).vaultTemps v.val t.val))))
    ∧ (∀ at_ : Nat, x.coolSince = some at_ → at_ + 2000000 ≤ s.now →
      exec (.bandFall v) s = .next (s.after (s.updVault v.val fun x =>
        { x with band := bandOf x.hottest, bandNext := some (bandOf x.hottest), coolSince := none })))
    ∧ (∀ (a : Agent) (val : W64), s.mute a = false → s.regCode a (.vltCmd v.val) true .full = .okay →
      let answered (t : State) (code : Nat) : Host.Outcome State Fault Refusal :=
        .next (s.after ((t.updVault v.val fun x => { x with cmdResult := code }).reply .okay 0))
      let tier := field val.toNat 6 4
      let sl := field val.toNat 11 8
      (x.zeroBusy = true → exec (.markErase a v val) s = answered s 3 ∧ exec (.zeroAll a v) s = answered s 3)
      ∧ (x.zeroBusy = false →
        exec (.zeroAll a v) s
            = .next (s.after ((s.updVault v.val fun x => { x with cmdResult := 0, zeroBusy := true }).reply .okay 0))
        ∧ (8 < sl → exec (.markErase a v val) s = answered s 2)
        ∧ (sl ≤ 8 → Tbl.get 0xF x.erase tier ≠ 0xF → exec (.markErase a v val) s = answered s 1)
        ∧ (sl ≤ 8 → Tbl.get 0xF x.erase tier = 0xF → exec (.markErase a v val) s = answered (s.eraseSlice v.val tier sl) 0)))
    ∧ (x.zeroBusy = true → ∃ t, exec (.zeroAllDone v) s = .next (s.after t) ∧ (t.vault v.val).zeroBusy = false
        ∧ ∀ a : Nat, Tbl.get 0 t.mem.dram a
            = (if 0x6000_0000 * v.val ≤ a ∧ a < 0x6000_0000 * v.val + 0x6000_0000 then 0 else Tbl.get 0 s.mem.dram a))
    ∧ (x.st = 1 →
      (∃ t, exec (.vaultTrainingDone v true) s = .next (s.after t) ∧ (t.vault v.val).st = 3)
      ∧ ∃ t, exec (.vaultTrainingDone v false) s = .next (s.after t) ∧ (t.vault v.val).st = 2 ∧ (t.vault v.val).winStart = s.now
        ∧ ∀ i < 8, Tbl.get 0 (t.vault v.val).tempAt i = s.now)
    ∧ ∀ bank : BankId, exec (.bankRowClose v bank) s
        = .next (s.after (s.updVault v.val fun x => { x with row := Tbl.set 0 x.row bank.val 0 }))

/-! ## Clocks, power, temperature and margin. -/

/-- Operating points, rails, the cap limiter and the power domains: what a staged point, a reading, an evaluation and a
request leave, and that a domain off or on holds reset contents (R466, R467, R472 to R476).
The model's choices of log 39 enter. -/
def Obligations.ClocksRailsAndDomainsAct : Prop :=
  ∀ (a : Agent) (val : W64) (s : State),
    let okay (t : State) : Host.Outcome State Fault Refusal := .next (s.after (t.reply .okay 0))
    (s.mute a = false → s.regCode a .clkStg true .full = .okay →
      (s.commit.active = true →
        exec (.opStageWrite a val) s = okay { s with commit := { s.commit with stageReject := true } })
      ∧ (s.commit.active = false → val.toNat % 4 < s.cfg.op.count → s.nut.usable.getLsbD (val.toNat % 4) = true →
        exec (.opStageWrite a val) s = okay { s with clk := { s.clk with
          stgIndex := val.toNat % 4, stgPend := decide (val.toNat % 4 ≠ s.clk.cur),
          standby := if val.toNat % 4 = s.clk.cur then .stopped else .locking } })
      ∧ (s.commit.active = false → s.cfg.op.count ≤ val.toNat % 4 ∨ s.nut.usable.getLsbD (val.toNat % 4) = false →
        exec (.opStageWrite a val) s = okay s))
    ∧ (s.clk.standby = .locking → s.pins.refclkOk = true →
      exec (.standbyPllLock) s
        = .next (s.after (({ s with clk := { s.clk with standby := .locked } } : State).partApply 0x490)))
    ∧ (let c := s.commit
       c.active = true → 0x491 ∈ c.parts → 0x491 ∉ c.acked → 0x491 ∉ c.withheld → s.now < c.deadline →
       s.boundary 0x491 = true → s.injHit 0x3B 0x491 0 = false →
       exec (.railRiseDone) s = .next (s.after
         { s with commit := { c with acked := c.acked ++ [0x491] },
                  clk := if c.withOp && c.parts.all (c.acked ++ [0x491]).contains then { s.clk with relock := true } else s.clk }))
    ∧ (s.clk.relock = true → ∃ t, exec (.relockEnd) s = .next (s.after t) ∧ t.clk.relock = false
        ∧ t.clk.cur = s.clk.stgIndex ∧ t.clk.mult = (s.cfg.opAt s.clk.stgIndex).mult
        ∧ t.clk.switches = min (s.clk.switches + 1) 0xFFFF ∧ t.clk.standby = .stopped)
    ∧ (∀ (rail : Rail) (v : Nat),
      (s.railGoal rail.val ≠ some v → exec (.avsTransaction rail .write true v) s = .next (s.after s))
      ∧ (s.railGoal rail.val = some v →
        (rail.val = 0 → Tbl.get 0 s.nut.target 0 < v → (s.railGoal 1).getD 0 ≤ Tbl.get 0 s.nut.target 1) →
        (rail.val = 1 → v < Tbl.get 0 s.nut.target 1 → Tbl.get 0 s.nut.target 0 ≤ (s.railGoal 0).getD 0) →
        exec (.avsTransaction rail .write true v) s = .next (s.after (s.updNut fun n =>
          { n with target := Tbl.set 0 n.target rail.val v, avsFails := 0 })))
      ∧ (Tbl.get 0 s.nut.target 0 < v → Tbl.get 0 s.nut.target 1 < (s.railGoal 1).getD 0 →
        exec (.avsTransaction 0 .write true v) s = .next (s.after s))
      ∧ (v < Tbl.get 0 s.nut.target 1 → (s.railGoal 0).getD 0 < Tbl.get 0 s.nut.target 0 →
        exec (.avsTransaction 1 .write true v) s = .next (s.after s))
      ∧ (rail.val ≠ 0 →
        exec (.avsTransaction rail .readMv true v) s = .next (s.after (s.updNut fun n =>
          { n with mv := Tbl.set 0 n.mv rail.val v, avsFails := 0, avsHold := false }))
        ∧ exec (.avsTransaction rail .readAmps true v) s = .next (s.after (s.updNut fun n =>
          { n with amps := Tbl.set 0 n.amps rail.val v, avsFails := 0, avsHold := false })))
      ∧ (∃ t, exec (.avsTransaction 0 .readMv true v) s = .next (s.after t) ∧ Tbl.get 0 t.nut.mv 0 = v ∧ t.nut.avsFails = 0
          ∧ t.nut.avsHold = false ∧ t.nut.protect
            = (s.nut.protect && !decide (2 * (s.setPoints s.clk.cur).getD 0 0 ≤ 2 * v + 5)))
      ∧ (∃ t, exec (.avsTransaction 0 .readAmps true v) s = .next (s.after t) ∧ Tbl.get 0 t.nut.amps 0 = v
          ∧ t.nut.avsFails = 0 ∧ t.nut.avsHold = false ∧ t.nut.iLoad = max s.nut.iLoad v)
      ∧ ∀ cmd : AvsCmd,
        (s.nut.avsFails ≠ 2 → exec (.avsTransaction rail cmd false v) s
          = .next (s.after (s.updNut fun n => { n with avsFails := n.avsFails + 1 })))
        ∧ (s.nut.avsFails = 2 → exec (.avsTransaction rail cmd false v) s = .next (s.after ((s.updNut fun n =>
            { n with avsFails := 3, avsHold := true, event := n.event ||| BitVec.ofNat 7 (2 ^ 6) }).raise 0x35 0x491 0 rail.val))))
    ∧ (∀ mv amps : List Nat, mv.length = 4 → amps.length = 4 →
        (Tbl.get 0 s.nut.polled 1 = s.now / 20000 → exec (.railPoll mv amps) s = .next (s.after s))
        ∧ (Tbl.get 0 s.nut.polled 1 ≠ s.now / 20000 → ∃ t, exec (.railPoll mv amps) s = .next (s.after t)
          ∧ (∀ r < 4, Tbl.get 0 t.nut.mv r = mv.getD r 0 ∧ Tbl.get 0 t.nut.amps r = amps.getD r 0)
          ∧ t.nut.avsFails = 0 ∧ t.nut.avsHold = false ∧ t.nut.iLoad = max s.nut.iLoad (amps.getD 0 0)
          ∧ Tbl.get 0 t.nut.polled 1 = s.now / 20000))
    ∧ (Tbl.get 0 s.nut.polled 0 = s.now / 20000 → exec (.capEvaluation) s = .next (s.after s))
    ∧ (Tbl.get 0 s.nut.polled 0 ≠ s.now / 20000 → let p := s.powerNow
       let ps := (p :: s.nut.power).take 10
       let cap := s.nut.capW * 1000 * ps.length
       let old := s.nut.capLevel
       ∃ t, exec (.capEvaluation) s = .next (s.after t) ∧ t.nut.power = ps ∧ t.nut.energy = s.nut.energy + p
        ∧ t.nut.capLevel = (if cap < ps.sum then min (old + 1) 7 else if 100 * ps.sum < 97 * cap then old - 1 else old)
        ∧ (t.nut.capLevel < 7 → t.nut.capSince = none) ∧ Tbl.get 0 t.nut.polled 0 = s.now / 20000)
    ∧ (∀ at_ : Nat, s.nut.capSince = some at_ → at_ + 2000000 ≤ s.now → s.nut.capLevel = 7 →
      exec (.capSustained) s = .next (s.after ((s.updNut fun n => { n with
        capSince := none, event := n.event ||| BitVec.ofNat 7 (2 ^ 3) }).raise 0x37 0x491 0 0)))
    ∧ (s.mute a = false → s.regCode a .nutCap true .full = .okay → exec (.capWrite a val) s
        = okay (if 1000 ≤ val.toNat % 4096 ∧ val.toNat % 4096 ≤ 2400
                then s.updNut fun n => { n with capW := val.toNat % 4096 } else s))
    ∧ (∀ j : Fin 4, s.mute a = false → s.regCode a (.pdReq j.val) true .full = .okay →
      exec (.pdReqWrite a (.tiles j) val) s = okay (s.pdTiles j.val val))
    ∧ (s.mute a = false → s.regCode a .pdClove true .full = .okay → exec (.pdReqWrite a .clove val) s = okay (s.pdClove val))
    ∧ (∀ n : Core,
      (s.nut.pdReq.getLsbD n.val = true → s.nut.pdState.getLsbD n.val = false →
        ∃ t, exec (.domainOffDone (.tile n)) s = .next (s.after t) ∧ t.nut.pdState.getLsbD n.val = true
          ∧ t.core n.val = { Wrk.off with fpdefault := (t.core n.val).fpdefault }
          ∧ t.cacheOf (.l1 n) = { Cache.off with dis := (s.cacheOf (.l1 n)).dis, busy := false }
          ∧ ∀ o < 0x40_0000, Tbl.get 0 t.mem.tile (0x40_0000 * n.val + o) = 0)
      ∧ (s.nut.pdReq.getLsbD n.val = false → s.nut.pdState.getLsbD n.val = true →
        exec (.domainOnDone (.tile n)) s = .next (s.after ((s.tileReset n.val).updNut fun x =>
          { x with pdState := x.pdState &&& ~~~(BitVec.ofNat 256 (2 ^ n.val)) }))))
    ∧ (∀ c : Sys2Proof.Clove, s.nut.clvReq.getLsbD c.val = false → s.nut.clvState.getLsbD c.val = true →
        exec (.domainOnDone (.clove c)) s = .next (s.after ((s.clvReset c.val).updNut fun x =>
          { x with clvState := x.clvState &&& ~~~(BitVec.ofNat 8 (2 ^ c.val)) })))
    ∧ ∀ c : Sys2Proof.Clove, s.nut.clvReq.getLsbD c.val = true → s.nut.clvState.getLsbD c.val = false →
      ∃ t, exec (.domainOffDone (.clove c)) s = .next (s.after t) ∧ t.nut.clvState.getLsbD c.val = true
        ∧ t.cacheOf (.clv c) = { Cache.off with dis := (s.cacheOf (.clv c)).dis, busy := false }

/-- Temperature, margin planning and droop: the thresholds of a thermal sample, a plan's ageing, the hold of a droop trip and
the guard-band and calibration it leads to (R477 to R487).
The model's choices of logs 21 and 46 enter. -/
def Obligations.ThermalMarginAndDroopRulesAct : Prop :=
  ∀ s : State,
    (∀ die spine : List Nat, Tbl.get 0 s.nut.polled 2 = s.now / 2000 → exec (.thermalSample die spine) s = .next (s.after s))
    ∧ (∀ die spine : List Nat, Tbl.get 0 s.nut.polled 2 ≠ s.now / 2000 →
      let hot := (die.take 64 ++ spine.take 4).foldl max 0
      ∃ t, exec (.thermalSample die spine) s = .next (s.after t) ∧ t.nut.tDie = hot
        ∧ t.nut.warn = decide (s.nut.warnT ≤ hot)
        ∧ t.nut.hot90 = (if 90 ≤ hot then true else if hot < 88 then false else s.nut.hot90)
        ∧ (95 ≤ hot → t.nut.trip = true ∧ t.nut.event.getLsbD 1 = true) ∧ (hot < 95 → t.nut.trip = s.nut.trip)
        ∧ (105 ≤ hot → t.pins.critOut = true) ∧ (s.nut.warnT ≤ hot → t.pins.alertOut = true))
    ∧ (∀ a b : Nat, s.nut.trip = true → s.nut.coolSince = some a → s.nut.tierCoolSince = some b → a + 200000 ≤ s.now →
      b + 200000 ≤ s.now → ∃ t, exec (.tripRelease) s = .next (s.after t) ∧ t.nut.trip = false ∧ t.nut.tierHot = false)
    ∧ (∀ a : Agent, s.mute a = false → s.regCode a .nutCmd true .full = .okay → exec (.plan a) s
        = .next (s.after (s.planAsk.reply .okay 0)))
    ∧ (s.nut.planRunning = false → s.nut.planAgain = false → s.appliedUnit 0x491 = false → s.planDue = true →
      exec (.planTrigger) s = .next (s.after (s.updNut fun n => { n with planRunning := true, planHk := s.time.hk + 1 })))
    ∧ (∀ shift : List Int, s.nut.planRunning = true →
      let age (m : Nat) : Nat := max (Tbl.get 0 s.nut.age m) (shift.getD m 0).toNat
      let worst := (List.range 268).foldl (fun a m => max a (age m)) 0
      ∃ t, exec (.planDone shift) s = .next (s.after t) ∧ t.nut.planRunning = s.nut.planAgain ∧ t.nut.lastPlan = s.now
        ∧ t.nut.tPlan = s.nut.tDie ∧ t.boot.planDone = true ∧ (∀ m < 268, Tbl.get 0 t.nut.age m = age m)
        ∧ t.nut.ageNow = (if s.commit.active then s.nut.ageNow else t.nut.gAge)
        ∧ ∀ i < 4, Tbl.get 0 t.nut.gAge i
            = (Tbl.get 0 s.fuse.sens i * worst + Tbl.get 0 s.fuse.tdrift i * 10 + 4999) / 5000 * 5)
    ∧ (∀ (x : Tu) (halfMv : Nat), halfMv < 2 * ((s.setPoints s.clk.cur).getD 0 0 - s.nut.droopTrip) →
      exec (.droopTrip x halfMv) s = .next (s.after ((s.updNut fun n =>
        { n with droopHold := Tbl.set false n.droopHold (x.val / 16) true,
                 droopEnd := Tbl.set 0 n.droopEnd (x.val / 16) (s.time.core + 66) }).raise 0x33 0x491 0 x.val)))
    ∧ (∀ q : Quad, exec (.droopHoldExpiry q) s = .next (s.after (if Tbl.get 0 s.nut.droopEnd q.val ≤ s.time.core
        then s.updNut fun n => { n with droopHold := Tbl.set false n.droopHold q.val false } else s)))
    ∧ (let d := s.dcalOf s.clk.cur
       ∀ i : Nat,
        (d.present = true → 5 * d.i < 4 * i → s.nut.staticGb = false →
          ∃ t, exec (.droopValidityLoss i) s = .next (s.after t) ∧ t.nut.staticGb = true ∧ t.nut.protect = true
            ∧ t.nut.lossAt = some s.now ∧ t.nut.iLoad = i)
        ∧ (∀ ok : Nat, s.nut.staticGb = true → d.present = true → 4 * i ≤ 5 * d.i → s.nut.okSince = some ok →
          max ok d.made + 2000000 ≤ s.now →
          ∃ t, exec (.staticGbRelease i) s = .next (s.after t) ∧ t.nut.staticGb = false ∧ t.nut.iLoad = i)
        ∧ (s.nut.burst = none → s.coreClock = true → s.appliedUnit 0x491 = false → s.burstDue i = true →
          ∃ t, exec (.calibrationBurstStart i) s = .next (s.after t) ∧ t.nut.burst = some (s.now, false)
            ∧ t.nut.lossAt = none ∧ t.nut.staticGb = true)
        ∧ ∀ (at_ drop : Nat) (byPlan : Bool), s.nut.burst = some (at_, byPlan) → at_ + 200000 ≤ s.now →
          (byPlan = false → ∃ t, exec (.calibrationBurstEnd drop i) s = .next (s.after t) ∧ t.nut.burst = none
            ∧ t.dcalOf s.clk.cur = ⟨true, min 45 (ceil5 (drop + 10)), i, s.now⟩)
          ∧ (byPlan = true → d.present = true → i < d.i → s.now ≤ d.made + 2592000 * 200000000 →
            ∃ t, exec (.calibrationBurstEnd drop i) s = .next (s.after t) ∧ t.nut.burst = none ∧ t.nut.dcal = s.nut.dcal))
    ∧ ∀ at_ : Nat, s.nut.lossAt = some at_ → at_ + 2000000000 ≤ s.now →
      exec (.calibrationBurstCancel) s = .next (s.after (s.updNut fun n => { n with lossAt := none }))

/-! ## Clove threads. -/

/-- The instructions of a ready Clove thread: results go to rd, accesses reach the Clove memories, branches and jumps go where
they say, BREAK traps, RETT returns, WFI waits for an enabled interrupt, and a due interrupt is taken at a boundary (R377 to
R387).
The model's choices of logs 33 and 51 enter. -/
def Obligations.CloveInstructionsAct : Prop :=
  ∀ (h : Thread) (s : State),
    let t := s.thread h
    (s.readyT h = true →
      let done (u : State) : Host.Outcome State Fault Refusal := .next (s.after (u.retireT h))
      ∀ (rd ra rb : GReg),
        let put (v : W64) : Host.Outcome State Fault Refusal := done (s.setG h rd.val v)
        let a := s.greg h ra
        let b := s.greg h rb
        let illegal (word : W64) : Host.Outcome State Fault Refusal :=
          .next (s.after ((s.endClv h).updThr h fun t => t.trapTo false 1 0 word))
        (∀ (top : BitVec 4) (fn : BitVec 12) (v : W64), let imm : BitVec 16 := top ++ fn
          (imm.toNat ≤ 0x13 → (intOpUnary imm.toNat = true → rb.val = 0) → intOp imm.toNat a b = some v →
            exec (.clvIntOp h 1 rd ra rb top fn) s = put v)
          ∧ (imm.toNat ≤ 0x0F → mulDiv imm.toNat a b = some v → exec (.clvIntOp h 2 rd ra rb top fn) s = put v)
          ∧ (∀ code : Nat, rb.val ≠ 9 → clvImmCode rb.val = some code →
            (code ∈ [0x07, 0x08, 0x09, 0x0A] → imm.toNat < 64) → intOp code a (imm.signExtend 64) = some v →
            exec (.clvIntOp h 3 rd ra rb top fn) s = put v))
        ∧ (t.trap = false → ∀ (top : BitVec 4) (fn : BitVec 12), let imm : BitVec 16 := top ++ fn
          (0x13 < imm.toNat ∨ (intOpUnary imm.toNat = true ∧ rb.val ≠ 0) →
            exec (.clvIntOp h 1 rd ra rb top fn) s = illegal (gImmWord 1 rd.val ra.val rb.val imm))
          ∧ (0x0F < imm.toNat → exec (.clvIntOp h 2 rd ra rb top fn) s = illegal (gImmWord 2 rd.val ra.val rb.val imm))
          ∧ (rb.val ≠ 9 → (clvImmCode rb.val = none ∨ (rb.val ∈ [4, 5, 6, 10] ∧ 64 ≤ imm.toNat)) →
            exec (.clvIntOp h 3 rd ra rb top fn) s = illegal (gImmWord 3 rd.val ra.val rb.val imm))
          ∧ ∀ cls : BitVec 4, cls ≠ 1 → cls ≠ 2 → (cls = 3 → rb.val = 9) → decodeClove h (cloveWordOf cls rd ra rb imm) = none →
            exec (.clvIntOp h cls rd ra rb top fn) s = illegal (gImmWord cls.toNat rd.val ra.val rb.val imm))
        ∧ (∀ imm : BitVec 16, exec (.lih h rd imm) s = put (imm.signExtend 64 <<< 16))
        ∧ (∀ (fn : BitVec 4) (imm : BitVec 16) (tcm : Bool) (off : Nat),
          let at_ := a + imm.signExtend 64
          let len := sizeBytes fn.toNat
          clvHalves at_ len = [(at_.toNat, len)] →
          clvMem at_.toNat = some (if tcm then some (h.val / 8) else none, off) →
          (fn.toNat < 7 → s.clvFault h at_ len false = none → (s.clvBytes tcm off len).2 = false →
            exec (.clvLoad h rd ra fn imm) s = put (loadValue fn.toNat (s.clvBytes tcm off len).1))
          ∧ (fn.toNat ∈ [0, 2, 4, 6] → s.clvFault h at_ len true = none → t.partsDone = 0 →
            exec (.clvStore h rd ra fn imm) s
              = done ((s.clvPut tcm off (natToBytes (s.greg h rd).toNat len)).updThr h fun t =>
                  { t with partsDone := t.partsDone + 1 })))
        ∧ (∀ (fn : BitVec 12) (w off : Nat), atomicSize fn = some w → fn.toNat < 1024 → a.toNat % w = 0 →
          s.clvFault h a w true = none → clvMem a.toNat = some (none, off) → (s.clvBytes false off w).2 = false →
          let old := BitVec.ofNat 64 (bytesToNat (s.clvBytes false off w).1)
          exec (.clvAtomic h rd ra rb fn) s
            = done ((match atomicNew (field fn.toNat 4 0) w old b (s.greg h rd) with
                | some (some v) => s.clvPut false off (natToBytes v.toNat w)
                | _ => s).setG h rd.val (atomicOld w old)))
        ∧ (∀ (cond : BitVec 3) (off : BitVec 16) (taken : Bool), branchCond cond.toNat a b = some taken →
          exec (.clvBranch h ra rb cond off) s
            = .next (s.after (if taken then s.retireToT h (t.pc + 4 * off.signExtend 64) else s.retireT h)))
        ∧ (∀ off : BitVec 24, exec (.clvJl h rd off) s
            = .next (s.after ((s.setG h rd.val (t.pc + 4)).retireToT h (t.pc + 4 * off.signExtend 64))))
        ∧ (∀ imm : BitVec 16, exec (.clvJlr h rd ra 0 imm) s
            = .next (s.after ((s.setG h rd.val (t.pc + 4)).retireToT h ((a + imm.signExtend 64) &&& ~~~3))))
        ∧ exec (.clvFence h) s = done s
        ∧ (∀ (num : BitVec 12) (v : W64), s.tcRead h num.toNat = some v → exec (.trd h rd num) s = put v)
        ∧ (∀ (num : BitVec 12) (x : Thr), t.tcWrite num.toNat a = some x →
          exec (.twr h ra num) s = done (s.updThr h fun _ => x))
        ∧ exec (.rett h) s
            = .next (s.after ((s.updThr h fun t => { t with ie := t.pie, trap := false }).retireToT h t.epc))
        ∧ exec (.clvWfi h) s = (if s.tcOn h ≠ 0 then done s
            else .next (s.after (s.updThr h fun t => { t with run := .waitInt })))
        ∧ (t.trap = false → exec (.clvBreak h) s
            = .next (s.after ((s.endClv h).updThr h fun t => t.trapTo false 0x0A 0 t.pc)))
        ∧ (t.fixed = false →
          (∀ (fn : BitVec 5) (op : Maint) (u : State), fn.toNat < 4 → rd.val = 0 → maintCode fn.toNat = some (op, false) →
            s.clvFault h a 1 op.store = none → s.maintOne (clvCacher h) op (a.toNat / 128) = .ok u →
            exec (.cmo h rd ra fn) s = done u)
          ∧ (∀ (fn : BitVec 5) (op : Maint) (u : State), maintCode fn.toNat = some (op, true) →
            let len := min (s.greg h rd).toNat 65536
            (∀ p ∈ pagePieces a.toNat len, s.clvSub h p.1 op.store = none) →
            s.maintRange (clvCacher h) op a.toNat len = .ok u →
            exec (.cmo h rd ra fn) s = done (u.setG h rd.val (u.greg h rd - BitVec.ofNat 64 len)))
          ∧ (∀ w : Bool, rd.val = 0 → let fn : BitVec 5 := if w then 5 else 4
            ((s.clvFault h a 1 w).isSome = true ∨ s.cacheable a.toNat = false → exec (.cmo h rd ra fn) s = done s)
            ∧ ((s.clvFault h a 1 w).isSome = false → s.cacheable a.toNat = true → (s.cacheOf (clvCacher h)).busy = false →
              exec (.cmo h rd ra fn) s = done (s.prefetch (clvCacher h) (a.toNat / 128) w)))
          ∧ (∀ x : Nat × State, s.clvFault h a 1 false = none → s.maintLock (clvCacher h) (a.toNat / 128) = .ok x →
            exec (.cmo h rd ra 6) s = done (x.2.setG h rd.val (BitVec.ofNat 64 x.1))))
        ∧ (t.fixed = true → t.trap = false → ∀ fn : BitVec 5, fn.toNat < 6 → rd.val = 0 →
          exec (.cmo h rd ra fn) s = .next (s.after ((s.endClv h).updThr h fun t => t.trapTo false 4 6 a))))
    ∧ (t.run = .waitInt → s.clvRuns h = true → s.tcOn h ≠ 0 →
      exec (.clvWfi h) s = .next (s.after ((s.updThr h fun t => { t with run := .running, pc := t.pc + 4 }).count (clvUnit h) 1)))
    ∧ (∀ k : Nat, s.clvRuns h = true → t.run = .running → t.issued = false → s.tcDue h = some k →
      exec (.clvTrap h) s = .next (s.after ((s.updThr h fun t => t.trapTo true k 0 0).count (clvUnit h) 4)))
    ∧ ∀ (x : Thr) (intr : Bool) (code sub : Nat) (info : W64),
      let y := x.trapTo intr code sub info
      y.epc = x.pc ∧ y.tval = info ∧ y.pie = x.ie ∧ y.ie = false ∧ y.trap = true ∧ y.pc = x.vec >>> 8 <<< 8
        ∧ y.cause = BitVec.ofNat 64 ((if intr then 2 ^ 63 else 0) + 256 * sub + code) ∧ y.g = x.g ∧ y.task = x.task

/-! ## The task scheduler. -/

/-- The scheduler instructions of a ready thread: tick processing and matching go first, then the op acts on the task it
names or holds, and its result goes to rd; an op on a held task without one answers NO_TASK (R395 to R406).
The model's choices of log 50 enter. -/
def Obligations.SchedulerInstructionsAct : Prop :=
  ∀ (h : Thread) (rd ra rb : GReg) (s : State), s.readyT h = true →
    let c := s.schedSync
    let ended (u : State) : Host.Outcome State Fault Refusal := .next (s.after (u.retireT h))
    let done (u : State) : Host.Outcome State Fault Refusal := ended (u.setG h rd.val 0)
    let reg (r : GReg) : Nat := (c.greg h r).toNat
    (rd.val % 2 = 0 → (c.thread h).task = none →
      (∀ x, c.sched.order.find? (c.eligible h) = some x → exec (.gettask h rd ra) s = .next (s.after (c.give h rd.val x)))
      ∧ (c.sched.order.find? (c.eligible h) = none →
        exec (.gettask h rd ra) s = (if (c.greg h ra).getLsbD 0 then ended (c.refuse h rd.val 0 8 .none true)
          else .next (s.after (((c.updThr h fun t => { t with run := .waitTask rd.val }).updSched fun d =>
            { d with waiters := d.waiters ++ [h.val] }).anise 12 h .none 0)))))
    ∧ (∀ x : Nat, (c.thread h).task = some x →
      let k := c.task x
      let left := c.release h
      (rd.val % 2 = 0 → exec (.gettask h rd ra) s = ended (c.refuse h rd.val 0 5 (c.aniseTask x) true))
      ∧ (let u := if k.wakePend then (left.updTask x fun k => { k with wakePend := false }).makeReady x 0
           else left.updTask x fun k => { k with st := .dormant }
         exec (.tend h rd) s = done ((u.anise 3 h { u.aniseTask x with flow := k.flowByte } 0).flowComplete x 0 false))
      ∧ (reg ra < 2 ^ 24 → k.wakePend = true →
        (let u := (left.updTask x fun k => { k with wakePend := false }).makeReady x 0
         exec (.tblock h rd ra) s = done (u.anise 4 h (u.aniseTask x) 0)))
      ∧ (reg ra = 0 → k.wakePend = false →
        (let u := left.updTask x fun k => { k with st := .blocked }
         exec (.tblock h rd ra) s = done (u.anise 4 h (u.aniseTask x) 0)))
      ∧ (0 < reg ra → reg ra < 2 ^ 24 → k.wakePend = false →
        (let u := (left.updTask x fun k => { k with st := .blocked }).enterTime x (reg ra) true
         exec (.tblock h rd ra) s = done (u.anise 4 h (u.aniseTask x) ((c.sched.tick + reg ra) % 2 ^ 32))))
      ∧ (0 < reg ra → reg ra < 2 ^ 24 →
        (let u := (left.updTask x fun k => { k with st := .delayed }).enterTime x (reg ra) false
         exec (.tdelay h rd ra) s = done (u.anise 5 h (u.aniseTask x) ((c.sched.tick + reg ra) % 2 ^ 32))))
      ∧ (let u := (left.updTask x fun k => { k with wakePend := false }).makeReady x 3
         exec (.tyield h rd) s = done (u.anise 8 h (u.aniseTask x) 0))
      ∧ (k.flow = none → exec (.flowdone h rd ra) s = ended (c.refuse h rd.val 8 10 (c.aniseTask x) false))
      ∧ ∀ f, k.flow = some f →
        (let u := left.updTask x fun k => { k with st := .dormant, wakePend := false }
         exec (.flowdone h rd ra) s
          = done ((u.anise 3 h { u.aniseTask x with flow := k.flowByte } (reg ra % 2 ^ 32)).flowComplete x (c.greg h ra) false)))
    ∧ ((c.thread h).task = none →
      let none_ (op : Nat) : Host.Outcome State Fault Refusal := ended (c.refuse h rd.val op 4 .none false)
      exec (.tend h rd) s = none_ 2 ∧ exec (.tyield h rd) s = none_ 5 ∧ exec (.flowdone h rd ra) s = none_ 8
        ∧ (reg ra < 2 ^ 24 → exec (.tblock h rd ra) s = none_ 3)
        ∧ (0 < reg ra → reg ra < 2 ^ 24 → exec (.tdelay h rd ra) s = none_ 4))
    ∧ (2 ^ 24 ≤ reg ra → exec (.tblock h rd ra) s = ended (c.refuse h rd.val 3 2 .none false))
    ∧ (reg ra = 0 ∨ 2 ^ 24 ≤ reg ra → exec (.tdelay h rd ra) s = ended (c.refuse h rd.val 4 2 .none false))
    ∧ (256 ≤ reg ra → exec (.tready h rd ra) s = ended (c.refuse h rd.val 1 2 .none false)
        ∧ exec (.tprio h rd ra rb) s = ended (c.refuse h rd.val 6 2 .none false)
        ∧ exec (.flowput h rd ra rb) s = ended (c.refuse h rd.val 7 2 .none false))
    ∧ (rd.val % 2 = 1 → (s.thread h).trap = false →
      let illegal (op ra : Nat) : Host.Outcome State Fault Refusal := .next (s.after ((s.endClv h).updThr h fun t =>
        t.trapTo false 1 0 (gRegWord 0xB rd.val ra 0 (BitVec.ofNat 12 op))))
      exec (.gettask h rd ra) s = illegal 0 ra.val ∧ exec (.flowtake h rd ra) s = illegal 9 ra.val)
    ∧ (∀ x : Nat, reg ra = x → x < 256 →
      ((c.task x).st = .ready → exec (.tready h rd ra) s = ended (c.refuse h rd.val 1 1 (c.aniseTask x) false))
      ∧ ((c.task x).st = .running →
        (let u := c.updTask x fun k => { k with wakePend := true }
         exec (.tready h rd ra) s = done (u.anise 1 h (u.aniseTask x) ((c.task x).arg.toNat % 2 ^ 32))))
      ∧ ((c.task x).st ≠ .ready → (c.task x).st ≠ .running →
        (let u := c.makeReady x 0
         exec (.tready h rd ra) s = done (u.anise 1 h (u.aniseTask x) ((c.task x).arg.toNat % 2 ^ 32))))
      ∧ (reg rb < 32 → exec (.tprio h rd ra rb) s = done (c.setPrio h x (reg rb)))
      ∧ (32 ≤ reg rb → exec (.tprio h rd ra rb) s = ended (c.refuse h rd.val 6 2 .none false))
      ∧ (let f := field (reg rb) 3 0
         let y := c.flow f
         ((c.task x).st ≠ .dormant → exec (.flowput h rd ra rb) s = ended (c.refuse h rd.val 7 3 (c.aniseTask x) false))
         ∧ ((c.task x).st = .dormant → 64 ≤ y.ents.length →
          exec (.flowput h rd ra rb) s = ended (c.refuse h rd.val 7 6 (c.aniseTask x) false))
         ∧ ((c.task x).st = .dormant → y.ents.length < 64 → y.en = false →
          exec (.flowput h rd ra rb) s = ended (c.refuse h rd.val 7 9 (c.aniseTask x) false))
         ∧ ((c.task x).st = .dormant → y.ents.length < 64 → y.en = true →
          let seq := (y.head + BitVec.ofNat 16 y.ents.length).toNat
          let u := ((c.updFlow f fun y => { y with ents := y.ents ++ [none] }).updTask x fun k =>
            { k with flow := some (f, seq) }).makeReady x 0
          exec (.flowput h rd ra rb) s = ended ((u.anise 10 h (u.aniseTask x) seq).setG h rd.val (BitVec.ofNat 64 seq)))))
    ∧ (rd.val % 2 = 0 →
      let f := field (reg ra) 3 0
      let y := c.flow f
      (y.ents = [] → exec (.flowtake h rd ra) s = ended (c.refuse h rd.val 9 8 .none true))
      ∧ (∀ rest, y.ents = none :: rest → exec (.flowtake h rd ra) s = ended (c.refuse h rd.val 9 7 .none true))
      ∧ ∀ (v : W64) (ab : Bool) (rest : List (Option (W64 × Bool))), y.ents = some (v, ab) :: rest →
        (y.en = false → exec (.flowtake h rd ra) s = ended (c.refuse h rd.val 9 9 .none true))
        ∧ (y.en = true → exec (.flowtake h rd ra) s = ended (((((c.updFlow f fun y => { y with head := y.head + 1, ents := rest }).anise 11 h
          { AniseInfo.none with flow := 0x80 + f } y.head.toNat).setG h rd.val v).setG h (rd.val + 1)
            (BitVec.ofNat 64 (y.head.toNat + 65536 * (if ab then 1 else 0)))))))

/-- The scheduler's events and registers: ticks, expiries in order, due matching, and what the registers of tasks, Anise,
threads and inter-processor interrupts do; a task that becomes READY stands last in the list of its priority alone (R395 to
R397, R401, R405, R408 to R410).
The model's choices of log 50 enter. -/
def Obligations.SchedulerEventsAndRegistersAct : Prop :=
  ∀ (a : Agent) (s : State),
    let okay (t : State) : Host.Outcome State Fault Refusal := .next (s.after (t.reply .okay 0))
    (∀ x k p : Nat, (s.task x).prio < 32 → p < 32 →
      let t := s.makeReady x k
      (t.task x).st = .ready ∧ (t.task x).cause = k
        ∧ t.sched.list p = (s.sched.list p).filter (· != x) ++ (if p = (s.task x).prio then [x] else []))
    ∧ (s.clk.relock = false → s.sched.due = true →
      exec (.taskDispatch) s = .next (s.after ((s.matchWaiters s.sched.waiters.length).updSched fun c => { c with due := false })))
    ∧ exec (.tick) s = .next (s.after (if s.sched.tickAt = s.now / 2000 then s
        else s.updSched fun c => { c with tick := c.tick + 1, tickAt := if c.tickAt < s.now / 2000 then c.tickAt + 1 else 0 }))
    ∧ (∀ (x : TaskId) (e : TimerEnt), s.clk.relock = false → e.task = x.val →
      (s.sched.expired = some (e, false) →
        (let u := s.makeReady x.val 1
         exec (.delayExpiry x) s = .next (s.after (u.anise 6 0xFF (u.aniseTask x.val) (s.sched.tick % 2 ^ 32)))))
      ∧ (s.sched.expired = some (e, true) →
        (let u := s.makeReady x.val 2
         exec (.timeoutExpiry x) s = .next (s.after (u.anise 7 0xFF (u.aniseTask x.val) (s.sched.tick % 2 ^ 32))))))
    ∧ (∀ (x : TaskId) (val : W64), s.mute a = false → s.regCode a (.taskCfg x.val) true .full = .okay →
      let u := s.schedSync.setPrio a.hart x.val (field val.toNat 12 8)
      exec (.taskCfgWrite a x val) s
        = okay (if field val.toNat 7 0 = 0 then u else u.updTask x.val fun k => { k with aff := val.setWidth 8 }))
    ∧ (∀ val : W64, s.mute a = false → s.regCode a .aniseCtrl true .full = .okay →
      exec (.aniseCtrlWrite a val) s = okay (s.updSched fun c =>
        { c with evmask := BitVec.ofNat 16 (field val.toNat 39 24), aniseBase := field val.toNat 23 16,
                 aniseStop := val.getLsbD 1, aniseEn := val.getLsbD 0,
                 aniseWrite := if !c.aniseEn && val.getLsbD 0 then 0 else c.aniseWrite }))
    ∧ (∀ h : Thread, s.mute a = false → s.regCode a (.thrCtrl h.val) true .full = .okay →
      ((s.thread h).run = .halted → s.clvOff (h.val / 8) = false →
        exec (.clvThreadRun a h) s = okay (s.updThr h fun t => { t with run := .running, pc := t.start }))
      ∧ ((s.thread h).run ≠ .halted → exec (.clvThreadRun a h) s = okay s)
      ∧ ∃ t, exec (.clvThreadReset a h) s = okay t ∧ t.thread h = { Thr.off with
          start := (s.thread h).start, stopCause := (s.thread h).stopCause })
    ∧ (∀ mask : W64,
      (s.mute a = false → s.regCode a .clvIpi true .full = .okay →
        exec (.clvIpiSet a mask) s = okay (s.updSched fun c => { c with ipi := c.ipi ||| mask }))
      ∧ (s.mute a = false → s.regCode a .clvIpiClr true .full = .okay →
        exec (.clvIpiClear a mask) s = okay (s.updSched fun c => { c with ipi := c.ipi &&& ~~~mask })))
    ∧ ∀ c : Sys2Proof.Clove, s.mute a = false → s.regCode a (.clvCoreCtrl c.val) true .full = .okay → s.clvOff c.val = false →
      ∃ t, exec (.clvCoreReset a c) s = okay t ∧ ∀ i < 8, (t.thread (8 * c.val + i)).run = .halted

/-! ## Host ports and mailboxes. -/

/-- Job rings, the link of a host port and mailboxes: each pointer is taken by the side that owns it where it keeps to the
ring as the pointers stood before the HK cycle, and is rejected otherwise, training takes the highest width and rate that both
ends allow, and a message passes whole from its sender's POST to its receiver's TAKE, the operations of an HK cycle taking effect
at its end (R411 to R414, R424 to R433, R435).
The model's choices of logs 40 and 72 enter. -/
def Obligations.HostRingsLinksAndMailboxesAct : Prop :=
  ∀ (a : Agent) (h : HostId) (s : State), s.mute a = false →
    let okay (t : State) : Host.Outcome State Fault Refusal := .next (s.after (t.reply .okay 0))
    (∀ (f : FnId) (v : BitVec 12), s.fnRings h.val f.val = true →
      let old := s.hostFn h.val f.val
      let x := if old.cycle = s.time.hk + 1 then old else
        { old with cycle := s.time.hk + 1, sqHead0 := old.sqHead, sqTail0 := old.sqTail, cqHead0 := old.cqHead,
                   cqTail0 := old.cqTail, tailNow := false }
      let n := v.toNat
      let m := 2 ^ x.sqSize
      let c := 2 ^ x.cqSize
      let fn (y : HostFn) : Host.Outcome State Fault Refusal := okay (s.updFn h.val f.val fun _ => y)
      let reject : Host.Outcome State Fault Refusal := fn { x with ptrReject := true }
      let step := ringStep c x.cqTail n
      ((∃ b g, a = .host b g) → s.regCode a (.sqPtr h.val f.val) true .hi = .okay → x.sqEn = true →
        exec (.hostSqTailWrite a h f v) s
          = if m ≤ n ∨ m ≤ ringStep m x.sqHead0 x.sqTail0 + ringStep m x.sqTail0 n then reject
            else fn { x with sqTail := n, db := true, tailNow := true })
      ∧ ((∀ b g, a ≠ .host b g) → s.regCode a (.sqPtr h.val f.val) true .lo = .okay → x.sqEn = true →
        exec (.sqHeadWrite a h f v) s
          = if m ≤ n ∨ ringStep m x.sqHead0 x.sqTail0 < ringStep m x.sqHead0 n then reject
            else fn { x with sqHead := n })
      ∧ ((∀ b g, a ≠ .host b g) → s.regCode a (.cqPtr h.val f.val) true .lo = .okay → x.cqEn = true →
        exec (.cqTailWrite a h f v) s
          = if c ≤ n ∨ c ≤ ringStep c x.cqHead0 x.cqTail0 + ringStep c x.cqTail0 n then reject
            else fn { x with cqTail := n, phase := x.phase != decide (c ≤ x.cqTail + step),
                             sent0 := if step ≠ 0 ∧ s.hostUp h.val = true ∧ x.d3hot = false ∧ x.mask0 = false
                               then x.sent0 + 1 else x.sent0 })
      ∧ ((∃ b g, a = .host b g) → s.regCode a (.cqPtr h.val f.val) true .hi = .okay → x.cqEn = true →
        exec (.cqHeadWrite a h f v) s
          = if c ≤ n ∨ ringStep c x.cqHead0 x.cqTail0 < ringStep c x.cqHead0 n then reject
            else fn { x with cqHead := n })
      ∧ ∀ val : W64, let size := field val.toNat 3 0
        let addr := field val.toNat 44 12 * 4096
        4 ≤ size → size ≤ 12 → val.getLsbD 4 = true →
        (s.regCode a (.sqBase h.val f.val) true .full = .okay → x.sqEn = false →
          exec (.ringBaseWrite a h f false val) s
            = fn { x with sqBase := addr, sqSize := size, sqEn := true, sqHead := 0, sqTail := 0, sqHead0 := 0, sqTail0 := 0 })
        ∧ (s.regCode a (.cqBase h.val f.val) true .full = .okay → x.cqEn = false →
          exec (.ringBaseWrite a h f true val) s
            = fn { x with cqBase := addr, cqSize := size, cqEn := true, cqHead := 0, cqTail := 0, cqHead0 := 0, cqTail0 := 0,
                          phase := true }))
    ∧ (∀ width rate : Nat, s.hostEnabled h.val = true → (s.hostPort h.val).isolated = false → s.boot.halted = false →
      let w := ([16, 8, 4].find? fun x => decide (x ≤ width ∧ x ≤ (s.cfg.hostOf h.val).maxWidth)).getD 0
      let r := ([64, 32, 16].find? fun x => decide (x ≤ rate ∧ x ≤ (s.cfg.hostOf h.val).maxRate)).getD 0
      exec (.hostLinkTrain h width rate) s = .next (s.after (s.updHost h.val fun p =>
        if w = 0 ∨ r = 0 then { p with trainFail := true, width := 0, rate := 0, ideUp := false }
        else { p with width := w, rate := rateCode r, ideUp := false })))
    ∧ (s.hostUp h.val = true →
      exec (.ideEstablish h) s = .next (s.after (s.updHost h.val fun p => { p with ideUp := true }))
      ∧ (∀ st : W64, (s.hostPort h.val).ideUp = true →
        exec (.ideFailure h st) s = .next (s.after (s.raise 0x28 (0x480 + h.val) 0 st.toNat)))
      ∧ exec (.hostLinkDown h) s = .next (s.after (((s.markOff (0x21F + 0x20 * h.val)).updHost h.val fun p =>
          { p with width := 0, rate := 0, ideUp := false }).raise 0x2A (0x480 + h.val) 0 0))
      ∧ (∀ (f : FnId) (on : Bool), exec (.hostConfigWrite h (.d3hot f on)) s
          = .next (s.after ((if on && !(s.hostFn h.val f.val).d3hot then s.markOff (0x200 + 0x20 * h.val + f.val)
              else s).updFn h.val f.val fun x => { x with d3hot := on })))
      ∧ (∀ base : W64, exec (.hostConfigWrite h (.hdm base)) s
          = .next (s.after (s.updHost h.val fun p => { p with hdmBase := base })))
      ∧ (∀ on : Bool, exec (.hostConfigWrite h (.ats on)) s = .next (s.after (s.updHost h.val fun p => { p with ats := on })))
      ∧ (∀ n : Fin 17, exec (.hostConfigWrite h (.vfs n)) s = .next (s.after (if n.val ≤ (s.cfg.hostOf h.val).vfCount
          then s.updHost h.val fun p => { p with vfs := n.val } else s)))
      ∧ (∀ (lo hi : BitVec 52) (on : Bool), exec (.hostConfigWrite h (.refuse lo hi on)) s
          = .next (s.after (s.updHost h.val fun p => let rest := p.refused.filter (· != (lo.toNat, hi.toNat))
              { p with refused := if on then rest ++ [(lo.toNat, hi.toNat)] else rest })))
      ∧ ∀ (f : FnId) (on : Bool),
        exec (.hostConfigWrite h (.msixMask f 0 on)) s = .next (s.after (s.updFn h.val f.val fun x => { x with mask0 := on }))
        ∧ exec (.hostConfigWrite h (.msixMask f 1 on)) s
          = .next (s.after (s.updFn h.val f.val fun x => { x with mask1 := on })))
    ∧ ∀ (c : MbxId) (val : W64),
      let r := s.cfg.mbxOf c.val
      let x := s.mbxAt c.val
      let asks (op : MbxOp) : State := s.updMbx c.val fun x => { x with ops := x.ops ++ [op] }
      (∀ w : Fin 8, s.regCode a (.mbxMsg c.val w.val) true .full = .okay →
        (r.sender ≠ a.code → exec (.mbxWordWrite a c w val) s = okay s)
        ∧ (r.sender = a.code → exec (.mbxWordWrite a c w val) s = okay (asks (.write w.val 0 val))))
      ∧ (s.regCode a (.mbxPost c.val) true .full = .okay → r.sender = a.code → val.getLsbD 0 = true →
        exec (.mbxPost a c val) s = okay (if s.appliedUnit 0x493 then s else asks (.post a.code)))
      ∧ (s.regCode a (.mbxTake c.val) false .full = .okay →
        (r.receiver = a.code → x.full = true →
          exec (.mbxTake a c) s = .next (s.after ((asks .take).reply .okay (x.word 0))))
        ∧ (r.receiver ≠ a.code ∨ x.full = false → exec (.mbxTake a c) s = .next (s.after (s.reply .okay 0))))
      ∧ (s.mbx = [(c.val, x)] → x.ops ≠ [] → s.mbxTick.mbxAt c.val = x.tick)
      ∧ (∀ (y : Mbx) (k w : Nat) (keep v : W64), let z : Mbx := { y with ops := [] }
        let posted : Mbx := { z with sender := BitVec.ofNat 16 k, valid := true, full := true }
        let taken : Mbx := { z with full := false, sender := 0, valid := false }
        (y.ops = [.post k] → y.tick = if y.full then { z with postReject := true } else posted)
        ∧ (y.ops = [.take] → y.tick = if y.full then taken else z)
        ∧ (y.ops = [.take, .post k] → y.full = true → y.tick = { taken with postReject := true })
        ∧ (y.ops = [.write w keep v] → w ≠ 0 → y.tick = if y.full then { z with writeReject := true }
            else { z with data := Tbl.upd 0 y.data w fun o => (o &&& keep) ||| (v &&& ~~~keep) })
        ∧ (y.ops = [.take, .write w keep v] → y.full = true → y.tick = { taken with writeReject := true }))
      ∧ ∀ t : BitVec 16, s.regCode a (.dbMask t.toNat) true .full = .okay →
        exec (.mbxDbMaskWrite a t val) s = okay { s with dbMask := Tbl.set 0xFFFFFFFF s.dbMask t.toNat (val.setWidth 32) }

/-! ## Links, transport and the block group. -/

/-- A link port: packets and flits are laid out as R442 and R438 say, a damaged or early flit asks for a replay, the expected one is
taken with its packets, credits and acknowledgement, the 32nd failed replay of one flit and a lost link go to DOWN, and training
ends UP only with a partner of the group (R437 to R442, R452, R456, R461, R568).
The model's choices of logs 44 and 70 enter. -/
def Obligations.LinkPortsAct : Prop :=
  (∀ k : Packet, opListed k.op = true → k.vc < 4 → k.part ≤ 16 → k.hops ≤ 3 → k.len ≤ 4096 → k.psn < 2 ^ 24 → k.tag < 2 ^ 32 →
    k.addr < 2 ^ 52 → k.attr < 2 ^ 32 → k.data.length = (if opData k.op then k.len else 0) → packetOf (packetBytes k) = some k)
  ∧ (∀ (fseq ack : BitVec 12) (nak : Bool) (credit : List Nat) (ctl lane : Nat) (slots : List Byte), slots.length ≤ 416 →
    (∀ v < 4, credit.getD v 0 < 4096) → ctl < 16 → lane < 8 →
    let f := flitBytes fseq ack nak credit ctl lane slots
    f.length = 432 ∧ flitGood f = true ∧ le f 0 2 = fseq.toNat ∧ le f 2 2 = ack.toNat + (if nak then 0x8000 else 0)
      ∧ (∀ v < 4, flitCredit f v = credit.getD v 0) ∧ le f 10 2 = ctl + 16 * lane ∧ (f.drop 16).take slots.length = slots)
  ∧ ∀ (p : Port) (s : State),
    let x := s.port p.val
    let u := 0x460 + p.val
    let port (g : LinkPort → LinkPort) : State := s.updPort p.val g
    (∀ (b : List Byte) (fixed : List (Fin 8)) (bad : Bool), x.st = .up → s.linkMode p.val = 1 →
      let ahead := (BitVec.ofNat 12 (le b 0 2) - (x.rxSeq + 1)).toNat
      let stream := x.rxPart ++ b.drop 16
      let got := packetsOf (stream.length / 16 + 1) stream
      let y := x.covered (BitVec.ofNat 12 (le b 2 2))
      (bad = true ∨ flitGood b = false → ∃ t, exec (.flitReceive p ⟨b, 0, fixed, bad⟩) s = .next (s.after t)
        ∧ (t.port p.val).discard = true ∧ (t.port p.val).rxSeq = x.rxSeq ∧ (t.port p.val).rxq = x.rxq
        ∧ (t.port p.val).fecUe = min (x.fecUe + 1) 0xFFFF
        ∧ (0 < x.flitRoom → (t.port p.val).nak = false ∧ x.replay.length < (t.port p.val).replay.length))
      ∧ (bad = false → flitGood b = true →
        (2048 ≤ ahead ∨ (ahead ≠ 0 ∧ x.discard = true) → ∃ t, exec (.flitReceive p ⟨b, 0, fixed, bad⟩) s = .next (s.after t)
          ∧ (t.port p.val).rxSeq = x.rxSeq ∧ (t.port p.val).rxq = x.rxq ∧ (t.port p.val).nak = x.nak)
        ∧ (ahead ≠ 0 → ahead < 2048 → x.discard = false → ∃ t, exec (.flitReceive p ⟨b, 0, fixed, bad⟩) s = .next (s.after t)
          ∧ (t.port p.val).discard = true ∧ (t.port p.val).rxSeq = x.rxSeq ∧ (t.port p.val).rxq = x.rxq)
        ∧ (ahead = 0 → field (le b 10 2) 3 0 = 0 → x.txq = [] → x.nak = false → x.ctl = 0 → x.fails < 31 →
          ∃ t, exec (.flitReceive p ⟨b, 0, fixed, bad⟩) s = .next (s.after t) ∧ (t.port p.val).rxSeq = BitVec.ofNat 12 (le b 0 2)
            ∧ (t.port p.val).discard = false ∧ (t.port p.val).rxPart = got.2
            ∧ (t.port p.val).rxq = x.rxq ++ (got.1.filterMap id).map (fun k => ⟨k, s.now⟩)
            ∧ (t.port p.val).replay = y.replay ∧ (t.port p.val).replayDue = (x.replayDue || bitOf (le b 2 2) 15)
            ∧ ∀ v < 4, Tbl.get 0 (t.port p.val).credUsed v = Tbl.get 0 x.credUsed v - flitCredit b v)
        ∧ (ahead = 0 → bitOf (le b 2 2) 15 = true → y.replayed = true → 31 ≤ y.fails →
          ∃ t, exec (.flitReceive p ⟨b, 0, fixed, bad⟩) s = .next (s.after t) ∧ (t.port p.val).st = .down)))
    ∧ (x.st = .up → x.replayDue = true →
      ∃ t, exec (.flitReplay p) s = .next (s.after t) ∧ (t.port p.val).replayDue = false ∧ (t.port p.val).replayed = true
        ∧ (t.port p.val).retry = min (x.retry + 1) 0xFFFF ∧ (t.port p.val).st = .up ∧ (t.port p.val).fails = x.fails)
    ∧ (∀ (vc : Fin 4) (n : BitVec 12), x.st = .up → s.linkMode p.val = 1 → n.toNat ≤ Tbl.get 0 x.credOwed vc.val →
      0 < x.flitRoom →
      exec (.creditReturn p vc n) s = .next (s.after ((port fun x =>
        x.sendFlit ((List.range 4).map fun v => if v = vc.val then n.toNat else 0) []).count u 1)))
    ∧ (∀ (y : LinkPort) (credit : List Nat) (slots : List Byte), let z := y.sendFlit credit slots
      z.replay = y.replay ++ [⟨y.txSeq, flitBytes y.txSeq y.rxSeq y.nak credit y.ctl y.ctlLane slots⟩] ∧ z.txSeq = y.txSeq + 1
        ∧ z.nak = false ∧ z.ctl = 0 ∧ z.fifo = y.fifo + 1
        ∧ ∀ v < 4, Tbl.get 0 z.credOwed v = Tbl.get 0 y.credOwed v - credit.getD v 0)
    ∧ (∀ (lane : Fin 8) (lock : Bool), x.st = .up →
      (s.linkMode p.val ≠ 2 → x.lanes.getLsbD lane.val = true → lock = true ∨ s.laneBad p.val lane.val = true →
        ∃ t, exec (.laneRetire p ⟨lane, lock⟩) s = .next (s.after t) ∧ (t.port p.val).retired.getLsbD lane.val = true
          ∧ (t.port p.val).lanes.getLsbD lane.val = false
          ∧ ((t.port p.val).st = .up ∨ (t.port p.val).st = .down))
      ∧ (lock = false → s.linkMode p.val = 2 ∨ s.laneBad p.val lane.val = false →
        exec (.laneRetire p ⟨lane, lock⟩) s = .next (s.after s))
      ∧ (s.linkMode p.val = 2 → exec (.laneRetire p ⟨lane, true⟩) s = .next (s.after (s.linkDown p.val))))
    ∧ (x.st ≠ .disabled → x.st ≠ .down →
      let down := (port fun x => { x with
        st := .down, lanes := 0, nak := false, discard := false, rxPart := [], replayDue := false, replayed := false, fails := 0,
        ctl := 0, replay := [], fifo := 0, txq := [], credUsed := [], rxq := [], credOwed := [], paused := 0, xoff := 0,
        laneFix := [] }).raise 0x23 u 0 x.peerBlock
      (∀ why : DownCause, exec (.linkDown p why) s = .next (s.after down))
      ∧ ∀ a : Agent, s.mute a = false → s.regCode a (.lnkCtrl p.val) true .full = .okay →
        exec (.lnkDownCmd a p) s = .next (s.after (down.reply .okay 0)))
    ∧ (∀ a : Agent, s.mute a = false → s.regCode a (.lnkCtrl p.val) true .full = .okay →
      exec (.resetLanes a p) s = .next (s.after ((port fun x => { x with lanesBack := true }).reply .okay 0))
      ∧ (s.grp.en = true → (s.cfg.linkOf p.val).mode = 1 → x.st = .disabled ∨ x.st = .down →
        let ret := if x.lanesBack then 0 else x.retired
        exec (.lnkTrain a p) s = .next (s.after ((port fun x =>
          { x with st := .training, retired := ret, lanesBack := false, lanes := (s.cfg.linkOf p.val).lanes &&& ~~~ret,
                   txSeq := 0, rxSeq := 0xFFF, laneFix := [] }).reply .okay 0))))
    ∧ (∀ (group : BitVec 32) (block : BitVec 6) (other : BitVec 5), x.st = .training →
      exec (.linkTrainingDone p group block other) s = .next (s.after (port fun x =>
        { x with st := if group = s.grp.id ∧ s.grp.members.getLsbD block.toNat then .up else .foreign,
                 peerBlock := block.toNat, peerPort := other.toNat })))
    ∧ ∀ (prio : BitVec 3) (xoff : Bool), s.linkMode p.val = 2 → bitOf (s.cfg.linkOf p.val).flags 0 = true → x.st = .up →
      exec (.pfcPause p prio xoff) s = .next (s.after (((port fun x =>
        { x with paused := (List.range 4).foldl (fun (m : BitVec 4) v =>
            if field x.prio.toNat (3 * v + 2) (3 * v) = prio.toNat then
              (if xoff then m ||| BitVec.ofNat 4 (2 ^ v) else m &&& ~~~(BitVec.ofNat 4 (2 ^ v))) else m) x.paused }).count u 7).pump
          p.val))

/-- The transport: the packet whose number its connection expects is acknowledged, taken and executed, an older one is
acknowledged again and a gap draws a NACK, neither with an effect; a packet whose effect must wait stays in the receive buffer, an
acknowledgement is taken by its connection, packets for other blocks are forwarded, and a timeout sends again (R442 to R451, R455).
The model's choices of logs 24, 44, 45 and 70 enter. -/
def Obligations.TransportNumbersAndExecutesPackets : Prop :=
  ∀ (p : Port) (k : Packet) (s : State),
    (let c := (s.hear k.src.val).conn k.src.val k.vc
     let n := BitVec.ofNat 24 k.psn
     (n = c.expect → ∃ t, s.receive k = .take t ∧ ((t.conn k.src.val k.vc).expect = c.expect + 1))
     ∧ (n ≠ c.expect → ∃ t, s.receive k = .drop t ∧ t = (s.hear k.src.val).sendAck (if psnBelow n c.expect then 0x11 else 0x12)
          k.src.val k.vc (if psnBelow n c.expect then c.expect - 1 else c.expect).toNat false 0))
    ∧ (let s' := s.frameIn p.val k
      ∀ t u : State, s.grp.en = true → k.dst.val = s.grp.self → s'.takeRx p.val k = some t →
      (∀ c ∈ [(1, Instr.put p k), (2, .get p k), (3, .transportAtomic p k), (0x10, .resp p k), (4, .coll p k),
          (0x19, .claim p k), (0x1A, .grant p k), (0x1C, .release p k), (0x1D, .groupBreak ⟨p, k⟩)],
        k.op = c.1 → t.receive k = .drop u → exec c.2 s = .next (s.after u))
      ∧ (∀ (live : W64) (mgr : BitVec 8) (term : BitVec 32) (stage : W64), k.op = 0x18 → t.receive k = .drop u →
        k.beat live mgr.toNat term stage.toNat = k → exec (.heartbeat ⟨p, k⟩ live mgr term stage) s = .next (s.after u))
      ∧ (∀ phase : BitVec 52, k.op = 0x1B → t.receive k = .drop u → k.addr = phase.toNat →
        exec (.arrive p k phase) s = .next (s.after u))
      ∧ (t.receive k = .take u →
        (∀ w : State,
          (k.op = 1 → s'.importWait k k.data.length true = some w → exec (.put p k) s = .next (s.after w))
          ∧ (k.op = 2 → s'.importWait k k.len false = some w → exec (.get p k) s = .next (s.after w))
          ∧ (k.op = 3 → s'.importWait k (atomicBytes k) true = some w → exec (.transportAtomic p k) s = .next (s.after w)))
        ∧ (k.op = 1 → s'.importWait k k.data.length true = none →
          (let c := u.importCheck k k.data.length true
           exec (.put p k) s = .next (s.after (if c ≠ 0 then u.respond k c []
             else (u.rangeWrite (0x460 + p.val) k.addr k.data k.poison).1.respond k 0 []))))
        ∧ (k.op = 2 → s'.importWait k k.len false = none →
          (let c := u.importCheck k k.len false
           let r := u.rangeRead k.addr (min k.len 4096)
           exec (.get p k) s = .next (s.after (if c ≠ 0 then u.respond k c []
             else if r.2.2.2 then (r.1.raise 0x3F (0x460 + p.val) k.addr 5).respond k 1 r.2.2.1
             else r.1.respond k 0 r.2.2.1))))
        ∧ (k.op = 3 → s'.importWait k (atomicBytes k) true = none →
          exec (.transportAtomic p k) s = .next (s.after (u.atomicIn p.val k)))
        ∧ (k.op = 0x10 → exec (.resp p k) s = .next (s.after (u.respIn k)))
        ∧ (∀ c : Nat, k.op = 4 → s'.collWait k = none → u.collFor k = some c →
          exec (.coll p k) s = .next (s.after (u.collIn p.val c k)))
        ∧ (∀ w, k.op = 4 → s'.collWait k = some w → exec (.coll p k) s = .next (s.after w))
        ∧ (k.op = 4 → s.collFor k = none → (s.port p.val).rxq.any (fun j => j.pkt == k && decide (j.at_ + 200000 ≤ s.now)) = true →
          exec (.collUnarmedTimeout p k) s = .next (s.after (u.sendAck 0x12 k.src.val k.vc 0xFFFFFF false k.tag))))
      ∧ (k.op = 0x11 → exec (.ack p k) s = .next (s.after ((if k.ece then t.count (0x460 + p.val) 6 else t).ackIn k)))
      ∧ (k.op = 0x12 → exec (.nack p k) s = .next (s.after (t.nackIn k))))
    ∧ (s.grp.en = true → k.dst.val ≠ s.grp.self → let s' := s.frameIn p.val k
      (∀ (t : State) (q : Nat) (qs : List Nat), 0 < k.hops → s'.linkMode p.val ≠ 2 → s'.routeUp k.dst.val = q :: qs →
        s'.takeRx p.val k = some t →
        exec (.packetForward p k) s = .next (s.after ((t.transmit q 0 { k with hops := k.hops - 1 }).count (0x460 + p.val) 9)))
      ∧ (∀ t : State, k.hops = 0 ∨ s'.linkMode p.val = 2 → s'.takeRx p.val k = some t →
        exec (.packetForward p k) s = .next (s.after (t.dropPacket p.val (s'.linkMode p.val == 2)))))
    ∧ (∀ t : State, ∃ w : Nat, let u := ({ t with free := t.free + 1 } : State)
      t.dropPacket p.val false = u.fwdDrop p.val w
        ∧ t.dropPacket p.val true = (u.linkCount p.val (·.rxDiscard) (fun x v => { x with rxDiscard := v })).raise 0x24
            (0x460 + p.val) 0 w)
    ∧ (∀ (b : BlockNo) (vc : Fin 4),
      let c := s.conn b.val vc.val
      exec (.retransmitTimeout b vc) s = .next (s.after (if c.unacked ≠ [] ∧ c.since + s.rtoOf b.val * 200 ≤ s.now
        then s.resend b.val vc.val else s))
      ∧ (let r := Tbl.get RateSt.off s.grp.rates b.val
         exec (.rateIncrease b) s = .next (s.after (if r.eceAt + 20000 ≤ s.now then s.updGrp fun g =>
          { g with rates := Tbl.set RateSt.off g.rates b.val { r with
            limit := min (200000000000 * (s.routeUp b.val).length) (r.limit + 5000000000), eceAt := s.now } } else s))))

/-- The block group and its collectives: heartbeats and claims, the manager's term, group barriers, the distribution of an
image, and the contexts of collectives (R453 to R460, R462).
The model's choices of logs 16, 23 and 45 enter. -/
def Obligations.GroupAndCollectivesAct : Prop :=
  ∀ (b : BlockNo) (s : State),
    (∀ (p : Port) (k : Packet) (t u : State), s.grp.en = true → k.dst.val = s.grp.self →
      (s.frameIn p.val k).takeRx p.val k = some t → t.receive k = .take u →
      (∀ (live : W64) (mgr : BitVec 8) (term : BitVec 32) (stage : W64), k.op = 0x18 →
        k.beat live mgr.toNat term stage.toNat = k → exec (.heartbeat ⟨p, k⟩ live mgr term stage) s = .next (s.after (u.beatIn k.src.val
          (if le k.data 8 1 < 64 then some (le k.data 8 1) else none) (BitVec.ofNat 32 (le k.data 9 4))
          (BitVec.ofNat 64 (le k.data 13 8)))))
      ∧ (k.op = 0x19 → exec (.claim p k) s = .next (s.after (u.claimIn k.src.val (BitVec.ofNat 32 k.addr))))
      ∧ (k.op = 0x1A → exec (.grant p k) s = .next (s.after (u.grantIn k.src.val (BitVec.ofNat 32 k.addr))))
      ∧ (∀ phase : BitVec 52, k.op = 0x1B → k.addr = phase.toNat →
        exec (.arrive p k phase) s = .next (s.after (u.gbarArrive k.src.val (k.tag % 16) (BitVec.ofNat 32 k.addr))))
      ∧ (k.op = 0x1C → exec (.release p k) s = .next (s.after (u.gbarRelease (k.tag % 16) (BitVec.ofNat 32 k.addr))))
      ∧ (k.op = 0x1D → exec (.groupBreak ⟨p, k⟩) s = .next (s.after (u.gbarBroken (k.tag % 16)))))
    ∧ (s.grp.members.getLsbD b.val = true → b.val ≠ s.grp.self →
      (∀ stage : W64, s.beatIn b.val none s.grp.term stage = s.updGrp fun g => { g with stages := Tbl.set 0 g.stages b.val stage })
      ∧ (∀ (stage : W64) (mgr : Option Nat) (term : BitVec 32), s.grp.term.toNat < term.toNat →
        (s.beatIn b.val mgr term stage).grp.term = term)
      ∧ (∀ term : BitVec 32, s.grp.term.toNat < term.toNat → s.lowestLive = some b.val → s.grp.granted ≠ some term →
        s.claimIn b.val term = ((s.adopt term).updGrp fun g => { g with granted := some term }).groupSend 0x1A b.val 0 term.toNat [])
      ∧ ∀ term : BitVec 32, s.grp.claiming = some term →
        s.grantIn b.val term = if s.now < s.grp.claimAt + 100000
          then (s.updGrp fun g => { g with votes := g.votes ||| BitVec.ofNat 64 (2 ^ b.val) }).countVotes else s)
    ∧ (s.grp.en = true → s.atTick 20000 = true → s.pollDue 4 20000 = true → ∃ t, exec (.heartbeatSend) s = .next (s.after t) ∧ t = (
        let s := s.polledNow 4 20000
        let body := natToBytes s.liveMask.toNat 8 ++ natToBytes (if s.managerValid then s.grp.manager else 0xFF) 1
          ++ natToBytes s.grp.term.toNat 4 ++ natToBytes (s.grp.stageAddr + (if s.grp.stageEn then 1 else 0)) 8
        ((blocksOf s.grp.members).foldl (fun t c => if c = t.grp.self ∨ Tbl.get 0 t.grp.route c = 0 then t
          else t.groupSend 0x18 c 0 0 body) s).election))
    ∧ (b.val ≠ s.grp.self → s.grp.live.getLsbD b.val = true → Tbl.get 0 s.grp.heard b.val + 200000 ≤ s.now →
      ∃ t, exec (.livenessExpiry b) s = .next (s.after t) ∧ t.grp.live.getLsbD b.val = false ∧ ∀ r ∈ t.grp.reqs, r.dst ≠ b.val)
    ∧ exec (.claimTimeout) s = .next (s.after (if s.isManager = false ∧ s.grp.claiming ≠ none ∧ s.grp.claimAt + 100000 ≤ s.now
        then s.updGrp fun g => { g with claiming := none, votes := 0 } else s))
    ∧ (∀ (g : GBar) (ph : BitVec 32),
      let x := s.gbar g.val
      (x.en = true → (s.bar x.loc).phase + 1 = ph → x.sent = some ph →
        s.gbarRelease g.val ph = (s.updGbar g.val fun x => { x with phase := ph, sent := none }).barComplete x.loc)
      ∧ (x.en = true → s.gbarBroken g.val
          = (s.updGbar g.val fun x => { x with sent := none }).updBar x.loc fun y => { y with broken := true }))
    ∧ (s.grp.en = true → s.grp.stageEn = true → exec (.imageReceived) s
        = .next (s.after ((s.updGrp fun g => { g with imageRcvd := true }).updSched fun q =>
            { q with ipi := q.ipi ||| BitVec.ofNat 64 (2 ^ s.grp.irqThread) })))
    ∧ (∀ a : Agent, s.mute a = false →
      (s.regCode a .grpCmd true .full = .okay →
        (s.isManager = false →
          exec (.distribute a) s = .next (s.after ((s.updGrp fun g => { g with cmdResult := 1 }).reply .okay 0)))
        ∧ (s.isManager = true → s.grp.distBusy = true →
          exec (.distribute a) s = .next (s.after ((s.updGrp fun g => { g with cmdResult := 2 }).reply .okay 0)))
        ∧ (s.isManager = true → s.grp.distBusy = false →
          exec (.distribute a) s = .next (s.after (s.distribute.reply .okay 0))))
      ∧ ∀ k : CollCtx, s.regCode a (.collCmd k.val) true .full = .okay →
        let x := s.collOf k.val
        let d := s.collDesc x.desc
        let fails (t : State) (r : Nat) : Host.Outcome State Fault Refusal :=
          .next (s.after ((t.updColl k.val fun x => { x with result := r }).reply .okay 0))
        (x.st ≠ .idle → exec (.collArm a k) s = fails s 2)
        ∧ (x.st = .idle → inSram x.desc = false → stackedBytes < x.desc + 64 → exec (.collArm a k) s = fails s 1)
        ∧ (x.st = .idle → inSram x.desc = true ∨ (x.desc + 64 ≤ stackedBytes ∧ s.rangeWait x.desc 64 false = none) →
          (collOk d.2.1 x.desc = false → exec (.collArm a k) s = fails d.1 1)
          ∧ (collOk d.2.1 x.desc = true → d.2.2 = true → exec (.collArm a k) s = fails d.1 5)
          ∧ (collOk d.2.1 x.desc = true → d.2.2 = false →
            (∃ j < 8, (d.1.collOf j).st ≠ .idle ∧ (d.1.collOf j).id = le d.2.1 20 2) → exec (.collArm a k) s = fails d.1 7)
          ∧ (collOk d.2.1 x.desc = true → d.2.2 = false → le d.2.1 23 1 % 4 ≠ 0 →
            (∀ j < 8, (d.1.collOf j).st ≠ .idle → (d.1.collOf j).id ≠ le d.2.1 20 2) →
            ∃ t : State, exec (.collArm a k) s = .next (s.after (t.reply .okay 0)) ∧ (t.collOf k.val).st = .armed
              ∧ (t.collOf k.val).id = le d.2.1 20 2 ∧ (t.collOf k.val).len = le d.2.1 16 4 ∧ (t.collOf k.val).result = 0))
        ∧ (x.st = .idle → exec (.collAbort a k) s = .next (s.after (s.reply .okay 0)))
        ∧ (x.st ≠ .idle → exec (.collAbort a k) s
            = .next (s.after ((s.updColl k.val fun x => { x with st := .idle, result := 6 }).reply .okay 0))))
    ∧ ∀ k : CollCtx,
      let x := s.collOf k.val
      x.st = .running → x.len ≤ x.done * 128 → x.step = 2 → bitOf x.sem 1 = false → x.irq = false →
      exec (.collComplete k) s = .next (s.after (s.updColl k.val fun x => { x with st := .idle, result := 0 }))

/-! ## Errors, Caraway, boot, security, pins and the timebase. -/

/-- The error unit: a detection is counted, and unless it is a corrected one below its threshold it is reported as its HK cycle
ends: recorded in the log or, on a full log, lost, with ERROR pending and WRK_ERR set; its policy's action stops partitions
and halts the block; a word found bad is marked once; and the log's flush, watchdogs, injections, counters and snapshots act
(R500 to R519, R521, R584).
The model's choices of logs 20, 47 and 52 enter. -/
def Obligations.ErrorsAreCountedLoggedAndContained : Prop :=
  ∀ s : State,
    (∀ d : Detection,
      let found (t : State) : State := t.updErr fun e => { e with queue := e.queue ++ [d] }
      (d.det ≠ 0x0E → (d.det ≠ 0x04 ∨ 0x100 ≤ d.unit.toNat) → exec (.errorDetect d) s = .next (s.after (found s)))
      ∧ (d.det = 0x04 → d.unit.toNat < 0x100 →
        let w := 0x8_0000 * d.unit.toNat + d.info.toNat % 0x40_0000 / 8
        (Tbl.get false s.mem.tilePoison w = true → exec (.errorDetect d) s = .next (s.after s))
        ∧ (Tbl.get false s.mem.tilePoison w = false → exec (.errorDetect d) s = .next (s.after (found (s.updMem fun m =>
            { m with tilePoison := Tbl.set false m.tilePoison w true, tileErr := Tbl.set false m.tileErr w false })))))
      ∧ (d.det = 0x0E → exec (.errorDetect d) s = .next (s.after (found (match clvMem d.addr.toNat with
          | none => s
          | some (c, off) => s.updMem fun m => { m with
              clvPoison := Tbl.set false m.clvPoison ((if c.isSome then 0x10_0000 else 0) + off / 8) true })))))
    ∧ (∀ (d : Detection) (row : DetRow), detectorRow d.det.toNat = some row → s.err.reports = [] →
      let t := s.handle d
      let e := (t.err.reports.foldl State.report t).err
      let p := s.policy row
      let cnt := min (Tbl.get 0 s.err.cnt row.id + 1) 0xFFFF
      let slot := s.err.write.toNat % 128
      Tbl.get 0 t.err.cnt row.id = cnt ∧ t.err.write = s.err.write ∧ t.err.irq = s.err.irq
      ∧ (row.kind ≠ .c → s.err.unread < 128 →
        e.write = s.err.write + 1 ∧ (Tbl.get LogRec.off e.log slot).det = d.det
          ∧ (Tbl.get LogRec.off e.log slot).unit = d.unit ∧ (Tbl.get LogRec.off e.log slot).addr = d.addr
          ∧ (Tbl.get LogRec.off e.log slot).info = d.info ∧ (Tbl.get LogRec.off e.log slot).time = s.time.blk
          ∧ (Tbl.get LogRec.off e.log slot).count = BitVec.ofNat 16 cnt)
      ∧ (row.kind ≠ .c → 128 ≤ s.err.unread → e.write = s.err.write ∧ e.overflow = true
          ∧ e.lost = min (s.err.lost + 1) 0xFFFF)
      ∧ (row.kind = .c → Tbl.get 0 s.err.thr (256 * d.unit.toNat + row.id) + 1 < p.threshold →
        e.write = s.err.write ∧ e.lost = s.err.lost ∧ e.irq = s.err.irq)
      ∧ (row.kind ≠ .c → bitOf p.flags 0 = true → (row.id < 0x30 ∨ 0x37 < row.id) → row.id < 128 →
        e.irq.getLsbD row.id = true)
      ∧ (p.action = 4 → t.boot.halted = true)
      ∧ (3 ≤ p.action → ∀ q ∈ s.servedParts d.unit.toNat, q < 16 → t.err.partHeld.getLsbD q = true))
    ∧ (64 ≤ s.err.unread →
      exec (.errorLogFlush) s = .next (s.after ((s.carRecord 3 ((List.range 64).flatMap fun i =>
        (Tbl.get LogRec.off s.err.log ((s.err.rd.toNat + i) % 128)).bytes)).updErr fun e => { e with rd := e.rd + 64 })))
    ∧ (∀ (a : Agent), s.mute a = false →
      let okay (t : State) : Host.Outcome State Fault Refusal := .next (s.after (t.reply .okay 0))
      (∀ mask : BitVec 16,
        (s.regCode a .errPartHeld true .full = .okay →
          exec (.partHeldRelease a mask) s = okay (s.updErr fun e => { e with partHeld := e.partHeld &&& ~~~mask }))
        ∧ (s.regCode a .snapCmd true .full = .okay → exec (.snapCmd a mask) s
          = okay (s.updErr fun e => { e with snapDue := e.snapDue ||| mask })))
      ∧ (∀ c : Sys2Proof.Clove, s.regCode a (.wdtKick c.val) true .full = .okay →
        exec (.watchdogKick a c) s = okay (s.updErr fun e =>
          { e with wdtDue := Tbl.set 0 e.wdtDue c.val (s.now + 200 * Tbl.get 0 e.wdtPeriod c.val),
                   wdtOut := e.wdtOut &&& ~~~(BitVec.ofNat 8 (2 ^ c.val)) }))
      ∧ (∀ val : W64, s.regCode a .injCtrl true .full = .okay → field val.toNat 17 16 ≠ 3 →
        let det := field val.toNat 15 0
        let mode := field val.toNat 17 16
        let unit := field val.toNat 47 32
        let carried := (detectorRow det).isSome && carries det unit && !s.unitOff unit
        exec (.injectionArm a val) s = okay (s.updErr fun e =>
          { e with injDet := BitVec.ofNat 16 det, injUnit := BitVec.ofNat 16 unit,
                   injMode := if mode ≠ 0 && carried then mode else 0, injArmed := mode ≠ 0 && carried,
                   injResult := if mode = 0 ∨ carried then 0 else if (detectorRow det).isNone then 1 else 2 }))
      ∧ (∀ g : Fin 16, s.regCode a (.snapSeq g.val) false .full = .okay →
        exec (.snapLatchRead a (.seq g)) s = .next (s.after ((s.snapLatch a g.val).reply .okay
          (Tbl.get 0 s.err.snapSeq g.val &&& Width.mask .full))))
      ∧ ∀ (u : BitVec 16) (i : Fin 8), unitListed u.toNat = true → s.regCode a (.pmcSnap u.toNat i.val) false .full = .okay →
        let c := s.cfg.counterOf u.toNat i.val
        let old := s.err.latches.find? fun l => l.agent == a && l.group == c.group
        let shown (t : State) (v : W64) : Host.Outcome State Fault Refusal := .next (s.after (t.reply .okay (v &&& Width.mask .full)))
        (c.used = false ∨ bitOf c.flags 1 = false → exec (.snapLatchRead a (.pmc u i)) s = shown s 0)
        ∧ (c.used = true → bitOf c.flags 1 = true →
          (∀ l, old = some l → exec (.snapLatchRead a (.pmc u i)) s = shown s (Tbl.get 0 l.vals (8 * u.toNat + i.val)))
          ∧ (old = none → exec (.snapLatchRead a (.pmc u i)) s = shown
              (s.updErr fun e => { e with latches := e.latches ++ [⟨a, c.group, Tbl.get [] e.snap c.group⟩] })
              (Tbl.get 0 (Tbl.get [] s.err.snap c.group) (8 * u.toNat + i.val)))))
    ∧ (∀ c : Sys2Proof.Clove, Tbl.get 0 s.err.wdtPeriod c.val ≠ 0 → Tbl.get 0 s.err.wdtDue c.val ≤ s.now →
      exec (.watchdogExpiry c) s = .next (s.after (s.updErr fun e =>
        { e with wdtOut := e.wdtOut ||| BitVec.ofNat 8 (2 ^ c.val) })))
    ∧ (s.err.wdtOut = 1 → s.errTick = (
        let t := State.drain ((s.updErr fun e => { e with
          wdtDue := Tbl.set 0 e.wdtDue 0 (s.now + 200 * Tbl.get 0 e.wdtPeriod 0), wdtOut := 0 }).raise 0x2D 0x450 0 0) 16
        let u := t.satRaise.satRaise
        let v := u.err.reports.foldl State.report (u.updErr fun e =>
          { e with reports := [], cntNow := [], pmcNow := [], policyOld := none })
        if v.err.injEnd then
          v.updErr (fun e => { e with injEnd := false, injArmed := false, injMode := 0, injResult := 3 })
        else v))
    ∧ (s.err.wdtOut = 0 → s.err.queue = [] → s.err.cntNow = [] → s.err.reports = [] → s.err.injEnd = false → s.err.pmcNow = [] →
      s.err.policyOld = none → s.errTick = s)
    ∧ (∀ (det : Nat) (b : Nat), Tbl.get (0, 0) s.err.cntNow det = (1, b) →
      s.err.cntRead det = b ∧ Tbl.get 0 (s.err.cntClear det).cnt det = 1 ∧ (s.err.cntClear det).cntRead det = 0)
    ∧ (∀ e : InjEvent, s.injHit e.det.toNat e.unit.toNat e.line = false → exec (.injectionFire e) s = .next (s.after s))
    ∧ (∀ (u : BitVec 16) (l : Nat), l < stackedBytes / 128 → s.injHit 0x10 u.toNat l = true →
      exec (.injectionFire ⟨0x10, u, l⟩) s = .next (s.after ((s.updErr fun e =>
        { e with injFired := min (e.injFired + 1) 0xFFFFFFFF, injected := true, injArmed := e.injMode == 2,
                 injMode := if e.injMode = 2 then 2 else 0, injPend := e.injPend ++ [(0x10, u.toNat)] }).updMem fun m =>
          { m with rawErr := Tbl.set [] m.rawErr (devAddr s.cfg (128 * l) / 128) [⟨0, 1⟩] })))
    ∧ (∀ (u : BitVec 16) (i : Fin 8), (s.cfg.counterOf u.toNat i.val).used = true →
      (Tbl.get 0 s.err.pmc (8 * u.toNat + i.val)).toNat % 2 ^ 48 = 2 ^ 48 - 1 →
      let t := s.updErr fun e => { e with pmc := Tbl.set 0 e.pmc (8 * u.toNat + i.val) (BitVec.ofNat 64 (2 ^ 63)),
                                          pmcNow := Tbl.upd 0 e.pmcNow (8 * u.toNat + i.val) (· + 1) }
      exec (.pmcWrap u i) s = .next (s.after
        (if bitOf (s.cfg.counterOf u.toNat i.val).flags 0 then t.raise 0x40 u.toNat 0 i.val else t)))
    ∧ ∀ g < 16,
      let t := s.snapTick
      (s.err.snapDue.getLsbD g = true → (g, s.snapOf g) ∈ t.err.snapNow)
      ∧ (∀ vals, s.err.snapNow = [(g, vals)] →
        Tbl.get [] t.err.snap g = vals ∧ Tbl.get 0 t.err.snapSeq g = Tbl.get 0 s.err.snapSeq g + 1)

/-- Caraway: a record is programmed at the next page under the next SEQ, or deferred while the hold-up condition does not
permit it; a program sets the flash bytes and an erase frees a block; and its canary, budget, ageing and telemetry events act
(R488 to R495).
The model's choices of logs 17, 37 and 43 enter. -/
def Obligations.CarawayRecordsAndTelemetryAct : Prop :=
  ∀ s : State,
    let c := s.car
    (∀ (a : Agent) (mj : BitVec 16), s.mute a = false → s.regCode a .carHoldup true .full = .okay →
      exec (.carHoldupWrite a mj) s = .next (s.after ((s.updCar fun c =>
        { c with mj := mj.toNat, holdupAt := some s.now, deferred := false }).reply .okay 0)))
    ∧ (∀ (r : Rec) (rest : List Rec), c.op = .idle → s.appliedUnit 0x492 = false → c.recEn = true → c.recBlocks ≠ 0 → c.copies = [] → c.held = [] →
      c.recs = r :: rest →
      (s.flashMay = true → (c.page % 16 ≠ 0 ∨ c.erased = true) → exec (.recordWrite) s = .next (s.after (s.updCar fun c =>
        { c with op := .program c.page r.type (recImage r (c.seq.toNat + 1)) false, seq := c.seq + 1, recs := rest })))
      ∧ (s.flashMay = false → c.deferred = false → r.defers < 15 → exec (.recordWrite) s = .next (s.after (s.updCar fun c =>
        { c with deferred := true, deferrals := min (c.deferrals + 1) 0xFFFF, recs := { r with defers := r.defers + 1 } :: rest }))))
    ∧ (∀ (p type : Nat) (img : List Byte) (held : Bool), c.op = .program p type img held →
      ∃ t, exec (.flashProgramDone) s = .next (s.after t) ∧ t.car.op = .idle
        ∧ t.car.page = (p + 1) % max 1 (16 * c.recBlocks)
        ∧ ∀ i : Nat, Tbl.get 0xFF t.mem.flash i = (if s.pageAt p ≤ i ∧ i < s.pageAt p + img.length
            then img.getD (i - s.pageAt p) 0xFF else Tbl.get 0xFF s.mem.flash i))
    ∧ (∀ b : Nat, c.op = .erase b →
      ∃ t, exec (.flashProgramDone) s = .next (s.after t) ∧ t.car.op = .idle ∧ t.car.erased = true
        ∧ ∀ i : Nat, Tbl.get 0xFF t.mem.flash i = (if s.pageAt (16 * b) ≤ i ∧ i < s.pageAt (16 * b + 16)
            then 0xFF else Tbl.get 0xFF s.mem.flash i))
    ∧ (c.ageDue ≤ s.now → s.budgetLeft = false →
      exec (.ageingRecord) s = .next (s.after ((s.updCar fun c => { c with ageDue := c.ageDue + 2592000 * 200000000 }).carRecord 1
        s.agePayload)))
    ∧ (c.winStart + 20000000 ≤ s.now → c.recs = [] →
      exec (.carawayBudgetWindow) s = .next (s.after (s.updCar fun c =>
        { c with cloveUsed := min (1000 * c.cloveCount / max 1 (64 * (3 * s.time.hk - c.winCycle))) 0xFFFF, cloveCount := 0,
                 winStart := s.now, winCycle := 3 * s.time.hk })))
    ∧ (∀ (v : Vault) (l n : Nat), s.nextSlot v.val = some n →
      (s.slotLeft v.val n = false → exec (.retentionCanary v l []) s = .next (s.after s))
      ∧ (s.slotLeft v.val n = true → s.vaultTakes v.val l = true → s.marked (vaultLines * v.val + l) = false →
        Tbl.get [] s.mem.rawErr (vaultLines * v.val + l) = [] →
        exec (.retentionCanary v l []) s = .next (s.after
          ((((s.updVault v.val fun x => { x with charged := (n :: x.charged).take 100 }).openRow v.val l true)).count
            (0x300 + v.val) 1))))
    ∧ (s.atTick 200000 = true → s.pollDue 3 200000 = true →
      ∃ t, exec (.telemetryCapture) s = .next (s.after t) ∧ t.car.teleSeq = c.teleSeq + 1 ∧ t.nut.iPeak = s.nut.iLoad
        ∧ t.car.tele = c.tele ∧ Tbl.get [] t.carTick.car.tele 0 = s.teleThermal (c.teleSeq + 1)
        ∧ Tbl.get [] t.carTick.car.tele 1 = s.telePower (c.teleSeq + 1)
        ∧ Tbl.get [] t.carTick.car.tele 2 = s.teleMargin (c.teleSeq + 1))
    ∧ (s.carTick.car.mayStart = (decide (150 ≤ c.mj) && match c.holdupAt with | some t => decide (s.now < t + 6000000) | none => false))
    ∧ ∀ (a : Agent) (g : TelGroup) (word : Fin 32), s.mute a = false →
      s.regCode a (.telemetry g.val word.val) false .full = .okay →
      let latest := padTo 256 (Tbl.get [] c.tele g.val)
      let shown (t : State) (b : List Byte) : Host.Outcome State Fault Refusal :=
        .next (s.after (t.reply .okay (BitVec.ofNat 64 (le b (8 * word.val) 8))))
      let latched (ls : List TelLatch) : State := s.updCar fun c => { c with latches := ls ++ [⟨a, g.val, latest⟩] }
      (s.teleHeld a g.val = none → exec (.telemetryLatchRead a g word) s = shown (latched c.latches) latest)
      ∧ ∀ l, s.teleHeld a g.val = some l →
        (word = 0 → exec (.telemetryLatchRead a g word) s = shown (latched (c.latches.erase l)) latest)
        ∧ (word ≠ 0 → exec (.telemetryLatchRead a g word) s = shown s l.bytes)

/-- Reset, boot and security: what a cold reset keeps, the steps of the boot sequence, READY on the conditions at the start of the
HK cycle, the fuse commands, the debug unlock, whose check ends with the HK cycle, and signing (R522 to R549, R552).
The model's choices of logs 4, 53, 54 and 78 enter. -/
def Obligations.ResetBootAndSecurityAct : Prop :=
  ∀ s : State,
    let cold (t : State) : Prop := t.wrk = State.reset.wrk ∧ t.mem.dram = s.mem.dram ∧ t.mem.host = s.mem.host ∧ t.mem.tile = []
      ∧ t.boot.st = .reset ∧ t.boot.count = min (s.boot.count + 1) 0xFF ∧ t.commit = State.reset.commit
      ∧ t.sec = State.reset.sec ∧ t.fuse = s.fuseCut
    let log := s.err.reports.foldl (fun e x => e.put x.record) s.err
    let kept (t : State) : Prop := cold t ∧ t.time.blk = s.time.blk ∧ t.err.log = log.log ∧ t.err.write = log.write
    let sec (f : SecSt → SecSt) : State := { s with sec := f s.sec }
    (∃ t, exec (.pwrgoodFall) s = .next (s.after t) ∧ kept t ∧ t.boot.pwrgood = false ∧ t.pins.critOut = false)
    ∧ (∀ n : Nat, n < 100 → exec (.resetNLow n) s = .next (s.after s))
    ∧ (∀ n : Nat, 100 ≤ n → ∃ t, exec (.resetNLow n) s = .next (s.after t) ∧ kept t ∧ t.boot.resetN = false)
    ∧ (∃ t, exec (.vaonLoss) s = .next (s.after t) ∧ t.mem.dram = s.mem.dram ∧ t.wrk = State.reset.wrk
        ∧ t.time = State.reset.time ∧ t.err = State.reset.err ∧ t.car = State.reset.car ∧ t.boot.count = 0)
    ∧ (s.boot.st = .reset → s.boot.released = false → ∀ ok : Bool,
      ∃ t, exec (.bootRelease ok) s = .next (s.after t) ∧ t.boot.released = true ∧ t.boot.pufOk = ok ∧ t.boot.pwrgood = true
        ∧ t.boot.resetN = true ∧ (s.pins.holdupLow = true → t.pins.holdupEvent = true))
    ∧ (s.boot.st = .reset → s.boot.released = true →
      ∃ t, exec (.bootRootLock) s = .next (s.after t) ∧ t.clk.rootLocked = true ∧ t.boot.st = .rom
        ∧ t.slot 0 = extendSlot (s.slot 0) Config.romDigest ∧ (t.thread 0).run = .running ∧ (t.thread 0).pc = Config.romEntry)
    ∧ (s.boot.st = .rom →
      (s.boot.pufOk = false → exec (.bootRomStages) s
        = .next (s.after (({ s with boot := { s.boot with failStage := 5 } } : State).setBlk .romFail)))
      ∧ (s.boot.pufOk = true → s.boot.dirRead = false → ∀ (d : List Byte) (copy : Bool), s.bootDir = some (d, copy) →
        exec (.bootRomStages) s = .next (s.after { s.updCar (fun c => { c with
          recBase := le d 40 4, recBlocks := le d 44 2 % 1024, recEn := true }) with
            boot := { s.boot with dirRead := true, dirCopy := copy } }))
      ∧ (s.boot.pufOk = true → s.boot.dirRead = true → s.boot.scanDone = true → s.boot.planDone = true →
        let d := s.flashBytes (if s.boot.dirCopy then 0x1_0000 else 0) 256
        let b := s.bootStageB d
        ∃ t, exec (.bootRomStages) s = .next (s.after t) ∧ match b.1 with
          | none => t = b.2
          | some fw => t.boot.st = (if (b.2.bootStageD d).1 then .memory else .recovery) ∧ t.sec.locked = true
              ∧ (∀ v < 256, (t.vault v).st = 1)
              ∧ (t.thread 0).pc
                = BitVec.ofNat 64 (0xF000_0800_0000 + le (t.flashBytes fw 64) 24 4 + le (t.flashBytes fw 64) 28 4)))
    ∧ (s.boot.dirRead = true → s.boot.scanDone = false →
      ∃ t, exec (.recordScanDone) s = .next (s.after t) ∧ t.boot.scanDone = true ∧ t.car.erased = false
        ∧ ∀ m < 268, Tbl.get 0 s.fuse.baseline m ≤ Tbl.get 0 t.nut.age m)
    ∧ (∀ ok : Bool,
      (∀ v, s.sec.fuseOp = .fwFloor v → ∃ t, exec (.fuseProgramDone ok) s = .next (s.after t) ∧ t.sec.fuseOp = .none
        ∧ t.sec.fuseResult = (if ok then 0 else 8) ∧ t.fuse.fwRecs.length = s.fuse.fwRecs.length + 1
        ∧ t.fwFloor = (if ok then max s.fwFloor v.toNat else s.fwFloor) ∧ t.shapeFloor = s.shapeFloor)
      ∧ (∀ v, s.sec.fuseOp = .shapeFloor v → ∃ t, exec (.fuseProgramDone ok) s = .next (s.after t) ∧ t.sec.fuseOp = .none
        ∧ t.sec.fuseResult = (if ok then 0 else 8) ∧ t.fuse.shapeRecs.length = s.fuse.shapeRecs.length + 1
        ∧ t.shapeFloor = (if ok then max s.shapeFloor v.toNat else s.shapeFloor) ∧ t.fwFloor = s.fwFloor)
      ∧ ∀ k, s.sec.fuseOp = .revoke k → ∃ t, exec (.fuseProgramDone ok) s = .next (s.after t) ∧ t.sec.fuseOp = .none
        ∧ (t.keySlot k).revoked = (ok || (s.keySlot k).revoked) ∧ t.fuse.fwRecs = s.fuse.fwRecs)
    ∧ (s.sec.level ≠ 0 → s.sec.expiry.toNat ≤ s.now →
      ∃ t, exec (.unlockExpiry) s = .next (s.after t) ∧ t.sec = { s.sec with level := 0 } ∧ t.err.injArmed = false)
    ∧ (∀ k, s.sec.signBusy = true → s.sec.signNew = false → s.sec.aliasKey = some k →
      ∃ t, exec (.signDone) s = .next (s.after t) ∧ t.sec.signBusy = false ∧ t.sec.signResult = 0
        ∧ ∀ w < 12, Tbl.get 0 t.sec.signSig w = BitVec.ofNat 64 (le (padTo 96 (Config.signature k s.sec.signBuf)) (8 * w) 8))
    ∧ (s.readyTick.boot.readyCond = 0 ↔ s.boot.st = .memory ∧ s.commit.epoch ≠ 0 ∧ (∀ v < 256, (s.vault v).st = 2)
        ∧ s.boot.scanDone = true ∧ s.boot.planDone = true ∧ s.sec.locked = true)
    ∧ (s.sec.dbgBusy = true → s.injHit 0x3A 0x494 0 = false →
      let b := Tbl.getMany 0 s.sec.token 0 7312
      let x := s.tokenCode b
      let t := s.debugTick
      t.sec.dbgBusy = false ∧ t.sec.dbgResult = x
        ∧ t.sec.level = (if s.sec.dbgLock = true then 0 else if x = 0 then le b 4 1 else s.sec.level)
        ∧ (x = 0 → le b 4 1 = 3 → t.sec.aliasKey = none)
        ∧ (x ≠ 0 → t.err.queue = s.err.queue ++ [mkDet 0x3A 0x494 0 x]))
    ∧ ∀ a : Agent, s.mute a = false →
      let okay (t : State) : Host.Outcome State Fault Refusal := .next (s.after (t.reply .okay 0))
      (s.regCode a .blkCtrl true .full = .okay →
        (∃ t : State, exec (.coldReset a) s = okay t ∧ kept t)
        ∧ (let code := if s.boot.st ≠ .memory then 1 else s.boot.readyCond
           let t : State := { s with boot := { s.boot with readyResult := code } }
           exec (.blkReady a) s = okay (if code = 0 then t.setBlk .ready else t)))
      ∧ (s.regCode a .secFuseCmd true .full = .okay →
        (let x := s.floorCode false s.sec.fuseArg.toNat
         exec (.advanceFwFloor a) s = okay (sec fun y => { y with
          fuseResult := x, shapeLast := false, fuseOp := if x = 0 then .fwFloor s.sec.fuseArg else y.fuseOp }))
        ∧ (let x := s.floorCode true s.sec.fuseArg.toNat
           exec (.advanceShapeFloor a) s = okay (sec fun y => { y with
            fuseResult := x, shapeLast := true, fuseOp := if x = 0 then .shapeFloor s.sec.fuseArg else y.fuseOp }))
        ∧ (let x := s.revokeCode s.sec.fuseArg.toNat
           exec (.revokeKey a) s = okay (sec fun y => { y with
            fuseResult := x, fuseOp := if x = 0 then .revoke (s.sec.fuseArg.toNat % 16) else y.fuseOp })))
      ∧ (s.regCode a .dbgCmd true .full = .okay →
        exec (.debugCheck a) s = okay (sec fun y => if y.dbgBusy then { y with dbgResult := 8 } else { y with dbgBusy := true })
        ∧ ∃ t : State, exec (.debugLock a) s = okay t ∧ t.sec = { s.sec with level := 0, dbgLock := s.sec.dbgBusy })
      ∧ (s.regCode a .signCmd true .full = .okay →
        (s.sec.signBusy = true → exec (.sign a) s = okay (sec fun y => { y with signResult := 1 }))
        ∧ (s.sec.signBusy = false → s.sec.aliasKey = none → exec (.sign a) s = okay (sec fun y => { y with signResult := 2 }))
        ∧ (s.sec.signBusy = false → s.sec.aliasKey ≠ none →
          exec (.sign a) s = okay (sec fun y => { y with
            signBusy := true, signNew := true, signResult := 0,
            signBuf := (List.range 6).flatMap fun w => natToBytes (Tbl.get 0 y.signDigest w).toNat 8 })))

/-- Pins, time and the register window: what each pin event changes, that block time moves with every housekeeping cycle, and
that a register access an agent may not make answers its code and changes nothing else (R10, R22, R25, R420, R551, R553, R557,
R558, R562, R563, R566, R567).
The model's choices of logs 5, 9, 30 and 55 enter. -/
def Obligations.PinsTimeAndRegisterAccessesAct : Prop :=
  ∀ s : State,
    (∃ t, exec (.holdupLow) s = .next (s.after t) ∧ t.pins.holdupLow = true ∧ t.pins.holdupEvent = true
      ∧ t.sched.ipi = s.sched.ipi ||| BitVec.ofNat 64 (2 ^ s.nut.irqThread) ∧ ∀ q, t.holdLevel q = max 8 (s.holdLevel q))
    ∧ exec (.holdupRestore) s = .next (s.after { s with pins := { s.pins with holdupLow := false } })
    ∧ (s.pins.refclkOk = true → exec (.refclkLoss) s
        = .next (s.after (State.raise { s with pins := { s.pins with refclkOk := false } } 0x2E 0x490 0 0)))
    ∧ exec (.refclkRestore) s = .next (s.after { s with pins := { s.pins with refclkOk := true } })
    ∧ (∀ spine : List Nat, exec (.critComparator spine) s = .next (s.after { s with pins := { s.pins with
        critOut := s.pins.critOut || (spine.take 4).any fun t => decide (110 ≤ t) } }))
    ∧ (∀ bs : List Byte, s.boot.released = true →
      exec (.i3cMctpPacket (0x01 :: bs)) s = .next (s.after { s with pins := { s.pins with mctp := s.pins.mctp ++ [0x01 :: bs] } }))
    ∧ (∀ off : List Byte, s.boot.released = true → off.length = 4 →
      let r := s.offRead .board (bytesToNat off) .full
      ∃ t, exec (.i3cRegisterAccess ([0xA5, 0x01] ++ off)) s = .next (s.after t) ∧ t.answer.code = r.1 ∧ t.answer.data = r.2.1
        ∧ t.pins.i3cOut = BitVec.ofNat 8 (busInfo r.1) :: natToBytes r.2.1.toNat 8)
    ∧ (∀ tms tdi : Bool,
      (∀ rising, exec (.tckEdge rising tms tdi true) s
        = .next (s.after { s with pins := { s.pins with tap := .testLogicReset, tapIr := 1, tdo := none } }))
      ∧ ∃ t, exec (.tckEdge true tms tdi false) s = .next (s.after t) ∧ t.pins.tap = tapNext s.pins.tap tms
        ∧ t.pins.tdo = s.pins.tdo ∧ (s.pins.tap = .shiftDr → t.pins.tapDr = s.pins.tapDr.drop 1 ++ [tdi])
        ∧ (s.pins.tap = .captureDr → s.pins.tapIr = 1 → t.pins.tapDr = (List.range 32).map (bitOf 0x00902A37)))
    ∧ (s.blkFailN = false ↔ s.boot.st = .failed ∨ s.boot.st = .romFail)
    ∧ (∀ h : Nat, s.pipeResetN h = true ↔ (s.cfg.hostOf h).enable = 1 ∧ (s.hostPort h).isolated = false)
    ∧ (∀ p i : Nat, s.lnkMode p i = if (s.cfg.linkOf p).lanes.getLsbD i then (s.cfg.linkOf p).mode else 0)
    ∧ (s.clk.mult = 64 → s.xspiDiv = 2) ∧ (s.clk.mult = 96 → s.xspiDiv = 3) ∧ (s.boot.st = .romFail → s.xspiHighZ = true)
    ∧ (∀ target : TimerTarget, exec (.timerInterrupt target) s = .next (s.after s))
    ∧ (s.clk.rootLocked = true → s.clk.relock = false →
      let parts := s.time.rem + 1013760 / max 1 s.clk.mult
      s.time.blk.toNat + parts / 10560 < 2 ^ 64 →
      ∃ t, exec (.blkTimeAdvance) s = .next (s.after t) ∧ t.time.blk.toNat = s.time.blk.toNat + parts / 10560
        ∧ t.time.rem = parts % 10560 ∧ t.time.hk = s.time.hk + 1
        ∧ t.time.core = (if s.coreClock then s.time.core + 12 else s.time.core))
    ∧ ∀ (a : Agent) (page : Bool) (off : BitVec 28) (w : Width) (val : W64),
      (s.mute a = true → exec (.registerWrite a ⟨page, off⟩ w val) s = .next (s.after s)
        ∧ exec (.rcRead a ⟨page, off⟩ w) s = .next (s.after s))
      ∧ (s.mute a = false →
        let refused (c : BusResp) : Host.Outcome State Fault Refusal := .next (s.after (s.reply c 0))
        (hostOffset a page off.toNat = none →
          exec (.registerWrite a ⟨page, off⟩ w val) s = refused .decode ∧ exec (.rcRead a ⟨page, off⟩ w) s = refused .decode)
        ∧ ∀ o : Nat, hostOffset a page off.toNat = some o →
          (placeAt o w = none →
            exec (.registerWrite a ⟨page, off⟩ w val) s = refused .decode ∧ exec (.rcRead a ⟨page, off⟩ w) s = refused .decode)
          ∧ ∀ r : Reg, placeAt o w = some (.reg r) →
            (s.regCode a r true w = .okay →
              exec (.registerWrite a ⟨page, off⟩ w val) s = .next (s.after ((s.regPut a r w val).reply .okay 0)))
            ∧ (s.regCode a r true w ≠ .okay → exec (.registerWrite a ⟨page, off⟩ w val) s = refused (s.regCode a r true w))
            ∧ (s.regCode a r false w = .okay → exec (.rcRead a ⟨page, off⟩ w) s
                = .next (s.after ((s.regReadEffect a r w).reply .okay (s.regVal a r &&& w.mask))))
            ∧ (s.regCode a r false w ≠ .okay → exec (.rcRead a ⟨page, off⟩ w) s = refused (s.regCode a r false w)))

/-- Shape images and mode commits: LOAD verifies, a passing re-shape is staged and a failing one answers its code, GO takes
every staged setting as participants, the last acknowledgement completes the commit, and a commit past its limit reverts (R61
to R74).
The model's choices of logs 6 and 57 enter. -/
def Obligations.ShapeImagesAndCommitsAct : Prop :=
  ∀ (a : Agent) (s : State),
    let okay (t : State) : Host.Outcome State Fault Refusal := .next (s.after (t.reply .okay 0))
    let c := s.commit
    (s.mute a = false → s.regCode a .shpCmd true .full = .okay →
      (c.active = false → s.shape.st = .idle →
        exec (.shapeLoad a) s = okay { s with shape := { s.shape with st := .verifying } })
      ∧ ((c.active = true ∨ s.shape.st ≠ .idle) →
        exec (.shapeLoad a) s = okay { s with shape := { s.shape with result := 0x0C } }))
    ∧ (s.shape.st = .verifying →
      let len := s.shape.srcLen
      let fits := decide (4944 ≤ len) && decide (len ≤ 4194304) && len % 16 == 0
      let here := decide (s.shape.srcAddr + len ≤ stackedBytes)
      (∀ w, (if fits && here then s.rangeWait s.shape.srcAddr len false else none) = some w →
        exec (.shapeLoadDone) s = .next (s.after w))
      ∧ ((if fits && here then s.rangeWait s.shape.srcAddr len false else none) = none →
        let r := if fits && here then s.rangeRead s.shape.srcAddr len else (s, .okay, [], false)
        let x := r.1.loadCtx len (!here || r.2.2.2) false
        let code := imageCheck x r.2.2.1
        r.1.recovering = false → r.1.injHit 0x39 0x494 0 = false →
        ∃ t, exec (.shapeLoadDone) s = .next (s.after t) ∧
          if code = 0 then t.shape.st = .staged ∧ t.shape.result = 0 ∧ t.cfg = r.1.cfg
            ∧ ∃ i, t.shape.staged = some i ∧ i.cfg = imageResult r.1.cfg ((imageSections r.2.2.1 len).getD [])
              ∧ i.digest = imageDigest x r.2.2.1
          else t = State.raise { r.1 with shape := { r.1.shape with
            st := .idle, result := code, sections := sectionMask r.2.2.1 len } } 0x39 0x494 0 code))
    ∧ (s.mute a = false → s.regCode a .modeCommit true .full = .okay →
      (c.active = true →
        exec (.modeCommitGo a) s = okay { s with commit := { c with busyReject := true } }
        ∧ exec (.modeCommitDiscard a) s = okay { s with commit := { c with busyReject := true } })
      ∧ (c.active = false → s.participants = [] → s.shape.staged = none →
        exec (.modeCommitGo a) s = okay { s with commit := { c with parts := [], acked := [], withheld := [], result := 3 } })
      ∧ (c.active = false → s.participants ≠ [] →
        exec (.modeCommitGo a) s = okay { s with
          commit := { c with active := true, parts := s.participants, acked := [], withheld := [], deadline := s.now + 20000,
                             image := s.shape.staged, withOp := s.clk.stgPend },
          shape := { s.shape with staged := none, st := if s.shape.staged.isSome then .committing else s.shape.st } })
      ∧ (c.active = false → ∃ t : State, exec (.modeCommitDiscard a) s = okay t ∧ t.shape.staged = none
          ∧ t.shape.st = .idle ∧ t.clk.stgPend = false ∧ ∀ n : Nat, (t.core n).fpPend = false))
    ∧ (∀ u : BitVec 16, c.active = true → u.toNat ∈ c.parts → u.toNat ∉ c.acked → u.toNat ∉ c.withheld → s.now < c.deadline →
      s.boundary u.toNat = true →
      (s.injHit 0x3B u.toNat 0 = false → c.withOp = false → exec (.participantApply u) s
        = .next (s.after { s with commit := { c with acked := c.acked ++ [u.toNat] } }))
      ∧ (s.injHit 0x3B u.toNat 0 = true → ∃ t, exec (.participantApply u) s = .next (s.after t)
          ∧ t.commit = { c with withheld := u.toNat :: c.withheld }))
    ∧ (c.active = true → (∀ u ∈ c.parts, u ∈ c.acked) → c.withOp = false →
      ∃ t, exec (.modeCommitComplete) s = .next (s.after t) ∧ t.commit.active = false ∧ t.commit.result = 1
        ∧ t.commit.epoch = c.epoch + 1 ∧ t.commit.epochTime = s.time.blk
        ∧ (∀ i, c.image = some i → t.cfg = i.cfg ∧ t.shape.reshapeSeq = i.seq ∧ t.slot 4 = extendSlot (s.slot 4) i.digest)
        ∧ (c.image = none → t.cfg = s.cfg))
    ∧ (c.active = true → (∃ u ∈ c.parts, u ∉ c.acked) → c.deadline ≤ s.now →
      ∃ t, exec (.modeCommitRevert) s = .next (s.after t) ∧ t.commit.active = false ∧ t.commit.result = 2
        ∧ t.commit.epoch = c.epoch ∧ t.cfg = s.cfg
        ∧ t.commit.failUnit = BitVec.ofNat 16 ((c.parts.filter fun u => !c.acked.contains u).foldl min 0xFFFF))
    ∧ ∀ (n : Core) (val : W64), s.mute a = false → s.regCode a (.wrkFpStg n.val) true .full = .okay →
      (c.active = true → exec (.fpdefaultStageWrite a n val) s = okay { s with commit := { c with stageReject := true } })
      ∧ (c.active = false → exec (.fpdefaultStageWrite a n val) s
          = okay (s.updCore n.val fun w => { w with fpStg := val.setWidth 4, fpPend := true }))
end

