-- ==== Sys2Proof/Laws/Table.lean ====
section
/-! SUPPORT. The laws of the sparse tables: reading what was written, leaving other keys alone, and keeping the canonical
form. -/

namespace Sys2Proof.Tbl

variable {α : Type}

/-! ## Reading after writing. -/

theorem get_put_self (d : α) (t : Tbl α) (k : Nat) (v : α) : get d (put k v t) k = v := by
  induction t with
  | nil => simp [put, get]
  | cons e r ih =>
    obtain ⟨j, w⟩ := e
    simp only [put]
    split
    · simp [get]
    · split
      · simp [get]
      · rename_i h
        simp [get, Ne.symm h, ih]

theorem get_put_other (d : α) (t : Tbl α) {k i : Nat} (v : α) (h : i ≠ k) : get d (put k v t) i = get d t i := by
  induction t with
  | nil => simp [put, get, Ne.symm h]
  | cons e r ih =>
    obtain ⟨j, w⟩ := e
    simp only [put]
    split
    · simp [get, Ne.symm h]
    · split
      · subst_vars
        simp [get, Ne.symm h]
      · simp [get, ih]

theorem get_del_self (d : α) (t : Tbl α) (k : Nat) : get d (del k t) k = d := by
  induction t with
  | nil => rfl
  | cons e r ih =>
    obtain ⟨j, w⟩ := e
    simp only [del]
    split
    · exact ih
    · rename_i h
      simp [get, h, ih]

theorem get_del_other (d : α) (t : Tbl α) {k i : Nat} (h : i ≠ k) : get d (del k t) i = get d t i := by
  induction t with
  | nil => rfl
  | cons e r ih =>
    obtain ⟨j, w⟩ := e
    simp only [del]
    split
    · subst_vars
      simp [get, Ne.symm h, ih]
    · simp [get, ih]

variable [DecidableEq α]

@[simp] theorem get_set_self (d : α) (t : Tbl α) (k : Nat) (v : α) : get d (set d t k v) k = v := by
  unfold set
  split
  · subst_vars
    exact get_del_self ..
  · exact get_put_self ..

theorem get_set_other (d : α) (t : Tbl α) {k i : Nat} (v : α) (h : i ≠ k) : get d (set d t k v) i = get d t i := by
  unfold set
  split
  · exact get_del_other d t h
  · exact get_put_other d t v h

/-- A read after a write to the same key gives the value written, and a write leaves every other key alone. -/
theorem get_set (d : α) (t : Tbl α) (k i : Nat) (v : α) : get d (set d t k v) i = if i = k then v else get d t i := by
  split
  · subst_vars
    exact get_set_self ..
  · exact get_set_other d t v ‹_›

@[simp] theorem get_upd_self (d : α) (t : Tbl α) (k : Nat) (f : α → α) : get d (upd d t k f) k = f (get d t k) :=
  get_set_self ..

theorem get_upd_other (d : α) (t : Tbl α) {k i : Nat} (f : α → α) (h : i ≠ k) : get d (upd d t k f) i = get d t i :=
  get_set_other d t _ h

/-- A run of writes is read back below its end, and leaves every key outside it alone. -/
theorem get_setMany (d : α) (vs : List α) (t : Tbl α) (k i : Nat) :
    get d (setMany d t k vs) i = if k ≤ i ∧ i < k + vs.length then vs.getD (i - k) d else get d t i := by
  induction vs generalizing t k with
  | nil => rw [if_neg (by simp)]; rfl
  | cons v vs ih =>
    rw [setMany, ih, get_set]
    by_cases h : i = k
    · subst h
      rw [if_neg (by omega), if_pos rfl, if_pos (by simp)]
      simp
    · by_cases c : k + 1 ≤ i ∧ i < k + 1 + vs.length
      · have e : i - k = (i - (k + 1)) + 1 := by omega
        rw [if_pos c, if_pos (by simp; omega), e, List.getD_cons_succ]
      · rw [if_neg c, if_neg h, if_neg (by simp; omega)]

omit [DecidableEq α] in
/-- What a cut removes reads as the default, and the rest is as before. -/
theorem get_cut (d : α) (lo hi : Nat) (t : Tbl α) (i : Nat) :
    get d (cut lo hi t) i = if lo ≤ i ∧ i < hi then d else get d t i := by
  induction t with
  | nil => simp [cut, get]
  | cons e r ih =>
    obtain ⟨j, w⟩ := e
    simp only [cut, List.filter] at ih ⊢
    by_cases c : lo ≤ j ∧ j < hi
    · have : (!(decide (lo ≤ j) && decide (j < hi))) = false := by simp [c]
      simp only [this, ih, get]
      by_cases h : j = i
      · subst h
        simp [c]
      · simp [h]
    · have : (!(decide (lo ≤ j) && decide (j < hi))) = true := by simp; omega
      simp only [this, get, ih]
      by_cases h : j = i
      · subst h
        simp [c]
      · simp [h]

/-! ## The canonical form. -/

theorem wfFrom_cons (d : α) (lo : Option Nat) (j : Nat) (w : α) (r : Tbl α) :
    wfFrom d lo ((j, w) :: r) = true ↔ (∀ b, lo = some b → b < j) ∧ w ≠ d ∧ wfFrom d (some j) r = true := by
  cases lo <;> simp [wfFrom, and_assoc]

/-- A bound from which keys rise still holds of a smaller one. -/
theorem wfFrom_mono (d : α) {a : Nat} {lo : Option Nat} {t : Tbl α} (h : wfFrom d (some a) t = true)
    (hlo : ∀ b, lo = some b → b ≤ a) : wfFrom d lo t = true := by
  cases t with
  | nil => simp [wfFrom]
  | cons e r =>
    rw [wfFrom_cons] at h ⊢
    exact ⟨fun b hb => Nat.lt_of_le_of_lt (hlo b hb) (h.1 a rfl), h.2⟩

theorem wfFrom_del (d : α) (k : Nat) {lo : Option Nat} {t : Tbl α} (h : wfFrom d lo t = true) :
    wfFrom d lo (del k t) = true := by
  induction t generalizing lo with
  | nil => simp [del, wfFrom]
  | cons e r ih =>
    rw [wfFrom_cons] at h
    simp only [del]
    split
    · exact wfFrom_mono d (ih h.2.2) fun b hb => Nat.le_of_lt (h.1 b hb)
    · exact (wfFrom_cons ..).2 ⟨h.1, h.2.1, ih h.2.2⟩

theorem wfFrom_put (d : α) {k : Nat} {v : α} (hv : v ≠ d) {lo : Option Nat} {t : Tbl α} (h : wfFrom d lo t = true)
    (hk : ∀ b, lo = some b → b < k) : wfFrom d lo (put k v t) = true := by
  induction t generalizing lo with
  | nil => exact (wfFrom_cons ..).2 ⟨hk, hv, by simp [wfFrom]⟩
  | cons e r ih =>
    obtain ⟨j, w⟩ := e
    rw [wfFrom_cons] at h
    simp only [put]
    split
    · refine (wfFrom_cons ..).2 ⟨hk, hv, (wfFrom_cons ..).2 ⟨?_, h.2⟩⟩
      rintro b ⟨⟩
      assumption
    · split
      · subst_vars
        exact (wfFrom_cons ..).2 ⟨hk, hv, h.2.2⟩
      · refine (wfFrom_cons ..).2 ⟨h.1, h.2.1, ih h.2.2 ?_⟩
        rintro b ⟨⟩
        omega

theorem wf_set (d : α) {t : Tbl α} (k : Nat) (v : α) (h : wf d t = true) : wf d (set d t k v) = true := by
  unfold set
  split
  · exact wfFrom_del d k h
  · exact wfFrom_put d ‹_› h (by simp)

theorem wf_setMany (d : α) (vs : List α) {t : Tbl α} (k : Nat) (h : wf d t = true) : wf d (setMany d t k vs) = true := by
  induction vs generalizing t k with
  | nil => exact h
  | cons v vs ih => exact ih (k + 1) (wf_set d k v h)

theorem wfFrom_cut (d : α) (a b : Nat) {lo : Option Nat} {t : Tbl α} (h : wfFrom d lo t = true) :
    wfFrom d lo (cut a b t) = true := by
  induction t generalizing lo with
  | nil => simp [cut, wfFrom]
  | cons e r ih =>
    rw [wfFrom_cons] at h
    simp only [cut, List.filter] at ih ⊢
    split
    · exact (wfFrom_cons ..).2 ⟨h.1, h.2.1, ih h.2.2⟩
    · exact wfFrom_mono d (ih h.2.2) fun b hb => Nat.le_of_lt (h.1 b hb)

theorem wf_cut (d : α) (a b : Nat) {t : Tbl α} (h : wf d t = true) : wf d (cut a b t) = true := wfFrom_cut d a b h

theorem wf_fold_set {β : Type} (d : α) (g : β → Nat) (f : Tbl α → β → α) (l : List β) {t : Tbl α} (h : wf d t = true) :
    wf d (l.foldl (fun t x => set d t (g x) (f t x)) t) = true := by
  induction l generalizing t with
  | nil => exact h
  | cons x l ih => exact ih (wf_set d _ _ h)

end Sys2Proof.Tbl
end

