-- ==== Sys2Proof/Laws/Memory.lean ====
section
/-! SUPPORT. The laws of the memories: what a read of written bytes gives, and that every operation keeps the canonical
form. -/

namespace Sys2Proof.Machine

/-! ## Reading after writing. -/

/-- The bytes of tile memory that a write leaves: the written ones, and the others as they were. -/
theorem tileWrite_tile (s : State) (n off : Nat) (bs : List Byte) (p : Bool) (a : Nat) :
    Tbl.get 0 (s.tileWrite n off bs p).mem.tile a =
      if 0x40_0000 * n + off ≤ a ∧ a < 0x40_0000 * n + off + bs.length then bs.getD (a - (0x40_0000 * n + off)) 0
      else Tbl.get 0 s.mem.tile a := by
  unfold State.tileWrite
  split
  · rename_i e
    have : bs = [] := by simpa using e
    subst this
    rw [if_neg (by simp)]
  · exact Tbl.get_setMany ..

/-- A write to cluster SRAM leaves its other bytes alone. -/
theorem sramWrite_sram (s : State) (off : Nat) (bs : List Byte) (a : Nat) :
    Tbl.get 0 (s.sramWrite off bs).mem.sram a =
      if off ≤ a ∧ a < off + bs.length then bs.getD (a - off) 0 else Tbl.get 0 s.mem.sram a :=
  Tbl.get_setMany ..

/-! ## The canonical form. -/

/-- The canonical form, memory by memory. -/
structure MemSt.Canonical (m : MemSt) : Prop where
  dram : Tbl.wf 0 m.dram = true
  poison : Tbl.wf 0 m.poison = true
  rawErr : Tbl.wf [] m.rawErr = true
  tile : Tbl.wf 0 m.tile = true
  tilePoison : Tbl.wf false m.tilePoison = true
  tileErr : Tbl.wf false m.tileErr = true
  host : Tbl.wf 0 m.host = true
  hostPoison : Tbl.wf false m.hostPoison = true
  sram : Tbl.wf 0 m.sram = true
  tcm : Tbl.wf 0 m.tcm = true
  clvPoison : Tbl.wf false m.clvPoison = true
  flash : Tbl.wf 0xFF m.flash = true

theorem MemSt.wf_iff (m : MemSt) : m.wf = true ↔ m.Canonical := by
  constructor
  · intro h
    simp only [MemSt.wf, Bool.and_eq_true] at h
    obtain ⟨⟨⟨⟨⟨⟨⟨⟨⟨⟨⟨h1, h2⟩, h3⟩, h4⟩, h5⟩, h6⟩, h7⟩, h8⟩, h9⟩, h10⟩, h11⟩, h12⟩ := h
    exact ⟨h1, h2, h3, h4, h5, h6, h7, h8, h9, h10, h11, h12⟩
  · intro h
    simp only [MemSt.wf, Bool.and_eq_true]
    exact ⟨⟨⟨⟨⟨⟨⟨⟨⟨⟨⟨h.dram, h.poison⟩, h.rawErr⟩, h.tile⟩, h.tilePoison⟩, h.tileErr⟩, h.host⟩, h.hostPoison⟩, h.sram⟩, h.tcm⟩,
      h.clvPoison⟩, h.flash⟩

theorem reset_mem_wf : State.reset.mem.wf = true := by decide

variable {s : State}

/-- What leaves the memories alone keeps the form. -/
theorem wf_of_mem {t : State} (e : t.mem = s.mem) (h : s.mem.wf = true) : t.mem.wf = true := e ▸ h

theorem rawWrite_wf (l : Nat) (m : BitVec 128) (d : Line128) (p : Bool) (h : s.mem.wf = true) :
    (s.rawWrite l m d p).mem.wf = true := by
  rw [MemSt.wf_iff] at h ⊢
  unfold State.rawWrite
  simp only
  split
  · exact { h with dram := Tbl.wf_setMany _ _ _ h.dram, poison := Tbl.wf_set _ _ _ h.poison,
                   rawErr := Tbl.wf_set _ _ [] h.rawErr }
  · split
    · exact { h with host := Tbl.wf_setMany _ _ _ h.host, hostPoison := Tbl.wf_set _ _ _ h.hostPoison }
    · exact h

theorem tileWrite_wf (n off : Nat) (bs : List Byte) (p : Bool) (h : s.mem.wf = true) :
    (s.tileWrite n off bs p).mem.wf = true := by
  rw [MemSt.wf_iff] at h ⊢
  unfold State.tileWrite
  split
  · exact h
  · refine { h with tile := Tbl.wf_setMany _ _ _ h.tile, tilePoison := Tbl.wf_fold_set _ _ _ _ h.tilePoison, tileErr := ?_ }
    show Tbl.wf false (if s.mem.tileErr.isEmpty then _ else _) = true
    split
    · exact h.tileErr
    · exact Tbl.wf_fold_set _ _ _ _ h.tileErr

theorem sramWrite_wf (off : Nat) (bs : List Byte) (h : s.mem.wf = true) : (s.sramWrite off bs).mem.wf = true := by
  rw [MemSt.wf_iff] at h ⊢
  refine { h with sram := Tbl.wf_setMany _ _ _ h.sram, clvPoison := ?_ }
  show Tbl.wf false (if s.mem.clvPoison.isEmpty then [] else _) = true
  split
  · rfl
  · exact Tbl.wf_cut _ _ _ h.clvPoison

theorem clvPut_wf (tcm : Bool) (off : Nat) (bs : List Byte) (h : s.mem.wf = true) :
    (s.clvPut tcm off bs).mem.wf = true := by
  rw [MemSt.wf_iff] at h ⊢
  unfold State.clvPut
  cases tcm <;> simp only [State.updMem, Bool.false_eq_true, if_false, if_true] <;> split
  · exact { h with sram := Tbl.wf_setMany _ _ _ h.sram, clvPoison := Tbl.wf_set _ _ false h.clvPoison }
  · exact { h with sram := Tbl.wf_setMany _ _ _ h.sram }
  · exact { h with tcm := Tbl.wf_setMany _ _ _ h.tcm, clvPoison := Tbl.wf_set _ _ false h.clvPoison }
  · exact { h with tcm := Tbl.wf_setMany _ _ _ h.tcm }

theorem zeroDone_wf (v : Nat) (h : s.mem.wf = true) : (s.zeroDone v).mem.wf = true := by
  rw [MemSt.wf_iff] at h ⊢
  unfold State.zeroDone
  split
  · exact h
  · exact { h with dram := Tbl.wf_cut _ _ _ h.dram, poison := Tbl.wf_cut _ _ _ h.poison, rawErr := Tbl.wf_cut _ _ _ h.rawErr }

theorem tileReset_wf (n : Nat) (h : s.mem.wf = true) : (s.tileReset n).mem.wf = true := by
  rw [MemSt.wf_iff] at h ⊢
  unfold State.tileReset
  simp only
  split <;> exact { h with tile := Tbl.wf_cut _ _ _ h.tile, tilePoison := Tbl.wf_cut _ _ _ h.tilePoison,
                           tileErr := Tbl.wf_cut _ _ _ h.tileErr }

theorem clvReset_wf (c : Nat) (h : s.mem.wf = true) : (s.clvReset c).mem.wf = true := by
  rw [MemSt.wf_iff] at h ⊢
  exact { h with tcm := Tbl.wf_cut _ _ _ h.tcm, clvPoison := Tbl.wf_cut _ _ _ h.clvPoison }

theorem flashDone_wf (h : s.mem.wf = true) : s.flashDone.mem.wf = true := by
  have h' := (MemSt.wf_iff _).1 h
  unfold State.flashDone
  split
  · exact h
  · exact (MemSt.wf_iff _).2 { h' with flash := Tbl.wf_cut _ _ _ h'.flash }
  · simp only
    split <;> exact (MemSt.wf_iff _).2 { h' with flash := Tbl.wf_setMany _ _ _ h'.flash }

theorem drawBytes_mem (s : State) (n : Nat) : (s.drawBytes n).2.mem = s.mem := by
  induction n generalizing s with
  | zero => rfl
  | succ n ih => exact ih _

theorem flash_setMany_wf {t : State} (a : Nat) (bs : List Byte) (h : t.mem.wf = true) :
    (t.updMem fun m => { m with flash := Tbl.setMany 0xFF m.flash a bs }).mem.wf = true := by
  rw [MemSt.wf_iff] at h ⊢
  exact { h with flash := Tbl.wf_setMany _ _ _ h.flash }

theorem flash_free_wf {t : State} (k a : Nat) (g : List Byte → List Byte) (h : t.mem.wf = true) :
    ((t.drawBytes k).2.updMem fun m => { m with flash := Tbl.setMany 0xFF m.flash a (g (t.drawBytes k).1) }).mem.wf = true :=
  flash_setMany_wf _ _ (by rw [drawBytes_mem]; exact h)

theorem flash_fold_wf (k : Nat) (f : Nat → Nat) (g : List Byte → List Byte) (l : List Nat) {t : State}
    (h : t.mem.wf = true) :
    (l.foldl (fun t i => (t.drawBytes k).2.updMem fun m =>
      { m with flash := Tbl.setMany 0xFF m.flash (f i) (g (t.drawBytes k).1) }) t).mem.wf = true := by
  induction l generalizing t with
  | nil => exact h
  | cons i l ih => exact ih (flash_free_wf k (f i) g h)

theorem flashCut_wf (h : s.mem.wf = true) : s.flashCut.mem.wf = true := by
  unfold State.flashCut
  generalize 4096 = k
  split
  · exact h
  · exact flash_free_wf k _ brokenPage h
  · exact flash_fold_wf k (fun i => s.pageAt (16 * _ + i)) brokenPage _ h

theorem coldReset_wf (h : s.mem.wf = true) : s.coldReset.mem.wf = true := by
  have hc := (MemSt.wf_iff _).1 (flashCut_wf h)
  have e : s.coldReset.mem = { State.reset.mem with
    dram := s.flashCut.mem.dram, poison := s.flashCut.mem.poison, rawErr := s.flashCut.mem.rawErr,
    host := s.flashCut.mem.host, flash := s.flashCut.mem.flash } := by
    simp only [State.coldReset]
  rw [e]
  exact (MemSt.wf_iff _).2 { ((MemSt.wf_iff _).1 reset_mem_wf) with
    dram := hc.dram, poison := hc.poison, rawErr := hc.rawErr, host := hc.host, flash := hc.flash }

theorem damage_wf (l : Nat) (syms : List Nat) (bits : Byte) (h : s.mem.wf = true) :
    (s.damage l syms bits).mem.wf = true := by
  have h' := (MemSt.wf_iff _).1 h
  unfold State.damage
  split
  · exact (MemSt.wf_iff _).2 { h' with rawErr := Tbl.wf_set _ _ _ h'.rawErr }
  · exact h

theorem tilePoison_set_wf (w : Nat) (p q : Bool) (h : s.mem.wf = true) :
    (s.updMem fun x => { x with tileErr := Tbl.set false x.tileErr w p, tilePoison := Tbl.set false x.tilePoison w q }).mem.wf
      = true := by
  rw [MemSt.wf_iff] at h ⊢
  exact { h with tileErr := Tbl.wf_set _ _ _ h.tileErr, tilePoison := Tbl.wf_set _ _ _ h.tilePoison }

end Sys2Proof.Machine
end

