-- ==== Sys2Proof/Laws/State.lean ====
section
/-! SUPPORT. One lemma per field of State per update: the fields that an update leaves alone, and the unit that it
changes. -/

namespace Sys2Proof.Machine

variable (s : State)

/-! ## updCore -/

@[simp] theorem updCore_pending (n : Nat) (f : Wrk → Wrk) : (s.updCore n f).pending = s.pending := rfl
@[simp] theorem updCore_answer (n : Nat) (f : Wrk → Wrk) : (s.updCore n f).answer = s.answer := rfl
@[simp] theorem updCore_free (n : Nat) (f : Wrk → Wrk) : (s.updCore n f).free = s.free := rfl
@[simp] theorem updCore_shape (n : Nat) (f : Wrk → Wrk) : (s.updCore n f).shape = s.shape := rfl
@[simp] theorem updCore_commit (n : Nat) (f : Wrk → Wrk) : (s.updCore n f).commit = s.commit := rfl
@[simp] theorem updCore_time (n : Nat) (f : Wrk → Wrk) : (s.updCore n f).time = s.time := rfl
@[simp] theorem updCore_bars (n : Nat) (f : Wrk → Wrk) : (s.updCore n f).bars = s.bars := rfl
@[simp] theorem updCore_mcast (n : Nat) (f : Wrk → Wrk) : (s.updCore n f).mcast = s.mcast := rfl
@[simp] theorem updCore_dma (n : Nat) (f : Wrk → Wrk) : (s.updCore n f).dma = s.dma := rfl
@[simp] theorem updCore_trees (n : Nat) (f : Wrk → Wrk) : (s.updCore n f).trees = s.trees := rfl
@[simp] theorem updCore_ttRegs (n : Nat) (f : Wrk → Wrk) : (s.updCore n f).ttRegs = s.ttRegs := rfl
@[simp] theorem updCore_ttOps (n : Nat) (f : Wrk → Wrk) : (s.updCore n f).ttOps = s.ttOps := rfl
@[simp] theorem updCore_saf (n : Nat) (f : Wrk → Wrk) : (s.updCore n f).saf = s.saf := rfl
@[simp] theorem updCore_tu (n : Nat) (f : Wrk → Wrk) : (s.updCore n f).tu = s.tu := rfl
@[simp] theorem updCore_tuLost (n : Nat) (f : Wrk → Wrk) : (s.updCore n f).tuLost = s.tuLost := rfl
@[simp] theorem updCore_mem (n : Nat) (f : Wrk → Wrk) : (s.updCore n f).mem = s.mem := rfl
@[simp] theorem updCore_l1 (n : Nat) (f : Wrk → Wrk) : (s.updCore n f).l1 = s.l1 := rfl
@[simp] theorem updCore_icache (n : Nat) (f : Wrk → Wrk) : (s.updCore n f).icache = s.icache := rfl
@[simp] theorem updCore_l2 (n : Nat) (f : Wrk → Wrk) : (s.updCore n f).l2 = s.l2 := rfl
@[simp] theorem updCore_node (n : Nat) (f : Wrk → Wrk) : (s.updCore n f).node = s.node := rfl
@[simp] theorem updCore_clvCache (n : Nat) (f : Wrk → Wrk) : (s.updCore n f).clvCache = s.clvCache := rfl
@[simp] theorem updCore_vlt (n : Nat) (f : Wrk → Wrk) : (s.updCore n f).vlt = s.vlt := rfl
@[simp] theorem updCore_thr (n : Nat) (f : Wrk → Wrk) : (s.updCore n f).thr = s.thr := rfl
@[simp] theorem updCore_sched (n : Nat) (f : Wrk → Wrk) : (s.updCore n f).sched = s.sched := rfl
@[simp] theorem updCore_host (n : Nat) (f : Wrk → Wrk) : (s.updCore n f).host = s.host := rfl
@[simp] theorem updCore_mbx (n : Nat) (f : Wrk → Wrk) : (s.updCore n f).mbx = s.mbx := rfl
@[simp] theorem updCore_dbMask (n : Nat) (f : Wrk → Wrk) : (s.updCore n f).dbMask = s.dbMask := rfl
@[simp] theorem updCore_link (n : Nat) (f : Wrk → Wrk) : (s.updCore n f).link = s.link := rfl
@[simp] theorem updCore_grp (n : Nat) (f : Wrk → Wrk) : (s.updCore n f).grp = s.grp := rfl
@[simp] theorem updCore_clk (n : Nat) (f : Wrk → Wrk) : (s.updCore n f).clk = s.clk := rfl
@[simp] theorem updCore_nut (n : Nat) (f : Wrk → Wrk) : (s.updCore n f).nut = s.nut := rfl
@[simp] theorem updCore_car (n : Nat) (f : Wrk → Wrk) : (s.updCore n f).car = s.car := rfl
@[simp] theorem updCore_err (n : Nat) (f : Wrk → Wrk) : (s.updCore n f).err = s.err := rfl
@[simp] theorem updCore_boot (n : Nat) (f : Wrk → Wrk) : (s.updCore n f).boot = s.boot := rfl
@[simp] theorem updCore_sec (n : Nat) (f : Wrk → Wrk) : (s.updCore n f).sec = s.sec := rfl
@[simp] theorem updCore_fuse (n : Nat) (f : Wrk → Wrk) : (s.updCore n f).fuse = s.fuse := rfl
@[simp] theorem updCore_pins (n : Nat) (f : Wrk → Wrk) : (s.updCore n f).pins = s.pins := rfl
@[simp] theorem core_updCore_self (n : Nat) (f : Wrk → Wrk) : (s.updCore n f).core n = f (s.core n) := Tbl.get_upd_self ..
theorem core_updCore_other (n : Nat) (f : Wrk → Wrk) {i : Nat} (h : i ≠ n) : (s.updCore n f).core i = s.core i :=
  Tbl.get_upd_other _ _ f h

/-! ## updBar -/

@[simp] theorem updBar_pending (n : Nat) (f : Barrier → Barrier) : (s.updBar n f).pending = s.pending := rfl
@[simp] theorem updBar_answer (n : Nat) (f : Barrier → Barrier) : (s.updBar n f).answer = s.answer := rfl
@[simp] theorem updBar_free (n : Nat) (f : Barrier → Barrier) : (s.updBar n f).free = s.free := rfl
@[simp] theorem updBar_shape (n : Nat) (f : Barrier → Barrier) : (s.updBar n f).shape = s.shape := rfl
@[simp] theorem updBar_commit (n : Nat) (f : Barrier → Barrier) : (s.updBar n f).commit = s.commit := rfl
@[simp] theorem updBar_time (n : Nat) (f : Barrier → Barrier) : (s.updBar n f).time = s.time := rfl
@[simp] theorem updBar_wrk (n : Nat) (f : Barrier → Barrier) : (s.updBar n f).wrk = s.wrk := rfl
@[simp] theorem updBar_mcast (n : Nat) (f : Barrier → Barrier) : (s.updBar n f).mcast = s.mcast := rfl
@[simp] theorem updBar_dma (n : Nat) (f : Barrier → Barrier) : (s.updBar n f).dma = s.dma := rfl
@[simp] theorem updBar_trees (n : Nat) (f : Barrier → Barrier) : (s.updBar n f).trees = s.trees := rfl
@[simp] theorem updBar_ttRegs (n : Nat) (f : Barrier → Barrier) : (s.updBar n f).ttRegs = s.ttRegs := rfl
@[simp] theorem updBar_ttOps (n : Nat) (f : Barrier → Barrier) : (s.updBar n f).ttOps = s.ttOps := rfl
@[simp] theorem updBar_saf (n : Nat) (f : Barrier → Barrier) : (s.updBar n f).saf = s.saf := rfl
@[simp] theorem updBar_tu (n : Nat) (f : Barrier → Barrier) : (s.updBar n f).tu = s.tu := rfl
@[simp] theorem updBar_tuLost (n : Nat) (f : Barrier → Barrier) : (s.updBar n f).tuLost = s.tuLost := rfl
@[simp] theorem updBar_mem (n : Nat) (f : Barrier → Barrier) : (s.updBar n f).mem = s.mem := rfl
@[simp] theorem updBar_l1 (n : Nat) (f : Barrier → Barrier) : (s.updBar n f).l1 = s.l1 := rfl
@[simp] theorem updBar_icache (n : Nat) (f : Barrier → Barrier) : (s.updBar n f).icache = s.icache := rfl
@[simp] theorem updBar_l2 (n : Nat) (f : Barrier → Barrier) : (s.updBar n f).l2 = s.l2 := rfl
@[simp] theorem updBar_node (n : Nat) (f : Barrier → Barrier) : (s.updBar n f).node = s.node := rfl
@[simp] theorem updBar_clvCache (n : Nat) (f : Barrier → Barrier) : (s.updBar n f).clvCache = s.clvCache := rfl
@[simp] theorem updBar_vlt (n : Nat) (f : Barrier → Barrier) : (s.updBar n f).vlt = s.vlt := rfl
@[simp] theorem updBar_thr (n : Nat) (f : Barrier → Barrier) : (s.updBar n f).thr = s.thr := rfl
@[simp] theorem updBar_sched (n : Nat) (f : Barrier → Barrier) : (s.updBar n f).sched = s.sched := rfl
@[simp] theorem updBar_host (n : Nat) (f : Barrier → Barrier) : (s.updBar n f).host = s.host := rfl
@[simp] theorem updBar_mbx (n : Nat) (f : Barrier → Barrier) : (s.updBar n f).mbx = s.mbx := rfl
@[simp] theorem updBar_dbMask (n : Nat) (f : Barrier → Barrier) : (s.updBar n f).dbMask = s.dbMask := rfl
@[simp] theorem updBar_link (n : Nat) (f : Barrier → Barrier) : (s.updBar n f).link = s.link := rfl
@[simp] theorem updBar_grp (n : Nat) (f : Barrier → Barrier) : (s.updBar n f).grp = s.grp := rfl
@[simp] theorem updBar_clk (n : Nat) (f : Barrier → Barrier) : (s.updBar n f).clk = s.clk := rfl
@[simp] theorem updBar_nut (n : Nat) (f : Barrier → Barrier) : (s.updBar n f).nut = s.nut := rfl
@[simp] theorem updBar_car (n : Nat) (f : Barrier → Barrier) : (s.updBar n f).car = s.car := rfl
@[simp] theorem updBar_err (n : Nat) (f : Barrier → Barrier) : (s.updBar n f).err = s.err := rfl
@[simp] theorem updBar_boot (n : Nat) (f : Barrier → Barrier) : (s.updBar n f).boot = s.boot := rfl
@[simp] theorem updBar_sec (n : Nat) (f : Barrier → Barrier) : (s.updBar n f).sec = s.sec := rfl
@[simp] theorem updBar_fuse (n : Nat) (f : Barrier → Barrier) : (s.updBar n f).fuse = s.fuse := rfl
@[simp] theorem updBar_pins (n : Nat) (f : Barrier → Barrier) : (s.updBar n f).pins = s.pins := rfl
@[simp] theorem bar_updBar_self (n : Nat) (f : Barrier → Barrier) : (s.updBar n f).bar n = f (s.bar n) := Tbl.get_upd_self ..
theorem bar_updBar_other (n : Nat) (f : Barrier → Barrier) {i : Nat} (h : i ≠ n) : (s.updBar n f).bar i = s.bar i :=
  Tbl.get_upd_other _ _ f h

/-! ## updGroup -/

@[simp] theorem updGroup_pending (n : Nat) (f : McGroup → McGroup) : (s.updGroup n f).pending = s.pending := rfl
@[simp] theorem updGroup_answer (n : Nat) (f : McGroup → McGroup) : (s.updGroup n f).answer = s.answer := rfl
@[simp] theorem updGroup_free (n : Nat) (f : McGroup → McGroup) : (s.updGroup n f).free = s.free := rfl
@[simp] theorem updGroup_shape (n : Nat) (f : McGroup → McGroup) : (s.updGroup n f).shape = s.shape := rfl
@[simp] theorem updGroup_commit (n : Nat) (f : McGroup → McGroup) : (s.updGroup n f).commit = s.commit := rfl
@[simp] theorem updGroup_time (n : Nat) (f : McGroup → McGroup) : (s.updGroup n f).time = s.time := rfl
@[simp] theorem updGroup_wrk (n : Nat) (f : McGroup → McGroup) : (s.updGroup n f).wrk = s.wrk := rfl
@[simp] theorem updGroup_bars (n : Nat) (f : McGroup → McGroup) : (s.updGroup n f).bars = s.bars := rfl
@[simp] theorem updGroup_dma (n : Nat) (f : McGroup → McGroup) : (s.updGroup n f).dma = s.dma := rfl
@[simp] theorem updGroup_trees (n : Nat) (f : McGroup → McGroup) : (s.updGroup n f).trees = s.trees := rfl
@[simp] theorem updGroup_ttRegs (n : Nat) (f : McGroup → McGroup) : (s.updGroup n f).ttRegs = s.ttRegs := rfl
@[simp] theorem updGroup_ttOps (n : Nat) (f : McGroup → McGroup) : (s.updGroup n f).ttOps = s.ttOps := rfl
@[simp] theorem updGroup_saf (n : Nat) (f : McGroup → McGroup) : (s.updGroup n f).saf = s.saf := rfl
@[simp] theorem updGroup_tu (n : Nat) (f : McGroup → McGroup) : (s.updGroup n f).tu = s.tu := rfl
@[simp] theorem updGroup_tuLost (n : Nat) (f : McGroup → McGroup) : (s.updGroup n f).tuLost = s.tuLost := rfl
@[simp] theorem updGroup_mem (n : Nat) (f : McGroup → McGroup) : (s.updGroup n f).mem = s.mem := rfl
@[simp] theorem updGroup_l1 (n : Nat) (f : McGroup → McGroup) : (s.updGroup n f).l1 = s.l1 := rfl
@[simp] theorem updGroup_icache (n : Nat) (f : McGroup → McGroup) : (s.updGroup n f).icache = s.icache := rfl
@[simp] theorem updGroup_l2 (n : Nat) (f : McGroup → McGroup) : (s.updGroup n f).l2 = s.l2 := rfl
@[simp] theorem updGroup_node (n : Nat) (f : McGroup → McGroup) : (s.updGroup n f).node = s.node := rfl
@[simp] theorem updGroup_clvCache (n : Nat) (f : McGroup → McGroup) : (s.updGroup n f).clvCache = s.clvCache := rfl
@[simp] theorem updGroup_vlt (n : Nat) (f : McGroup → McGroup) : (s.updGroup n f).vlt = s.vlt := rfl
@[simp] theorem updGroup_thr (n : Nat) (f : McGroup → McGroup) : (s.updGroup n f).thr = s.thr := rfl
@[simp] theorem updGroup_sched (n : Nat) (f : McGroup → McGroup) : (s.updGroup n f).sched = s.sched := rfl
@[simp] theorem updGroup_host (n : Nat) (f : McGroup → McGroup) : (s.updGroup n f).host = s.host := rfl
@[simp] theorem updGroup_mbx (n : Nat) (f : McGroup → McGroup) : (s.updGroup n f).mbx = s.mbx := rfl
@[simp] theorem updGroup_dbMask (n : Nat) (f : McGroup → McGroup) : (s.updGroup n f).dbMask = s.dbMask := rfl
@[simp] theorem updGroup_link (n : Nat) (f : McGroup → McGroup) : (s.updGroup n f).link = s.link := rfl
@[simp] theorem updGroup_grp (n : Nat) (f : McGroup → McGroup) : (s.updGroup n f).grp = s.grp := rfl
@[simp] theorem updGroup_clk (n : Nat) (f : McGroup → McGroup) : (s.updGroup n f).clk = s.clk := rfl
@[simp] theorem updGroup_nut (n : Nat) (f : McGroup → McGroup) : (s.updGroup n f).nut = s.nut := rfl
@[simp] theorem updGroup_car (n : Nat) (f : McGroup → McGroup) : (s.updGroup n f).car = s.car := rfl
@[simp] theorem updGroup_err (n : Nat) (f : McGroup → McGroup) : (s.updGroup n f).err = s.err := rfl
@[simp] theorem updGroup_boot (n : Nat) (f : McGroup → McGroup) : (s.updGroup n f).boot = s.boot := rfl
@[simp] theorem updGroup_sec (n : Nat) (f : McGroup → McGroup) : (s.updGroup n f).sec = s.sec := rfl
@[simp] theorem updGroup_fuse (n : Nat) (f : McGroup → McGroup) : (s.updGroup n f).fuse = s.fuse := rfl
@[simp] theorem updGroup_pins (n : Nat) (f : McGroup → McGroup) : (s.updGroup n f).pins = s.pins := rfl
@[simp] theorem group_updGroup_self (n : Nat) (f : McGroup → McGroup) : (s.updGroup n f).group n = f (s.group n) := Tbl.get_upd_self ..
theorem group_updGroup_other (n : Nat) (f : McGroup → McGroup) {i : Nat} (h : i ≠ n) : (s.updGroup n f).group i = s.group i :=
  Tbl.get_upd_other _ _ f h

/-! ## updTree -/

@[simp] theorem updTree_pending (p x : Nat) (f : TreeEnt → TreeEnt) : (s.updTree p x f).pending = s.pending := rfl
@[simp] theorem updTree_answer (p x : Nat) (f : TreeEnt → TreeEnt) : (s.updTree p x f).answer = s.answer := rfl
@[simp] theorem updTree_free (p x : Nat) (f : TreeEnt → TreeEnt) : (s.updTree p x f).free = s.free := rfl
@[simp] theorem updTree_shape (p x : Nat) (f : TreeEnt → TreeEnt) : (s.updTree p x f).shape = s.shape := rfl
@[simp] theorem updTree_commit (p x : Nat) (f : TreeEnt → TreeEnt) : (s.updTree p x f).commit = s.commit := rfl
@[simp] theorem updTree_time (p x : Nat) (f : TreeEnt → TreeEnt) : (s.updTree p x f).time = s.time := rfl
@[simp] theorem updTree_wrk (p x : Nat) (f : TreeEnt → TreeEnt) : (s.updTree p x f).wrk = s.wrk := rfl
@[simp] theorem updTree_bars (p x : Nat) (f : TreeEnt → TreeEnt) : (s.updTree p x f).bars = s.bars := rfl
@[simp] theorem updTree_mcast (p x : Nat) (f : TreeEnt → TreeEnt) : (s.updTree p x f).mcast = s.mcast := rfl
@[simp] theorem updTree_dma (p x : Nat) (f : TreeEnt → TreeEnt) : (s.updTree p x f).dma = s.dma := rfl
@[simp] theorem updTree_ttRegs (p x : Nat) (f : TreeEnt → TreeEnt) : (s.updTree p x f).ttRegs = s.ttRegs := rfl
@[simp] theorem updTree_ttOps (p x : Nat) (f : TreeEnt → TreeEnt) : (s.updTree p x f).ttOps = s.ttOps := rfl
@[simp] theorem updTree_saf (p x : Nat) (f : TreeEnt → TreeEnt) : (s.updTree p x f).saf = s.saf := rfl
@[simp] theorem updTree_tu (p x : Nat) (f : TreeEnt → TreeEnt) : (s.updTree p x f).tu = s.tu := rfl
@[simp] theorem updTree_tuLost (p x : Nat) (f : TreeEnt → TreeEnt) : (s.updTree p x f).tuLost = s.tuLost := rfl
@[simp] theorem updTree_mem (p x : Nat) (f : TreeEnt → TreeEnt) : (s.updTree p x f).mem = s.mem := rfl
@[simp] theorem updTree_l1 (p x : Nat) (f : TreeEnt → TreeEnt) : (s.updTree p x f).l1 = s.l1 := rfl
@[simp] theorem updTree_icache (p x : Nat) (f : TreeEnt → TreeEnt) : (s.updTree p x f).icache = s.icache := rfl
@[simp] theorem updTree_l2 (p x : Nat) (f : TreeEnt → TreeEnt) : (s.updTree p x f).l2 = s.l2 := rfl
@[simp] theorem updTree_node (p x : Nat) (f : TreeEnt → TreeEnt) : (s.updTree p x f).node = s.node := rfl
@[simp] theorem updTree_clvCache (p x : Nat) (f : TreeEnt → TreeEnt) : (s.updTree p x f).clvCache = s.clvCache := rfl
@[simp] theorem updTree_vlt (p x : Nat) (f : TreeEnt → TreeEnt) : (s.updTree p x f).vlt = s.vlt := rfl
@[simp] theorem updTree_thr (p x : Nat) (f : TreeEnt → TreeEnt) : (s.updTree p x f).thr = s.thr := rfl
@[simp] theorem updTree_sched (p x : Nat) (f : TreeEnt → TreeEnt) : (s.updTree p x f).sched = s.sched := rfl
@[simp] theorem updTree_host (p x : Nat) (f : TreeEnt → TreeEnt) : (s.updTree p x f).host = s.host := rfl
@[simp] theorem updTree_mbx (p x : Nat) (f : TreeEnt → TreeEnt) : (s.updTree p x f).mbx = s.mbx := rfl
@[simp] theorem updTree_dbMask (p x : Nat) (f : TreeEnt → TreeEnt) : (s.updTree p x f).dbMask = s.dbMask := rfl
@[simp] theorem updTree_link (p x : Nat) (f : TreeEnt → TreeEnt) : (s.updTree p x f).link = s.link := rfl
@[simp] theorem updTree_grp (p x : Nat) (f : TreeEnt → TreeEnt) : (s.updTree p x f).grp = s.grp := rfl
@[simp] theorem updTree_clk (p x : Nat) (f : TreeEnt → TreeEnt) : (s.updTree p x f).clk = s.clk := rfl
@[simp] theorem updTree_nut (p x : Nat) (f : TreeEnt → TreeEnt) : (s.updTree p x f).nut = s.nut := rfl
@[simp] theorem updTree_car (p x : Nat) (f : TreeEnt → TreeEnt) : (s.updTree p x f).car = s.car := rfl
@[simp] theorem updTree_err (p x : Nat) (f : TreeEnt → TreeEnt) : (s.updTree p x f).err = s.err := rfl
@[simp] theorem updTree_boot (p x : Nat) (f : TreeEnt → TreeEnt) : (s.updTree p x f).boot = s.boot := rfl
@[simp] theorem updTree_sec (p x : Nat) (f : TreeEnt → TreeEnt) : (s.updTree p x f).sec = s.sec := rfl
@[simp] theorem updTree_fuse (p x : Nat) (f : TreeEnt → TreeEnt) : (s.updTree p x f).fuse = s.fuse := rfl
@[simp] theorem updTree_pins (p x : Nat) (f : TreeEnt → TreeEnt) : (s.updTree p x f).pins = s.pins := rfl

/-! ## updSaf -/

@[simp] theorem updSaf_pending (n : Nat) (f : Saffron → Saffron) : (s.updSaf n f).pending = s.pending := rfl
@[simp] theorem updSaf_answer (n : Nat) (f : Saffron → Saffron) : (s.updSaf n f).answer = s.answer := rfl
@[simp] theorem updSaf_free (n : Nat) (f : Saffron → Saffron) : (s.updSaf n f).free = s.free := rfl
@[simp] theorem updSaf_shape (n : Nat) (f : Saffron → Saffron) : (s.updSaf n f).shape = s.shape := rfl
@[simp] theorem updSaf_commit (n : Nat) (f : Saffron → Saffron) : (s.updSaf n f).commit = s.commit := rfl
@[simp] theorem updSaf_time (n : Nat) (f : Saffron → Saffron) : (s.updSaf n f).time = s.time := rfl
@[simp] theorem updSaf_wrk (n : Nat) (f : Saffron → Saffron) : (s.updSaf n f).wrk = s.wrk := rfl
@[simp] theorem updSaf_bars (n : Nat) (f : Saffron → Saffron) : (s.updSaf n f).bars = s.bars := rfl
@[simp] theorem updSaf_mcast (n : Nat) (f : Saffron → Saffron) : (s.updSaf n f).mcast = s.mcast := rfl
@[simp] theorem updSaf_dma (n : Nat) (f : Saffron → Saffron) : (s.updSaf n f).dma = s.dma := rfl
@[simp] theorem updSaf_trees (n : Nat) (f : Saffron → Saffron) : (s.updSaf n f).trees = s.trees := rfl
@[simp] theorem updSaf_ttRegs (n : Nat) (f : Saffron → Saffron) : (s.updSaf n f).ttRegs = s.ttRegs := rfl
@[simp] theorem updSaf_ttOps (n : Nat) (f : Saffron → Saffron) : (s.updSaf n f).ttOps = s.ttOps := rfl
@[simp] theorem updSaf_tu (n : Nat) (f : Saffron → Saffron) : (s.updSaf n f).tu = s.tu := rfl
@[simp] theorem updSaf_tuLost (n : Nat) (f : Saffron → Saffron) : (s.updSaf n f).tuLost = s.tuLost := rfl
@[simp] theorem updSaf_mem (n : Nat) (f : Saffron → Saffron) : (s.updSaf n f).mem = s.mem := rfl
@[simp] theorem updSaf_l1 (n : Nat) (f : Saffron → Saffron) : (s.updSaf n f).l1 = s.l1 := rfl
@[simp] theorem updSaf_icache (n : Nat) (f : Saffron → Saffron) : (s.updSaf n f).icache = s.icache := rfl
@[simp] theorem updSaf_l2 (n : Nat) (f : Saffron → Saffron) : (s.updSaf n f).l2 = s.l2 := rfl
@[simp] theorem updSaf_node (n : Nat) (f : Saffron → Saffron) : (s.updSaf n f).node = s.node := rfl
@[simp] theorem updSaf_clvCache (n : Nat) (f : Saffron → Saffron) : (s.updSaf n f).clvCache = s.clvCache := rfl
@[simp] theorem updSaf_vlt (n : Nat) (f : Saffron → Saffron) : (s.updSaf n f).vlt = s.vlt := rfl
@[simp] theorem updSaf_thr (n : Nat) (f : Saffron → Saffron) : (s.updSaf n f).thr = s.thr := rfl
@[simp] theorem updSaf_sched (n : Nat) (f : Saffron → Saffron) : (s.updSaf n f).sched = s.sched := rfl
@[simp] theorem updSaf_host (n : Nat) (f : Saffron → Saffron) : (s.updSaf n f).host = s.host := rfl
@[simp] theorem updSaf_mbx (n : Nat) (f : Saffron → Saffron) : (s.updSaf n f).mbx = s.mbx := rfl
@[simp] theorem updSaf_dbMask (n : Nat) (f : Saffron → Saffron) : (s.updSaf n f).dbMask = s.dbMask := rfl
@[simp] theorem updSaf_link (n : Nat) (f : Saffron → Saffron) : (s.updSaf n f).link = s.link := rfl
@[simp] theorem updSaf_grp (n : Nat) (f : Saffron → Saffron) : (s.updSaf n f).grp = s.grp := rfl
@[simp] theorem updSaf_clk (n : Nat) (f : Saffron → Saffron) : (s.updSaf n f).clk = s.clk := rfl
@[simp] theorem updSaf_nut (n : Nat) (f : Saffron → Saffron) : (s.updSaf n f).nut = s.nut := rfl
@[simp] theorem updSaf_car (n : Nat) (f : Saffron → Saffron) : (s.updSaf n f).car = s.car := rfl
@[simp] theorem updSaf_err (n : Nat) (f : Saffron → Saffron) : (s.updSaf n f).err = s.err := rfl
@[simp] theorem updSaf_boot (n : Nat) (f : Saffron → Saffron) : (s.updSaf n f).boot = s.boot := rfl
@[simp] theorem updSaf_sec (n : Nat) (f : Saffron → Saffron) : (s.updSaf n f).sec = s.sec := rfl
@[simp] theorem updSaf_fuse (n : Nat) (f : Saffron → Saffron) : (s.updSaf n f).fuse = s.fuse := rfl
@[simp] theorem updSaf_pins (n : Nat) (f : Saffron → Saffron) : (s.updSaf n f).pins = s.pins := rfl
@[simp] theorem saffron_updSaf_self (n : Nat) (f : Saffron → Saffron) : (s.updSaf n f).saffron n = f (s.saffron n) := Tbl.get_upd_self ..
theorem saffron_updSaf_other (n : Nat) (f : Saffron → Saffron) {i : Nat} (h : i ≠ n) : (s.updSaf n f).saffron i = s.saffron i :=
  Tbl.get_upd_other _ _ f h

/-! ## updTu -/

@[simp] theorem updTu_pending (n : Nat) (f : TravUnit → TravUnit) : (s.updTu n f).pending = s.pending := rfl
@[simp] theorem updTu_answer (n : Nat) (f : TravUnit → TravUnit) : (s.updTu n f).answer = s.answer := rfl
@[simp] theorem updTu_free (n : Nat) (f : TravUnit → TravUnit) : (s.updTu n f).free = s.free := rfl
@[simp] theorem updTu_shape (n : Nat) (f : TravUnit → TravUnit) : (s.updTu n f).shape = s.shape := rfl
@[simp] theorem updTu_commit (n : Nat) (f : TravUnit → TravUnit) : (s.updTu n f).commit = s.commit := rfl
@[simp] theorem updTu_time (n : Nat) (f : TravUnit → TravUnit) : (s.updTu n f).time = s.time := rfl
@[simp] theorem updTu_wrk (n : Nat) (f : TravUnit → TravUnit) : (s.updTu n f).wrk = s.wrk := rfl
@[simp] theorem updTu_bars (n : Nat) (f : TravUnit → TravUnit) : (s.updTu n f).bars = s.bars := rfl
@[simp] theorem updTu_mcast (n : Nat) (f : TravUnit → TravUnit) : (s.updTu n f).mcast = s.mcast := rfl
@[simp] theorem updTu_dma (n : Nat) (f : TravUnit → TravUnit) : (s.updTu n f).dma = s.dma := rfl
@[simp] theorem updTu_trees (n : Nat) (f : TravUnit → TravUnit) : (s.updTu n f).trees = s.trees := rfl
@[simp] theorem updTu_ttRegs (n : Nat) (f : TravUnit → TravUnit) : (s.updTu n f).ttRegs = s.ttRegs := rfl
@[simp] theorem updTu_ttOps (n : Nat) (f : TravUnit → TravUnit) : (s.updTu n f).ttOps = s.ttOps := rfl
@[simp] theorem updTu_saf (n : Nat) (f : TravUnit → TravUnit) : (s.updTu n f).saf = s.saf := rfl
@[simp] theorem updTu_tuLost (n : Nat) (f : TravUnit → TravUnit) : (s.updTu n f).tuLost = s.tuLost := rfl
@[simp] theorem updTu_mem (n : Nat) (f : TravUnit → TravUnit) : (s.updTu n f).mem = s.mem := rfl
@[simp] theorem updTu_l1 (n : Nat) (f : TravUnit → TravUnit) : (s.updTu n f).l1 = s.l1 := rfl
@[simp] theorem updTu_icache (n : Nat) (f : TravUnit → TravUnit) : (s.updTu n f).icache = s.icache := rfl
@[simp] theorem updTu_l2 (n : Nat) (f : TravUnit → TravUnit) : (s.updTu n f).l2 = s.l2 := rfl
@[simp] theorem updTu_node (n : Nat) (f : TravUnit → TravUnit) : (s.updTu n f).node = s.node := rfl
@[simp] theorem updTu_clvCache (n : Nat) (f : TravUnit → TravUnit) : (s.updTu n f).clvCache = s.clvCache := rfl
@[simp] theorem updTu_vlt (n : Nat) (f : TravUnit → TravUnit) : (s.updTu n f).vlt = s.vlt := rfl
@[simp] theorem updTu_thr (n : Nat) (f : TravUnit → TravUnit) : (s.updTu n f).thr = s.thr := rfl
@[simp] theorem updTu_sched (n : Nat) (f : TravUnit → TravUnit) : (s.updTu n f).sched = s.sched := rfl
@[simp] theorem updTu_host (n : Nat) (f : TravUnit → TravUnit) : (s.updTu n f).host = s.host := rfl
@[simp] theorem updTu_mbx (n : Nat) (f : TravUnit → TravUnit) : (s.updTu n f).mbx = s.mbx := rfl
@[simp] theorem updTu_dbMask (n : Nat) (f : TravUnit → TravUnit) : (s.updTu n f).dbMask = s.dbMask := rfl
@[simp] theorem updTu_link (n : Nat) (f : TravUnit → TravUnit) : (s.updTu n f).link = s.link := rfl
@[simp] theorem updTu_grp (n : Nat) (f : TravUnit → TravUnit) : (s.updTu n f).grp = s.grp := rfl
@[simp] theorem updTu_clk (n : Nat) (f : TravUnit → TravUnit) : (s.updTu n f).clk = s.clk := rfl
@[simp] theorem updTu_nut (n : Nat) (f : TravUnit → TravUnit) : (s.updTu n f).nut = s.nut := rfl
@[simp] theorem updTu_car (n : Nat) (f : TravUnit → TravUnit) : (s.updTu n f).car = s.car := rfl
@[simp] theorem updTu_err (n : Nat) (f : TravUnit → TravUnit) : (s.updTu n f).err = s.err := rfl
@[simp] theorem updTu_boot (n : Nat) (f : TravUnit → TravUnit) : (s.updTu n f).boot = s.boot := rfl
@[simp] theorem updTu_sec (n : Nat) (f : TravUnit → TravUnit) : (s.updTu n f).sec = s.sec := rfl
@[simp] theorem updTu_fuse (n : Nat) (f : TravUnit → TravUnit) : (s.updTu n f).fuse = s.fuse := rfl
@[simp] theorem updTu_pins (n : Nat) (f : TravUnit → TravUnit) : (s.updTu n f).pins = s.pins := rfl
@[simp] theorem trav_updTu_self (n : Nat) (f : TravUnit → TravUnit) : (s.updTu n f).trav n = f (s.trav n) := Tbl.get_upd_self ..
theorem trav_updTu_other (n : Nat) (f : TravUnit → TravUnit) {i : Nat} (h : i ≠ n) : (s.updTu n f).trav i = s.trav i :=
  Tbl.get_upd_other _ _ f h

/-! ## updIcache -/

@[simp] theorem updIcache_pending (n : Nat) (f : Cache → Cache) : (s.updIcache n f).pending = s.pending := rfl
@[simp] theorem updIcache_answer (n : Nat) (f : Cache → Cache) : (s.updIcache n f).answer = s.answer := rfl
@[simp] theorem updIcache_free (n : Nat) (f : Cache → Cache) : (s.updIcache n f).free = s.free := rfl
@[simp] theorem updIcache_shape (n : Nat) (f : Cache → Cache) : (s.updIcache n f).shape = s.shape := rfl
@[simp] theorem updIcache_commit (n : Nat) (f : Cache → Cache) : (s.updIcache n f).commit = s.commit := rfl
@[simp] theorem updIcache_time (n : Nat) (f : Cache → Cache) : (s.updIcache n f).time = s.time := rfl
@[simp] theorem updIcache_wrk (n : Nat) (f : Cache → Cache) : (s.updIcache n f).wrk = s.wrk := rfl
@[simp] theorem updIcache_bars (n : Nat) (f : Cache → Cache) : (s.updIcache n f).bars = s.bars := rfl
@[simp] theorem updIcache_mcast (n : Nat) (f : Cache → Cache) : (s.updIcache n f).mcast = s.mcast := rfl
@[simp] theorem updIcache_dma (n : Nat) (f : Cache → Cache) : (s.updIcache n f).dma = s.dma := rfl
@[simp] theorem updIcache_trees (n : Nat) (f : Cache → Cache) : (s.updIcache n f).trees = s.trees := rfl
@[simp] theorem updIcache_ttRegs (n : Nat) (f : Cache → Cache) : (s.updIcache n f).ttRegs = s.ttRegs := rfl
@[simp] theorem updIcache_ttOps (n : Nat) (f : Cache → Cache) : (s.updIcache n f).ttOps = s.ttOps := rfl
@[simp] theorem updIcache_saf (n : Nat) (f : Cache → Cache) : (s.updIcache n f).saf = s.saf := rfl
@[simp] theorem updIcache_tu (n : Nat) (f : Cache → Cache) : (s.updIcache n f).tu = s.tu := rfl
@[simp] theorem updIcache_tuLost (n : Nat) (f : Cache → Cache) : (s.updIcache n f).tuLost = s.tuLost := rfl
@[simp] theorem updIcache_mem (n : Nat) (f : Cache → Cache) : (s.updIcache n f).mem = s.mem := rfl
@[simp] theorem updIcache_l1 (n : Nat) (f : Cache → Cache) : (s.updIcache n f).l1 = s.l1 := rfl
@[simp] theorem updIcache_l2 (n : Nat) (f : Cache → Cache) : (s.updIcache n f).l2 = s.l2 := rfl
@[simp] theorem updIcache_node (n : Nat) (f : Cache → Cache) : (s.updIcache n f).node = s.node := rfl
@[simp] theorem updIcache_clvCache (n : Nat) (f : Cache → Cache) : (s.updIcache n f).clvCache = s.clvCache := rfl
@[simp] theorem updIcache_vlt (n : Nat) (f : Cache → Cache) : (s.updIcache n f).vlt = s.vlt := rfl
@[simp] theorem updIcache_thr (n : Nat) (f : Cache → Cache) : (s.updIcache n f).thr = s.thr := rfl
@[simp] theorem updIcache_sched (n : Nat) (f : Cache → Cache) : (s.updIcache n f).sched = s.sched := rfl
@[simp] theorem updIcache_host (n : Nat) (f : Cache → Cache) : (s.updIcache n f).host = s.host := rfl
@[simp] theorem updIcache_mbx (n : Nat) (f : Cache → Cache) : (s.updIcache n f).mbx = s.mbx := rfl
@[simp] theorem updIcache_dbMask (n : Nat) (f : Cache → Cache) : (s.updIcache n f).dbMask = s.dbMask := rfl
@[simp] theorem updIcache_link (n : Nat) (f : Cache → Cache) : (s.updIcache n f).link = s.link := rfl
@[simp] theorem updIcache_grp (n : Nat) (f : Cache → Cache) : (s.updIcache n f).grp = s.grp := rfl
@[simp] theorem updIcache_clk (n : Nat) (f : Cache → Cache) : (s.updIcache n f).clk = s.clk := rfl
@[simp] theorem updIcache_nut (n : Nat) (f : Cache → Cache) : (s.updIcache n f).nut = s.nut := rfl
@[simp] theorem updIcache_car (n : Nat) (f : Cache → Cache) : (s.updIcache n f).car = s.car := rfl
@[simp] theorem updIcache_err (n : Nat) (f : Cache → Cache) : (s.updIcache n f).err = s.err := rfl
@[simp] theorem updIcache_boot (n : Nat) (f : Cache → Cache) : (s.updIcache n f).boot = s.boot := rfl
@[simp] theorem updIcache_sec (n : Nat) (f : Cache → Cache) : (s.updIcache n f).sec = s.sec := rfl
@[simp] theorem updIcache_fuse (n : Nat) (f : Cache → Cache) : (s.updIcache n f).fuse = s.fuse := rfl
@[simp] theorem updIcache_pins (n : Nat) (f : Cache → Cache) : (s.updIcache n f).pins = s.pins := rfl
@[simp] theorem icacheOf_updIcache_self (n : Nat) (f : Cache → Cache) : (s.updIcache n f).icacheOf n = f (s.icacheOf n) := Tbl.get_upd_self ..
theorem icacheOf_updIcache_other (n : Nat) (f : Cache → Cache) {i : Nat} (h : i ≠ n) : (s.updIcache n f).icacheOf i = s.icacheOf i :=
  Tbl.get_upd_other _ _ f h

/-! ## updSlice -/

@[simp] theorem updSlice_pending (n : Nat) (f : Slice → Slice) : (s.updSlice n f).pending = s.pending := rfl
@[simp] theorem updSlice_answer (n : Nat) (f : Slice → Slice) : (s.updSlice n f).answer = s.answer := rfl
@[simp] theorem updSlice_free (n : Nat) (f : Slice → Slice) : (s.updSlice n f).free = s.free := rfl
@[simp] theorem updSlice_shape (n : Nat) (f : Slice → Slice) : (s.updSlice n f).shape = s.shape := rfl
@[simp] theorem updSlice_commit (n : Nat) (f : Slice → Slice) : (s.updSlice n f).commit = s.commit := rfl
@[simp] theorem updSlice_time (n : Nat) (f : Slice → Slice) : (s.updSlice n f).time = s.time := rfl
@[simp] theorem updSlice_wrk (n : Nat) (f : Slice → Slice) : (s.updSlice n f).wrk = s.wrk := rfl
@[simp] theorem updSlice_bars (n : Nat) (f : Slice → Slice) : (s.updSlice n f).bars = s.bars := rfl
@[simp] theorem updSlice_mcast (n : Nat) (f : Slice → Slice) : (s.updSlice n f).mcast = s.mcast := rfl
@[simp] theorem updSlice_dma (n : Nat) (f : Slice → Slice) : (s.updSlice n f).dma = s.dma := rfl
@[simp] theorem updSlice_trees (n : Nat) (f : Slice → Slice) : (s.updSlice n f).trees = s.trees := rfl
@[simp] theorem updSlice_ttRegs (n : Nat) (f : Slice → Slice) : (s.updSlice n f).ttRegs = s.ttRegs := rfl
@[simp] theorem updSlice_ttOps (n : Nat) (f : Slice → Slice) : (s.updSlice n f).ttOps = s.ttOps := rfl
@[simp] theorem updSlice_saf (n : Nat) (f : Slice → Slice) : (s.updSlice n f).saf = s.saf := rfl
@[simp] theorem updSlice_tu (n : Nat) (f : Slice → Slice) : (s.updSlice n f).tu = s.tu := rfl
@[simp] theorem updSlice_tuLost (n : Nat) (f : Slice → Slice) : (s.updSlice n f).tuLost = s.tuLost := rfl
@[simp] theorem updSlice_mem (n : Nat) (f : Slice → Slice) : (s.updSlice n f).mem = s.mem := rfl
@[simp] theorem updSlice_l1 (n : Nat) (f : Slice → Slice) : (s.updSlice n f).l1 = s.l1 := rfl
@[simp] theorem updSlice_icache (n : Nat) (f : Slice → Slice) : (s.updSlice n f).icache = s.icache := rfl
@[simp] theorem updSlice_node (n : Nat) (f : Slice → Slice) : (s.updSlice n f).node = s.node := rfl
@[simp] theorem updSlice_clvCache (n : Nat) (f : Slice → Slice) : (s.updSlice n f).clvCache = s.clvCache := rfl
@[simp] theorem updSlice_vlt (n : Nat) (f : Slice → Slice) : (s.updSlice n f).vlt = s.vlt := rfl
@[simp] theorem updSlice_thr (n : Nat) (f : Slice → Slice) : (s.updSlice n f).thr = s.thr := rfl
@[simp] theorem updSlice_sched (n : Nat) (f : Slice → Slice) : (s.updSlice n f).sched = s.sched := rfl
@[simp] theorem updSlice_host (n : Nat) (f : Slice → Slice) : (s.updSlice n f).host = s.host := rfl
@[simp] theorem updSlice_mbx (n : Nat) (f : Slice → Slice) : (s.updSlice n f).mbx = s.mbx := rfl
@[simp] theorem updSlice_dbMask (n : Nat) (f : Slice → Slice) : (s.updSlice n f).dbMask = s.dbMask := rfl
@[simp] theorem updSlice_link (n : Nat) (f : Slice → Slice) : (s.updSlice n f).link = s.link := rfl
@[simp] theorem updSlice_grp (n : Nat) (f : Slice → Slice) : (s.updSlice n f).grp = s.grp := rfl
@[simp] theorem updSlice_clk (n : Nat) (f : Slice → Slice) : (s.updSlice n f).clk = s.clk := rfl
@[simp] theorem updSlice_nut (n : Nat) (f : Slice → Slice) : (s.updSlice n f).nut = s.nut := rfl
@[simp] theorem updSlice_car (n : Nat) (f : Slice → Slice) : (s.updSlice n f).car = s.car := rfl
@[simp] theorem updSlice_err (n : Nat) (f : Slice → Slice) : (s.updSlice n f).err = s.err := rfl
@[simp] theorem updSlice_boot (n : Nat) (f : Slice → Slice) : (s.updSlice n f).boot = s.boot := rfl
@[simp] theorem updSlice_sec (n : Nat) (f : Slice → Slice) : (s.updSlice n f).sec = s.sec := rfl
@[simp] theorem updSlice_fuse (n : Nat) (f : Slice → Slice) : (s.updSlice n f).fuse = s.fuse := rfl
@[simp] theorem updSlice_pins (n : Nat) (f : Slice → Slice) : (s.updSlice n f).pins = s.pins := rfl
@[simp] theorem slice_updSlice_self (n : Nat) (f : Slice → Slice) : (s.updSlice n f).slice n = f (s.slice n) := Tbl.get_upd_self ..
theorem slice_updSlice_other (n : Nat) (f : Slice → Slice) {i : Nat} (h : i ≠ n) : (s.updSlice n f).slice i = s.slice i :=
  Tbl.get_upd_other _ _ f h

/-! ## updVault -/

@[simp] theorem updVault_pending (n : Nat) (f : Vlt → Vlt) : (s.updVault n f).pending = s.pending := rfl
@[simp] theorem updVault_answer (n : Nat) (f : Vlt → Vlt) : (s.updVault n f).answer = s.answer := rfl
@[simp] theorem updVault_free (n : Nat) (f : Vlt → Vlt) : (s.updVault n f).free = s.free := rfl
@[simp] theorem updVault_shape (n : Nat) (f : Vlt → Vlt) : (s.updVault n f).shape = s.shape := rfl
@[simp] theorem updVault_commit (n : Nat) (f : Vlt → Vlt) : (s.updVault n f).commit = s.commit := rfl
@[simp] theorem updVault_time (n : Nat) (f : Vlt → Vlt) : (s.updVault n f).time = s.time := rfl
@[simp] theorem updVault_wrk (n : Nat) (f : Vlt → Vlt) : (s.updVault n f).wrk = s.wrk := rfl
@[simp] theorem updVault_bars (n : Nat) (f : Vlt → Vlt) : (s.updVault n f).bars = s.bars := rfl
@[simp] theorem updVault_mcast (n : Nat) (f : Vlt → Vlt) : (s.updVault n f).mcast = s.mcast := rfl
@[simp] theorem updVault_dma (n : Nat) (f : Vlt → Vlt) : (s.updVault n f).dma = s.dma := rfl
@[simp] theorem updVault_trees (n : Nat) (f : Vlt → Vlt) : (s.updVault n f).trees = s.trees := rfl
@[simp] theorem updVault_ttRegs (n : Nat) (f : Vlt → Vlt) : (s.updVault n f).ttRegs = s.ttRegs := rfl
@[simp] theorem updVault_ttOps (n : Nat) (f : Vlt → Vlt) : (s.updVault n f).ttOps = s.ttOps := rfl
@[simp] theorem updVault_saf (n : Nat) (f : Vlt → Vlt) : (s.updVault n f).saf = s.saf := rfl
@[simp] theorem updVault_tu (n : Nat) (f : Vlt → Vlt) : (s.updVault n f).tu = s.tu := rfl
@[simp] theorem updVault_tuLost (n : Nat) (f : Vlt → Vlt) : (s.updVault n f).tuLost = s.tuLost := rfl
@[simp] theorem updVault_mem (n : Nat) (f : Vlt → Vlt) : (s.updVault n f).mem = s.mem := rfl
@[simp] theorem updVault_l1 (n : Nat) (f : Vlt → Vlt) : (s.updVault n f).l1 = s.l1 := rfl
@[simp] theorem updVault_icache (n : Nat) (f : Vlt → Vlt) : (s.updVault n f).icache = s.icache := rfl
@[simp] theorem updVault_l2 (n : Nat) (f : Vlt → Vlt) : (s.updVault n f).l2 = s.l2 := rfl
@[simp] theorem updVault_node (n : Nat) (f : Vlt → Vlt) : (s.updVault n f).node = s.node := rfl
@[simp] theorem updVault_clvCache (n : Nat) (f : Vlt → Vlt) : (s.updVault n f).clvCache = s.clvCache := rfl
@[simp] theorem updVault_thr (n : Nat) (f : Vlt → Vlt) : (s.updVault n f).thr = s.thr := rfl
@[simp] theorem updVault_sched (n : Nat) (f : Vlt → Vlt) : (s.updVault n f).sched = s.sched := rfl
@[simp] theorem updVault_host (n : Nat) (f : Vlt → Vlt) : (s.updVault n f).host = s.host := rfl
@[simp] theorem updVault_mbx (n : Nat) (f : Vlt → Vlt) : (s.updVault n f).mbx = s.mbx := rfl
@[simp] theorem updVault_dbMask (n : Nat) (f : Vlt → Vlt) : (s.updVault n f).dbMask = s.dbMask := rfl
@[simp] theorem updVault_link (n : Nat) (f : Vlt → Vlt) : (s.updVault n f).link = s.link := rfl
@[simp] theorem updVault_grp (n : Nat) (f : Vlt → Vlt) : (s.updVault n f).grp = s.grp := rfl
@[simp] theorem updVault_clk (n : Nat) (f : Vlt → Vlt) : (s.updVault n f).clk = s.clk := rfl
@[simp] theorem updVault_nut (n : Nat) (f : Vlt → Vlt) : (s.updVault n f).nut = s.nut := rfl
@[simp] theorem updVault_car (n : Nat) (f : Vlt → Vlt) : (s.updVault n f).car = s.car := rfl
@[simp] theorem updVault_err (n : Nat) (f : Vlt → Vlt) : (s.updVault n f).err = s.err := rfl
@[simp] theorem updVault_boot (n : Nat) (f : Vlt → Vlt) : (s.updVault n f).boot = s.boot := rfl
@[simp] theorem updVault_sec (n : Nat) (f : Vlt → Vlt) : (s.updVault n f).sec = s.sec := rfl
@[simp] theorem updVault_fuse (n : Nat) (f : Vlt → Vlt) : (s.updVault n f).fuse = s.fuse := rfl
@[simp] theorem updVault_pins (n : Nat) (f : Vlt → Vlt) : (s.updVault n f).pins = s.pins := rfl
@[simp] theorem vault_updVault_self (n : Nat) (f : Vlt → Vlt) : (s.updVault n f).vault n = f (s.vault n) := Tbl.get_upd_self ..
theorem vault_updVault_other (n : Nat) (f : Vlt → Vlt) {i : Nat} (h : i ≠ n) : (s.updVault n f).vault i = s.vault i :=
  Tbl.get_upd_other _ _ f h

/-! ## updThr -/

@[simp] theorem updThr_pending (n : Nat) (f : Thr → Thr) : (s.updThr n f).pending = s.pending := rfl
@[simp] theorem updThr_answer (n : Nat) (f : Thr → Thr) : (s.updThr n f).answer = s.answer := rfl
@[simp] theorem updThr_free (n : Nat) (f : Thr → Thr) : (s.updThr n f).free = s.free := rfl
@[simp] theorem updThr_shape (n : Nat) (f : Thr → Thr) : (s.updThr n f).shape = s.shape := rfl
@[simp] theorem updThr_commit (n : Nat) (f : Thr → Thr) : (s.updThr n f).commit = s.commit := rfl
@[simp] theorem updThr_time (n : Nat) (f : Thr → Thr) : (s.updThr n f).time = s.time := rfl
@[simp] theorem updThr_wrk (n : Nat) (f : Thr → Thr) : (s.updThr n f).wrk = s.wrk := rfl
@[simp] theorem updThr_bars (n : Nat) (f : Thr → Thr) : (s.updThr n f).bars = s.bars := rfl
@[simp] theorem updThr_mcast (n : Nat) (f : Thr → Thr) : (s.updThr n f).mcast = s.mcast := rfl
@[simp] theorem updThr_dma (n : Nat) (f : Thr → Thr) : (s.updThr n f).dma = s.dma := rfl
@[simp] theorem updThr_trees (n : Nat) (f : Thr → Thr) : (s.updThr n f).trees = s.trees := rfl
@[simp] theorem updThr_ttRegs (n : Nat) (f : Thr → Thr) : (s.updThr n f).ttRegs = s.ttRegs := rfl
@[simp] theorem updThr_ttOps (n : Nat) (f : Thr → Thr) : (s.updThr n f).ttOps = s.ttOps := rfl
@[simp] theorem updThr_saf (n : Nat) (f : Thr → Thr) : (s.updThr n f).saf = s.saf := rfl
@[simp] theorem updThr_tu (n : Nat) (f : Thr → Thr) : (s.updThr n f).tu = s.tu := rfl
@[simp] theorem updThr_tuLost (n : Nat) (f : Thr → Thr) : (s.updThr n f).tuLost = s.tuLost := rfl
@[simp] theorem updThr_mem (n : Nat) (f : Thr → Thr) : (s.updThr n f).mem = s.mem := rfl
@[simp] theorem updThr_l1 (n : Nat) (f : Thr → Thr) : (s.updThr n f).l1 = s.l1 := rfl
@[simp] theorem updThr_icache (n : Nat) (f : Thr → Thr) : (s.updThr n f).icache = s.icache := rfl
@[simp] theorem updThr_l2 (n : Nat) (f : Thr → Thr) : (s.updThr n f).l2 = s.l2 := rfl
@[simp] theorem updThr_node (n : Nat) (f : Thr → Thr) : (s.updThr n f).node = s.node := rfl
@[simp] theorem updThr_clvCache (n : Nat) (f : Thr → Thr) : (s.updThr n f).clvCache = s.clvCache := rfl
@[simp] theorem updThr_vlt (n : Nat) (f : Thr → Thr) : (s.updThr n f).vlt = s.vlt := rfl
@[simp] theorem updThr_sched (n : Nat) (f : Thr → Thr) : (s.updThr n f).sched = s.sched := rfl
@[simp] theorem updThr_host (n : Nat) (f : Thr → Thr) : (s.updThr n f).host = s.host := rfl
@[simp] theorem updThr_mbx (n : Nat) (f : Thr → Thr) : (s.updThr n f).mbx = s.mbx := rfl
@[simp] theorem updThr_dbMask (n : Nat) (f : Thr → Thr) : (s.updThr n f).dbMask = s.dbMask := rfl
@[simp] theorem updThr_link (n : Nat) (f : Thr → Thr) : (s.updThr n f).link = s.link := rfl
@[simp] theorem updThr_grp (n : Nat) (f : Thr → Thr) : (s.updThr n f).grp = s.grp := rfl
@[simp] theorem updThr_clk (n : Nat) (f : Thr → Thr) : (s.updThr n f).clk = s.clk := rfl
@[simp] theorem updThr_nut (n : Nat) (f : Thr → Thr) : (s.updThr n f).nut = s.nut := rfl
@[simp] theorem updThr_car (n : Nat) (f : Thr → Thr) : (s.updThr n f).car = s.car := rfl
@[simp] theorem updThr_err (n : Nat) (f : Thr → Thr) : (s.updThr n f).err = s.err := rfl
@[simp] theorem updThr_boot (n : Nat) (f : Thr → Thr) : (s.updThr n f).boot = s.boot := rfl
@[simp] theorem updThr_sec (n : Nat) (f : Thr → Thr) : (s.updThr n f).sec = s.sec := rfl
@[simp] theorem updThr_fuse (n : Nat) (f : Thr → Thr) : (s.updThr n f).fuse = s.fuse := rfl
@[simp] theorem updThr_pins (n : Nat) (f : Thr → Thr) : (s.updThr n f).pins = s.pins := rfl
@[simp] theorem thread_updThr_self (n : Nat) (f : Thr → Thr) : (s.updThr n f).thread n = f (s.thread n) := Tbl.get_upd_self ..
theorem thread_updThr_other (n : Nat) (f : Thr → Thr) {i : Nat} (h : i ≠ n) : (s.updThr n f).thread i = s.thread i :=
  Tbl.get_upd_other _ _ f h

/-! ## updHost -/

@[simp] theorem updHost_pending (n : Nat) (f : HostPort → HostPort) : (s.updHost n f).pending = s.pending := rfl
@[simp] theorem updHost_answer (n : Nat) (f : HostPort → HostPort) : (s.updHost n f).answer = s.answer := rfl
@[simp] theorem updHost_free (n : Nat) (f : HostPort → HostPort) : (s.updHost n f).free = s.free := rfl
@[simp] theorem updHost_shape (n : Nat) (f : HostPort → HostPort) : (s.updHost n f).shape = s.shape := rfl
@[simp] theorem updHost_commit (n : Nat) (f : HostPort → HostPort) : (s.updHost n f).commit = s.commit := rfl
@[simp] theorem updHost_time (n : Nat) (f : HostPort → HostPort) : (s.updHost n f).time = s.time := rfl
@[simp] theorem updHost_wrk (n : Nat) (f : HostPort → HostPort) : (s.updHost n f).wrk = s.wrk := rfl
@[simp] theorem updHost_bars (n : Nat) (f : HostPort → HostPort) : (s.updHost n f).bars = s.bars := rfl
@[simp] theorem updHost_mcast (n : Nat) (f : HostPort → HostPort) : (s.updHost n f).mcast = s.mcast := rfl
@[simp] theorem updHost_dma (n : Nat) (f : HostPort → HostPort) : (s.updHost n f).dma = s.dma := rfl
@[simp] theorem updHost_trees (n : Nat) (f : HostPort → HostPort) : (s.updHost n f).trees = s.trees := rfl
@[simp] theorem updHost_ttRegs (n : Nat) (f : HostPort → HostPort) : (s.updHost n f).ttRegs = s.ttRegs := rfl
@[simp] theorem updHost_ttOps (n : Nat) (f : HostPort → HostPort) : (s.updHost n f).ttOps = s.ttOps := rfl
@[simp] theorem updHost_saf (n : Nat) (f : HostPort → HostPort) : (s.updHost n f).saf = s.saf := rfl
@[simp] theorem updHost_tu (n : Nat) (f : HostPort → HostPort) : (s.updHost n f).tu = s.tu := rfl
@[simp] theorem updHost_tuLost (n : Nat) (f : HostPort → HostPort) : (s.updHost n f).tuLost = s.tuLost := rfl
@[simp] theorem updHost_mem (n : Nat) (f : HostPort → HostPort) : (s.updHost n f).mem = s.mem := rfl
@[simp] theorem updHost_l1 (n : Nat) (f : HostPort → HostPort) : (s.updHost n f).l1 = s.l1 := rfl
@[simp] theorem updHost_icache (n : Nat) (f : HostPort → HostPort) : (s.updHost n f).icache = s.icache := rfl
@[simp] theorem updHost_l2 (n : Nat) (f : HostPort → HostPort) : (s.updHost n f).l2 = s.l2 := rfl
@[simp] theorem updHost_node (n : Nat) (f : HostPort → HostPort) : (s.updHost n f).node = s.node := rfl
@[simp] theorem updHost_clvCache (n : Nat) (f : HostPort → HostPort) : (s.updHost n f).clvCache = s.clvCache := rfl
@[simp] theorem updHost_vlt (n : Nat) (f : HostPort → HostPort) : (s.updHost n f).vlt = s.vlt := rfl
@[simp] theorem updHost_thr (n : Nat) (f : HostPort → HostPort) : (s.updHost n f).thr = s.thr := rfl
@[simp] theorem updHost_sched (n : Nat) (f : HostPort → HostPort) : (s.updHost n f).sched = s.sched := rfl
@[simp] theorem updHost_mbx (n : Nat) (f : HostPort → HostPort) : (s.updHost n f).mbx = s.mbx := rfl
@[simp] theorem updHost_dbMask (n : Nat) (f : HostPort → HostPort) : (s.updHost n f).dbMask = s.dbMask := rfl
@[simp] theorem updHost_link (n : Nat) (f : HostPort → HostPort) : (s.updHost n f).link = s.link := rfl
@[simp] theorem updHost_grp (n : Nat) (f : HostPort → HostPort) : (s.updHost n f).grp = s.grp := rfl
@[simp] theorem updHost_clk (n : Nat) (f : HostPort → HostPort) : (s.updHost n f).clk = s.clk := rfl
@[simp] theorem updHost_nut (n : Nat) (f : HostPort → HostPort) : (s.updHost n f).nut = s.nut := rfl
@[simp] theorem updHost_car (n : Nat) (f : HostPort → HostPort) : (s.updHost n f).car = s.car := rfl
@[simp] theorem updHost_err (n : Nat) (f : HostPort → HostPort) : (s.updHost n f).err = s.err := rfl
@[simp] theorem updHost_boot (n : Nat) (f : HostPort → HostPort) : (s.updHost n f).boot = s.boot := rfl
@[simp] theorem updHost_sec (n : Nat) (f : HostPort → HostPort) : (s.updHost n f).sec = s.sec := rfl
@[simp] theorem updHost_fuse (n : Nat) (f : HostPort → HostPort) : (s.updHost n f).fuse = s.fuse := rfl
@[simp] theorem updHost_pins (n : Nat) (f : HostPort → HostPort) : (s.updHost n f).pins = s.pins := rfl
@[simp] theorem hostPort_updHost_self (n : Nat) (f : HostPort → HostPort) : (s.updHost n f).hostPort n = f (s.hostPort n) := Tbl.get_upd_self ..
theorem hostPort_updHost_other (n : Nat) (f : HostPort → HostPort) {i : Nat} (h : i ≠ n) : (s.updHost n f).hostPort i = s.hostPort i :=
  Tbl.get_upd_other _ _ f h

/-! ## updMbx -/

@[simp] theorem updMbx_pending (n : Nat) (f : Mbx → Mbx) : (s.updMbx n f).pending = s.pending := rfl
@[simp] theorem updMbx_answer (n : Nat) (f : Mbx → Mbx) : (s.updMbx n f).answer = s.answer := rfl
@[simp] theorem updMbx_free (n : Nat) (f : Mbx → Mbx) : (s.updMbx n f).free = s.free := rfl
@[simp] theorem updMbx_shape (n : Nat) (f : Mbx → Mbx) : (s.updMbx n f).shape = s.shape := rfl
@[simp] theorem updMbx_commit (n : Nat) (f : Mbx → Mbx) : (s.updMbx n f).commit = s.commit := rfl
@[simp] theorem updMbx_time (n : Nat) (f : Mbx → Mbx) : (s.updMbx n f).time = s.time := rfl
@[simp] theorem updMbx_wrk (n : Nat) (f : Mbx → Mbx) : (s.updMbx n f).wrk = s.wrk := rfl
@[simp] theorem updMbx_bars (n : Nat) (f : Mbx → Mbx) : (s.updMbx n f).bars = s.bars := rfl
@[simp] theorem updMbx_mcast (n : Nat) (f : Mbx → Mbx) : (s.updMbx n f).mcast = s.mcast := rfl
@[simp] theorem updMbx_dma (n : Nat) (f : Mbx → Mbx) : (s.updMbx n f).dma = s.dma := rfl
@[simp] theorem updMbx_trees (n : Nat) (f : Mbx → Mbx) : (s.updMbx n f).trees = s.trees := rfl
@[simp] theorem updMbx_ttRegs (n : Nat) (f : Mbx → Mbx) : (s.updMbx n f).ttRegs = s.ttRegs := rfl
@[simp] theorem updMbx_ttOps (n : Nat) (f : Mbx → Mbx) : (s.updMbx n f).ttOps = s.ttOps := rfl
@[simp] theorem updMbx_saf (n : Nat) (f : Mbx → Mbx) : (s.updMbx n f).saf = s.saf := rfl
@[simp] theorem updMbx_tu (n : Nat) (f : Mbx → Mbx) : (s.updMbx n f).tu = s.tu := rfl
@[simp] theorem updMbx_tuLost (n : Nat) (f : Mbx → Mbx) : (s.updMbx n f).tuLost = s.tuLost := rfl
@[simp] theorem updMbx_mem (n : Nat) (f : Mbx → Mbx) : (s.updMbx n f).mem = s.mem := rfl
@[simp] theorem updMbx_l1 (n : Nat) (f : Mbx → Mbx) : (s.updMbx n f).l1 = s.l1 := rfl
@[simp] theorem updMbx_icache (n : Nat) (f : Mbx → Mbx) : (s.updMbx n f).icache = s.icache := rfl
@[simp] theorem updMbx_l2 (n : Nat) (f : Mbx → Mbx) : (s.updMbx n f).l2 = s.l2 := rfl
@[simp] theorem updMbx_node (n : Nat) (f : Mbx → Mbx) : (s.updMbx n f).node = s.node := rfl
@[simp] theorem updMbx_clvCache (n : Nat) (f : Mbx → Mbx) : (s.updMbx n f).clvCache = s.clvCache := rfl
@[simp] theorem updMbx_vlt (n : Nat) (f : Mbx → Mbx) : (s.updMbx n f).vlt = s.vlt := rfl
@[simp] theorem updMbx_thr (n : Nat) (f : Mbx → Mbx) : (s.updMbx n f).thr = s.thr := rfl
@[simp] theorem updMbx_sched (n : Nat) (f : Mbx → Mbx) : (s.updMbx n f).sched = s.sched := rfl
@[simp] theorem updMbx_host (n : Nat) (f : Mbx → Mbx) : (s.updMbx n f).host = s.host := rfl
@[simp] theorem updMbx_dbMask (n : Nat) (f : Mbx → Mbx) : (s.updMbx n f).dbMask = s.dbMask := rfl
@[simp] theorem updMbx_link (n : Nat) (f : Mbx → Mbx) : (s.updMbx n f).link = s.link := rfl
@[simp] theorem updMbx_grp (n : Nat) (f : Mbx → Mbx) : (s.updMbx n f).grp = s.grp := rfl
@[simp] theorem updMbx_clk (n : Nat) (f : Mbx → Mbx) : (s.updMbx n f).clk = s.clk := rfl
@[simp] theorem updMbx_nut (n : Nat) (f : Mbx → Mbx) : (s.updMbx n f).nut = s.nut := rfl
@[simp] theorem updMbx_car (n : Nat) (f : Mbx → Mbx) : (s.updMbx n f).car = s.car := rfl
@[simp] theorem updMbx_err (n : Nat) (f : Mbx → Mbx) : (s.updMbx n f).err = s.err := rfl
@[simp] theorem updMbx_boot (n : Nat) (f : Mbx → Mbx) : (s.updMbx n f).boot = s.boot := rfl
@[simp] theorem updMbx_sec (n : Nat) (f : Mbx → Mbx) : (s.updMbx n f).sec = s.sec := rfl
@[simp] theorem updMbx_fuse (n : Nat) (f : Mbx → Mbx) : (s.updMbx n f).fuse = s.fuse := rfl
@[simp] theorem updMbx_pins (n : Nat) (f : Mbx → Mbx) : (s.updMbx n f).pins = s.pins := rfl
@[simp] theorem mbxAt_updMbx_self (n : Nat) (f : Mbx → Mbx) : (s.updMbx n f).mbxAt n = f (s.mbxAt n) := Tbl.get_upd_self ..
theorem mbxAt_updMbx_other (n : Nat) (f : Mbx → Mbx) {i : Nat} (h : i ≠ n) : (s.updMbx n f).mbxAt i = s.mbxAt i :=
  Tbl.get_upd_other _ _ f h

/-! ## updPort -/

@[simp] theorem updPort_pending (n : Nat) (f : LinkPort → LinkPort) : (s.updPort n f).pending = s.pending := rfl
@[simp] theorem updPort_answer (n : Nat) (f : LinkPort → LinkPort) : (s.updPort n f).answer = s.answer := rfl
@[simp] theorem updPort_free (n : Nat) (f : LinkPort → LinkPort) : (s.updPort n f).free = s.free := rfl
@[simp] theorem updPort_shape (n : Nat) (f : LinkPort → LinkPort) : (s.updPort n f).shape = s.shape := rfl
@[simp] theorem updPort_commit (n : Nat) (f : LinkPort → LinkPort) : (s.updPort n f).commit = s.commit := rfl
@[simp] theorem updPort_time (n : Nat) (f : LinkPort → LinkPort) : (s.updPort n f).time = s.time := rfl
@[simp] theorem updPort_wrk (n : Nat) (f : LinkPort → LinkPort) : (s.updPort n f).wrk = s.wrk := rfl
@[simp] theorem updPort_bars (n : Nat) (f : LinkPort → LinkPort) : (s.updPort n f).bars = s.bars := rfl
@[simp] theorem updPort_mcast (n : Nat) (f : LinkPort → LinkPort) : (s.updPort n f).mcast = s.mcast := rfl
@[simp] theorem updPort_dma (n : Nat) (f : LinkPort → LinkPort) : (s.updPort n f).dma = s.dma := rfl
@[simp] theorem updPort_trees (n : Nat) (f : LinkPort → LinkPort) : (s.updPort n f).trees = s.trees := rfl
@[simp] theorem updPort_ttRegs (n : Nat) (f : LinkPort → LinkPort) : (s.updPort n f).ttRegs = s.ttRegs := rfl
@[simp] theorem updPort_ttOps (n : Nat) (f : LinkPort → LinkPort) : (s.updPort n f).ttOps = s.ttOps := rfl
@[simp] theorem updPort_saf (n : Nat) (f : LinkPort → LinkPort) : (s.updPort n f).saf = s.saf := rfl
@[simp] theorem updPort_tu (n : Nat) (f : LinkPort → LinkPort) : (s.updPort n f).tu = s.tu := rfl
@[simp] theorem updPort_tuLost (n : Nat) (f : LinkPort → LinkPort) : (s.updPort n f).tuLost = s.tuLost := rfl
@[simp] theorem updPort_mem (n : Nat) (f : LinkPort → LinkPort) : (s.updPort n f).mem = s.mem := rfl
@[simp] theorem updPort_l1 (n : Nat) (f : LinkPort → LinkPort) : (s.updPort n f).l1 = s.l1 := rfl
@[simp] theorem updPort_icache (n : Nat) (f : LinkPort → LinkPort) : (s.updPort n f).icache = s.icache := rfl
@[simp] theorem updPort_l2 (n : Nat) (f : LinkPort → LinkPort) : (s.updPort n f).l2 = s.l2 := rfl
@[simp] theorem updPort_node (n : Nat) (f : LinkPort → LinkPort) : (s.updPort n f).node = s.node := rfl
@[simp] theorem updPort_clvCache (n : Nat) (f : LinkPort → LinkPort) : (s.updPort n f).clvCache = s.clvCache := rfl
@[simp] theorem updPort_vlt (n : Nat) (f : LinkPort → LinkPort) : (s.updPort n f).vlt = s.vlt := rfl
@[simp] theorem updPort_thr (n : Nat) (f : LinkPort → LinkPort) : (s.updPort n f).thr = s.thr := rfl
@[simp] theorem updPort_sched (n : Nat) (f : LinkPort → LinkPort) : (s.updPort n f).sched = s.sched := rfl
@[simp] theorem updPort_host (n : Nat) (f : LinkPort → LinkPort) : (s.updPort n f).host = s.host := rfl
@[simp] theorem updPort_mbx (n : Nat) (f : LinkPort → LinkPort) : (s.updPort n f).mbx = s.mbx := rfl
@[simp] theorem updPort_dbMask (n : Nat) (f : LinkPort → LinkPort) : (s.updPort n f).dbMask = s.dbMask := rfl
@[simp] theorem updPort_grp (n : Nat) (f : LinkPort → LinkPort) : (s.updPort n f).grp = s.grp := rfl
@[simp] theorem updPort_clk (n : Nat) (f : LinkPort → LinkPort) : (s.updPort n f).clk = s.clk := rfl
@[simp] theorem updPort_nut (n : Nat) (f : LinkPort → LinkPort) : (s.updPort n f).nut = s.nut := rfl
@[simp] theorem updPort_car (n : Nat) (f : LinkPort → LinkPort) : (s.updPort n f).car = s.car := rfl
@[simp] theorem updPort_err (n : Nat) (f : LinkPort → LinkPort) : (s.updPort n f).err = s.err := rfl
@[simp] theorem updPort_boot (n : Nat) (f : LinkPort → LinkPort) : (s.updPort n f).boot = s.boot := rfl
@[simp] theorem updPort_sec (n : Nat) (f : LinkPort → LinkPort) : (s.updPort n f).sec = s.sec := rfl
@[simp] theorem updPort_fuse (n : Nat) (f : LinkPort → LinkPort) : (s.updPort n f).fuse = s.fuse := rfl
@[simp] theorem updPort_pins (n : Nat) (f : LinkPort → LinkPort) : (s.updPort n f).pins = s.pins := rfl
@[simp] theorem port_updPort_self (n : Nat) (f : LinkPort → LinkPort) : (s.updPort n f).port n = f (s.port n) := Tbl.get_upd_self ..
theorem port_updPort_other (n : Nat) (f : LinkPort → LinkPort) {i : Nat} (h : i ≠ n) : (s.updPort n f).port i = s.port i :=
  Tbl.get_upd_other _ _ f h

/-! ## updSched -/

@[simp] theorem updSched_pending (f : SchedSt → SchedSt) : (s.updSched f).pending = s.pending := rfl
@[simp] theorem updSched_answer (f : SchedSt → SchedSt) : (s.updSched f).answer = s.answer := rfl
@[simp] theorem updSched_free (f : SchedSt → SchedSt) : (s.updSched f).free = s.free := rfl
@[simp] theorem updSched_shape (f : SchedSt → SchedSt) : (s.updSched f).shape = s.shape := rfl
@[simp] theorem updSched_commit (f : SchedSt → SchedSt) : (s.updSched f).commit = s.commit := rfl
@[simp] theorem updSched_time (f : SchedSt → SchedSt) : (s.updSched f).time = s.time := rfl
@[simp] theorem updSched_wrk (f : SchedSt → SchedSt) : (s.updSched f).wrk = s.wrk := rfl
@[simp] theorem updSched_bars (f : SchedSt → SchedSt) : (s.updSched f).bars = s.bars := rfl
@[simp] theorem updSched_mcast (f : SchedSt → SchedSt) : (s.updSched f).mcast = s.mcast := rfl
@[simp] theorem updSched_dma (f : SchedSt → SchedSt) : (s.updSched f).dma = s.dma := rfl
@[simp] theorem updSched_trees (f : SchedSt → SchedSt) : (s.updSched f).trees = s.trees := rfl
@[simp] theorem updSched_ttRegs (f : SchedSt → SchedSt) : (s.updSched f).ttRegs = s.ttRegs := rfl
@[simp] theorem updSched_ttOps (f : SchedSt → SchedSt) : (s.updSched f).ttOps = s.ttOps := rfl
@[simp] theorem updSched_saf (f : SchedSt → SchedSt) : (s.updSched f).saf = s.saf := rfl
@[simp] theorem updSched_tu (f : SchedSt → SchedSt) : (s.updSched f).tu = s.tu := rfl
@[simp] theorem updSched_tuLost (f : SchedSt → SchedSt) : (s.updSched f).tuLost = s.tuLost := rfl
@[simp] theorem updSched_mem (f : SchedSt → SchedSt) : (s.updSched f).mem = s.mem := rfl
@[simp] theorem updSched_l1 (f : SchedSt → SchedSt) : (s.updSched f).l1 = s.l1 := rfl
@[simp] theorem updSched_icache (f : SchedSt → SchedSt) : (s.updSched f).icache = s.icache := rfl
@[simp] theorem updSched_l2 (f : SchedSt → SchedSt) : (s.updSched f).l2 = s.l2 := rfl
@[simp] theorem updSched_node (f : SchedSt → SchedSt) : (s.updSched f).node = s.node := rfl
@[simp] theorem updSched_clvCache (f : SchedSt → SchedSt) : (s.updSched f).clvCache = s.clvCache := rfl
@[simp] theorem updSched_vlt (f : SchedSt → SchedSt) : (s.updSched f).vlt = s.vlt := rfl
@[simp] theorem updSched_thr (f : SchedSt → SchedSt) : (s.updSched f).thr = s.thr := rfl
@[simp] theorem updSched_sched (f : SchedSt → SchedSt) : (s.updSched f).sched = f s.sched := rfl
@[simp] theorem updSched_host (f : SchedSt → SchedSt) : (s.updSched f).host = s.host := rfl
@[simp] theorem updSched_mbx (f : SchedSt → SchedSt) : (s.updSched f).mbx = s.mbx := rfl
@[simp] theorem updSched_dbMask (f : SchedSt → SchedSt) : (s.updSched f).dbMask = s.dbMask := rfl
@[simp] theorem updSched_link (f : SchedSt → SchedSt) : (s.updSched f).link = s.link := rfl
@[simp] theorem updSched_grp (f : SchedSt → SchedSt) : (s.updSched f).grp = s.grp := rfl
@[simp] theorem updSched_clk (f : SchedSt → SchedSt) : (s.updSched f).clk = s.clk := rfl
@[simp] theorem updSched_nut (f : SchedSt → SchedSt) : (s.updSched f).nut = s.nut := rfl
@[simp] theorem updSched_car (f : SchedSt → SchedSt) : (s.updSched f).car = s.car := rfl
@[simp] theorem updSched_err (f : SchedSt → SchedSt) : (s.updSched f).err = s.err := rfl
@[simp] theorem updSched_boot (f : SchedSt → SchedSt) : (s.updSched f).boot = s.boot := rfl
@[simp] theorem updSched_sec (f : SchedSt → SchedSt) : (s.updSched f).sec = s.sec := rfl
@[simp] theorem updSched_fuse (f : SchedSt → SchedSt) : (s.updSched f).fuse = s.fuse := rfl
@[simp] theorem updSched_pins (f : SchedSt → SchedSt) : (s.updSched f).pins = s.pins := rfl

/-! ## updErr -/

@[simp] theorem updErr_pending (f : ErrSt → ErrSt) : (s.updErr f).pending = s.pending := rfl
@[simp] theorem updErr_answer (f : ErrSt → ErrSt) : (s.updErr f).answer = s.answer := rfl
@[simp] theorem updErr_free (f : ErrSt → ErrSt) : (s.updErr f).free = s.free := rfl
@[simp] theorem updErr_shape (f : ErrSt → ErrSt) : (s.updErr f).shape = s.shape := rfl
@[simp] theorem updErr_commit (f : ErrSt → ErrSt) : (s.updErr f).commit = s.commit := rfl
@[simp] theorem updErr_time (f : ErrSt → ErrSt) : (s.updErr f).time = s.time := rfl
@[simp] theorem updErr_wrk (f : ErrSt → ErrSt) : (s.updErr f).wrk = s.wrk := rfl
@[simp] theorem updErr_bars (f : ErrSt → ErrSt) : (s.updErr f).bars = s.bars := rfl
@[simp] theorem updErr_mcast (f : ErrSt → ErrSt) : (s.updErr f).mcast = s.mcast := rfl
@[simp] theorem updErr_dma (f : ErrSt → ErrSt) : (s.updErr f).dma = s.dma := rfl
@[simp] theorem updErr_trees (f : ErrSt → ErrSt) : (s.updErr f).trees = s.trees := rfl
@[simp] theorem updErr_ttRegs (f : ErrSt → ErrSt) : (s.updErr f).ttRegs = s.ttRegs := rfl
@[simp] theorem updErr_ttOps (f : ErrSt → ErrSt) : (s.updErr f).ttOps = s.ttOps := rfl
@[simp] theorem updErr_saf (f : ErrSt → ErrSt) : (s.updErr f).saf = s.saf := rfl
@[simp] theorem updErr_tu (f : ErrSt → ErrSt) : (s.updErr f).tu = s.tu := rfl
@[simp] theorem updErr_tuLost (f : ErrSt → ErrSt) : (s.updErr f).tuLost = s.tuLost := rfl
@[simp] theorem updErr_mem (f : ErrSt → ErrSt) : (s.updErr f).mem = s.mem := rfl
@[simp] theorem updErr_l1 (f : ErrSt → ErrSt) : (s.updErr f).l1 = s.l1 := rfl
@[simp] theorem updErr_icache (f : ErrSt → ErrSt) : (s.updErr f).icache = s.icache := rfl
@[simp] theorem updErr_l2 (f : ErrSt → ErrSt) : (s.updErr f).l2 = s.l2 := rfl
@[simp] theorem updErr_node (f : ErrSt → ErrSt) : (s.updErr f).node = s.node := rfl
@[simp] theorem updErr_clvCache (f : ErrSt → ErrSt) : (s.updErr f).clvCache = s.clvCache := rfl
@[simp] theorem updErr_vlt (f : ErrSt → ErrSt) : (s.updErr f).vlt = s.vlt := rfl
@[simp] theorem updErr_thr (f : ErrSt → ErrSt) : (s.updErr f).thr = s.thr := rfl
@[simp] theorem updErr_sched (f : ErrSt → ErrSt) : (s.updErr f).sched = s.sched := rfl
@[simp] theorem updErr_host (f : ErrSt → ErrSt) : (s.updErr f).host = s.host := rfl
@[simp] theorem updErr_mbx (f : ErrSt → ErrSt) : (s.updErr f).mbx = s.mbx := rfl
@[simp] theorem updErr_dbMask (f : ErrSt → ErrSt) : (s.updErr f).dbMask = s.dbMask := rfl
@[simp] theorem updErr_link (f : ErrSt → ErrSt) : (s.updErr f).link = s.link := rfl
@[simp] theorem updErr_grp (f : ErrSt → ErrSt) : (s.updErr f).grp = s.grp := rfl
@[simp] theorem updErr_clk (f : ErrSt → ErrSt) : (s.updErr f).clk = s.clk := rfl
@[simp] theorem updErr_nut (f : ErrSt → ErrSt) : (s.updErr f).nut = s.nut := rfl
@[simp] theorem updErr_car (f : ErrSt → ErrSt) : (s.updErr f).car = s.car := rfl
@[simp] theorem updErr_err (f : ErrSt → ErrSt) : (s.updErr f).err = f s.err := rfl
@[simp] theorem updErr_boot (f : ErrSt → ErrSt) : (s.updErr f).boot = s.boot := rfl
@[simp] theorem updErr_sec (f : ErrSt → ErrSt) : (s.updErr f).sec = s.sec := rfl
@[simp] theorem updErr_fuse (f : ErrSt → ErrSt) : (s.updErr f).fuse = s.fuse := rfl
@[simp] theorem updErr_pins (f : ErrSt → ErrSt) : (s.updErr f).pins = s.pins := rfl

/-! ## updNut -/

@[simp] theorem updNut_pending (f : NutSt → NutSt) : (s.updNut f).pending = s.pending := rfl
@[simp] theorem updNut_answer (f : NutSt → NutSt) : (s.updNut f).answer = s.answer := rfl
@[simp] theorem updNut_free (f : NutSt → NutSt) : (s.updNut f).free = s.free := rfl
@[simp] theorem updNut_shape (f : NutSt → NutSt) : (s.updNut f).shape = s.shape := rfl
@[simp] theorem updNut_commit (f : NutSt → NutSt) : (s.updNut f).commit = s.commit := rfl
@[simp] theorem updNut_time (f : NutSt → NutSt) : (s.updNut f).time = s.time := rfl
@[simp] theorem updNut_wrk (f : NutSt → NutSt) : (s.updNut f).wrk = s.wrk := rfl
@[simp] theorem updNut_bars (f : NutSt → NutSt) : (s.updNut f).bars = s.bars := rfl
@[simp] theorem updNut_mcast (f : NutSt → NutSt) : (s.updNut f).mcast = s.mcast := rfl
@[simp] theorem updNut_dma (f : NutSt → NutSt) : (s.updNut f).dma = s.dma := rfl
@[simp] theorem updNut_trees (f : NutSt → NutSt) : (s.updNut f).trees = s.trees := rfl
@[simp] theorem updNut_ttRegs (f : NutSt → NutSt) : (s.updNut f).ttRegs = s.ttRegs := rfl
@[simp] theorem updNut_ttOps (f : NutSt → NutSt) : (s.updNut f).ttOps = s.ttOps := rfl
@[simp] theorem updNut_saf (f : NutSt → NutSt) : (s.updNut f).saf = s.saf := rfl
@[simp] theorem updNut_tu (f : NutSt → NutSt) : (s.updNut f).tu = s.tu := rfl
@[simp] theorem updNut_tuLost (f : NutSt → NutSt) : (s.updNut f).tuLost = s.tuLost := rfl
@[simp] theorem updNut_mem (f : NutSt → NutSt) : (s.updNut f).mem = s.mem := rfl
@[simp] theorem updNut_l1 (f : NutSt → NutSt) : (s.updNut f).l1 = s.l1 := rfl
@[simp] theorem updNut_icache (f : NutSt → NutSt) : (s.updNut f).icache = s.icache := rfl
@[simp] theorem updNut_l2 (f : NutSt → NutSt) : (s.updNut f).l2 = s.l2 := rfl
@[simp] theorem updNut_node (f : NutSt → NutSt) : (s.updNut f).node = s.node := rfl
@[simp] theorem updNut_clvCache (f : NutSt → NutSt) : (s.updNut f).clvCache = s.clvCache := rfl
@[simp] theorem updNut_vlt (f : NutSt → NutSt) : (s.updNut f).vlt = s.vlt := rfl
@[simp] theorem updNut_thr (f : NutSt → NutSt) : (s.updNut f).thr = s.thr := rfl
@[simp] theorem updNut_sched (f : NutSt → NutSt) : (s.updNut f).sched = s.sched := rfl
@[simp] theorem updNut_host (f : NutSt → NutSt) : (s.updNut f).host = s.host := rfl
@[simp] theorem updNut_mbx (f : NutSt → NutSt) : (s.updNut f).mbx = s.mbx := rfl
@[simp] theorem updNut_dbMask (f : NutSt → NutSt) : (s.updNut f).dbMask = s.dbMask := rfl
@[simp] theorem updNut_link (f : NutSt → NutSt) : (s.updNut f).link = s.link := rfl
@[simp] theorem updNut_grp (f : NutSt → NutSt) : (s.updNut f).grp = s.grp := rfl
@[simp] theorem updNut_clk (f : NutSt → NutSt) : (s.updNut f).clk = s.clk := rfl
@[simp] theorem updNut_nut (f : NutSt → NutSt) : (s.updNut f).nut = f s.nut := rfl
@[simp] theorem updNut_car (f : NutSt → NutSt) : (s.updNut f).car = s.car := rfl
@[simp] theorem updNut_err (f : NutSt → NutSt) : (s.updNut f).err = s.err := rfl
@[simp] theorem updNut_boot (f : NutSt → NutSt) : (s.updNut f).boot = s.boot := rfl
@[simp] theorem updNut_sec (f : NutSt → NutSt) : (s.updNut f).sec = s.sec := rfl
@[simp] theorem updNut_fuse (f : NutSt → NutSt) : (s.updNut f).fuse = s.fuse := rfl
@[simp] theorem updNut_pins (f : NutSt → NutSt) : (s.updNut f).pins = s.pins := rfl

/-! ## updCar -/

@[simp] theorem updCar_pending (f : CarSt → CarSt) : (s.updCar f).pending = s.pending := rfl
@[simp] theorem updCar_answer (f : CarSt → CarSt) : (s.updCar f).answer = s.answer := rfl
@[simp] theorem updCar_free (f : CarSt → CarSt) : (s.updCar f).free = s.free := rfl
@[simp] theorem updCar_shape (f : CarSt → CarSt) : (s.updCar f).shape = s.shape := rfl
@[simp] theorem updCar_commit (f : CarSt → CarSt) : (s.updCar f).commit = s.commit := rfl
@[simp] theorem updCar_time (f : CarSt → CarSt) : (s.updCar f).time = s.time := rfl
@[simp] theorem updCar_wrk (f : CarSt → CarSt) : (s.updCar f).wrk = s.wrk := rfl
@[simp] theorem updCar_bars (f : CarSt → CarSt) : (s.updCar f).bars = s.bars := rfl
@[simp] theorem updCar_mcast (f : CarSt → CarSt) : (s.updCar f).mcast = s.mcast := rfl
@[simp] theorem updCar_dma (f : CarSt → CarSt) : (s.updCar f).dma = s.dma := rfl
@[simp] theorem updCar_trees (f : CarSt → CarSt) : (s.updCar f).trees = s.trees := rfl
@[simp] theorem updCar_ttRegs (f : CarSt → CarSt) : (s.updCar f).ttRegs = s.ttRegs := rfl
@[simp] theorem updCar_ttOps (f : CarSt → CarSt) : (s.updCar f).ttOps = s.ttOps := rfl
@[simp] theorem updCar_saf (f : CarSt → CarSt) : (s.updCar f).saf = s.saf := rfl
@[simp] theorem updCar_tu (f : CarSt → CarSt) : (s.updCar f).tu = s.tu := rfl
@[simp] theorem updCar_tuLost (f : CarSt → CarSt) : (s.updCar f).tuLost = s.tuLost := rfl
@[simp] theorem updCar_mem (f : CarSt → CarSt) : (s.updCar f).mem = s.mem := rfl
@[simp] theorem updCar_l1 (f : CarSt → CarSt) : (s.updCar f).l1 = s.l1 := rfl
@[simp] theorem updCar_icache (f : CarSt → CarSt) : (s.updCar f).icache = s.icache := rfl
@[simp] theorem updCar_l2 (f : CarSt → CarSt) : (s.updCar f).l2 = s.l2 := rfl
@[simp] theorem updCar_node (f : CarSt → CarSt) : (s.updCar f).node = s.node := rfl
@[simp] theorem updCar_clvCache (f : CarSt → CarSt) : (s.updCar f).clvCache = s.clvCache := rfl
@[simp] theorem updCar_vlt (f : CarSt → CarSt) : (s.updCar f).vlt = s.vlt := rfl
@[simp] theorem updCar_thr (f : CarSt → CarSt) : (s.updCar f).thr = s.thr := rfl
@[simp] theorem updCar_sched (f : CarSt → CarSt) : (s.updCar f).sched = s.sched := rfl
@[simp] theorem updCar_host (f : CarSt → CarSt) : (s.updCar f).host = s.host := rfl
@[simp] theorem updCar_mbx (f : CarSt → CarSt) : (s.updCar f).mbx = s.mbx := rfl
@[simp] theorem updCar_dbMask (f : CarSt → CarSt) : (s.updCar f).dbMask = s.dbMask := rfl
@[simp] theorem updCar_link (f : CarSt → CarSt) : (s.updCar f).link = s.link := rfl
@[simp] theorem updCar_grp (f : CarSt → CarSt) : (s.updCar f).grp = s.grp := rfl
@[simp] theorem updCar_clk (f : CarSt → CarSt) : (s.updCar f).clk = s.clk := rfl
@[simp] theorem updCar_nut (f : CarSt → CarSt) : (s.updCar f).nut = s.nut := rfl
@[simp] theorem updCar_car (f : CarSt → CarSt) : (s.updCar f).car = f s.car := rfl
@[simp] theorem updCar_err (f : CarSt → CarSt) : (s.updCar f).err = s.err := rfl
@[simp] theorem updCar_boot (f : CarSt → CarSt) : (s.updCar f).boot = s.boot := rfl
@[simp] theorem updCar_sec (f : CarSt → CarSt) : (s.updCar f).sec = s.sec := rfl
@[simp] theorem updCar_fuse (f : CarSt → CarSt) : (s.updCar f).fuse = s.fuse := rfl
@[simp] theorem updCar_pins (f : CarSt → CarSt) : (s.updCar f).pins = s.pins := rfl

/-! ## updGrp -/

@[simp] theorem updGrp_pending (f : GroupSt → GroupSt) : (s.updGrp f).pending = s.pending := rfl
@[simp] theorem updGrp_answer (f : GroupSt → GroupSt) : (s.updGrp f).answer = s.answer := rfl
@[simp] theorem updGrp_free (f : GroupSt → GroupSt) : (s.updGrp f).free = s.free := rfl
@[simp] theorem updGrp_shape (f : GroupSt → GroupSt) : (s.updGrp f).shape = s.shape := rfl
@[simp] theorem updGrp_commit (f : GroupSt → GroupSt) : (s.updGrp f).commit = s.commit := rfl
@[simp] theorem updGrp_time (f : GroupSt → GroupSt) : (s.updGrp f).time = s.time := rfl
@[simp] theorem updGrp_wrk (f : GroupSt → GroupSt) : (s.updGrp f).wrk = s.wrk := rfl
@[simp] theorem updGrp_bars (f : GroupSt → GroupSt) : (s.updGrp f).bars = s.bars := rfl
@[simp] theorem updGrp_mcast (f : GroupSt → GroupSt) : (s.updGrp f).mcast = s.mcast := rfl
@[simp] theorem updGrp_dma (f : GroupSt → GroupSt) : (s.updGrp f).dma = s.dma := rfl
@[simp] theorem updGrp_trees (f : GroupSt → GroupSt) : (s.updGrp f).trees = s.trees := rfl
@[simp] theorem updGrp_ttRegs (f : GroupSt → GroupSt) : (s.updGrp f).ttRegs = s.ttRegs := rfl
@[simp] theorem updGrp_ttOps (f : GroupSt → GroupSt) : (s.updGrp f).ttOps = s.ttOps := rfl
@[simp] theorem updGrp_saf (f : GroupSt → GroupSt) : (s.updGrp f).saf = s.saf := rfl
@[simp] theorem updGrp_tu (f : GroupSt → GroupSt) : (s.updGrp f).tu = s.tu := rfl
@[simp] theorem updGrp_tuLost (f : GroupSt → GroupSt) : (s.updGrp f).tuLost = s.tuLost := rfl
@[simp] theorem updGrp_mem (f : GroupSt → GroupSt) : (s.updGrp f).mem = s.mem := rfl
@[simp] theorem updGrp_l1 (f : GroupSt → GroupSt) : (s.updGrp f).l1 = s.l1 := rfl
@[simp] theorem updGrp_icache (f : GroupSt → GroupSt) : (s.updGrp f).icache = s.icache := rfl
@[simp] theorem updGrp_l2 (f : GroupSt → GroupSt) : (s.updGrp f).l2 = s.l2 := rfl
@[simp] theorem updGrp_node (f : GroupSt → GroupSt) : (s.updGrp f).node = s.node := rfl
@[simp] theorem updGrp_clvCache (f : GroupSt → GroupSt) : (s.updGrp f).clvCache = s.clvCache := rfl
@[simp] theorem updGrp_vlt (f : GroupSt → GroupSt) : (s.updGrp f).vlt = s.vlt := rfl
@[simp] theorem updGrp_thr (f : GroupSt → GroupSt) : (s.updGrp f).thr = s.thr := rfl
@[simp] theorem updGrp_sched (f : GroupSt → GroupSt) : (s.updGrp f).sched = s.sched := rfl
@[simp] theorem updGrp_host (f : GroupSt → GroupSt) : (s.updGrp f).host = s.host := rfl
@[simp] theorem updGrp_mbx (f : GroupSt → GroupSt) : (s.updGrp f).mbx = s.mbx := rfl
@[simp] theorem updGrp_dbMask (f : GroupSt → GroupSt) : (s.updGrp f).dbMask = s.dbMask := rfl
@[simp] theorem updGrp_link (f : GroupSt → GroupSt) : (s.updGrp f).link = s.link := rfl
@[simp] theorem updGrp_grp (f : GroupSt → GroupSt) : (s.updGrp f).grp = f s.grp := rfl
@[simp] theorem updGrp_clk (f : GroupSt → GroupSt) : (s.updGrp f).clk = s.clk := rfl
@[simp] theorem updGrp_nut (f : GroupSt → GroupSt) : (s.updGrp f).nut = s.nut := rfl
@[simp] theorem updGrp_car (f : GroupSt → GroupSt) : (s.updGrp f).car = s.car := rfl
@[simp] theorem updGrp_err (f : GroupSt → GroupSt) : (s.updGrp f).err = s.err := rfl
@[simp] theorem updGrp_boot (f : GroupSt → GroupSt) : (s.updGrp f).boot = s.boot := rfl
@[simp] theorem updGrp_sec (f : GroupSt → GroupSt) : (s.updGrp f).sec = s.sec := rfl
@[simp] theorem updGrp_fuse (f : GroupSt → GroupSt) : (s.updGrp f).fuse = s.fuse := rfl
@[simp] theorem updGrp_pins (f : GroupSt → GroupSt) : (s.updGrp f).pins = s.pins := rfl

/-! ## updMem -/

@[simp] theorem updMem_pending (f : MemSt → MemSt) : (s.updMem f).pending = s.pending := rfl
@[simp] theorem updMem_answer (f : MemSt → MemSt) : (s.updMem f).answer = s.answer := rfl
@[simp] theorem updMem_free (f : MemSt → MemSt) : (s.updMem f).free = s.free := rfl
@[simp] theorem updMem_shape (f : MemSt → MemSt) : (s.updMem f).shape = s.shape := rfl
@[simp] theorem updMem_commit (f : MemSt → MemSt) : (s.updMem f).commit = s.commit := rfl
@[simp] theorem updMem_time (f : MemSt → MemSt) : (s.updMem f).time = s.time := rfl
@[simp] theorem updMem_wrk (f : MemSt → MemSt) : (s.updMem f).wrk = s.wrk := rfl
@[simp] theorem updMem_bars (f : MemSt → MemSt) : (s.updMem f).bars = s.bars := rfl
@[simp] theorem updMem_mcast (f : MemSt → MemSt) : (s.updMem f).mcast = s.mcast := rfl
@[simp] theorem updMem_dma (f : MemSt → MemSt) : (s.updMem f).dma = s.dma := rfl
@[simp] theorem updMem_trees (f : MemSt → MemSt) : (s.updMem f).trees = s.trees := rfl
@[simp] theorem updMem_ttRegs (f : MemSt → MemSt) : (s.updMem f).ttRegs = s.ttRegs := rfl
@[simp] theorem updMem_ttOps (f : MemSt → MemSt) : (s.updMem f).ttOps = s.ttOps := rfl
@[simp] theorem updMem_saf (f : MemSt → MemSt) : (s.updMem f).saf = s.saf := rfl
@[simp] theorem updMem_tu (f : MemSt → MemSt) : (s.updMem f).tu = s.tu := rfl
@[simp] theorem updMem_tuLost (f : MemSt → MemSt) : (s.updMem f).tuLost = s.tuLost := rfl
@[simp] theorem updMem_mem (f : MemSt → MemSt) : (s.updMem f).mem = f s.mem := rfl
@[simp] theorem updMem_l1 (f : MemSt → MemSt) : (s.updMem f).l1 = s.l1 := rfl
@[simp] theorem updMem_icache (f : MemSt → MemSt) : (s.updMem f).icache = s.icache := rfl
@[simp] theorem updMem_l2 (f : MemSt → MemSt) : (s.updMem f).l2 = s.l2 := rfl
@[simp] theorem updMem_node (f : MemSt → MemSt) : (s.updMem f).node = s.node := rfl
@[simp] theorem updMem_clvCache (f : MemSt → MemSt) : (s.updMem f).clvCache = s.clvCache := rfl
@[simp] theorem updMem_vlt (f : MemSt → MemSt) : (s.updMem f).vlt = s.vlt := rfl
@[simp] theorem updMem_thr (f : MemSt → MemSt) : (s.updMem f).thr = s.thr := rfl
@[simp] theorem updMem_sched (f : MemSt → MemSt) : (s.updMem f).sched = s.sched := rfl
@[simp] theorem updMem_host (f : MemSt → MemSt) : (s.updMem f).host = s.host := rfl
@[simp] theorem updMem_mbx (f : MemSt → MemSt) : (s.updMem f).mbx = s.mbx := rfl
@[simp] theorem updMem_dbMask (f : MemSt → MemSt) : (s.updMem f).dbMask = s.dbMask := rfl
@[simp] theorem updMem_link (f : MemSt → MemSt) : (s.updMem f).link = s.link := rfl
@[simp] theorem updMem_grp (f : MemSt → MemSt) : (s.updMem f).grp = s.grp := rfl
@[simp] theorem updMem_clk (f : MemSt → MemSt) : (s.updMem f).clk = s.clk := rfl
@[simp] theorem updMem_nut (f : MemSt → MemSt) : (s.updMem f).nut = s.nut := rfl
@[simp] theorem updMem_car (f : MemSt → MemSt) : (s.updMem f).car = s.car := rfl
@[simp] theorem updMem_err (f : MemSt → MemSt) : (s.updMem f).err = s.err := rfl
@[simp] theorem updMem_boot (f : MemSt → MemSt) : (s.updMem f).boot = s.boot := rfl
@[simp] theorem updMem_sec (f : MemSt → MemSt) : (s.updMem f).sec = s.sec := rfl
@[simp] theorem updMem_fuse (f : MemSt → MemSt) : (s.updMem f).fuse = s.fuse := rfl
@[simp] theorem updMem_pins (f : MemSt → MemSt) : (s.updMem f).pins = s.pins := rfl

/-! ## raiseDet -/

@[simp] theorem raiseDet_pending (d : Detection) : (s.raiseDet d).pending = s.pending := rfl
@[simp] theorem raiseDet_answer (d : Detection) : (s.raiseDet d).answer = s.answer := rfl
@[simp] theorem raiseDet_free (d : Detection) : (s.raiseDet d).free = s.free := rfl
@[simp] theorem raiseDet_shape (d : Detection) : (s.raiseDet d).shape = s.shape := rfl
@[simp] theorem raiseDet_commit (d : Detection) : (s.raiseDet d).commit = s.commit := rfl
@[simp] theorem raiseDet_time (d : Detection) : (s.raiseDet d).time = s.time := rfl
@[simp] theorem raiseDet_wrk (d : Detection) : (s.raiseDet d).wrk = s.wrk := rfl
@[simp] theorem raiseDet_bars (d : Detection) : (s.raiseDet d).bars = s.bars := rfl
@[simp] theorem raiseDet_mcast (d : Detection) : (s.raiseDet d).mcast = s.mcast := rfl
@[simp] theorem raiseDet_dma (d : Detection) : (s.raiseDet d).dma = s.dma := rfl
@[simp] theorem raiseDet_trees (d : Detection) : (s.raiseDet d).trees = s.trees := rfl
@[simp] theorem raiseDet_ttRegs (d : Detection) : (s.raiseDet d).ttRegs = s.ttRegs := rfl
@[simp] theorem raiseDet_ttOps (d : Detection) : (s.raiseDet d).ttOps = s.ttOps := rfl
@[simp] theorem raiseDet_saf (d : Detection) : (s.raiseDet d).saf = s.saf := rfl
@[simp] theorem raiseDet_tu (d : Detection) : (s.raiseDet d).tu = s.tu := rfl
@[simp] theorem raiseDet_tuLost (d : Detection) : (s.raiseDet d).tuLost = s.tuLost := rfl
@[simp] theorem raiseDet_mem (d : Detection) : (s.raiseDet d).mem = s.mem := rfl
@[simp] theorem raiseDet_l1 (d : Detection) : (s.raiseDet d).l1 = s.l1 := rfl
@[simp] theorem raiseDet_icache (d : Detection) : (s.raiseDet d).icache = s.icache := rfl
@[simp] theorem raiseDet_l2 (d : Detection) : (s.raiseDet d).l2 = s.l2 := rfl
@[simp] theorem raiseDet_node (d : Detection) : (s.raiseDet d).node = s.node := rfl
@[simp] theorem raiseDet_clvCache (d : Detection) : (s.raiseDet d).clvCache = s.clvCache := rfl
@[simp] theorem raiseDet_vlt (d : Detection) : (s.raiseDet d).vlt = s.vlt := rfl
@[simp] theorem raiseDet_thr (d : Detection) : (s.raiseDet d).thr = s.thr := rfl
@[simp] theorem raiseDet_sched (d : Detection) : (s.raiseDet d).sched = s.sched := rfl
@[simp] theorem raiseDet_host (d : Detection) : (s.raiseDet d).host = s.host := rfl
@[simp] theorem raiseDet_mbx (d : Detection) : (s.raiseDet d).mbx = s.mbx := rfl
@[simp] theorem raiseDet_dbMask (d : Detection) : (s.raiseDet d).dbMask = s.dbMask := rfl
@[simp] theorem raiseDet_link (d : Detection) : (s.raiseDet d).link = s.link := rfl
@[simp] theorem raiseDet_grp (d : Detection) : (s.raiseDet d).grp = s.grp := rfl
@[simp] theorem raiseDet_clk (d : Detection) : (s.raiseDet d).clk = s.clk := rfl
@[simp] theorem raiseDet_nut (d : Detection) : (s.raiseDet d).nut = s.nut := rfl
@[simp] theorem raiseDet_car (d : Detection) : (s.raiseDet d).car = s.car := rfl
@[simp] theorem raiseDet_boot (d : Detection) : (s.raiseDet d).boot = s.boot := rfl
@[simp] theorem raiseDet_sec (d : Detection) : (s.raiseDet d).sec = s.sec := rfl
@[simp] theorem raiseDet_fuse (d : Detection) : (s.raiseDet d).fuse = s.fuse := rfl
@[simp] theorem raiseDet_pins (d : Detection) : (s.raiseDet d).pins = s.pins := rfl
@[simp] theorem raiseDet_queue (d : Detection) : (s.raiseDet d).err.queue = s.err.queue ++ [d] := rfl

/-! ## reply -/

@[simp] theorem reply_pending (c : BusResp) (d : W64) : (s.reply c d).pending = s.pending := rfl
@[simp] theorem reply_free (c : BusResp) (d : W64) : (s.reply c d).free = s.free := rfl
@[simp] theorem reply_shape (c : BusResp) (d : W64) : (s.reply c d).shape = s.shape := rfl
@[simp] theorem reply_commit (c : BusResp) (d : W64) : (s.reply c d).commit = s.commit := rfl
@[simp] theorem reply_time (c : BusResp) (d : W64) : (s.reply c d).time = s.time := rfl
@[simp] theorem reply_wrk (c : BusResp) (d : W64) : (s.reply c d).wrk = s.wrk := rfl
@[simp] theorem reply_bars (c : BusResp) (d : W64) : (s.reply c d).bars = s.bars := rfl
@[simp] theorem reply_mcast (c : BusResp) (d : W64) : (s.reply c d).mcast = s.mcast := rfl
@[simp] theorem reply_dma (c : BusResp) (d : W64) : (s.reply c d).dma = s.dma := rfl
@[simp] theorem reply_trees (c : BusResp) (d : W64) : (s.reply c d).trees = s.trees := rfl
@[simp] theorem reply_ttRegs (c : BusResp) (d : W64) : (s.reply c d).ttRegs = s.ttRegs := rfl
@[simp] theorem reply_ttOps (c : BusResp) (d : W64) : (s.reply c d).ttOps = s.ttOps := rfl
@[simp] theorem reply_saf (c : BusResp) (d : W64) : (s.reply c d).saf = s.saf := rfl
@[simp] theorem reply_tu (c : BusResp) (d : W64) : (s.reply c d).tu = s.tu := rfl
@[simp] theorem reply_tuLost (c : BusResp) (d : W64) : (s.reply c d).tuLost = s.tuLost := rfl
@[simp] theorem reply_mem (c : BusResp) (d : W64) : (s.reply c d).mem = s.mem := rfl
@[simp] theorem reply_l1 (c : BusResp) (d : W64) : (s.reply c d).l1 = s.l1 := rfl
@[simp] theorem reply_icache (c : BusResp) (d : W64) : (s.reply c d).icache = s.icache := rfl
@[simp] theorem reply_l2 (c : BusResp) (d : W64) : (s.reply c d).l2 = s.l2 := rfl
@[simp] theorem reply_node (c : BusResp) (d : W64) : (s.reply c d).node = s.node := rfl
@[simp] theorem reply_clvCache (c : BusResp) (d : W64) : (s.reply c d).clvCache = s.clvCache := rfl
@[simp] theorem reply_vlt (c : BusResp) (d : W64) : (s.reply c d).vlt = s.vlt := rfl
@[simp] theorem reply_thr (c : BusResp) (d : W64) : (s.reply c d).thr = s.thr := rfl
@[simp] theorem reply_sched (c : BusResp) (d : W64) : (s.reply c d).sched = s.sched := rfl
@[simp] theorem reply_host (c : BusResp) (d : W64) : (s.reply c d).host = s.host := rfl
@[simp] theorem reply_mbx (c : BusResp) (d : W64) : (s.reply c d).mbx = s.mbx := rfl
@[simp] theorem reply_dbMask (c : BusResp) (d : W64) : (s.reply c d).dbMask = s.dbMask := rfl
@[simp] theorem reply_link (c : BusResp) (d : W64) : (s.reply c d).link = s.link := rfl
@[simp] theorem reply_grp (c : BusResp) (d : W64) : (s.reply c d).grp = s.grp := rfl
@[simp] theorem reply_clk (c : BusResp) (d : W64) : (s.reply c d).clk = s.clk := rfl
@[simp] theorem reply_nut (c : BusResp) (d : W64) : (s.reply c d).nut = s.nut := rfl
@[simp] theorem reply_car (c : BusResp) (d : W64) : (s.reply c d).car = s.car := rfl
@[simp] theorem reply_err (c : BusResp) (d : W64) : (s.reply c d).err = s.err := rfl
@[simp] theorem reply_boot (c : BusResp) (d : W64) : (s.reply c d).boot = s.boot := rfl
@[simp] theorem reply_sec (c : BusResp) (d : W64) : (s.reply c d).sec = s.sec := rfl
@[simp] theorem reply_fuse (c : BusResp) (d : W64) : (s.reply c d).fuse = s.fuse := rfl
@[simp] theorem reply_pins (c : BusResp) (d : W64) : (s.reply c d).pins = s.pins := rfl
@[simp] theorem reply_answer (c : BusResp) (d : W64) : (s.reply c d).answer = ⟨c, d, 0, false⟩ := rfl

/-! ## replyLine -/

@[simp] theorem replyLine_pending (c : BusResp) (d : Line128) (p : Bool) : (s.replyLine c d p).pending = s.pending := rfl
@[simp] theorem replyLine_free (c : BusResp) (d : Line128) (p : Bool) : (s.replyLine c d p).free = s.free := rfl
@[simp] theorem replyLine_shape (c : BusResp) (d : Line128) (p : Bool) : (s.replyLine c d p).shape = s.shape := rfl
@[simp] theorem replyLine_commit (c : BusResp) (d : Line128) (p : Bool) : (s.replyLine c d p).commit = s.commit := rfl
@[simp] theorem replyLine_time (c : BusResp) (d : Line128) (p : Bool) : (s.replyLine c d p).time = s.time := rfl
@[simp] theorem replyLine_wrk (c : BusResp) (d : Line128) (p : Bool) : (s.replyLine c d p).wrk = s.wrk := rfl
@[simp] theorem replyLine_bars (c : BusResp) (d : Line128) (p : Bool) : (s.replyLine c d p).bars = s.bars := rfl
@[simp] theorem replyLine_mcast (c : BusResp) (d : Line128) (p : Bool) : (s.replyLine c d p).mcast = s.mcast := rfl
@[simp] theorem replyLine_dma (c : BusResp) (d : Line128) (p : Bool) : (s.replyLine c d p).dma = s.dma := rfl
@[simp] theorem replyLine_trees (c : BusResp) (d : Line128) (p : Bool) : (s.replyLine c d p).trees = s.trees := rfl
@[simp] theorem replyLine_ttRegs (c : BusResp) (d : Line128) (p : Bool) : (s.replyLine c d p).ttRegs = s.ttRegs := rfl
@[simp] theorem replyLine_ttOps (c : BusResp) (d : Line128) (p : Bool) : (s.replyLine c d p).ttOps = s.ttOps := rfl
@[simp] theorem replyLine_saf (c : BusResp) (d : Line128) (p : Bool) : (s.replyLine c d p).saf = s.saf := rfl
@[simp] theorem replyLine_tu (c : BusResp) (d : Line128) (p : Bool) : (s.replyLine c d p).tu = s.tu := rfl
@[simp] theorem replyLine_tuLost (c : BusResp) (d : Line128) (p : Bool) : (s.replyLine c d p).tuLost = s.tuLost := rfl
@[simp] theorem replyLine_mem (c : BusResp) (d : Line128) (p : Bool) : (s.replyLine c d p).mem = s.mem := rfl
@[simp] theorem replyLine_l1 (c : BusResp) (d : Line128) (p : Bool) : (s.replyLine c d p).l1 = s.l1 := rfl
@[simp] theorem replyLine_icache (c : BusResp) (d : Line128) (p : Bool) : (s.replyLine c d p).icache = s.icache := rfl
@[simp] theorem replyLine_l2 (c : BusResp) (d : Line128) (p : Bool) : (s.replyLine c d p).l2 = s.l2 := rfl
@[simp] theorem replyLine_node (c : BusResp) (d : Line128) (p : Bool) : (s.replyLine c d p).node = s.node := rfl
@[simp] theorem replyLine_clvCache (c : BusResp) (d : Line128) (p : Bool) : (s.replyLine c d p).clvCache = s.clvCache := rfl
@[simp] theorem replyLine_vlt (c : BusResp) (d : Line128) (p : Bool) : (s.replyLine c d p).vlt = s.vlt := rfl
@[simp] theorem replyLine_thr (c : BusResp) (d : Line128) (p : Bool) : (s.replyLine c d p).thr = s.thr := rfl
@[simp] theorem replyLine_sched (c : BusResp) (d : Line128) (p : Bool) : (s.replyLine c d p).sched = s.sched := rfl
@[simp] theorem replyLine_host (c : BusResp) (d : Line128) (p : Bool) : (s.replyLine c d p).host = s.host := rfl
@[simp] theorem replyLine_mbx (c : BusResp) (d : Line128) (p : Bool) : (s.replyLine c d p).mbx = s.mbx := rfl
@[simp] theorem replyLine_dbMask (c : BusResp) (d : Line128) (p : Bool) : (s.replyLine c d p).dbMask = s.dbMask := rfl
@[simp] theorem replyLine_link (c : BusResp) (d : Line128) (p : Bool) : (s.replyLine c d p).link = s.link := rfl
@[simp] theorem replyLine_grp (c : BusResp) (d : Line128) (p : Bool) : (s.replyLine c d p).grp = s.grp := rfl
@[simp] theorem replyLine_clk (c : BusResp) (d : Line128) (p : Bool) : (s.replyLine c d p).clk = s.clk := rfl
@[simp] theorem replyLine_nut (c : BusResp) (d : Line128) (p : Bool) : (s.replyLine c d p).nut = s.nut := rfl
@[simp] theorem replyLine_car (c : BusResp) (d : Line128) (p : Bool) : (s.replyLine c d p).car = s.car := rfl
@[simp] theorem replyLine_err (c : BusResp) (d : Line128) (p : Bool) : (s.replyLine c d p).err = s.err := rfl
@[simp] theorem replyLine_boot (c : BusResp) (d : Line128) (p : Bool) : (s.replyLine c d p).boot = s.boot := rfl
@[simp] theorem replyLine_sec (c : BusResp) (d : Line128) (p : Bool) : (s.replyLine c d p).sec = s.sec := rfl
@[simp] theorem replyLine_fuse (c : BusResp) (d : Line128) (p : Bool) : (s.replyLine c d p).fuse = s.fuse := rfl
@[simp] theorem replyLine_pins (c : BusResp) (d : Line128) (p : Bool) : (s.replyLine c d p).pins = s.pins := rfl

/-! ## updCache -/

@[simp] theorem updCache_pending (r : Cacher) (f : Cache → Cache) : (s.updCache r f).pending = s.pending := by cases r <;> rfl
@[simp] theorem updCache_answer (r : Cacher) (f : Cache → Cache) : (s.updCache r f).answer = s.answer := by cases r <;> rfl
@[simp] theorem updCache_free (r : Cacher) (f : Cache → Cache) : (s.updCache r f).free = s.free := by cases r <;> rfl
@[simp] theorem updCache_shape (r : Cacher) (f : Cache → Cache) : (s.updCache r f).shape = s.shape := by cases r <;> rfl
@[simp] theorem updCache_commit (r : Cacher) (f : Cache → Cache) : (s.updCache r f).commit = s.commit := by cases r <;> rfl
@[simp] theorem updCache_time (r : Cacher) (f : Cache → Cache) : (s.updCache r f).time = s.time := by cases r <;> rfl
@[simp] theorem updCache_wrk (r : Cacher) (f : Cache → Cache) : (s.updCache r f).wrk = s.wrk := by cases r <;> rfl
@[simp] theorem updCache_bars (r : Cacher) (f : Cache → Cache) : (s.updCache r f).bars = s.bars := by cases r <;> rfl
@[simp] theorem updCache_mcast (r : Cacher) (f : Cache → Cache) : (s.updCache r f).mcast = s.mcast := by cases r <;> rfl
@[simp] theorem updCache_dma (r : Cacher) (f : Cache → Cache) : (s.updCache r f).dma = s.dma := by cases r <;> rfl
@[simp] theorem updCache_trees (r : Cacher) (f : Cache → Cache) : (s.updCache r f).trees = s.trees := by cases r <;> rfl
@[simp] theorem updCache_ttRegs (r : Cacher) (f : Cache → Cache) : (s.updCache r f).ttRegs = s.ttRegs := by cases r <;> rfl
@[simp] theorem updCache_ttOps (r : Cacher) (f : Cache → Cache) : (s.updCache r f).ttOps = s.ttOps := by cases r <;> rfl
@[simp] theorem updCache_saf (r : Cacher) (f : Cache → Cache) : (s.updCache r f).saf = s.saf := by cases r <;> rfl
@[simp] theorem updCache_tu (r : Cacher) (f : Cache → Cache) : (s.updCache r f).tu = s.tu := by cases r <;> rfl
@[simp] theorem updCache_tuLost (r : Cacher) (f : Cache → Cache) : (s.updCache r f).tuLost = s.tuLost := by cases r <;> rfl
@[simp] theorem updCache_mem (r : Cacher) (f : Cache → Cache) : (s.updCache r f).mem = s.mem := by cases r <;> rfl
@[simp] theorem updCache_icache (r : Cacher) (f : Cache → Cache) : (s.updCache r f).icache = s.icache := by cases r <;> rfl
@[simp] theorem updCache_l2 (r : Cacher) (f : Cache → Cache) : (s.updCache r f).l2 = s.l2 := by cases r <;> rfl
@[simp] theorem updCache_vlt (r : Cacher) (f : Cache → Cache) : (s.updCache r f).vlt = s.vlt := by cases r <;> rfl
@[simp] theorem updCache_thr (r : Cacher) (f : Cache → Cache) : (s.updCache r f).thr = s.thr := by cases r <;> rfl
@[simp] theorem updCache_sched (r : Cacher) (f : Cache → Cache) : (s.updCache r f).sched = s.sched := by cases r <;> rfl
@[simp] theorem updCache_host (r : Cacher) (f : Cache → Cache) : (s.updCache r f).host = s.host := by cases r <;> rfl
@[simp] theorem updCache_mbx (r : Cacher) (f : Cache → Cache) : (s.updCache r f).mbx = s.mbx := by cases r <;> rfl
@[simp] theorem updCache_dbMask (r : Cacher) (f : Cache → Cache) : (s.updCache r f).dbMask = s.dbMask := by cases r <;> rfl
@[simp] theorem updCache_link (r : Cacher) (f : Cache → Cache) : (s.updCache r f).link = s.link := by cases r <;> rfl
@[simp] theorem updCache_grp (r : Cacher) (f : Cache → Cache) : (s.updCache r f).grp = s.grp := by cases r <;> rfl
@[simp] theorem updCache_clk (r : Cacher) (f : Cache → Cache) : (s.updCache r f).clk = s.clk := by cases r <;> rfl
@[simp] theorem updCache_nut (r : Cacher) (f : Cache → Cache) : (s.updCache r f).nut = s.nut := by cases r <;> rfl
@[simp] theorem updCache_car (r : Cacher) (f : Cache → Cache) : (s.updCache r f).car = s.car := by cases r <;> rfl
@[simp] theorem updCache_err (r : Cacher) (f : Cache → Cache) : (s.updCache r f).err = s.err := by cases r <;> rfl
@[simp] theorem updCache_boot (r : Cacher) (f : Cache → Cache) : (s.updCache r f).boot = s.boot := by cases r <;> rfl
@[simp] theorem updCache_sec (r : Cacher) (f : Cache → Cache) : (s.updCache r f).sec = s.sec := by cases r <;> rfl
@[simp] theorem updCache_fuse (r : Cacher) (f : Cache → Cache) : (s.updCache r f).fuse = s.fuse := by cases r <;> rfl
@[simp] theorem updCache_pins (r : Cacher) (f : Cache → Cache) : (s.updCache r f).pins = s.pins := by cases r <;> rfl
@[simp] theorem cacheOf_updCache_self (r : Cacher) (f : Cache → Cache) : (s.updCache r f).cacheOf r = f (s.cacheOf r) := by
  cases r <;> exact Tbl.get_upd_self ..

end Sys2Proof.Machine
end

