-- ==== Sys2Proof/Laws/Settle.lean ====
section
/-! SUPPORT. One lemma per shared operation that says everything it can do: what a command leaves, an instruction of a
ready core or thread, and the register commands. -/

namespace Sys2Proof.Machine

/-! ## What a command leaves. -/

theorem finish_after (s e : State) : finish s e = .next (s.after e) := rfl

@[simp] theorem after_pending (s e : State) : (s.after e).pending = s.pending := rfl

/-- With no detection waiting, settling only sends doorbells. -/
theorem settle_quiet {e : State} (h : e.err.queue = []) (h' : e.err.injected = false) : e.settle = e.dbSettle := by
  simp [State.settle, h, h']

/-! ## Instructions of a worker core. -/

theorem retire_eq (e : State) (n : Core) : Res.settle n (.next e) = e.retire n := rfl
theorem retireTo_eq (e : State) (n : Core) (pc : W64) : Res.settle n (.goto e pc) = e.retireTo n pc := rfl

/-! How an instruction ends, by what it meets (R81). -/

@[simp] theorem ends_next (s e : State) (n : Core) : s.ends n (.next e) = e.retire n := rfl
@[simp] theorem ends_goto (s e : State) (n : Core) (pc : W64) : s.ends n (.goto e pc) = e.retireTo n pc := rfl
@[simp] theorem ends_stay (s e : State) (n : Core) : s.ends n (.stay e) = Res.settle n (.stay e) := rfl
@[simp] theorem ends_wait (s e : State) (n : Core) : s.ends n (.wait e) = Res.settle n (.wait e) := rfl

/-- An exception is taken once no matrix instruction is left. -/
theorem ends_fault {s : State} {n : Core} (h : (s.core n).matOps = []) (e : State) (code sub : Nat) (info : W64) :
    s.ends n (.fault e code sub info) = Res.settle n (.fault e code sub info) := by
  simp [State.ends, h]

/-- With no matrix instruction left, every instruction ends as its effect says. -/
theorem ends_idle {s : State} {n : Core} (h : (s.core n).matOps = []) (r : Res) : s.ends n r = Res.settle n r := by
  cases r <;> simp [State.ends, h]

/-- The fetch of a word that is at hand changes nothing. -/
theorem fetch_at {s : State} {n : Core} (h : s.wordAt n = true) : s.fetch n (s.core n).pc.toNat = .ok s := by
  unfold State.wordAt at h
  split at h
  · rename_i t e
    rw [e, of_decide_eq_true h]
  · cases h

/-- An instruction of a ready core: ILLEGAL, then PRIVILEGED, then its own effect (R82). -/
theorem instr_ready {s : State} {n : Core} (h : s.ready n = true) (word : W64) (legal priv : Bool) (body : State → Res) :
    s.instr n word legal priv body = s.ends n (if legal = false then .fault s 1 0 word
      else if priv && !(s.core n).monitor then .fault s 2 0 word else body s) := by
  simp only [State.ready, Bool.and_eq_true, Bool.or_eq_true, Bool.not_eq_true', Option.isNone_iff_eq_none] at h
  obtain ⟨⟨⟨⟨h1, h2⟩, h3⟩, h4⟩, h5⟩ := h
  have h6 : (!(s.core n).issued && (s.intrDue n).isSome) = false := by
    rcases h3 with h3 | h3 <;> simp [h3]
  simp only [State.instr, h1, h2, h4, h6, fetch_at h5]
  simp

/-- A legal instruction that is not privileged runs its body. -/
theorem instr_body {s : State} {n : Core} (h : s.ready n = true) (word : W64) {legal : Bool} (hl : legal = true)
    (body : State → Res) : s.instr n word legal false body = s.ends n (body s) := by
  rw [instr_ready h, hl]
  simp

/-- A legal privileged instruction runs its body in monitor mode. -/
theorem instr_priv {s : State} {n : Core} (h : s.ready n = true) (word : W64) {legal : Bool} (hl : legal = true)
    (hm : (s.core n).monitor = true) (priv : Bool) (body : State → Res) :
    s.instr n word legal priv body = s.ends n (body s) := by
  rw [instr_ready h, hl]
  simp [hm]

/-! ## Instructions of a Clove thread. -/

theorem retireT_eq (e : State) (h : Thread) : Res.settleT h (.next e) = e.retireT h := rfl
theorem retireToT_eq (e : State) (h : Thread) (pc : W64) : Res.settleT h (.goto e pc) = e.retireToT h pc := rfl

/-- An instruction of a ready thread: ILLEGAL, then its own effect (R386). -/
theorem cinstr_ready {s : State} {h : Thread} (hr : s.readyT h = true) (word : W64) (legal : Bool) (body : State → Res) :
    s.cinstr h word legal body = Res.settleT h (if legal = false then .fault s 1 0 word else body s) := by
  simp only [State.readyT, Bool.and_eq_true, Bool.or_eq_true, Bool.not_eq_true', Option.isNone_iff_eq_none,
    decide_eq_true_eq] at hr
  obtain ⟨⟨⟨⟨h1, h2⟩, h3⟩, h4⟩, h5⟩ := hr
  have h6 : legal = false ∨ legal = true := by cases legal <;> simp
  simp only [State.cinstr, h1, h2, h3]
  by_cases hi : (s.thread h).issued = true
  · rcases h6 with e | e <;> simp [hi, e]
  · have h7 : s.tcDue h = none := h4.resolve_left hi
    simp only [State.wordAtT, hi, Bool.false_or, Bool.and_eq_true, Option.isNone_iff_eq_none] at h5
    obtain ⟨h8, h9⟩ := h5
    split at h9
    · rename_i t b bad e
      simp only [Bool.and_eq_true, decide_eq_true_eq, Bool.not_eq_true'] at h9
      obtain ⟨rfl, h10⟩ := h9
      rcases h6 with q | q <;> simp [hi, h7, h8, e, h10, q]
    · cases h9

theorem cinstr_body {s : State} {h : Thread} (hr : s.readyT h = true) (word : W64) {legal : Bool} (hl : legal = true)
    (body : State → Res) : s.cinstr h word legal body = Res.settleT h (body s) := by
  rw [cinstr_ready hr, hl]
  simp

/-! ## Register commands (R10, R420). -/

/-- A register command of an agent that reaches no mailbox and no register from where it stands changes nothing (R411,
R429). -/
theorem regCmd_mute {s : State} {a : Agent} (h : s.mute a = true) (r : Reg) (w : Width) (val : W64) :
    s.regCmd a r w val = s := by
  simp [State.regCmd, h]

/-- A register command that the agent may make writes the register and answers OKAY. -/
theorem regCmd_okay {s : State} {a : Agent} {r : Reg} {w : Width} (hm : s.mute a = false)
    (h : s.regCode a r true w = .okay) (val : W64) : s.regCmd a r w val = (s.regPut a r w val).reply .okay 0 := by
  simp [State.regCmd, State.regWrite, h, hm]

/-- One that it may not make only answers with the reason. -/
theorem regCmd_refused {s : State} {a : Agent} {r : Reg} {w : Width} (hm : s.mute a = false)
    (h : s.regCode a r true w ≠ .okay) (val : W64) : s.regCmd a r w val = s.reply (s.regCode a r true w) 0 := by
  simp only [State.regCmd, hm, State.regWrite, Bool.false_eq_true, if_false]

/-- A register read that the agent may make. -/
theorem regAsk_okay {s : State} {a : Agent} {r : Reg} {w : Width} (hm : s.mute a = false)
    (h : s.regCode a r false w = .okay) : s.regAsk a r w = (s.regReadEffect a r w).reply .okay (s.regVal a r &&& w.mask) := by
  simp [State.regAsk, State.regRead, h, hm]

end Sys2Proof.Machine
end

