-- ==== Sys2Proof/Tests/Slice0.lean ====
section
/-! SUPPORT. Small tests: the checks of WellFormed, one step of the queue, values written out from the spec, and for every
statement with hypotheses a state and operands that meet them, clause by clause. -/

namespace Sys2Proof.Tests

open Sys2Proof.Machine

set_option maxRecDepth 20000
set_option exponentiation.threshold 8192

/-! ## States. -/

/-- A configuration: partition 0 owns the cores of quadrant 0, the lowest 64 KiB of stacked memory and all tile memory; code
lies in the first 4 KiB, the second 4 KiB are uncached, and everything else has the attributes of no region (R45, R47). -/
def cfg0 : ShapeCfg :=
  { ShapeCfg.none with
    parts := [(0, ⟨BitVec.ofNat 256 (2 ^ 64 - 1), 1, 0, [(0, ⟨0x3, 0xFFFF⟩), (1, ⟨0x800_0000_0003, 0x800_3FFF_FFFF⟩)]⟩)],
    regions := [(0, ⟨0x19, 0xFFF⟩), (1, ⟨0x1017, 0x1FFF⟩)] }

/-- A cache that has invalidated itself, and the instruction cache of a core that has run code at 0x100. -/
def idle : Cache := { Cache.off with busy := false }
def code : Cache := { idle with lines := [(32, ⟨2, .s, 0, false⟩)], ages := [(32, 0)] }

/-- A trained vault, and a slice whose L2 has invalidated itself. -/
def trained : Vlt := { Vlt.off with st := 2 }
def slice0 : Sys2Proof.Machine.Slice := { Slice.off with l2 := idle }

/-- A state under a configuration, in the boot state READY, with the caches and the vault that the tests use. -/
def under (c : ShapeCfg) : State :=
  { State.reset with
    shape := { State.reset.shape with cfg := c }, boot := { State.reset.boot with st := .ready }, vlt := [(0, trained)],
    icache := [(0, code), (64, code)], l1 := [(0, idle), (1, idle)], clvCache := [(0, idle)], node := [(0, idle)],
    l2 := [(0, slice0)] }

/-- A state under `cfg0`. -/
def base : State := under cfg0

/-- A state whose core 0 runs code at 0x100 in monitor mode, with some registers set. -/
def mon (regs : Tbl W64) : State := base.updCore 0 fun w => { w with run := .running, pc := 0x100, sregs := regs }

/-- The same in job mode. -/
def job (regs : Tbl W64) : State := (mon regs).updCore 0 fun w => { w with monitor := false, ien := true }

/-- A packet from block 1 to block 0. -/
def packet (op : Nat) (data : List Byte) : Packet :=
  { op, vc := 0, ece := false, poison := false, src := 1, dst := 0, part := 0, hops := 1, len := data.length, psn := 0, tag := 7,
    addr := 0x1040, attr := 0, data }

/-- The flit of a sequence number, with nothing to say but its packets. -/
def flit (fseq : BitVec 12) (packets : List Packet) : List Byte :=
  flitBytes fseq 0xFFF false [0, 0, 0, 0] 0 0 (packets.flatMap packetBytes)

/-- A slice that holds line 0x41 in its L2, and a state in which the home of that line is such. -/
def holding (c : ShapeCfg) : Sys2Proof.Machine.Slice :=
  { slice0 with l2 := { idle with lines := [(16 * l2Set c 0x41, ⟨0x41, .e, 0, false⟩)] } }
def filled (c : ShapeCfg) (x : Sys2Proof.Machine.Slice) : State :=
  { under c with l2 := [(homeOf c 0x41, x)], vlt := [(homeOf c 0x41, trained)] }

/-- A state in which the participants of a commit hold its new setting. -/
def applied (s : State) (units : List Nat) : State := { s with commit := { s.commit with active := true, acked := units } }

/-- The register result that a command leaves in core 0. -/
def resultOf (c : Instr) (s : State) (r : Nat) : W64 :=
  match exec c s with | .next t => (t.core 0).s r | _ => 0

/-- Where core 0 goes on after a command. -/
def pcAfter (c : Instr) (s : State) : W64 := match exec c s with | .next t => (t.core 0).pc | _ => 0

/-! ## WellFormed: every check refuses a term, and admits one at the edge of its range. -/

theorem test_wellFormed_refuses_codes :
    [Instr.clvIntOp 0 0xB 2 1 0 0 1, .intRegisterOp 0 0 0 0 ⟨0x0E, 0⟩, .vectorBitwiseReduce 0 8 0 0 0 0,
     .vectorBitwiseReduce 0 14 0 0 0 0, .vectorCompare 0 10 0 0 0 0 0, .vectorCompare 0 12 0 0 0 0 0,
     .registerWrite .board ⟨true, 0⟩ .full 0, .rcRead (.clove 0) ⟨true, 0⟩ .full].all (!·.wellFormed) := by decide

theorem test_wellFormed_refuses_lines :
    [Instr.cachedStoreLost 0 (2 ^ 45) .decode, .storeBufferDrain 0 (2 ^ 45), .gets (.l1 0) (2 ^ 45), .getm (.l1 0) (2 ^ 45),
     .upgrade (.l1 0) (2 ^ 45), .homeWrite 0 (2 ^ 45) 0 0 false, .offer (.l1 0) (2 ^ 45) 0, .writeback (.l1 0) ⟨2 ^ 45, 0⟩,
     .snpInv 0 (2 ^ 45), .snpData 0 (2 ^ 45), .snpCur 0 (2 ^ 45), .birsp 0 (2 ^ 45) none, .biTimeout 0 (2 ^ 45),
     .hostMemRead 0 0x7F 2 false, .hostMemRead 0 0 0 false, .hostMemWrite 0 0x40 65 0 false, .lineResponse (.dma 0) 1280 .okay,
     .vaultRead 0 12582912 [], .vaultPartialWrite 0 12582912 0 0 [], .retentionCanary 0 12582912 [],
     .vaultWrite 0 12582912 0 false, .vaultRead 0 0 [⟨153, 1⟩], .scrubLine 0 ⟨false, [⟨0, 0⟩]⟩].all (!·.wellFormed) := by decide

theorem test_wellFormed_refuses_packets :
    let k := packet 1 []
    [Instr.put 0 { k with op := 5 }, .get 0 { k with vc := 4 }, .transportAtomic 0 { k with part := 17 },
     .resp 0 { k with hops := 4 }, .ack 0 { k with len := 4097 }, .nack 0 { k with psn := 2 ^ 24 },
     .packetForward 0 { k with tag := 2 ^ 32 }, .coll 0 { k with addr := 2 ^ 52 }, .collUnarmedTimeout 0 { k with attr := 2 ^ 32 },
     .flitReceive 0 ⟨List.replicate 431 0, 0, [], false⟩].all (!·.wellFormed) := by decide

theorem test_wellFormed_refuses_readings :
    [Instr.railPoll [1, 2, 3] [1, 2, 3, 4], .railPoll [1, 2, 3, 4] [], .thermalSample [] [0, 0, 0, 0],
     .thermalSample (List.replicate 64 256) [0, 0, 0, 0], .critComparator [0, 0, 0], .planDone [], .i3cRegisterAccess [],
     .i3cMctpPacket []].all (!·.wellFormed) := by decide

theorem test_wellFormed_admits :
    [Instr.clvIntOp 0 3 1 1 8 0 15, .clvIntOp 0 0 0 0 0 0 0, .intRegisterOp 0 31 31 31 ⟨0x1F, 0xFFF⟩, .vectorBitwiseReduce 0 7 0 0 0 0,
     .vectorCompare 0 9 0 0 0 0 0, .gets (.l1 0) (2 ^ 45 - 1), .hostMemRead 0 0x7F 1 false, .hostMemRead 0 0 128 true,
     .lineResponse (.dma 0) 1279 .okay, .vaultRead 0 12582911 [⟨152, 1⟩], .put 0 (packet 1 []),
     .flitReceive 0 ⟨List.replicate 432 0, 0, [], false⟩, .railPoll [1, 2, 3, 4] [1, 2, 3, 4], .critComparator [255, 0, 0, 1],
     .mcall 0, .registerWrite (.host 0 3) ⟨true, 0⟩ .full 0].all (·.wellFormed) := by decide

/-! ## Words: one of each class, its fields written out from the encoding tables, and words that no instruction has. -/

/-- R91, R93 to R101, R330: class, rd, ra, rb, fn12; class, rd, ra, fn5, imm12; class, rd, imm22; class, ra, rb, cond, off14. -/
theorem test_scalar_words :
    decodeWorker 3 0b00001_00010_00011_00100_000000000001#32 = some (.intRegisterOp 3 2 3 4 ⟨1, 1⟩)
      ∧ decodeWorker 3 0b00010_00010_00011_00000_111111111111#32 = some (.intImmediateOp 3 2 3 0 0xFFF)
      ∧ decodeWorker 3 0b00011_00010_00011_00100_000000000100#32 = some (.mulDivOp 3 2 3 4 4)
      ∧ decodeWorker 3 0b00100_00010_0000000000000000000101#32 = some (.liu 3 2 5)
      ∧ decodeWorker 3 0b00101_00010_1111111111111111111111#32 = some (.addpc 3 2 (-1))
      ∧ decodeWorker 3 0b00110_00010_00011_00110_000000001000#32 = some (.scalarLoad 3 2 3 6 8)
      ∧ decodeWorker 3 0b00111_00010_00011_00110_000000001000#32 = some (.scalarStore 3 2 3 6 8)
      ∧ decodeWorker 3 0b01000_00010_00011_00100_001100000001#32 = some (.atomic 3 2 3 4 0x301)
      ∧ decodeWorker 3 0b01001_00010_00011_001_11111111111111#32 = some (.branch 3 2 3 1 (-1))
      ∧ decodeWorker 3 0b01010_00001_0000000000000000000010#32 = some (.jl 3 1 2)
      ∧ decodeWorker 3 0b01011_00010_00011_00000_000000000100#32 = some (.jlr 3 2 3 0 4) := by decide

theorem test_system_words :
    decodeWorker 3 0b01100_00000_00000_00010_000000000000#32 = some (.fenceSt 3)
      ∧ decodeWorker 3 0b01101_00010_00011_00001_000001000001#32 = some (.csrs 3 2 3 0x041)
      ∧ decodeWorker 3 0b01101_00010_00011_00000_000000000011#32 = some (.vlWrite 3 .w 2 3)
      ∧ decodeWorker 3 0b01101_00010_11111_00100_000011000101#32 = some (.hrptrWrite 3 .wi 2 31 1)
      ∧ decodeWorker 3 0b01110_00000_00011_00010_000000000000#32 = some (.jexit 3 3)
      ∧ decodeWorker 3 0b01111_00010_00011_00110_000000000000#32 = some (.lfill 3 2 3 0) := by decide

/-- R149 to R158, R163, R178 to R183. -/
theorem test_vector_and_matrix_words :
    decodeWorker 3 0b10000_00010_0000000000_000_00111_0001#32 = some (.vsetvli 3 2 0 7)
      ∧ decodeWorker 3 0b10001_00010_00011_00100_001_00111_0000#32 = some (.vectorElementwiseOp 3 false 0 2 3 4 1 7)
      ∧ decodeWorker 3 0b10001_00010_00011_00101_001_00111_1101#32 = some (.vunary 3 2 3 5 1 7)
      ∧ decodeWorker 3 0b10010_00010_00011_00101_001_00111_1110#32 = some (.vmerge 3 true 2 3 5 1 7)
      ∧ decodeWorker 3 0b10101_00_010_00011_00100_001_00111_0001#32 = some (.vectorCompare 3 1 2 3 4 1 7)
      ∧ decodeWorker 3 0b10110_00010_00011_00000_001_00111_0000#32 = some (.vrsum 3 2 3 1 7)
      ∧ decodeWorker 3 0b10111_00010_00011_00000_001_00111_0000#32 = some (.vld 3 2 3 1 7)
      ∧ decodeWorker 3 0b11000_10_00001_00010_00011_00100_00101#32 = some (.mma 3 2 1 2 3 4 5)
      ∧ decodeWorker 3 0b11001_10_00001_00011_00100_000000_0001#32 = some (.maccld 3 2 1 3 4)
      ∧ decodeWorker 3 0b11010_00000111_00001111_0000000_0001#32 = some (.mshapei 3 7 15) := by decide

/-- R260, R300. -/
theorem test_stream_and_query_words :
    decodeWorker 3 0b11100_00010_00011_00100_000000000000#32 = some (.sstart 3 2 3 4)
      ∧ decodeWorker 3 0b11100_00010_00011_00000_000000001010#32 = some (.semrd 3 2 3)
      ∧ decodeWorker 3 0b11101_00010_00011_00100_000000000001#32 = some (.qsubn 3 2 3 4)
      ∧ decodeWorker 3 0b11101_00000_00000_00000_000000000011#32 = some (.qflush 3) := by decide

/-- R92, R150, R178, R300: words 0 and all ones, the reserved classes 0x1B, 0x1E and 0x1F, codes without a row, and fields that
an instruction does not use; such a word is the command that faults ILLEGAL. -/
theorem test_reserved_words :
    [0x0000_0000#32, 0xFFFF_FFFF#32, 0b11011_00000_00000_00000_000000000000#32, 0b11110_00000_00000_00000_000000000000#32,
     0b01100_00000_00000_00101_000000000000#32, 0b01100_00000_00000_00000_000000000001#32, 0b01110_00001_00000_00000_000000000000#32,
     0b01111_00010_00011_00111_000000000000#32, 0b10000_00010_00011_00000_000_00000_0101#32,
     0b10000_00010_00011_00000_001_00000_0010#32, 0b10111_00010_00011_00000_000_00000_1010#32,
     0b10111_00010_00011_00001_000_00111_0000#32, 0b11001_10_00001_00011_00100_000000_0111#32,
     0b11100_00010_00011_00000_000000001011#32, 0b11100_00010_00011_00000_100000000000#32].all
        (fun w => (decodeWorker 3 w).isNone && (runWorker 3 w).wellFormed) = true := by decide

/-- R380 to R383, R398. -/
theorem test_clove_words :
    decodeClove 9 0b0001_0010_0011_0100_0000000000000001#32 = some (.clvIntOp 9 1 2 3 4 0 1)
      ∧ decodeClove 9 0b0011_0010_0000_1001_1111111111111111#32 = some (.lih 9 2 0xFFFF)
      ∧ decodeClove 9 0b0100_0010_0011_0110_0000000000001000#32 = some (.clvLoad 9 2 3 6 8)
      ∧ decodeClove 9 0b0110_0010_0011_0100_0000_001100000001#32 = some (.clvAtomic 9 2 3 4 0x301)
      ∧ decodeClove 9 0b0111_0010_0011_001_0_1111111111111111#32 = some (.clvBranch 9 2 3 1 0xFFFF)
      ∧ decodeClove 9 0b1000_0001_000000000000000000000010#32 = some (.clvJl 9 1 2)
      ∧ decodeClove 9 0b1010_0010_0000_0001_0000_000000000101#32 = some (.trd 9 2 5)
      ∧ decodeClove 9 0b1010_0010_0011_0110_00000000000_01000#32 = some (.cmo 9 2 3 8)
      ∧ decodeClove 9 0b1011_0010_0011_0100_0000000000000110#32 = some (.tprio 9 2 3 4)
      ∧ decodeClove 9 0b1011_0010_0000_0000_0000000000000010#32 = some (.tend 9 2) := by decide

/-- R381, R383, R398: reserved classes, codes without a row, fields not used. -/
theorem test_reserved_clove_words :
    [0x0000_0000#32, 0xFFFF_FFFF#32, 0b1100_0000_0000_0000_0000000000000000#32, 0b0111_0010_0011_001_1_0000000000000000#32,
     0b1010_0000_0000_0111_0000000000000000#32, 0b1010_0000_0000_0000_0000000000000001#32, 0b1010_0010_0011_0110_0000000000100000#32,
     0b1011_0010_0011_0000_0000000000001010#32, 0b1011_0010_0011_0000_0001000000000001#32].all
        (fun w => (decodeClove 9 w).isNone && (runClove 9 w).wellFormed) = true := by decide

/-! ## The queue (R1). -/

theorem test_empty_queue_idles : step State.reset = .next State.reset := by rfl

theorem test_step_runs_the_front :
    (match step { base with pending := [.holdupLow, .holdupRestore] } with
     | .next t => t.pins.holdupLow && t.pins.holdupEvent && t.pending == [.holdupRestore]
     | _ => false) = true := by decide

theorem wit_StepRunsFrontCommand : ({ base with pending := [.holdupLow] } : State).pending = [.holdupLow]
    ∧ base.pending = [] := ⟨rfl, rfl⟩

theorem wit_EveryCommandAnswersNextState : base.Settled := by unfold State.Settled; decide

theorem wit_EveryStepKeepsSettled : base.Settled ∧ step base = .next base := ⟨by unfold State.Settled; decide, rfl⟩

/-- A full channel 0 from thread 0 to the board, whose doorbell 0 is unmasked. -/
def rung : State :=
  { under { cfg0 with mbx := [(0, ⟨0x100, 0x300, 0, 1⟩)] } with
    mbx := [(0, { Mbx.off with full := true })], dbMask := [(0x300, 0)] }

theorem wit_DoorbellsSendOnTheirRise : rung.err.queue = [] ∧ rung.err.injected = false
    ∧ rung.doorbell 0x300 = true ∧ rung.pins.boardDbSeen = false := by decide

theorem test_doorbell_rise_sends : rung.settle.pins.ibiDoorbell = 1 := by decide

/-! ## Scalar instructions. -/

theorem wit_RegisterZeroAndRegisterWrites : (1 : Nat) ≠ 0 ∧ (31 : Nat) ≠ 1 := by decide

theorem wit_MultiplyAndDivideFollowTheirTable :
    (mon [(1, 5)]).ready 0 = true ∧ (2 : W64) ≠ 0 ∧ ¬((-7 : W64) = BitVec.intMin 64 ∧ (2 : W64) = BitVec.allOnes 64)
      ∧ (2 : BitVec 32) ≠ 0 := by decide

/-- R94: a quotient rounds toward zero, and the corners saturate. -/
theorem test_division : mulDiv 0x04 (-7) 2 = some (-3) ∧ mulDiv 0x06 (-7) 2 = some (-1)
    ∧ mulDiv 0x04 (-7) 0 = some 0x8000000000000000 ∧ mulDiv 0x0C 0x80000000 (-1) = some 0x7FFFFFFF := by decide

theorem wit_IntegerInstructionsWriteTheirResult :
    (mon [(1, 5)]).ready 0 = true ∧ (job [(1, 5)]).ready 0 = true
      ∧ intOp 0x1C 5 0 = some 5 ∧ intOpUnary 0x13 = true ∧ intOp 0x13 5 0 = some 2
      ∧ intImmCode 0x1C = true ∧ intImmShiftOk 0x1C 31 = true ∧ intImmShiftOk 0x07 63 = true ∧ intOp 0x1C 5 31 = some 0
      ∧ mulDiv 0x0F 5 0 = some 5 := by decide

/-- R93: SUB wraps, SLT gives all ones, SLLW keeps the sign of its 32-bit result. -/
theorem test_integer_results :
    intOp 0x01 0 1 = some (-1) ∧ intOp 0x0B (-1) 0 = some (-1) ∧ intOp 0x1A 1 31 = some 0xFFFFFFFF80000000
      ∧ intOp 0x0A 1 1 = some 0x8000000000000000 ∧ intOp 0x14 1 1 = none := by decide

theorem test_add_in_place : resultOf (.intRegisterOp 0 1 1 1 ⟨1, 0⟩) (mon [(1, 5)]) 1 = 10 := by decide

/-- R94: MULHSU takes the first operand as signed. -/
theorem test_mulhsu : mulDiv 0x03 (-1) 2 = some (-1) ∧ mulDiv 0x02 (-1) 2 = some 1 := by decide

theorem wit_BranchesAndJumpsGoWhereTheySay :
    (mon [(1, 5)]).ready 0 = true ∧ (mon [(1, 5)]).sreg 0 1 ≠ (mon [(1, 5)]).sreg 0 2 ∧ (5 : BitVec 3).toNat < 6
      ∧ (mon [(1, 5)]).sreg 0 2 = 0 ∧ (job []).ready 0 = true ∧ ((job []).core 0).monitor = false
      ∧ 6 ≤ (6 : BitVec 3).toNat := by decide

/-- R95, R96: a branch offset counts words; JLR clears bits 1 and 0 of its target. -/
theorem test_branch_back : pcAfter (.branch 0 0 0 0 (-1)) (mon []) = 0xFC
    ∧ pcAfter (.jlr 0 2 1 0 3) (mon [(1, 0x200)]) = 0x200 := by decide

theorem wit_ExceptionsTrapOrStopTheCore :
    (job []).ready 0 = true ∧ ((job []).core 0).monitor = false ∧ (mon []).ready 0 = true ∧ ((mon []).core 0).monitor = true
      ∧ intOp 0x3F 0 0 = none ∧ (64 : BitVec 12).toNat ≥ 64 := by decide

theorem wit_SystemInstructionsTrapAndReturn :
    (job []).ready 0 = true ∧ ((job []).core 0).monitor = false ∧ ((job []).core 0).matOps = []
      ∧ (mon []).ready 0 = true ∧ ((mon []).core 0).monitor = true ∧ (mon []).ipOn 0 = 0 := by decide

theorem wit_TrapSavesAndEnters : (255 : Nat) < 256 ∧ (0 : Nat) < 256 := by decide

/-- R80: an interrupt enters at 0x800 + 16 × code of the entry page. -/
theorem test_trap_entry : (({ Wrk.off with tentry := 0x7000 }).trap true 7 0 0).pc = 0x7870
    ∧ (({ Wrk.off with tentry := 0x7000, pc := 4 }).trap false 0x0C 1 9).tcode = 0x10C := by decide

/-- Core 0 in monitor mode with interrupt 7 enabled and pending, waiting or running. -/
def due (run : RunState) (k : Nat) : State :=
  (mon []).updCore 0 fun w => { w with run := run, ie := 0xFF, ien := true, killPend := decide (k = 0), errPend := decide (k = 1) }

theorem wit_WaitingCoresWakeTrapAndStart :
    (due .wfi 0).tileOff 0 = false ∧ (due .wfi 0).coreRuns 0 = true ∧ ((due .wfi 0).core 0).run = .wfi ∧ (due .wfi 0).ipOn 0 ≠ 0
      ∧ (due .running 0).atBoundary 0 = true ∧ (due .running 0).intrDue 0 = some 0 := by decide

theorem wit_WaitingCores_other_interrupts :
    let s := (due .running 9).updCore 0 fun w => { w with stdone := 1, stie := 1 }
    s.atBoundary 0 = true ∧ (s.intrDue 0).isSome = true ∧ s.intrDue 0 ≠ some 0 := by decide

theorem wit_FencesCompleteOnceStoresAreVisible :
    (mon []).ready 0 = true ∧ (mon []).storesDone 0 = true
      ∧ ((mon []).updCore 0 fun w => { w with sb := [⟨5, 1, 0⟩] }).storesDone 0 = false := by decide

/-! ## Tile memory, the store buffer, CSRs. -/

theorem wit_JobStartLoadsItsDescriptor :
    let s := (mon []).updCore 0 fun w => { w with run := .jobgo, jobTail := 1 }
    let w := s.core 0
    w.run = .jobgo ∧ s.tileOff 0 = false ∧ s.coreRuns 0 = true ∧ s.intrDue 0 = none ∧ w.jobHead ≠ w.jobTail
      ∧ s.coreHeld 0 = false ∧ w.matOps = [] := by decide

/-- Registers for tile accesses: s1 the last doubleword of tile 5, s2 a value, s3 the last word of tile 0. -/
def onTile : State := mon [(1, 0x800_0000_0000 + 0x40_0000 * 5 + 0x3F_FFF8), (2, 7), (3, 0x800_0000_0000 + 0x3F_FFFC)]

theorem wit_TileMemoryAccessesComplete_load :
    let s := onTile
    let a := s.sreg 0 1
    s.ready 0 = true ∧ s.tileOff 5 = false ∧ loadLegal 6 2 = true ∧ spaceOf a.toNat = .tile 5
      ∧ a.toNat % 0x40_0000 + 8 ≤ 0x40_0000 ∧ s.accFault 0 a 8 false = none ∧ s.tileHazard 0 (halves a 8) false = false
      ∧ (s.tileBytes 5 (a.toNat % 0x40_0000) 8).2 = false := by decide

theorem wit_TileMemoryAccessesComplete_store :
    let s := onTile
    let a := s.sreg 0 1
    let bs := s.storeBytes 0 2 6
    storeLegal 6 2 = true ∧ bs.length = 8 ∧ s.accFault 0 a 8 true = none ∧ s.tileHazard 0 (halves a 8) true = false
      ∧ (s.core 0).partsDone = 0 ∧ (14 : BitVec 5).getLsbD 3 = true ∧ storeLegal 14 2 = true ∧ s.storesDone 0 = true := by decide

theorem wit_TileMemoryAccessesComplete_atomic :
    let s := onTile
    atomicSize 0x301 = some 8 ∧ (s.sreg 0 1).toNat % 8 = 0 ∧ s.accFault 0 (s.sreg 0 1) 8 true = none
      ∧ s.tileHazard 0 [((s.sreg 0 1).toNat, 8)] true = false ∧ atomicNew 1 8 0 7 0 = some (some 7)
      ∧ atomicSize 0xA01 = some 4 ∧ (s.sreg 0 3).toNat % 4 = 0 ∧ (0xA01 : BitVec 12).getLsbD 11 = true := by decide

/-- R98: an atomic add gives the old value, sign-extended for a word, and stores the sum. -/
theorem test_atomic_add :
    (match exec (.atomic 0 4 3 2 0x201) { onTile with mem := { onTile.mem with tile := [(0x3F_FFFF, 0x80)] } } with
     | .next t => ((t.core 0).s 4 == 0xFFFFFFFF80000000) && (Tbl.get 0 t.mem.tile 0x3F_FFFC == 7)
     | _ => false) = true := by decide

theorem wit_StoreBuffer_takes :
    let s := (mon [(1, 0x2078), (2, 7)])
    let a := s.sreg 0 1
    s.ready 0 = true ∧ (s.core 0).partsDone = 0 ∧ storeLegal 6 2 = true ∧ spaceOf a.toNat = .stacked ∧ s.cacheable a.toNat = true
      ∧ a.toNat % 128 + 8 ≤ 128 ∧ s.accFault 0 a 8 true = none ∧ ((s.core 0).buffer a.toNat (s.storeBytes 0 2 6)).isSome = true := by
  decide

/-- Core 0 with line 0x41 buffered and owned. -/
def buffered : State :=
  { (mon [(1, 0x2080)]).updCore 0 fun w => { w with sb := [⟨0x41, 1, 0⟩] } with
    l1 := [(0, { idle with lines := [(16 * (Cacher.l1 0).set 0x41, ⟨0x41, .m, 0, false⟩)] })] }

theorem wit_StoreBuffer_drains_and_loses :
    let s := buffered
    s.tileOff 0 = false ∧ ((s.core 0).sb.find? (fun e => e.line == 0x41)).isSome = true ∧ s.busCode (128 * 0x41) = .okay
      ∧ s.cacheable (128 * 0x41) = true ∧ (attrOf s.cfg (128 * 0x41)).wpol = 0 ∧ s.l1Serves 0 = true ∧ s.l1Owns 0 0x41 = true
      ∧ BusResp.decode ≠ .okay ∧ BusResp.decode ≠ .poison ∧ (s.cacheOf (.l1 0)).grants = [] := by decide

theorem wit_StoreBuffer_loads :
    let s := buffered
    let u := mon [(1, 0x2080)]
    let a := s.sreg 0 1
    s.ready 0 = true ∧ loadLegal 0 2 = true ∧ spaceOf a.toNat = .stacked ∧ s.cacheable a.toNat = true
      ∧ s.accFault 0 a 1 false = none ∧ s.tileHazard 0 (halves a 1) false = false ∧ (s.core 0).covers a.toNat 1 = true
      ∧ (s.core 0).covers a.toNat 2 = false ∧ (s.cacheOf (.l1 0)).fills.find? (fun f => f.line == 0x41) = none
      ∧ s.held (.l1 0) 0x41 = some ⟨0x41, .m, 0, false⟩ ∧ u.l1Serves 0 = true ∧ (u.core 0).covers a.toNat 2 = false
      ∧ u.held (.l1 0) 0x41 = none ∧ u.busCode a.toNat = .okay := by decide

theorem wit_CsrInstructionsSwapTheOldValue :
    let s := mon [(1, 3)]
    s.ready 0 = true ∧ s.csrRead 0 3 = some 0 ∧ csrLegal 3 0 3 = true ∧ csrLegal 3 0 (0 ||| 3) = true ∧ csrLegal 3 0 31 = true
      ∧ s.csrRead 0 2 = some 0 ∧ (s.core 0).matOps = [] ∧ (s.csrRead 0 0x40).isSome = true ∧ (s.csrRead 0 0xC0).isSome = true
      ∧ (s.csrRead 0 0xC1).isSome = true ∧ (s.csrRead 0 0x8F).isSome = true ∧ csrWrites .s 0 = false := by decide

theorem wit_CsrOperationsFollowTheirTable : csrWrites .c 0 = false ∧ csrWrites .w 0 = true ∧ csrWrites .si 31 = true := by decide

theorem wit_WorkerRegisterCommandsAct :
    let s := base
    s.regCode (.clove 0) (.wrkCtrl 255) true .full = .okay ∧ (s.core 0).run = .halted
      ∧ s.regCode (.clove 0) (.wrkJobTail 0) true .full = .okay ∧ 8 < ((9 : BitVec 4) - 0).toNat ∧ ¬ 8 < ((8 : BitVec 4) - 0).toNat := by
  decide

/-- A tile asked off in this HK cycle, and a job that lands in it. -/
theorem wit_WorkerRegisterCommandsAct_tail :
    let s := base.updNut fun x => { x with pdReq := 1, pdState := 0, pdAt := [(0, base.time.hk + 1)] }
    let t := s.updCore 0 fun w => { w with jobTail := 1 }
    s.regCode (.clove 0) (.wrkJobTail 0) true .full = .okay ∧ base.nut.pdReq.getLsbD 0 = false
      ∧ s.nut.pdReq.getLsbD 0 = true ∧ s.nut.pdState.getLsbD 0 = false ∧ Tbl.get 0 s.nut.pdAt 0 = s.time.hk + 1
      ∧ (t.core 0).jobHead ≠ (t.core 0).jobTail := by decide

/-- R110: a tail nine past the head only sets JOB_OVERRUN. -/
theorem test_job_overrun :
    (match exec (.jobTailWrite (.clove 0) 0 9) base with
     | .next t => (t.core 0).jobOverrun && (t.core 0).jobTail == 0
     | _ => false) = true := by decide

theorem wit_CoreResetClearsItsState : base.tileOff 0 = false := by decide

/-! ## Vector and matrix instructions. -/

/-- Core 0 with `vl` elements asked for, v1 holding 1 in every 32-bit element and m1 selecting the even elements. -/
def vec (vl : Nat) : State :=
  (mon [(1, 0x800_0000_0100), (2, 16), (3, 2)]).updCore 0 fun w =>
    { w with vl := vl, vregs := [(1, BitVec.ofNat 8192 0x00000003_00000002_00000001)], mregs := [(1, 5)] }

theorem wit_VectorLengthAndWholeMoves :
    (vec 3).ready 0 = true ∧ fmtDefined 0x19 = true ∧ fmtDefined 0 = true ∧ (vec 3).readyV 0 [31, 1] = true
      ∧ (vec 3).readyV 0 [0] = true := by decide

theorem test_vlmax : vlmax 0x19 = 2048 ∧ vlmax 0x12 = 1024 ∧ vlmax 0 = 128 := by decide

theorem wit_ElementWritesChangeActiveElementsOnly : 0 < 64 ∧ 64 * 128 ≤ 8192 ∧ 6 * 1024 ≤ 8192 ∧ (7 : Nat) < 2 ^ 4 := by decide

theorem wit_ElementwiseInstructionsWriteTheirElements :
    (vec 3).readyV 0 [2, 1, 1] = true ∧ fmtDefined 7 = true ∧ binaryAccepts 12 7 = true ∧ binaryAccepts 3 1 = true
      ∧ binaryAccepts 15 7 = true ∧ isI 7 = true ∧ isF 1 = true ∧ unaryAccepts 7 1 = true ∧ (1 : MReg).val ≠ 0
      ∧ permAccepts 0x19 = true ∧ permAccepts 0x12 = false := by decide

/-- The vector register that a command leaves in core 0. -/
def vecAfter (c : Instr) (s : State) (r : Nat) : VecReg := match exec c s with | .next t => (t.core 0).v r | _ => 0

/-- R147, R152: a masked add changes the active elements only. -/
theorem test_masked_add :
    let r := vecAfter (.vectorElementwiseOp 0 false 0 2 1 1 1 7) (vec 3) 2
    vecElem 32 r 0 = 2 ∧ vecElem 32 r 1 = 0 ∧ vecElem 32 r 2 = 6 ∧ vecElem 32 r 3 = 0 := by decide

/-- R158: a slide up keeps the elements below the offset. -/
theorem test_slide_up :
    let r := vecAfter (.vslideup 0 1 1 3 0 7) (vec 4) 1
    vecElem 32 r 0 = 1 ∧ vecElem 32 r 1 = 2 ∧ vecElem 32 r 2 = 1 ∧ vecElem 32 r 3 = 2 := by decide

theorem wit_ComparesAndMaskOperations :
    (vec 3).ready 0 = true ∧ (isF 1 || (isI 1 && 9 % 5 != 4)) = true ∧ (isF 7 || (isI 7 && 8 % 5 != 4)) = true
      ∧ (vec 3).readyV 0 [1, 2] = true ∧ min ((vec 3).core 0).vl (vlmax 7) ≠ 0 ∧ min ((vec 0).core 0).vl (vlmax 7) = 0 := by decide

/-- R157: MFIRST of no bit is all ones, MPOP counts below the count. -/
theorem test_mask_scans : resultOf (.mfirst 0 4 2 7) (vec 3) 4 = -1 ∧ resultOf (.mpop 0 4 1 7) (vec 2) 4 = 1
    ∧ resultOf (.mfirst 0 4 1 7) (vec 3) 4 = 0 := by decide

theorem wit_ReductionsMovesAndConversions :
    (vec 3).readyV 0 [1] = true ∧ (isF 7 || isI 7) = true ∧ (vec 3).readyV 0 [2, 1, 2, 3] = true ∧ cvtAccepts 1 5 = true
      ∧ (0 : Nat) < max (vlmax 1) (vlmax 5) / min (vlmax 1) (vlmax 5) ∧ cvtAccepts 1 0x14 = true ∧ (2 : VReg).val % 2 = 0
      ∧ min 3 (min (vlmax 1) (vlmax 0x14)) % 32 ≠ 0 ∧ min 32 (min (vlmax 1) (vlmax 0x14)) % 32 = 0
      ∧ min 3 (min (vlmax 1) (vlmax 5)) ≠ 0 ∧ ((job []).core 0).monitor = false := by decide

/-- R158, R159: sums of integers; no element leaves rd as it was. -/
theorem test_reductions : resultOf (.vrsum 0 4 1 0 7) (vec 3) 4 = 6 ∧ resultOf (.vrsum 0 2 1 0 7) (vec 0) 2 = 16
    ∧ resultOf (.vectorBitwiseReduce 0 5 4 1 0 7) (vec 3) 4 = 0 := by decide

theorem wit_VectorLoadsFromTileMemory :
    let s := vec 3
    let w := s.core 0
    s.readyV 0 [2] = true ∧ contiguousLegal 1 7 = true
      ∧ (let es := w.elems 1 7 (s.sreg 0 1) fun j => BitVec.ofNat 64 (j * fmtBits 7 / 8)
         es ≠ [] ∧ s.elemsInTile 0 0 es false = true)
      ∧ (s.strided 0 1 2 0 7 ≠ [] ∧ s.elemsInTile 0 0 (s.strided 0 1 2 0 7) false = true)
      ∧ indexedLegal 1 7 = true ∧ (s.indexed 0 1 1 0 7 ≠ [] ∧ s.elemsInTile 0 0 (s.indexed 0 1 1 0 7) false = true)
      ∧ s.readyV 0 [2, 1] = true := by decide

theorem wit_VectorLoads_whole_registers :
    let s := vec 3
    (wholeElems (s.sreg 0 1) 1024 ≠ [] ∧ s.elemsInTile 0 0 (wholeElems (s.sreg 0 1) 1024) false = true)
      ∧ (wholeElems (s.sreg 0 1) 256 ≠ [] ∧ s.elemsInTile 0 0 (wholeElems (s.sreg 0 1) 256) false = true) := by decide

theorem wit_VectorStoresToTileMemory :
    let s := vec 32
    s.readyV 0 [2] = true ∧ (s.core 0).partsDone = 0 ∧ contiguousLegal 0 0x0B = true ∧ min 32 (vlmax 0x0B) % 32 = 0
      ∧ s.elemsInTile 0 0 ((s.core 0).elems 0 0x0B (s.sreg 0 1) fun j => BitVec.ofNat 64 (j * fmtBits 0x0B / 8)) true = true
      ∧ s.elemsInTile 0 0 (wholeElems (s.sreg 0 1) 1024) true = true ∧ s.elemsInTile 0 0 (wholeElems (s.sreg 0 1) 256) true = true
      ∧ (vec 3).elemsInTile 0 0 ((vec 3).strided 0 1 2 0 7) true = true
      ∧ (vec 3).elemsInTile 0 0 ((vec 3).indexed 0 1 1 0 7) true = true := by decide

/-- Core 0 with the smallest shape. -/
def mat (mq : List MatOp) : State := (mon [(1, 0x40), (2, 4), (3, 1)]).updCore 0 fun w => { w with mshape := 0, mq := mq }

theorem wit_MatrixInstructionsQueue :
    let s := mat []
    let w := s.core 0
    s.ready 0 = true ∧ w.mq.length < 8 ∧ mmaAccepts 0 0 = true ∧ mmaAccepts 1 1 = true ∧ mmaAccepts 0x13 0x10 = true
      ∧ mmaCheck 1 1 0x40 0x40 1 w.mrows w.ncols = none ∧ accLegal 3 1 = true ∧ accLegal 2 0 = true
      ∧ accMoveCheck false 0x40 4 w.mrows w.ncols = none ∧ convAccepts true 1 = true ∧ convAccepts false 2 = true
      ∧ accConvCheck 1 0x40 0 w.mrows w.ncols = none ∧ rowLegal 2 0 30 = true ∧ s.readyV 0 (rowRegs 0 30) = true
      ∧ (0 : Nat) < w.mrows := by decide

/-- A queued MZERO of accumulator 0 and a queued load of accumulator 1. -/
def mzeroOp : MatOp :=
  { kind := .zero, acc := 0, pair := false, rows := 1, cols := 1, md := ((mat []).core 0).fp, order := 0, done := 0 }

theorem wit_MatrixEnginesStartAndComplete :
    let s := mat [mzeroOp]
    let t := s.updCore 0 fun w => { w with mq := [], arrayRun := [{ mzeroOp with done := 9 }], accessRun := [{ mzeroOp with order := 1, acc := 1 }] }
    s.matRuns 0 = true ∧ (s.core 0).mq.find? (fun o => o.engine == mzeroOp.engine) = some mzeroOp
      ∧ ((s.core 0).matOps.any fun y => decide (y.order < mzeroOp.order) && mzeroOp.dependsOn y) = false
      ∧ t.matRuns 0 = true ∧ firstDone (t.core 0).arrayRun = some { mzeroOp with done := 9 }
      ∧ firstDone (t.core 0).accessRun = some { mzeroOp with order := 1, acc := 1 } ∧ s.ready 0 = true
      ∧ firstDone [{ mzeroOp with done := 9 }, { mzeroOp with order := 1 }] = some { mzeroOp with order := 1 } := by decide

theorem test_mzero :
    (match exec (.matrixStart 0 mzeroOp.engine) (mat [mzeroOp]) with
     | .next t => (t.core 0).mq == [] && (t.core 0).matOps.map (·.order) == [0]
     | _ => false) = true := by decide

/-! ## Trees, queries and Saffron. -/

/-- The bytes of a query record: a nearest-point query for one neighbour at the origin, for core 0 and ring 0 (R240). -/
def pointRecord : List Byte := List.replicate 38 0 ++ [4, 0, 1] ++ List.replicate 23 0

/-- That query. -/
def pointQuery : Query :=
  { qtype := 4, ext := false, o := [.zero false, .zero false, .zero false], d := [.zero false, .zero false, .zero false],
    tmin := .zero false, tmax := .zero false, qid := 0, tree := 0, mask := 0, n := 1, ring := 0, dest := 0, group := 0, coll := 0,
    pid := 0 }

def entry : QEntry := ⟨0, pointQuery, 0, 0, 0, 1, 0⟩

/-- `cfg0` with TU 0 given to partition 0 and a spill area of 16 records. -/
def cfgSaf : ShapeCfg := { cfg0 with tuPart := [(0, 0)], saffron := [(0, ⟨[8, 8, 8, 8, 16, 16], 1, 0x1000, 16⟩)] }

/-- Saffron 0 in a state. -/
def saf (f : Saffron) (regs : Tbl W64) : State :=
  { (under cfgSaf).updCore 0 fun w => { w with run := .running, pc := 0x100, sregs := regs, rings := [(0, { HitRing.off with cfg := 0x80030000 })] }
    with saf := [(0, { f with share := [8, 8, 8, 8, 16, 16] })], time := { State.reset.time with core := 2048 } }

theorem wit_TreeTableOperations :
    let s := base.updTree 0 1023 fun t => { t with nextValid := true, epoch := 3 }
    let u := base.updTree 0 0 fun t => { t with nextValid := true, epoch := 2 }
    (u.tree 0 0).nextValid = true ∧ (u.tree 0 0).epoch - (u.tree 0 0).retired ≠ 3 ∧ (base.tree 0 0).nextValid = false
      ∧ (s.tree 0 1023).nextValid = true ∧ (s.tree 0 1023).epoch - (s.tree 0 1023).retired = 3
      ∧ base.rootOk 0 7 = false ∧ base.rootOk 0 0 = true ∧ base.xsFits 0 1 = false ∧ base.xsFits 0 0 = true := by decide

theorem wit_TreeTableCommandsComplete :
    let s := mon [(1, 1)]
    s.ready 0 = true ∧ s.onPart 0 = some 0 ∧ s.storesDone 0 = true ∧ s.regCode (.clove 0) .ttCmd true .full = .okay
      ∧ s.partOn s.ttRegs.part = true := by decide

theorem wit_QuerySubmissionsAnswerTheirCode :
    let s := saf Saffron.off [(1, 0x1000), (2, 64), (3, 0x3F_FFC0), (4, 65)]
    let off := s.sreg 0 1
    s.ready 0 = true ∧ s.onPart 0 = some 0 ∧ rangeFault off 64 64 = none ∧ s.badWord 0 off.toNat 64 = none
      ∧ s.tileHazard 0 [(0x800_0000_1000, 64)] false = false ∧ s.recordLen 0 off = 64
      ∧ s.submitWait 0 0 (s.recordsAt 0 off.toNat 1) = none ∧ (s.submit 0 0 (s.tileBytes 0 off.toNat 64).1 none).isSome = true
      ∧ rangeFault off 64 (64 * 64) = none ∧ s.badWord 0 off.toNat (64 * 64) = none
      ∧ s.submitWait 0 0 (s.recordsAt 0 off.toNat 2) = none ∧ (s.submitMany 0 0 off.toNat 2 2 0).isSome = true
      ∧ s.tileHazard 0 [(0x800_0000_1000, 64 * 64)] false = false
      ∧ rangeFault off 128 128 = none ∧ rangeFault (s.sreg 0 3) 64 64 = none ∧ 64 < (s.sreg 0 4).toNat
      ∧ (State.onPart (s.updCore 64 fun w => { w with run := .running, pc := 0x100 }) 64) = none
      ∧ (s.updCore 64 fun w => { w with run := .running, pc := 0x100 }).ready 64 = true := by decide

theorem wit_AcceptedQueriesBindAndTakeRoom :
    let s := saf Saffron.off []
    let full := saf { Saffron.off with storeUsed := 262144, spillUsed := 16 } []
    parseQuery (List.replicate 64 0) none = none ∧ parseQuery pointRecord none = some pointQuery
      ∧ (s.resplitNow 0).queryCode 0 0 pointQuery = 0 ∧ (base.resplitNow 0).queryCode 0 0 pointQuery ≠ 0
      ∧ ((s.resplitNow 0).saffron 0).room 1 = true ∧ (full.resplitNow 0).queryCode 0 0 pointQuery = 0
      ∧ ((full.resplitNow 0).saffron 0).room 1 = false
      ∧ (full.cfg.safOf 0).spillRecords < ((full.resplitNow 0).saffron 0).spillUsed + 1
      ∧ (match (s.resplitNow 0).acceptQuery 0 0 pointQuery with | .ok _ => true | _ => false) = true := by decide

theorem test_accepted_query_takes_a_slot :
    (match (saf Saffron.off []).submit 0 0 pointRecord none with
     | some (0, t) => (t.saffron 0).storeUsed == 1 && Tbl.get 0 (t.tree 0 0).inflight 0 == 1
     | _ => false) = true := by decide

theorem wit_SaffronEventsAct_age :
    let s := saf { Saffron.off with bins := [(7, ⟨0, [entry]⟩)] } []
    s.safRuns 0 = true ∧ (Tbl.get Bin.off (s.saffron 0).bins 7).qs = [entry] ∧ entry.since + 2048 ≤ s.time.core
      ∧ s.partHeld entry.part = false := by decide

theorem wit_SaffronEventsAct_split :
    (saf { Saffron.off with warmCount := 2 ^ 20 } []).splitDue 0 = true
      ∧ (saf { Saffron.off with warm := false, counts := [0, 0, 0, 0, 2 ^ 16, 0] } []).splitDue 0 = true
      ∧ bitOf ((saf Saffron.off []).cfg.safOf 0).flags 0 = true := by decide

theorem wit_SaffronEventsAct_spill :
    let s := { saf { Saffron.off with spill := [⟨entry, 0⟩], spillUsed := 1 } [] with
      mem := { base.mem with dram := Tbl.set 0 (Tbl.set 0 [] (devAddr cfgSaf 0x1026) 4) (devAddr cfgSaf 0x1028) 1 } }
    let rd := s.rangeRead 0x1000 64
    (s.saffron 0).spill = [⟨entry, 0⟩] ∧ (s.saffron 0).room 1 = true ∧ s.spillSlots 0 ⟨entry, 0⟩ = [0x1000]
      ∧ s.rangeWait 0x1000 64 false = none ∧ s.rootWait 0 0 = none ∧ rd.2.2.2 = false ∧ entry.slots = 1
      ∧ parseQuery (rd.2.2.1.take 64) none = some pointQuery ∧ pointQuery.slots = 1 ∧ groupFits pointQuery 0 = true
      ∧ (s.saffron 0).mayEnter s.partHeld (s.queryKey 0 0 pointQuery) 4 = true := by decide

/-- A source of two point queries. -/
def source : Source := { kind := 0, q := pointQuery, count := 2, pidBase := 0, qidBase := 0, p0 := pointQuery.o, p1 := pointQuery.d }

theorem wit_SaffronEventsAct_generator :
    let s := saf { Saffron.off with gen := [⟨source, 0, 0, 0⟩] } []
    let r := sourceQuery source 0
    let s1 := s.resplitNow 0
    (s.saffron 0).gen = [⟨source, 0, 0, 0⟩] ∧ s.partHeld 0 = false ∧ (s1.saffron 0).share.getD r.qtype 0 ≠ 0
      ∧ s1.hasTu 0 0 = true ∧ s1.submitWait 0 0 [r] = none
      ∧ (match s1.acceptQuery 0 0 r with | .ok _ => true | _ => false) = true := by decide

theorem wit_DispatchTakesTheEarliestFiredBin :
    let s := saf { Saffron.off with fire := [(0, [⟨5, 1, [entry]⟩])], storeUsed := 1 } []
    s.safRuns 0 = true ∧ (s.saffron 0).fire = [(0, [⟨5, 1, [entry]⟩])] ∧ s.partHeld 0 = false ∧ s.freeTu 0 0 = some 0 := by decide

theorem test_dispatch_frees_the_slots :
    (match exec (.binDispatch 0) (saf { Saffron.off with fire := [(0, [⟨5, 1, [entry]⟩])], storeUsed := 1 } []) with
     | .next t => (t.saffron 0).storeUsed == 0 && (t.trav 0).held == [⟨1, [entry], [], none⟩]
     | _ => false) = true := by decide

/-- A packet for ring 0 of core 0. -/
def hitPacket : HitPacket := ⟨0, 0, 4, 0, [], [(0, 0, 0)]⟩

theorem wit_TraversalUnitsEndAndDeliver :
    let s := { saf Saffron.off [] with tu := [(0, { TravUnit.off with held := [⟨1, [entry], [], none⟩] })] }
    let done : HeldBin := ⟨1, [entry], [(0, [noneRec pointQuery])], none⟩
    let d := { s with tu := [(0, { TravUnit.off with held := [done], waiting := [hitPacket] })] }
    let r := Tbl.get HitRing.off (d.core 0).rings 0
    let node : Cacher := .node 0
    s.tuRuns 0 = true ∧ s.tuLost.getLsbD 0 = false ∧ (s.trav 0).waiting.length ≠ 8 ∧ (s.cacheOf node).busy = false
      ∧ (s.cacheOf node).miss = none ∧ (s.trav 0).todo = [(0, 0, entry)]
      ∧ (match State.walkLines node entry walkFuel s (s.cacheOf node).fills with
         | .ended _ _ rs => !rs.any fun r => r.kind == 9 && r.data0 == 5
         | .needs .. => false) = true
      ∧ (d.trav 0).held = [done] ∧ (d.trav 0).form = [] ∧ done.ended = true ∧ done.packs = none ∧ (d.trav 0).waiting.length < 8
      ∧ d.coreClock = true ∧ d.tileOff (tuTile 0) = false ∧ (d.trav 0).waiting.find? (fun p => d.packetLost p) = none
      ∧ d.packetLost hitPacket = false ∧ r.filled + 1 < r.slots ∧ s.packetLost hitPacket = false
      ∧ (base.packetLost hitPacket) = true := by decide

/-- A query whose root is a node of the line at 0x2080: its walk needs that line. -/
theorem wit_TraversalUnits_miss :
    let e : QEntry := { entry with q := { pointQuery with mask := 1 }, root := 0x41 * 8 + 1 + 0xFF * 2 ^ 56 }
    let s := { saf Saffron.off [] with tu := [(0, { TravUnit.off with held := [⟨1, [e], [], none⟩] })] }
    let node : Cacher := .node 0
    (s.trav 0).todo = [(0, 0, e)] ∧ s.cacheHeld node = false
      ∧ (match State.walkLines node e walkFuel s (s.cacheOf node).fills with
         | .ended .. => false
         | .needs _ _ l => s.cacheable (128 * l)) = true := by decide

/-! ## Streams, semaphores and barriers. -/

/-- A channel block with a program: direction IN, three slots of 128 bytes at tile offset 0, a completion record at 0x1000. -/
def chBlock (dir : Nat) (prog : List (BitVec 32)) : ChanBlock :=
  { prog, dir, task := 0, irq := true, ahead := 1, slots := 3, slotLog2 := 7, group := 0, mseq := 0, ringBase := 0, crecEn := true,
    crecOff := 0x1000, args := [] }

/-- Its bytes in tile memory at offset 0: one instruction, at offset 0x80 (R269). -/
def chBytes : Tbl Byte := [(0, 0x80), (4, 1), (6, 1), (7, 3), (8, 7), (0x83, 0x40)]

/-- Core 0 with channel 0 as given. -/
def chan (regs : Tbl W64) (c : Channel) : State := (mon regs).updCore 0 fun w => { w with chans := Tbl.set Channel.off [] 0 c }

/-- A running channel at one instruction of a program. -/
def at_ (dir : Nat) (w : BitVec 32) : Channel :=
  { Channel.off with st := .running, job := .prog (chBlock dir [w]), aregs := [0x1000, 128, 0, 0, 0, 0, 0, 0], released := 1 }

theorem wit_StreamInstructions_start :
    let s := { mon [(1, 0), (2, 0x100), (3, 14)] with mem := { base.mem with tile := [(0x100, 0x80), (0x104, 1), (0x106, 1),
      (0x107, 3), (0x108, 7), (0x83, 0x40)] } }
    let bad := { s with mem := { s.mem with tile := [(0x110, 1), (0x113, 0x80)] } }
    s.ready 0 = true ∧ rangeFault (s.sreg 0 2) 128 128 = none ∧ s.tileHazard 0 [(0x800_0000_0100, 128)] false = false
      ∧ s.recordOff 0 0x100 = none ∧ s.appliedUnit 0x100 = false ∧ (applied s [0x100]).appliedUnit 0x100 = true
      ∧ (applied s [0x100]).ready 0 = true ∧ (applied s [0x100]).recordOff 0 0x100 = none
      ∧ ((s.findBlock 0 0x100 128).sStart 0 0 0x100).1 = 0 ∧ (s.sStart 0 0 0x101).1 ≠ 0 ∧ (s.chanOf (chSrc 0 0)).st = .idle
      ∧ s.storesDone 0 = true ∧ bad.recordOff 0 0x100 = some 1 ∧ (bad.core 0).matOps = []
      ∧ (s.updCore 0 fun w => { w with sb := [⟨5, 1, 0⟩] }).storesDone 0 = false
      ∧ s.privChan 0 14 = true ∧ s.privChan 0 0 = false ∧ (s.partOf 0).isSome = true ∧ base.partOf 64 = none := by decide

theorem wit_StreamInstructions_rearm_and_arm :
    let s := { chan [(1, 0), (2, 0x100), (3, 0x20)] (at_ 0 0) with mem := { base.mem with tile := [(0x100, 0x80), (0x104, 1), (0x106, 1),
      (0x107, 3), (0x108, 7), (0x83, 0x40)] } }
    (s.chanOf (chSrc 0 0)).st ≠ .idle ∧ (s.sRearm 0 0 0x100).1 = 0 ∧ rangeFault (s.sreg 0 3) 32 32 = none
      ∧ s.recordOff 0 0x20 = none ∧ s.tileHazard 0 [(0x800_0000_0020, 32)] false = false := by decide

theorem wit_StreamInstructions_semaphores :
    let s := (mon [(1, 0x2005), (2, 64)]).updCore 0 fun w => { w with sems := [(0, 1)] }
    let a := (s.sreg 0 1).toNat
    (s.partOf 0).isSome = true ∧ s.partOf (a % 256) = s.partOf 0 ∧ s.storesDone 0 = true ∧ s.partOf 64 ≠ s.partOf 0
      ∧ 0 < Tbl.get 0 (s.core 0).sems (semKey 0 false) ∧ Tbl.get 0 (s.core 0).sems (semKey 1 false) = 0 := by decide

theorem test_semtry_takes_one :
    (match exec (.semtry 0 1 0) ((mon []).updCore 0 fun w => { w with sems := [(0, 2)] }) with
     | .next t => (t.core 0).s 1 == 1 && Tbl.get 0 (t.core 0).sems 0 == 1
     | _ => false) = true := by decide

/-- Barrier 0 of partition 0 with core 0 as its only member. -/
def barred (x : Barrier) : State := { mon [] with bars := [(0, { x with mem := 1, en := true })] }

theorem wit_StreamInstructions_barriers :
    (barred { Barrier.off with broken := true }).bar 0 ≠ Barrier.off
      ∧ ((barred { Barrier.off with broken := true }).bar 0).broken = true
      ∧ (mon []).barMember 0 0 = false ∧ ((barred Barrier.off).bar 0).arrived.getLsbD 0 = false
      ∧ ((barred { Barrier.off with arrived := 1 }).bar 0).arrived.getLsbD 0 = true ∧ ((barred Barrier.off).partOf 0).isSome = true
      ∧ (barred Barrier.off).barMember 0 0 = true ∧ (barred Barrier.off).storesDone 0 = true
      ∧ ((barred Barrier.off).barMark 0 0).gbarOf 0 = none ∧ (∀ j < 16, (0 : W64).getLsbD j = false) := by decide

theorem wit_StreamProgramsRun :
    let s := chan [] (at_ 0 0)
    let c := s.chanOf (.chan 0 0)
    c.job = .prog (chBlock 0 [0]) ∧ s.execTurn 0 = some 0 ∧ s.chanRuns 0 0 = true ∧ (∀ j < 16, s.chanRuns 0 j = true → j = 0)
      ∧ s.execTurn 0 ≠ some 1 ∧ c.cursor = 0 ∧ c.tiles = c.closed
      ∧ sop 0x1000_0000 = 0x1 ∧ sop 0x2000_0001 = 0x2 ∧ sop 0x3000_0001 = 0x3 ∧ sop 0x4000_0000 = 0x4 ∧ sop 0x5000_0000 = 0x5
      ∧ sop 0x6000_0000 = 0x6 ∧ sop 0x7000_003F = 0x7 ∧ sop 0x8000_0000 = 0x8 ∧ sop 0xA000_0000 = 0xA ∧ sop 0xB000_0000 = 0xB := by
  decide

/-- R275: with channels 0 and 1 running, channel 1 executes after channel 0. -/
theorem test_round_robin :
    let s := (mon []).updCore 0 fun w => { w with chans := [(0, at_ 0 0x3000_0001), (1, at_ 0 0x3000_0001)], execLast := 15 }
    s.execTurn 0 = some 0
      ∧ (match exec (.streamAddi 0 0) s with | .next t => t.execTurn 0 == some 1 | _ => false) = true := by decide

theorem wit_StreamProgramsRun_ldt :
    let s := chan [] (at_ 0 0x9000_0000)
    let c := s.chanOf (.chan 0 0)
    let a := (c.a (sas (c.word (chBlock 0 [0x9000_0000])))).toNat
    sop (c.word (chBlock 0 [0x9000_0000])) = 0x9 ∧ a % 8 = 0 ∧ a + 8 ≤ 0x40_0000 ∧ (s.tileBytes 0 a 8).2 = false := by decide

/-- XFER of 128 bytes at stacked address 0x1000 into the first slot, as a program and as a running transfer. -/
theorem wit_StreamProgramsRun_xfer :
    let b := chBlock 0 [0xC008_0000]
    let s := chan [] { at_ 0 0xC008_0000 with job := .prog b }
    let c := s.chanOf (.chan 0 0)
    let w := c.word b
    sop w = 0xC ∧ (c.a (sas w)).toNat = 0x1000 ∧ (c.a (sat w)).toNat = 128 ∧ s.engineHeld 0 = false ∧ s.tileMay 0 0 b = true
      ∧ s.lineCause true (s.partOf 0) 0x1000 128 false = none ∧ c.cursor + 128 ≤ 2 ^ b.slotLog2
      ∧ sop 0xD000_0080 = 0xD ∧ simmU 0xD000_0080 % 8192 = 128 := by decide

theorem wit_StreamProgramsRun_emit :
    let s := chan [] { at_ 0 0xE000_0000 with cursor := 128, starts := [0] }
    let c := s.chanOf (.chan 0 0)
    sop 0xE000_0000 = 0xE ∧ c.cursor ≠ 0 ∧ c.tiles = c.closed ∧ c.reqs = [] ∧ (chBlock 0 []).dir ≤ 1
      ∧ sop 0xF000_0005 = 0xF ∧ (s.partOf 0).isSome = true ∧ s.partOf (simmU 0xF000_0005 % 256) = s.partOf 0
      ∧ freeNum (s.engineReqs (.chan 0 0)) 1024 1280 = some 1024 ∧ s.partOf (simmU 0xF000_0040 % 256) ≠ s.partOf 0 := by decide

theorem wit_StreamEvents_lines :
    let x : Xfer := ⟨0x1000, 128, 0, 0, 0⟩
    let s := chan [] { at_ 0 0 with xfer := some x }
    let src : StreamSrc := .chan 0 0
    let c := s.chanOf src
    s.engineRuns src = true ∧ c.st = .running ∧ c.xfer = some x ∧ s.genTurn 0 = some 0 ∧ s.genTurn 0 ≠ some 1
      ∧ s.lineCause true (s.partOf 0) 0x1000 128 false = none
      ∧ freeNum (s.engineReqs src) 0 1024 = some 0 ∧ spaceOf 0x1000 = .stacked := by decide

theorem wit_StreamEvents_post :
    let r : LineReq := ⟨1024, true, 0, 0, 0, 0, 0, [], false, some (5, 0, false)⟩
    let s := chan [] { at_ 0 0 with st := .aborting, reqs := [r] }
    (s.chanOf (.chan 0 0)).reqs.find? (fun q => q.tag == r.tag) = some r ∧ s.tileOff 5 = false
      ∧ (s.chanOf (.chan 0 0)).st = .aborting := by decide

/-- The next-layer slot of core 0 with one request of 128 uncached bytes outstanding. -/
def nextRun : State :=
  (mon []).updCore 0 fun w => { w with chans := [(16, { Channel.off with
    st := .running, job := .next ⟨0x1000, 0, 128, false, 0⟩, reqs := [⟨3, false, 0x1000, 128, 0, 0, 0, [], false, none⟩] })] }

theorem wit_StreamEvents_answers :
    let s := nextRun
    let src : StreamSrc := .next 0
    ((s.chanOf src).reqs.find? (fun q => q.tag == 3)).isSome = true ∧ s.busCode 0x1000 = .okay
      ∧ (match s.busRead 0x1000 128 with
         | .done t .okay bytes false => bytes.length == 128 && (t.chanOf src).st != .aborting
            && (t.chanOf src).job == .next ⟨0x1000, 0, 128, false, 0⟩
         | _ => false) = true := by decide

theorem wit_StreamEvents_complete :
    let s := chan [] { at_ 0 0 with st := .draining }
    let src : StreamSrc := .chan 0 0
    let c := s.chanOf src
    s.engineRuns src = true ∧ c.st = .draining ∧ c.reqs = [] ∧ c.toWrite = [] ∧ (chBlock 0 [0]).dir ≤ 1
      ∧ (chBlock 0 [0]).crecEn = true ∧ c.shadow = .none := by decide

/-- Core 0 leads a multicast stream of group 0 with core 1 as receiver on channel 2. -/
def cast (st : ChState) (recv : List (Nat × Nat)) : State :=
  { (chan [] { at_ 2 0 with st := st, closed := 2, cursor := 0 }).updCore 1 fun w =>
      { w with chans := [(2, { at_ 3 0 with released := 0, attached := true })] } with
    mcast := [(0, ⟨some ⟨0, 0, 0, recv⟩, none⟩)] }

theorem wit_StreamEvents_multicast :
    let b := chBlock 2 [0]
    let early := cast .waitGroup []
    let late := { early with time := { early.time with hk := 100000000 } }
    early.nocNow < (early.chanOf (.chan 0 0)).since + (early.core 0).stragTimeout
      ∧ (late.chanOf (.chan 0 0)).since + (late.core 0).stragTimeout ≤ late.nocNow ∧
    (cast .waitGroup [] |>.chanOf (.chan 0 0)).st = .waitGroup ∧ b.dir = 2
      ∧ ((cast .waitGroup []).group b.group).active = some ⟨0, 0, 0, []⟩
      ∧ (cast .running [(1, 2)]).leads 0 0 b = some ⟨0, 0, 0, [(1, 2)]⟩
      ∧ [(1, 2)].filter (fun q : Nat × Nat => q.1 == 1) = [(1, 2)]
      ∧ (let s := cast .running [(1, 2)]
         let lead := s.chanOf (.chan 0 0)
         let x := s.chanOf (chSrc 1 2)
         lead.st = .running ∧ x.job = .prog (chBlock 3 [0]) ∧ x.fin = none ∧ lead.cursor = 0
          ∧ x.released + min 8 ((chBlock 3 [0]).slots - 1) ≤ lead.closed) := by decide

/-- The six counts of a descriptor of one byte at stacked address 0x1000 (R276). -/
def privDram : Tbl Byte := [0x1020, 0x1024, 0x1028, 0x102C, 0x1030, 0x1034].foldl (fun m a => Tbl.set 0 m (devAddr cfg0 a) 1) []

/-- The privileged channel 14 of core 0 with that descriptor. -/
def priv (c : Channel) : State :=
  { (mon []).updCore 0 fun w => { w with chans := Tbl.set Channel.off [] 14 { c with descAddr := 0x1000 } } with
    mem := { base.mem with dram := privDram } }

theorem wit_PrivilegedChannels :
    let a : Agent := .clove 0
    let src : StreamSrc := .chan 0 14
    let s := priv Channel.off
    let none_ := { s with mem := base.mem }
    let busy := priv { Channel.off with st := .running }
    let reads (s : State) (valid : Bool) : Bool := match s.readDesc src with | .ok (d, _) => d.isSome == valid | .error _ => false
    s.mute a = false ∧ s.regCode a (.chCmd src) true .full = .okay ∧ s.ownerCode a src = 0 ∧ s.ownerCode (.monitor 1) src ≠ 0
      ∧ s.ownerCode a (.chan 0 0) ≠ 0 ∧ reads s true = true ∧ reads none_ false = true ∧ (s.chanOf src).st = .idle
      ∧ s.appliedUnit src.unit = false ∧ (applied s [0x100]).appliedUnit src.unit = true
      ∧ s.partOf 0 = some 0 ∧ s.partHeld 0 = false ∧ src.core? = some 0
      ∧ (busy.chanOf src).st ≠ .idle ∧ (busy.chanOf src).shadow = .none ∧ (busy.chanOf src).st ≠ .aborting
      ∧ reads busy true = true ∧ s.regCode a (.barCtl 63) true .full = .okay := by decide

/-! ## Coherence. -/

/-- The home slice of line 0x41, which holds the line and one directory entry for it, in the entry's first way. -/
def dirSlice (e : DirEnt) : Sys2Proof.Machine.Slice := { holding cfg0 with dir := [(16 * dirSetOf 0x41 + 0, e)] }

/-- A state whose home slice of that line is such. -/
def tracked (e : DirEnt) : State := filled cfg0 (dirSlice e)

/-- The shared copy of core 1, the copy that core 1 owns, and a copy of host port 0. -/
def shared : DirEnt := ⟨0x41, [1], none, 0, 0⟩
def owned : DirEnt := ⟨0x41, [], some 1, 0, 0⟩
def hosted : DirEnt := ⟨0x41, [], none, 1, 0⟩

theorem dirSlice_way (e : DirEnt) (x : Sys2Proof.Machine.Slice) (h : e.empty = false) (hl : e.line = 0x41) (hx : x.dir = (dirSlice e).dir) :
    x.dirWay 0x41 = some 0 ∧ Tbl.get DirEnt.off x.dir (16 * dirSetOf 0x41 + 0) = e := by
  have hd : ∀ w, Tbl.get DirEnt.off x.dir (16 * dirSetOf 0x41 + w) = if w = 0 then e else DirEnt.off := by
    intro w
    cases w <;> simp [hx, dirSlice, Tbl.get]
  refine ⟨?_, hd 0⟩
  have h0 : Tbl.get DirEnt.off x.dir (16 * dirSetOf 0x41) = e := hd 0
  unfold Slice.dirWay
  rw [show List.range 16 = 0 :: (List.range 15).map (· + 1) from by decide, List.find?_cons_of_pos]
  simp [h0, h, hl]

theorem dirEnt_of (s : State) (e : DirEnt) (h : e.empty = false) (hl : e.line = 0x41)
    (hs : (s.slice (homeOf s.cfg 0x41)).dir = (dirSlice e).dir) : s.dirEnt 0x41 = e := by
  have h := dirSlice_way e _ h hl hs
  unfold State.dirEnt
  dsimp only
  rw [h.1]
  exact h.2

theorem filled_slice (c : ShapeCfg) (x : Sys2Proof.Machine.Slice) : (filled c x).slice (homeOf c 0x41) = x := by
  show Tbl.get _ [(homeOf c 0x41, _)] (homeOf c 0x41) = _
  simp [Tbl.get]

theorem tracked_dirEnt (e : DirEnt) (h : e.empty = false) (hl : e.line = 0x41) : (tracked e).dirEnt 0x41 = e :=
  dirEnt_of _ e h hl (congrArg Slice.dir (filled_slice cfg0 (dirSlice e)))

theorem wit_CoherenceRequestsGrantAndEvict_free :
    let s := filled cfg0 (holding cfg0)
    let r : Cacher := .l1 0
    s.mayRequest r 0x41 = true ∧ s.held r 0x41 = none ∧ r.writes = true ∧ s.homeWait 0x41 false = none
      ∧ s.homeWait 0x41 true = none ∧ s.isPrivate 0x41 = false ∧ (s.slice (homeOf s.cfg 0x41)).dirWay 0x41 = none
      ∧ s.owns r 0x41 = false := by decide

theorem wit_CoherenceRequests_room : (filled cfg0 (holding cfg0)).dirRoom 0x41 = .ok (0, filled cfg0 (holding cfg0)) := by rfl

theorem wit_CoherenceRequests_waits :
    base.mayRequest (.l1 0) 0x41 = true ∧ base.held (.l1 0) 0x41 = none ∧ (base.homeWait 0x41 false).isSome = true
      ∧ (base.homeWait 0x41 true).isSome = true := by decide

theorem wit_CoherenceRequests_node :
    let s := filled cfg0 (holding cfg0)
    s.mayRequest (.node 0) 0x41 = true ∧ s.held (.node 0) 0x41 = none ∧ (Cacher.node 0).writes = false
      ∧ s.homeWait 0x41 false false = none := by decide

theorem wit_CoherenceRequests_tracked :
    (shared.empty = false ∧ (tracked shared).dirEnt 0x41 = shared ∧ shared.owner = none ∧ (0 : Nat) ∉ shared.sharers)
      ∧ owned.empty = false ∧ (tracked owned).dirEnt 0x41 = owned :=
  ⟨⟨by decide, tracked_dirEnt _ (by decide) rfl, rfl, by decide⟩, by decide, tracked_dirEnt _ (by decide) rfl⟩

theorem wit_CoherenceRequests_shared :
    (tracked shared).mayRequest (.l1 0) 0x41 = true ∧ (tracked shared).held (.l1 0) 0x41 = none
      ∧ (tracked shared).homeWait 0x41 false = none ∧ (tracked shared).isPrivate 0x41 = false := by
  refine ⟨by decide, by decide, ?_, by decide⟩
  simp only [State.homeWait, State.recall, tracked_dirEnt shared (by decide) rfl]
  decide

/-- A configuration whose stacked memory is private: SHARE = 0 over the third 4 KiB. -/
def cfgPriv : ShapeCfg := { cfg0 with regions := [(0, ⟨0x19, 0xFFF⟩), (1, ⟨0x2001, 0x2FFF⟩)] }

/-- Core 0 with its L1 as given, and line 0x41 at its home. -/
def cached (c : ShapeCfg) (x : Cache) : State := { filled c (holding c) with l1 := [(0, x)] }

theorem wit_CoherenceRequests_private :
    let s := filled cfgPriv (holding cfgPriv)
    s.isPrivate 0x41 = true ∧ s.mayRequest (.l1 0) 0x41 = true ∧ s.held (.l1 0) 0x41 = none ∧ s.homeWait 0x41 false = none
      ∧ s.homeWait 0x41 true = none ∧ s.owns (.l1 0) 0x41 = false := by decide

theorem wit_CoherenceRequests_upgrade :
    let s := cached cfg0 { idle with lines := [(16 * (Cacher.l1 0).set 0x41, ⟨0x41, .s, 0, false⟩)] }
    s.mayRequest (.l1 0) 0x41 = true ∧ s.owns (.l1 0) 0x41 = false ∧ s.isPrivate 0x41 = false
      ∧ s.held (.l1 0) 0x41 = some ⟨0x41, .s, 0, false⟩ ∧ s.homeWait 0x41 true false = none := by decide

theorem wit_CoherenceRequests_home_write :
    let s := filled cfg0 (holding cfg0)
    s.cacheable (128 * 0x41) = true ∧ s.busCode (128 * 0x41) = .okay ∧ s.homeWait 0x41 true true = none
      ∧ (base.homeWait 0x41 true true).isSome = true ∧ 0x100 ∉ (s.dirEnt 0x41).units
      ∧ (s.slice (homeOf s.cfg 0x41)).dirWay 0x41 = none ∧ s.l2Line 0x41 = some ⟨0x41, .e, 0, false⟩
      ∧ (attrOf s.cfg (128 * 0x41)).wpol ≠ 3 := by decide

theorem wit_CoherenceRequests_fill_and_evict :
    let g : Grant := ⟨0x41, .e, 0, false, false⟩
    let s := cached cfg0 { idle with grants := [g], miss := some (0x41, false) }
    let e := cached cfgPriv { idle with evict := [⟨0x41, true, 1, false⟩, ⟨0x41, false, 1, false⟩] }
    (s.cacheOf (.l1 0)).grants = [g] ∧ (s.cacheOf (.l1 0)).miss = some (g.line, false) ∧ e.isPrivate 0x41 = true
      ∧ e.homeStall 0x41 = false
      ∧ (e.cacheOf (.l1 0)).evict.find? (fun x => x.line == 0x41 && x.dirty == true) = some ⟨0x41, true, 1, false⟩
      ∧ (e.cacheOf (.l1 0)).evict.find? (fun x => x.line == 0x41 && x.dirty == false) = some ⟨0x41, false, 1, false⟩
      ∧ e.declines 0x41 13 = true ∧ e.declines 0x41 12 = false := by decide

/-- Host port 0 up with CXL.cache and CXL.mem. -/
def cfgHost (c : ShapeCfg) : ShapeCfg := { c with hostPort := [(0, ⟨1, 16, 64, 0, 3, List.replicate 16 0xFF⟩)] }
def hosts (c : ShapeCfg) (x : Sys2Proof.Machine.Slice) : State :=
  { filled (cfgHost c) x with host := [(0, { HostPort.off with width := 16, rate := 2 })] }

theorem wit_HostCoherenceIsServedAtHome :
    let s := hosts cfg0 (holding cfg0)
    let p := hosts cfgPriv (holding cfgPriv)
    let w := hosts cfg0 slice0
    s.snoops 0 (0x8000_0000_0000 / 128) = true ∧ s.boot.halted = false ∧ s.cxlMem 0 = true ∧ stackedBytes ≤ 0x60_0000_0000
      ∧ (s.hostPort 0).hdmBase.toNat = 0 ∧ (0x20FF : BitVec 52).toNat % 128 + 1 ≤ 128 ∧ (0x20FF : BitVec 52).toNat / 128 = 0x41
      ∧ s.hostWait 0 0x41 true false = none ∧ s.hostWait 0 0x41 false false = none ∧ s.hostWait 0 0x41 true true = none
      ∧ (w.hostWait 0 0x41 true true).isSome = true ∧ s.isPrivate 0x41 = false ∧ p.isPrivate 0x41 = true
      ∧ p.hostWait 0 0x41 true true = none ∧ p.hostWait 0 0x41 false false = none
      ∧ ({ s with boot := { s.boot with halted := true } } : State).boot.halted = true := by decide

theorem wit_HostCoherence_room : (hosts cfg0 (holding cfg0)).dirRoom 0x41 = .ok (0, hosts cfg0 (holding cfg0)) := by rfl

/-- A read that waits for the other port's exclusive copy, and one served by a slice under a back-invalidation's end. -/
theorem wit_HostCoherence_reads_wait :
    ((hosts cfg0 { slice0 with l2 := { idle with busy := true } }).hostWait 0 0x41 false false).isSome = true := by decide

theorem wit_HostCoherence_record : (dirSlice hosted).dirWay 0x41 = some 0 := (dirSlice_way hosted _ (by decide) rfl rfl).1

theorem host_dirEnt (e : DirEnt) (bi : List BiWait) (h : e.empty = false) (hl : e.line = 0x41) :
    (hosts cfg0 { dirSlice e with bi := bi }).dirEnt 0x41 = e := by
  refine dirEnt_of _ e h hl ?_
  show (Tbl.get Slice.off [(homeOf (cfgHost cfg0) 0x41, { dirSlice e with bi := bi })] (homeOf (cfgHost cfg0) 0x41)).dir = _
  simp [Tbl.get]

theorem wit_HostCoherence_back_invalidation :
    let b : BiWait := ⟨0, 0x41, true, 0⟩
    let s := hosts cfg0 { dirSlice hosted with bi := [b] }
    let x := hosts cfg0 { dirSlice ⟨0x41, [], none, 2, 0⟩ with bi := [b] }
    let t := { s with time := { s.time with blk := 200000 } }
    ((s.slice (homeOf s.cfg 0x41)).bi.find? (fun b => b.h == 0 && b.line == 0x41) = some b ∧ s.cxlMem 0 = true
      ∧ s.now < b.since + (s.hostPort 0).biTimeout * usUnits ∧ b.since + (t.hostPort 0).biTimeout * usUnits ≤ t.now)
      ∧ (s.dirEnt 0x41).host 0 ≠ 2 ∧ (x.dirEnt 0x41).host 0 = 2 := by
  refine ⟨by decide, ?_, ?_⟩
  · rw [host_dirEnt hosted _ (by decide) rfl]
    decide
  · rw [host_dirEnt ⟨0x41, [], none, 2, 0⟩ _ (by decide) rfl]
    decide

theorem wit_MaintenanceAndLocksAct :
    let s := (filled cfg0 (holding cfg0)).updCore 0 fun w =>
      { w with run := .running, pc := 0x100, sregs := [(1, 0x2080), (2, 0x800_0000_0000), (3, 128)] }
    let a := s.sreg 0 1
    let l := a.toNat / 128
    s.ready 0 = true ∧ s.sbHas 0 [l] = false ∧ (s.cacheOf (.l1 0)).busy = false ∧ maintains l = true
      ∧ s.accFault 0 a 1 false = none ∧ s.accFault 0 a 1 true = none ∧ s.homeStall l = false
      ∧ s.homeWait l true false = none ∧ s.lfillWait l = none
      ∧ (match s.zeroLine (.l1 0) l with | .ok _ => true | .error _ => false) = true
      ∧ maintains ((s.sreg 0 2).toNat / 128) = false ∧ s.sbHas 0 [(s.sreg 0 2).toNat / 128] = false
      ∧ s.accFault 0 (s.sreg 0 2) 1 true = none ∧ ((job []).accFault 0 0xC0_0000_0000 1 true).isSome = true
      ∧ s.cacheable 0x1000 = false ∧ s.cacheable a.toNat = true ∧ (s.accFault 0 a 1 true).isSome = false
      ∧ min (s.sreg 0 3).toNat 65536 = 128 ∧ (pagePieces 0x2080 128).all (fun p => (s.accSub 0 p.1 p.2 true).isNone) = true
      ∧ (pagePieces 0x2080 128).all (fun p => (s.accSub 0 p.1 p.2 false).isNone) = true ∧ s.sbHas 0 (rangeLines 0x2080 128) = false
      ∧ (match s.maintRange (.l1 0) .clean 0x2080 128 with | .ok _ => true | .error _ => false) = true
      ∧ (match s.maintRange (.l1 0) .flush 0x2080 128 with | .ok _ => true | .error _ => false) = true
      ∧ (match s.maintRange (.l1 0) .inval 0x2080 128 with | .ok _ => true | .error _ => false) = true := by decide

theorem wit_Locks :
    let s := { State.reset with l2 := [(0, { Slice.off with lockReq := 1, lockBusy := true })] }
    base.mute (.clove 0) = false ∧ base.regCode (.clove 0) (.l2LockWays 255) true .full = .okay ∧ (s.slice 0).lockBusy = true
      ∧ ((s.slice 0).lockReq &&& ~~~(s.slice 0).locked).getLsbD 0 = true ∧ (s.slice 1).l2.busy = true
      ∧ (s.icacheOf 0).busy = true ∧ (s.cacheOf (.l1 0)).busy = true ∧ (s.cacheOf (.node 0)).busy = true
      ∧ (s.cacheOf (.clv 0)).busy = true := by decide

/-! ## Vaults, clocks, power. -/

/-- Vault 0 as given. -/
def vlt (x : Vlt) (mem : MemSt) : State := { under { cfg0 with budget := { cfg0.budget with vault := 10 } } with vlt := [(0, x)], mem := mem }

theorem wit_VaultCommandsAct_lines :
    let s := vlt trained base.mem
    let late := { s with time := { s.time with blk := 2000000000000 } }
    s.vaultTakes 0 12582911 = true ∧ (0 : BitVec 128) ≠ BitVec.allOnes 128 ∧ s.vaultTakes 0 0 = true
      ∧ (s.vault 0).scrubLine = 0 ∧ s.marked (vaultLines * 0 + 0) = false ∧ Tbl.get [] s.mem.rawErr (vaultLines * 0 + 0) = []
      ∧ s.scrubSlot 0 false = some 0 ∧ s.scrubSlot 0 true = none ∧ late.scrubSlot 0 true = some 0 ∧ (s.vault 0).st = 2 := by decide

theorem wit_VaultCommandsAct_temperature :
    let s := { vlt { trained with coolSince := some 0 } base.mem with time := { base.time with blk := 2000000 } }
    bitOf (0x8000 : BitVec 16).toNat 15 = true ∧ bitOf (0x7FFF : BitVec 16).toNat 15 = false
      ∧ Tbl.get false (s.vault 0).stale 7 = false ∧ Tbl.get 0 (s.vault 0).tempAt 7 + 600000 ≤ s.now
      ∧ (s.vault 0).coolSince = some 0 ∧ 0 + 2000000 ≤ s.now := by decide

theorem wit_VaultCommandsAct_commands :
    let s := vlt { trained with erase := [(7, 3)] } base.mem
    let z := vlt { Vlt.off with st := 1, zeroBusy := true } base.mem
    s.mute (.clove 0) = false ∧ s.regCode (.clove 0) (.vltCmd 0) true .full = .okay ∧ (s.vault 0).zeroBusy = false
      ∧ (z.vault 0).zeroBusy = true ∧ 8 < field 0x900 11 8 ∧ field 0x870 11 8 ≤ 8
      ∧ Tbl.get 0xF (s.vault 0).erase (field 0x870 6 4) ≠ 0xF ∧ Tbl.get 0xF (s.vault 0).erase (field 0x800 6 4) = 0xF
      ∧ (z.vault 0).st = 1 := by decide

/-- A state with two operating points, of which the second is usable. -/
def points (clk : ClkSt) (nut : NutSt) : State :=
  { under { cfg0 with op := ⟨0, 1000, 2, [⟨90, 750, 750, 750, 750⟩, ⟨96, 800, 800, 800, 800⟩, OpEntry.off, OpEntry.off]⟩ } with
    clk := clk, nut := nut }

theorem wit_ClocksRailsAndDomainsAct_points :
    let s := points base.clk { base.nut with usable := 2 }
    s.mute (.clove 0) = false ∧ s.regCode (.clove 0) .clkStg true .full = .okay ∧ s.commit.active = false
      ∧ (1 : W64).toNat % 4 < s.cfg.op.count ∧ s.nut.usable.getLsbD ((1 : W64).toNat % 4) = true ∧ s.cfg.op.count ≤ (2 : W64).toNat % 4
      ∧ s.nut.usable.getLsbD ((0 : W64).toNat % 4) = false
      ∧ ({ s with commit := { s.commit with active := true } } : State).regCode (.clove 0) .clkStg true .full = .okay
      ∧ (points { base.clk with standby := .locking } base.nut).pins.refclkOk = true := by decide

theorem wit_ClocksRailsAndDomainsAct_commit :
    let s := { points { base.clk with mult := 96 } base.nut with
      commit := { base.commit with active := true, withOp := true, parts := [0x490, 0x491], acked := [0x490], deadline := 10 } }
    s.commit.active = true ∧ 0x491 ∈ s.commit.parts ∧ 0x491 ∉ s.commit.acked ∧ 0x491 ∉ s.commit.withheld
      ∧ s.now < s.commit.deadline ∧ s.boundary 0x491 = true ∧ s.injHit 0x3B 0x491 0 = false
      ∧ (points { base.clk with relock := true } base.nut).clk.relock = true := by decide

theorem wit_ClocksRailsAndDomainsAct_rails :
    (points base.clk { base.nut with avsFails := 1 }).nut.avsFails ≠ 2 ∧ (points base.clk { base.nut with avsFails := 2 }).nut.avsFails = 2
      ∧ [1, 2, 3, 4].length = 4 ∧ (1 : Rail).val ≠ 0
      ∧ Tbl.get 0 base.nut.polled 1 = base.now / 20000 ∧ Tbl.get 0 base.nut.polled 0 = base.now / 20000
      ∧ (let s := { points base.clk { base.nut with capSince := some 0, capLevel := 7 } with time := { base.time with blk := 2000000 } }
         Tbl.get 0 s.nut.polled 1 ≠ s.now / 20000 ∧ Tbl.get 0 s.nut.polled 0 ≠ s.now / 20000
          ∧ s.nut.capSince = some 0 ∧ 0 + 2000000 ≤ s.now ∧ s.nut.capLevel = 7) := by decide

/-- R471: the set-points of the first entry with the static guard-band of 45 mV; VSRAM goes up before VCORE, and down after it. -/
theorem wit_ClocksRailsAndDomainsAct_writes :
    let s := points base.clk base.nut
    let t := points base.clk { base.nut with target := [(0, 800), (1, 850)] }
    (s.railGoal 0 = some 795 ∧ s.railGoal 1 = some 845 ∧ s.railGoal 2 ≠ some 751)
      ∧ Tbl.get 0 s.nut.target 0 < 795 ∧ Tbl.get 0 s.nut.target 1 < (s.railGoal 1).getD 0
      ∧ 845 < Tbl.get 0 t.nut.target 1 ∧ (t.railGoal 0).getD 0 < Tbl.get 0 t.nut.target 0 ∧ s.railMay 0 795 = false
      ∧ t.railMay 1 845 = false ∧ t.railMay 0 795 = true ∧ s.railMay 1 845 = true := by decide

theorem wit_ClocksRailsAndDomainsAct_domains :
    let s := points base.clk { base.nut with pdReq := 1, clvReq := 2 }
    let t := points base.clk { base.nut with pdState := 1, clvState := 1 }
    let a : Agent := .clove 0
    s.mute a = false ∧ s.regCode a .nutCap true .full = .okay ∧ (∀ j : Fin 4, s.regCode a (.pdReq j.val) true .full = .okay)
      ∧ s.regCode a .pdClove true .full = .okay ∧ s.nut.pdReq.getLsbD 0 = true ∧ s.nut.pdState.getLsbD 0 = false
      ∧ t.nut.pdReq.getLsbD 0 = false ∧ t.nut.pdState.getLsbD 0 = true
      ∧ s.nut.clvReq.getLsbD 1 = true ∧ s.nut.clvState.getLsbD 1 = false ∧ t.nut.clvReq.getLsbD 0 = false
      ∧ t.nut.clvState.getLsbD 0 = true := by decide

/-- R475: the cap level rises by one while the average is above the cap. -/
theorem test_cap_rises :
    let s := { points base.clk { base.nut with capW := 1000, mv := [(0, 1000)], amps := [(0, 1100)] } with
      time := { base.time with blk := 20000 } }
    (match exec .capEvaluation s with | .next t => t.nut.capLevel | _ => 9) = (if 1000 * 1000 < s.powerNow then 1 else 0) := by decide

theorem wit_ThermalMarginAndDroopRulesAct_thermal :
    let s := { points base.clk { base.nut with trip := true, coolSince := some 0, tierCoolSince := some 0 } with
      time := { base.time with blk := 200000 } }
    s.nut.trip = true ∧ s.nut.coolSince = some 0 ∧ s.nut.tierCoolSince = some 0 ∧ 0 + 200000 ≤ s.now
      ∧ Tbl.get 0 s.nut.polled 2 ≠ s.now / 2000 ∧ Tbl.get 0 base.nut.polled 2 = base.now / 2000
      ∧ base.mute (.clove 0) = false ∧ base.regCode (.clove 0) .nutCmd true .full = .okay := by decide

/-- R477: a die at 95 trips, one at 94 does not. -/
theorem test_thermal_trip :
    let s := { base with time := { base.time with blk := 2000 } }
    (match exec (.thermalSample [95] [0]) s with | .next t => t.nut.trip | _ => false) = true
      ∧ (match exec (.thermalSample [94] [0]) s with | .next t => t.nut.trip | _ => true) = false := by decide

theorem wit_ThermalMarginAndDroopRulesAct_plans :
    let s := points base.clk { base.nut with planRunning := true }
    let d := { points base.clk { base.nut with planRunning := false } with time := { base.time with blk := 86400 * 200000000 } }
    s.nut.planRunning = true ∧ d.nut.planRunning = false ∧ d.nut.planAgain = false ∧ d.appliedUnit 0x491 = false
      ∧ d.planDue = true := by decide

theorem wit_ThermalMarginAndDroopRulesAct_droop :
    let d : DCal := ⟨true, 20, 100, 0⟩
    let s := points base.clk { base.nut with dcal := [(0, d)] }
    let g := { points base.clk { base.nut with dcal := [(0, d)], staticGb := true, okSince := some 0 } with
      time := { base.time with blk := 2000000 } }
    (0 : Nat) < 2 * (((points base.clk base.nut).setPoints base.clk.cur).getD 0 0 - base.nut.droopTrip)
      ∧ s.dcalOf s.clk.cur = d ∧ d.present = true ∧ 5 * d.i < 4 * 126 ∧ s.nut.staticGb = false
      ∧ g.nut.staticGb = true ∧ 4 * 125 ≤ 5 * d.i ∧ g.nut.okSince = some 0 ∧ max 0 d.made + 2000000 ≤ g.now := by decide

theorem wit_ThermalMarginAndDroopRulesAct_bursts :
    let d : DCal := ⟨true, 20, 100, 0⟩
    let s := { points base.clk { base.nut with dcal := [(0, d)], lossAt := some 0, staticGb := true, protect := true } with
      time := { base.time with blk := 2000000000 } }
    let b := { points base.clk { base.nut with dcal := [(0, d)], burst := some (0, true) } with time := { base.time with blk := 200000 } }
    s.nut.burst = none ∧ s.coreClock = true ∧ s.appliedUnit 0x491 = false ∧ b.nut.burst = some (0, true) ∧ 0 + 200000 ≤ b.now
      ∧ { s with time := { base.time with blk := 400000000 } }.burstDue 126 = true ∧ 99 < d.i ∧ b.now ≤ d.made + 2592000 * 200000000 ∧ s.nut.lossAt = some 0 ∧ 0 + 2000000000 ≤ s.now := by decide

/-! ## Clove threads and the scheduler. -/

/-- Thread 1 of Clove core 0 running from shared SRAM, with some registers set. -/
def thr (g : Tbl W64) (sched : SchedSt) : State :=
  { base with thr := [(1, { Thr.off with run := .running, pc := 0xF000_0800_0000, g := g, vec := 0x100 })], sched := sched }

theorem wit_CloveInstructionsAct :
    let s := thr [(1, 0xF000_0800_1000), (2, 7)] base.sched
    let a := s.greg 1 1
    s.readyT 1 = true ∧ intOp 0x13 7 0 = some 3 ∧ intOpUnary 0x13 = true ∧ mulDiv 0x0F 7 0 = some 7
      ∧ field (0x00A : BitVec 12).toNat 3 0 ≠ 9 ∧ (clvImmCode 5).isSome = true ∧ (63 : BitVec 16).toNat < 64
      ∧ clvHalves a 8 = [(a.toNat, 8)] ∧ s.clvFault 1 a 8 false = none ∧ s.clvFault 1 a 8 true = none
      ∧ clvMem a.toNat = some (none, 0x1000) ∧ (s.clvBytes false 0x1000 8).2 = false ∧ (s.thread 1).partsDone = 0
      ∧ atomicSize 0x301 = some 8 ∧ (0x301 : BitVec 12).toNat < 1024 ∧ a.toNat % 8 = 0 ∧ branchCond 5 7 0 = some true := by decide

theorem wit_CloveInstructionsAct_system :
    let s := thr [(1, 0x2080)] base.sched
    (s.tcRead 1 0).isSome = true ∧ ((s.thread 1).tcWrite 2 0).isSome = true ∧ (s.thread 1).trap = false ∧ s.tcOn 1 = 0
      ∧ (s.thread 1).fixed = false ∧ maintCode 0 ≠ none ∧ s.clvFault 1 0x2080 1 false = none
      ∧ (match s.maintOne (clvCacher 1) .clean 0x41 with | .ok _ => true | .error _ => false) = true
      ∧ (match s.maintLock (clvCacher 1) 0x41 with | .ok _ => true | .error _ => false) = true := by decide

/-- A thread whose inter-processor interrupt is pending and enabled. -/
def ipi (run : ThrRun) : State :=
  { base with thr := [(1, { Thr.off with run := run, pc := 0xF000_0800_0000, vec := 0x100, ien := 0xFFFF, ie := true })],
              sched := { base.sched with ipi := 2 } }

theorem wit_CloveInstructionsAct_interrupts :
    ((ipi .waitInt).thread 1).run = .waitInt ∧ (ipi .waitInt).clvRuns 1 = true ∧ (ipi .waitInt).tcOn 1 ≠ 0
      ∧ ((ipi .running).thread 1).run = .running ∧ ((ipi .running).thread 1).issued = false
      ∧ ((ipi .running).tcDue 1).isSome = true := by decide

theorem test_clove_store_then_load :
    (match exec (.clvStore 1 2 1 6 0) (thr [(1, 0xF000_0800_1000), (2, 0x1234)] base.sched) with
     | .next t => (t.clvBytes false 0x1000 2).1 == [0x34, 0x12] && (t.thread 1).pc == 0xF000_0800_0004
     | _ => false) = true := by decide

/-- Task 5 held by thread 1, or READY. -/
def tasked (k : Task) (held : Bool) : State :=
  let s := thr [(1, 5), (2, 3)] { base.sched with tasks := [(5, k)] }
  let t := if held then s.updThr 1 fun t => { t with task := some 5 } else s
  if held then t.updTask 5 fun k => { k with st := .running } else t

theorem wit_SchedulerInstructionsAct_gettask :
    let s := (tasked Task.off false).makeReady 5 0
    let c := s.schedSync
    s.readyT 1 = true ∧ (2 : GReg).val % 2 = 0 ∧ (c.thread 1).task = none ∧ c.sched.order.find? (c.eligible 1) = some 5
      ∧ (base.schedSync.sched.order.find? (base.schedSync.eligible 1)) = none := by decide

theorem wit_SchedulerInstructionsAct_held :
    let s := tasked Task.off true
    let c := s.schedSync
    let w := (tasked { Task.off with wakePend := true } true).schedSync
    s.readyT 1 = true ∧ (c.thread 1).task = some 5 ∧ (c.task 5).wakePend = false ∧ (c.task 5).flow = none
      ∧ (w.task 5).wakePend = true ∧ (w.thread 1).task = some 5 ∧ (c.greg 1 0).toNat = 0 ∧ 0 < (c.greg 1 1).toNat
      ∧ (c.greg 1 1).toNat < 2 ^ 24 ∧ ((tasked { Task.off with flow := some (0, 0) } true).schedSync.task 5).flow = some (0, 0) := by
  decide

theorem wit_SchedulerInstructionsAct_others :
    let r := ((tasked Task.off false).makeReady 5 0).schedSync
    let n := (tasked Task.off true).schedSync
    let d := { tasked Task.off false with sched := { (tasked Task.off false).sched with flows := [(3, { Flow.off with en := true })] } }
    (r.thread 1).task = none ∧ (r.task 5).st = .ready ∧ (n.task 5).st = .running ∧ (d.schedSync.task 5).st ≠ .ready
      ∧ (d.schedSync.task 5).st ≠ .running ∧ (r.greg 1 1).toNat = 5 ∧ 5 < 256 ∧ (r.greg 1 2).toNat < 32 ∧ 32 ≤ (32 : W64).toNat
      ∧ (d.schedSync.task 5).st = .dormant ∧ (d.schedSync.flow 3).ents.length < 64 ∧ (d.schedSync.flow 3).en = true := by decide

theorem wit_SchedulerInstructionsAct_flowtake :
    let f (e : List (Option (W64 × Bool))) := { base with sched := { base.sched with flows := [(0, { Flow.off with en := true, ents := e })] } }
    ((f []).schedSync.flow 0).ents = [] ∧ ((f [none]).schedSync.flow 0).ents = [none]
      ∧ ((f [some (9, false)]).schedSync.flow 0).ents = [some (9, false)] ∧ ((f [some (9, false)]).schedSync.flow 0).en = true := by
  decide

theorem wit_SchedulerEventsAndRegistersAct :
    let a : Agent := .clove 0
    let d := { base with sched := { base.sched with due := true } }
    let e : TimerEnt := ⟨0, 0, 5⟩
    let x := { base with sched := { base.sched with delays := [e] } }
    let y := { base with sched := { base.sched with timeouts := [e] } }
    (base.task 255).prio < 32 ∧ d.clk.relock = false ∧ d.sched.due = true ∧ x.sched.expired = some (e, false)
      ∧ y.sched.expired = some (e, true) ∧ base.regCode a (.taskCfg 255) true .full = .okay
      ∧ base.regCode a .aniseCtrl true .full = .okay ∧ base.regCode a (.thrCtrl 63) true .full = .okay
      ∧ (base.thread 63).run = .halted ∧ base.clvOff 7 = false ∧ ((thr [] base.sched).thread 1).run ≠ .halted
      ∧ base.regCode a .clvIpi true .full = .okay ∧ base.regCode a .clvIpiClr true .full = .okay
      ∧ base.regCode a (.clvCoreCtrl 7) true .full = .okay
      ∧ ({ base with time := { base.time with blk := 2000 } } : State).sched.tickAt
          < ({ base with time := { base.time with blk := 2000 } } : State).now / 2000 := by decide

/-! ## Host ports, mailboxes, links and the group. -/

/-- Host port 0 up, with one virtual function, which owns both its rings of 16 entries; channel 0 goes from thread 0 to
function 0. -/
def ports (x : HostFn) (m : Mbx) : State :=
  { under { cfg0 with hostPort := [(0, ⟨1, 16, 64, 1, 0, 0 :: List.replicate 15 0xFF⟩)], mbx := [(0, ⟨0x100, 0x200, 0, 1⟩)] } with
    host := [(0, { HostPort.off with width := 16, rate := 2, vfs := 1, fns := Tbl.set HostFn.off [] 1 x })],
    mbx := Tbl.set Mbx.off [] 0 m }

theorem wit_HostRings :
    let s := ports { HostFn.off with sqEn := true, cqEn := true } Mbx.off
    let off := ports HostFn.off Mbx.off
    s.mute (.host 0 1) = false ∧ s.mute (.clove 0) = false ∧ s.fnRings 0 1 = true
      ∧ s.regCode (.host 0 1) (.sqPtr 0 1) true .hi = .okay ∧ (s.hostFn 0 1).sqEn = true
      ∧ s.regCode (.clove 0) (.sqPtr 0 1) true .lo = .okay ∧ s.regCode (.clove 0) (.cqPtr 0 1) true .lo = .okay
      ∧ (s.hostFn 0 1).cqEn = true ∧ s.regCode (.host 0 1) (.cqPtr 0 1) true .hi = .okay
      ∧ off.regCode (.clove 0) (.sqBase 0 1) true .full = .okay ∧ (off.hostFn 0 1).sqEn = false
      ∧ off.regCode (.clove 0) (.cqBase 0 1) true .full = .okay ∧ (off.hostFn 0 1).cqEn = false
      ∧ 4 ≤ field 0x101C 3 0 ∧ field 0x101C 3 0 ≤ 12 ∧ (0x101C : W64).getLsbD 4 = true := by decide

/-- R427, R428: a tail that would pass the head is rejected, the last free place is taken, and a second write of the HK cycle is
judged by the pointers as they stood before it. -/
theorem test_ring_tail :
    let tail (x : HostFn) (v : BitVec 12) : Nat × Bool := match exec (.hostSqTailWrite (.host 0 1) 0 1 v) (ports { x with sqEn := true } Mbx.off) with
      | .next t => ((t.hostFn 0 1).sqTail, (t.hostFn 0 1).ptrReject) | _ => (99, true)
    tail HostFn.off 15 = (15, false) ∧ tail { HostFn.off with sqHead := 2, sqTail := 14 } 1 = (1, false)
      ∧ tail { HostFn.off with sqHead := 2, sqTail := 14 } 3 = (14, true)
      ∧ tail { HostFn.off with cycle := 1, sqHead0 := 2, sqTail0 := 14, sqHead := 5, sqTail := 14 } 3 = (14, true) := by decide

theorem wit_HostLinks :
    let s := ports HostFn.off Mbx.off
    s.hostEnabled 0 = true ∧ (s.hostPort 0).isolated = false ∧ s.boot.halted = false ∧ s.hostUp 0 = true
      ∧ (s.cfg.hostOf 0).vfCount = 1 ∧ ((s.updHost 0 fun p => { p with ideUp := true }).hostPort 0).ideUp = true := by decide

theorem wit_Mailboxes :
    let s := ports HostFn.off Mbx.off
    let f := ports HostFn.off { Mbx.off with full := true, ops := [.take] }
    let a : Agent := .clove 0
    s.mute a = false ∧ (∀ w : Fin 8, s.regCode a (.mbxMsg 0 w.val) true .full = .okay) ∧ (s.cfg.mbxOf 0).sender = a.code
      ∧ s.regCode (.host 0 0) (.mbxMsg 0 7) true .full = .okay ∧ (s.cfg.mbxOf 0).sender ≠ (Agent.host 0 0).code
      ∧ s.mute (.host 0 0) = false ∧ (f.mbxAt 0).full = true ∧ (s.mbxAt 0).full = false
      ∧ s.regCode a (.mbxPost 0) true .full = .okay ∧ (1 : W64).getLsbD 0 = true
      ∧ f.regCode (.host 0 0) (.mbxTake 0) false .full = .okay ∧ (f.cfg.mbxOf 0).receiver = (Agent.host 0 0).code
      ∧ f.mbx = [(0, f.mbxAt 0)] ∧ (f.mbxAt 0).ops ≠ [] ∧ s.regCode a (.dbMask 0x100) true .full = .okay := by decide

/-- R433: of a TAKE and a POST in one HK cycle the POST is rejected. -/
theorem test_take_then_post :
    let y : Mbx := { Mbx.off with full := true, valid := true, ops := [.take, .post 0x100] }
    y.tick.full = false ∧ y.tick.postReject = true ∧ ({ Mbx.off with ops := [.post 0x100] } : Mbx).tick.full = true := by decide

/-- Blocks 0 to 2 in a group, ports 0 and 1 up in link mode towards blocks 1 and 2. -/
def grouped (x : LinkPort) (g : GroupSt → GroupSt) : State :=
  { under { cfg0 with link := [(0, ⟨1, 0xFF, 0⟩), (1, ⟨1, 0xFF, 0⟩), (2, ⟨2, 0xFF, 1⟩)] } with
    link := [(0, { x with lanes := 0xFF }), (1, { LinkPort.off with st := .up, lanes := 0xFF }), (2, { LinkPort.off with st := .up })],
    grp := g { base.grp with en := true, members := 7, route := [(1, 1), (2, 2)] } }

theorem wit_LinkPortsAct :
    let s := grouped { LinkPort.off with st := .up, replayDue := true } id
    let d := grouped { LinkPort.off with st := .down } id
    let t := grouped { LinkPort.off with st := .training } id
    let n := grouped { LinkPort.off with st := .up, laneFix := [(7, 0x1001)] } id
    let a : Agent := .clove 0
    (s.port 0).st = .up ∧ s.linkMode 0 = 1 ∧ (s.port 0).txq = [] ∧ (s.port 0).nak = false ∧ (s.port 0).ctl = 0
      ∧ (s.port 0).fails < 31 ∧ (s.port 0).discard = false ∧ (s.port 0).replayDue = true ∧ s.linkMode 0 ≠ 2
      ∧ 0 < (s.port 0).flitRoom ∧ (s.port 0).lanes.getLsbD 7 = true ∧ s.laneBad 0 7 = false ∧ n.laneBad 0 7 = true
      ∧ (s.port 0).st ≠ .disabled ∧ (s.port 0).st ≠ .down ∧ s.mute a = false
      ∧ s.regCode a (.lnkCtrl 0) true .full = .okay ∧ d.grp.en = true ∧ (d.cfg.linkOf 0).mode = 1 ∧ (d.port 0).st = .down
      ∧ (t.port 0).st = .training ∧ s.linkMode 2 = 2 ∧ bitOf (s.cfg.linkOf 2).flags 0 = true ∧ (s.port 2).st = .up
      ∧ (0 : BitVec 12).toNat ≤ Tbl.get 0 (s.port 0).credOwed 3 := by decide

/-- A flit whose slots hold nothing but one packet: the receiver has the packet, whole; a flit with one bit changed, one ahead,
and one that comes again. -/
theorem wit_LinkPorts_flits :
    let k := packet 1 [1, 2]
    let f := flit 0 [k]
    flitGood f = true ∧ flitGood (f.set 20 0xFF) = false ∧ (packetsOf 27 (f.drop 16)).1 = [some k]
      ∧ (BitVec.ofNat 12 (le f 0 2) - (LinkPort.off.rxSeq + 1)).toNat = 0
      ∧ (BitVec.ofNat 12 (le (flit 1 []) 0 2) - (LinkPort.off.rxSeq + 1)).toNat = 1
      ∧ 2048 ≤ (BitVec.ofNat 12 (le (flit 0xFFF []) 0 2) - (LinkPort.off.rxSeq + 1)).toNat
      ∧ field (le f 10 2) 3 0 = 0 ∧ bitOf (le (flitBytes 0 0xFFF true [0, 0, 0, 0] 0 0 []) 2 2) 15 = true
      ∧ (let x := { LinkPort.off with fails := 31, replayed := true, replay := [⟨0, []⟩] }.covered 0xFFF
         x.replayed = true ∧ 31 ≤ x.fails) := by decide +kernel

theorem wit_LinkPorts_packets :
    let k := packet 1 [1, 2]
    opListed k.op = true ∧ k.vc < 4 ∧ k.part ≤ 16 ∧ k.hops ≤ 3 ∧ k.len ≤ 4096 ∧ k.psn < 2 ^ 24 ∧ k.tag < 2 ^ 32 ∧ k.addr < 2 ^ 52
      ∧ k.attr < 2 ^ 32 ∧ k.data.length = (if opData k.op then k.len else 0) ∧ packetOf (packetBytes k) = some k := by decide +kernel

/-- R442: the header bytes of a PUT of two bytes. -/
theorem test_packet_header : (packetBytes (packet 1 [0xAA, 0xBB])).take 34 =
    [0x21, 0, 1, 0, 0, 1, 2, 0, 0, 0, 0, 0, 7, 0, 0, 0, 0x40, 0x10, 0, 0, 0, 0, 0, 0, 0, 0, 0, 0, 0, 0, 0, 0, 0xAA, 0xBB] := by
  decide +kernel

/-- A packet waiting at port 0, with the group as given. -/
def arrived (k : Packet) (g : GroupSt → GroupSt) : State := grouped { LinkPort.off with st := .up, rxq := [⟨k, 0⟩] } g

def imported (g : GroupSt) : GroupSt := { g with live := 2, imports := [(0, 2)] }

/-- What a port does with a packet that has arrived: taken, dropped, or still there. -/
def comesTo (s : State) (k : Packet) (f : State → Bool) : Bool :=
  match (s.frameIn 0 k).takeRx 0 k with
  | some t => (match t.receive k with | .take u => f u | .drop _ => false)
  | none => false

theorem wit_Transport_numbers :
    let k := packet 1 [1, 2]
    let s := arrived k imported
    BitVec.ofNat 24 k.psn = ((s.hear 1).conn 1 0).expect ∧ BitVec.ofNat 24 1 ≠ ((s.hear 1).conn 1 0).expect
      ∧ s.grp.en = true ∧ k.dst.val = s.grp.self
      ∧ comesTo s k (fun u => u.importCheck k 2 true == 0 && (u.importCheck { k with part := 16 } 2 true != 0)) = true
      ∧ (match (arrived { k with psn := 1 } imported).takeRx 0 { k with psn := 1 } with
         | some t => (match t.receive { k with psn := 1 } with | .drop _ => true | .take _ => false)
         | none => false) = true
      ∧ ((s.frameIn 0 k).importWait k 2 true).isNone = true
      ∧ ((s.frameIn 0 k).importWait { k with addr := 0x40 } 2 true).isSome = true := by decide

theorem wit_Transport_group_packets :
    [{ packet 0x18 (List.replicate 21 0) with psn := 1 }, { packet 0x1B [] with psn := 1, addr := 7 }].all (fun k =>
      match (arrived k imported).takeRx 0 k with
      | some t => (match t.receive k with | .drop _ => true | .take _ => false)
      | none => false) = true
      ∧ ({ packet 0x18 (List.replicate 21 0) with psn := 1 }).beat 0 0 0 0 = { packet 0x18 (List.replicate 21 0) with psn := 1 }
      ∧ ({ packet 0x1B [] with psn := 1, addr := 7 } : Packet).addr = (7 : BitVec 52).toNat := by decide

theorem wit_Transport_reads :
    let k := { packet 2 [] with len := 8 }
    let s := arrived k imported
    let y := { packet 3 (List.replicate 16 0) with attr := 0x301 }
    let v := arrived y imported
    ((s.frameIn 0 k).importWait k 8 false).isNone = true
      ∧ comesTo s k (fun u => u.importCheck k 8 false == 0 && !(u.rangeRead k.addr 8).2.2.2) = true
      ∧ ((v.frameIn 0 y).importWait y (atomicBytes y) true).isNone = true ∧ comesTo v y (fun _ => true) = true := by decide

theorem wit_Transport_collectives :
    let k := { packet 4 [1, 2] with addr := 0, attr := 5 }
    let g := fun x : GroupSt => { imported x with colls := [(3, { Coll.off with st := .running, step := 1, id := 5, len := 128, src := 0x1000, dst := 0x1000 })] }
    let s := arrived k g
    let w := { arrived k imported with time := { base.time with blk := 200000 } }
    s.collFor k = some 3 ∧ comesTo s k (fun u => u.collFor k == some 3) = true ∧ ((s.frameIn 0 k).collWait k).isNone = true
      ∧ w.collFor k = none ∧ (w.port 0).rxq.any (fun j => j.pkt == k && decide (j.at_ + 200000 ≤ w.now)) = true
      ∧ comesTo w k (fun _ => true) = true := by decide

theorem wit_Transport_answers :
    let k := { packet 0x11 [] with len := 0 }
    let s := arrived k imported
    ((s.frameIn 0 k).takeRx 0 k).isSome = true ∧ s.grp.en = true ∧ k.dst.val = s.grp.self
      ∧ comesTo (arrived { packet 0x10 [] with vc := 1 } imported) { packet 0x10 [] with vc := 1 } (fun _ => true) = true := by decide

theorem wit_Transport_forwarding :
    let k := { packet 1 [1] with dst := 2 }
    let s := arrived k imported
    let e := { k with hops := 0 }
    let l := arrived e imported
    s.grp.en = true ∧ k.dst.val ≠ s.grp.self ∧ 0 < k.hops ∧ (s.frameIn 0 k).linkMode 0 ≠ 2 ∧ (s.frameIn 0 k).routeUp 2 = [1]
      ∧ ((s.frameIn 0 k).takeRx 0 k).isSome = true ∧ ((l.frameIn 0 e).takeRx 0 e).isSome = true
      ∧ (Tbl.get RateSt.off ({ s with time := { s.time with blk := 20000 } } : State).grp.rates 1).eceAt + 20000
          ≤ ({ s with time := { s.time with blk := 20000 } } : State).now := by decide

theorem wit_GroupAndCollectivesAct :
    let s := grouped { LinkPort.off with st := .up } imported
    let t := { s with time := { s.time with blk := 200000 } }
    let m := grouped { LinkPort.off with st := .up } fun g => { imported g with elected := true, stageEn := true, claiming := some 1 }
    let b := grouped { LinkPort.off with st := .up } fun g => { imported g with self := 2, live := 2, members := 6 }
    let k := packet 0x18 (List.replicate 21 0)
    s.grp.en = true ∧ comesTo (arrived k imported) k (fun _ => true) = true
      ∧ k.beat 0 0 0 0 = k ∧ (packet 0x1B []).addr = (BitVec.ofNat 52 (packet 0x1B []).addr).toNat
      ∧ s.grp.members.getLsbD 1 = true ∧ s.grp.term.toNat < (1 : BitVec 32).toNat
      ∧ t.grp.en = true ∧ t.atTick 20000 = true ∧ t.pollDue 4 20000 = true
      ∧ s.grp.live.getLsbD 1 = true ∧ Tbl.get 0 t.grp.heard 1 + 200000 ≤ t.now ∧ s.isManager = false
      ∧ m.isManager = true ∧ m.grp.distBusy = false ∧ (m.updGrp fun g => { g with distBusy := true }).grp.distBusy = true
      ∧ m.grp.stageEn = true ∧ m.grp.claiming = some 1
      ∧ s.mute (.clove 0) = false ∧ s.regCode (.clove 0) .grpCmd true .full = .okay
      ∧ (b.updGrp fun g => { g with heard := Tbl.set 0 g.heard 1 b.now, live := g.live ||| 2 }).lowestLive = some 1
      ∧ b.grp.granted ≠ some 1 := by decide

theorem wit_Group_barriers_and_collectives :
    let s := grouped { LinkPort.off with st := .up } fun g => { imported g with
      gbars := [(15, { Gbar.off with en := true, loc := 3, sent := some 1 })],
      colls := [(6, { Coll.off with st := .running, step := 2, len := 128, done := 1 }), (7, { Coll.off with st := .armed, id := 1 })] }
    (s.gbar 15).en = true ∧ (s.bar (s.gbar 15).loc).phase + 1 = 1 ∧ (s.gbar 15).sent = some 1
      ∧ s.regCode (.clove 0) (.collCmd 7) true .full = .okay ∧ (s.collOf 7).st ≠ .idle ∧ (s.collOf 0).st = .idle
      ∧ stackedBytes < 0x60_0000_0000 + 64 ∧ inSram 0x60_0000_0000 = false ∧ s.rangeWait 0x1000 64 false = none ∧ inSram 0xF000_0800_0000 = true
      ∧ collOk (s.collDesc 0x1000).2.1 0x1000 = false ∧ (s.collOf 6).st = .running ∧ (s.collOf 6).len ≤ (s.collOf 6).done * 128
      ∧ (s.collOf 6).step = 2 ∧ bitOf (s.collOf 6).sem 1 = false ∧ (s.collOf 6).irq = false := by decide

/-- The bytes of a collective descriptor at stacked address 0x1000: 128 bytes, one step of reduction (R453). -/
def collDram : Tbl Byte := [(0x1010, 0x80), (0x1017, 1)].foldl (fun m e => Tbl.set 0 m (devAddr cfg0 e.1) e.2) []

theorem wit_Collective_descriptor :
    let s := { base with mem := { base.mem with dram := collDram } }
    let d := s.collDesc 0x1000
    let bad := { s with mem := { s.mem with poison := [(devAddr cfg0 0x1000 / 128, 1)] } }
    s.rangeWait 0x1000 64 false = none ∧ collOk d.2.1 0x1000 = true ∧ d.2.2 = false ∧ le d.2.1 23 1 % 4 ≠ 0
      ∧ (∀ j < 8, (d.1.collOf j).st ≠ .idle → (d.1.collOf j).id ≠ le d.2.1 20 2)
      ∧ (bad.collDesc 0x1000).2.2 = true ∧ collOk (bad.collDesc 0x1000).2.1 0x1000 = true := by decide

/-! ## Errors, Caraway, boot, security, pins, registers, shape images. -/

theorem wit_ErrorsAreCountedLoggedAndContained :
    let s := base
    let full := s.updErr fun e => { e with write := 128 }
    let bad := s.updMem fun m => { m with tilePoison := [(0x8_0000 * 1 + 2, true)] }
    (detectorRow 0x11).isSome = true ∧ (detectorRow 0x43).isSome = true ∧ s.err.unread < 128 ∧ 128 ≤ full.err.unread
      ∧ 64 ≤ full.err.unread ∧ Tbl.get 0 s.err.thr (256 * 0x300 + 0x11) + 1 < (s.policy ⟨0x11, .c, 0, 0⟩).threshold
      ∧ bitOf (s.policy ⟨0x43, .u, 2, 2⟩).flags 0 = true ∧ (s.policy ⟨0x2F, .u, 4, 4⟩).action = 4
      ∧ 3 ≤ (s.policy ⟨0x2F, .u, 4, 4⟩).action ∧ s.servedParts 0 = [0]
      ∧ (0x100 : Nat) ≤ (0x300 : BitVec 16).toNat ∧ (1 : BitVec 16).toNat < 0x100
      ∧ Tbl.get false bad.mem.tilePoison (0x8_0000 * 1 + 0x13 % 0x40_0000 / 8) = true
      ∧ Tbl.get false s.mem.tilePoison (0x8_0000 * 1 + 0x13 % 0x40_0000 / 8) = false := by decide

theorem wit_Errors_commands :
    let s := base
    let a : Agent := .clove 0
    let arm := { under { cfg0 with debugLevel := 3 } with sec := { s.sec with level := 3 }, boot := s.boot }
    let w := s.updErr fun e => { e with wdtPeriod := [(7, 1)] }
    let k := under { cfg0 with counters := [(256 * 0x300 + 7, ⟨true, 2, 1, 3⟩)] }
    let l : SnapLatch := ⟨a, (k.cfg.counterOf 0x300 7).group, []⟩
    let h := k.updErr fun e => { e with latches := [l] }
    s.mute a = false ∧ arm.mute .debug = false ∧ s.regCode a .errPartHeld true .full = .okay
      ∧ s.regCode a .snapCmd true .full = .okay
      ∧ s.regCode a (.wdtKick 7) true .full = .okay ∧ arm.regCode .debug .injCtrl true .full = .okay ∧ field 0x20011 17 16 ≠ 3
      ∧ s.regCode a (.snapSeq 15) false .full = .okay ∧ Tbl.get 0 w.err.wdtPeriod 7 ≠ 0 ∧ Tbl.get 0 w.err.wdtDue 7 ≤ w.now
      ∧ unitListed 0x300 = true ∧ k.regCode a (.pmcSnap 0x300 7) false .full = .okay
      ∧ (k.cfg.counterOf 0x300 7).used = true ∧ bitOf (k.cfg.counterOf 0x300 7).flags 1 = true
      ∧ (k.cfg.counterOf 0x300 0).used = false
      ∧ k.err.latches.find? (fun l => l.agent == a && l.group == (k.cfg.counterOf 0x300 7).group) = none
      ∧ h.err.latches.find? (fun l => l.agent == a && l.group == (k.cfg.counterOf 0x300 7).group) = some l := by
  decide

theorem wit_Errors_injection_and_wrap :
    let s := { base with err := { base.err with injArmed := true, injMode := 1, injDet := 0x10, injUnit := 0x300,
                                                pmc := [(8 * 0x300 + 7, BitVec.ofNat 64 (2 ^ 48 - 1))] } }
    let t := { s with shape := { s.shape with cfg := { cfg0 with counters := [(256 * 0x300 + 7, ⟨true, 1, 1, 0⟩)] } } }
    s.injHit 0x10 0x300 5 = true ∧ 5 < stackedBytes / 128 ∧ base.injHit 0x10 0x300 5 = false
      ∧ (t.cfg.counterOf 0x300 7).used = true
      ∧ (Tbl.get 0 t.err.pmc (8 * 0x300 + 7)).toNat % 2 ^ 48 = 2 ^ 48 - 1
      ∧ (s.updErr fun e => { e with snapDue := 0x8000 }).err.snapDue.getLsbD 15 = true
      ∧ (s.updErr fun e => { e with snapNow := [(15, [])] }).err.snapNow = [(15, [])] := by decide

theorem wit_Errors_end_of_cycle :
    let w := base.updErr fun e => { e with wdtOut := 1 }
    let c := base.updErr fun e => { e with cntNow := [(0x12, 1, 0xFFFE)], cnt := [(0x12, 0xFFFF)] }
    base.err.reports = [] ∧ w.err.wdtOut = 1 ∧ base.err.wdtOut = 0 ∧ base.err.queue = [] ∧ base.err.cntNow = []
      ∧ base.err.injEnd = false ∧ base.err.pmcNow = [] ∧ base.err.policyOld = none
      ∧ Tbl.get (0, 0) c.err.cntNow 0x12 = (1, 0xFFFE) := by decide

/-- R509: two detections of one HK cycle are recorded by (DETECTOR, UNIT), whichever command came first. -/
theorem test_records_of_one_cycle :
    let t := ((base.handle ⟨0x3C, 9, 0, 0, false, false, false⟩).handle ⟨0x3C, 4, 0, 0, false, false, false⟩).errTick
    (Tbl.get LogRec.off t.err.log 0).unit = 4 ∧ (Tbl.get LogRec.off t.err.log 0).count = 1
      ∧ (Tbl.get LogRec.off t.err.log 1).unit = 9 ∧ (Tbl.get LogRec.off t.err.log 1).count = 2 := by decide

/-- R521: the count that reaches its maximum in the HK cycle of a clearing read raises nothing. -/
theorem test_count_read_as_it_saturates :
    let s := (base.updErr fun e => { e with cnt := [(0x3C, 0xFFFE)] }).handle ⟨0x3C, 9, 0, 0, false, false, false⟩
    let t := (s.updErr fun e => e.cntClear 0x3C).errTick
    s.err.cntRead 0x3C = 0xFFFE ∧ Tbl.get 0 t.err.cnt 0x3C = 1 ∧ Tbl.get 0 t.err.cnt 0x41 = 0
      ∧ Tbl.get 0 s.errTick.err.cnt 0x41 = 1 := by decide

/-- R511: a full log loses the record and sets OVERFLOW. -/
theorem test_log_overflow :
    let t := ((base.updErr fun e => { e with write := 128 }).handle ⟨0x31, 0x491, 0, 0, false, false, false⟩).errTick
    t.err.lost = 1 ∧ t.err.overflow = true ∧ t.err.write = 128 := by decide

/-- A block whose records are on, with one record waiting at page 1. -/
def car (c : CarSt → CarSt) : State :=
  base.updCar fun x => c { x with recEn := true, recBlocks := 4, page := 1, mj := 150, holdupAt := some 0, mayStart := true, recs := [⟨1, false, [], 0, 0⟩] }

theorem wit_CarawayRecordsAndTelemetryAct :
    let s := car id
    let a : Agent := .clove 0
    let low := car fun c => { c with mj := 149, mayStart := false }
    let ms := { s with time := { s.time with blk := 200000 } }
    let p := car fun c => { c with op := .program 0 1 [1, 2] false }
    let e := car fun c => { c with op := .erase 3, ageDue := 0, recs := [] }
    let h := car fun c => { c with latches := [⟨a, 2, []⟩] }
    s.mute .board = false ∧ s.regCode .board .carHoldup true .full = .okay ∧ s.car.op = .idle ∧ s.appliedUnit 0x492 = false
      ∧ s.car.recEn = true ∧ s.car.recBlocks ≠ 0
      ∧ s.car.copies = [] ∧ s.car.held = [] ∧ s.car.recs = [⟨1, false, [], 0, 0⟩] ∧ s.flashMay = true ∧ s.car.page % 16 ≠ 0
      ∧ low.flashMay = false ∧ low.car.deferred = false ∧ p.car.op = .program 0 1 [1, 2] false ∧ e.car.op = .erase 3
      ∧ e.car.ageDue ≤ e.now ∧ ms.atTick 200000 = true ∧ ms.pollDue 3 200000 = true ∧ s.mute a = false ∧ s.teleHeld a 2 = none
      ∧ h.teleHeld a 2 = some ⟨a, 2, []⟩ ∧ s.regCode a (.telemetry 2 0) false .full = .okay
      ∧ s.regCode a (.telemetry 2 31) false .full = .okay := by decide

theorem wit_Caraway_canary :
    let s := vlt trained base.mem
    let z := under { cfg0 with budget := { cfg0.budget with vault := 0 } }
    z.nextSlot 0 = some 0 ∧ z.slotLeft 0 0 = false ∧ s.nextSlot 0 = some 0 ∧ s.slotLeft 0 0 = true
      ∧ s.vaultTakes 0 12582911 = true ∧ s.marked (vaultLines * 0 + 12582911) = false
      ∧ Tbl.get [] s.mem.rawErr (vaultLines * 0 + 12582911) = [] := by decide

theorem wit_Caraway_budget :
    let s := { car fun c => { c with recs := [], cloveCount := 1000000000, ageDue := 0 } with time := { base.time with blk := 20000000 } }
    s.car.winStart + 20000000 ≤ s.now ∧ s.car.recs = [] ∧ s.budgetLeft = false ∧ s.car.ageDue ≤ s.now := by decide

theorem test_record_is_programmed :
    (match exec .recordWrite (car id) with
     | .next t => t.car.seq == 1 && t.car.recs == [] && t.car.op != .idle
     | _ => false) = true := by decide

theorem wit_ResetBootAndSecurityAct_reset :
    State.reset.boot.st = .reset ∧ State.reset.boot.released = false
      ∧ ({ State.reset with boot := { State.reset.boot with released := true } } : State).boot.released = true
      ∧ (99 : Nat) < 100 ∧ 100 ≤ (100 : Nat) := by decide

/-- A boot directory at offset 0 of the flash: magic, revision and CRC (R529). -/
def directory : List Byte :=
  let d := natToBytes 0xB007D12E 4 ++ natToBytes 1 2 ++ List.replicate 246 0
  d ++ natToBytes (crc32c d) 4

/-- A block in the boot ROM. -/
def rom (b : BootSt → BootSt) : State := { base with boot := b { base.boot with st := .rom, pufOk := true, dirRead := true } }

theorem wit_ResetBootAndSecurityAct_rom :
    (rom fun b => { b with pufOk := false }).boot.pufOk = false ∧ (rom id).boot.st = .rom ∧ (rom id).boot.pufOk = true
      ∧ (rom fun b => { b with dirRead := false }).boot.dirRead = false
      ∧ (rom fun b => { b with scanDone := true, planDone := true }).boot.scanDone = true ∧ (rom id).boot.scanDone = false := by
  decide

theorem wit_ResetBoot_directory :
    (({ rom (fun b => { b with dirRead := false }) with mem := { base.mem with
        flash := directory.zipIdx.map fun p => (p.2, p.1) } } : State).bootDir).isSome = true := by decide +kernel

theorem wit_ResetBootAndSecurityAct_security :
    let sec (f : SecSt → SecSt) : State := { base with sec := f base.sec }
    let a : Agent := .clove 0
    (sec fun y => { y with fuseOp := .fwFloor 3 }).sec.fuseOp = .fwFloor 3 ∧ (sec fun y => { y with fuseOp := .revoke 1 }).sec.fuseOp = .revoke 1
      ∧ (sec fun y => { y with fuseOp := .shapeFloor 3 }).sec.fuseOp = .shapeFloor 3
      ∧ (sec fun y => { y with level := 2 }).sec.level ≠ 0 ∧ (sec fun y => { y with level := 2 }).sec.expiry.toNat ≤ base.now
      ∧ (sec fun y => { y with signBusy := true, aliasKey := some [1] }).sec.signBusy = true ∧ base.sec.signNew = false
      ∧ (sec fun y => { y with dbgBusy := true }).sec.dbgBusy = true ∧ (sec fun y => { y with dbgBusy := true }).injHit 0x3A 0x494 0 = false
      ∧ base.mute a = false ∧ base.regCode a .blkCtrl true .full = .okay ∧ base.regCode a .secFuseCmd true .full = .okay
      ∧ base.regCode a .dbgCmd true .full = .okay ∧ base.regCode a .signCmd true .full = .okay
      ∧ base.readyTick.boot.readyCond ≠ 0 ∧ base.sec.signBusy = false ∧ base.sec.aliasKey = none := by decide

/-- A block all of whose boot work is done. -/
theorem wit_ResetBoot_ready :
    ({ base with boot := { base.boot with st := .memory, scanDone := true, planDone := true }, commit := { base.commit with epoch := 1 },
                 sec := { base.sec with locked := true },
                 vlt := (List.range 256).map fun v => (v, trained) } : State).readyTick.boot.readyCond = 0 := by decide

theorem wit_PinsTimeAndRegisterAccessesAct :
    let s := { base with boot := { base.boot with released := true }, clk := { base.clk with rootLocked := true, mult := 96 } }
    let a : Agent := .clove 0
    s.pins.refclkOk = true ∧ s.boot.released = true ∧ s.clk.rootLocked = true ∧ s.clk.relock = false
      ∧ s.time.blk.toNat + (s.time.rem + 1013760 / max 1 s.clk.mult) / 10560 < 2 ^ 64 ∧ ([1, 2, 3, 4] : List Byte).length = 4
      ∧ placeAt 0xFFF_FFF8 .full = none ∧ placeAt 0 .full = some (.reg .blkVersion) ∧ s.regCode a .blkCtrl true .full = .okay
      ∧ s.regCode .board .blkCtrl true .full ≠ .okay ∧ s.regCode a .blkVersion false .full = .okay
      ∧ s.mute a = false ∧ s.mute (.host 0 0) = true ∧ (hosts cfg0 (holding cfg0)).mute (.host 0 0) = false
      ∧ hostOffset (.host 0 0) true 0x200 = none ∧ hostOffset (.host 0 0) true 0xFF = some 0x80_10FF
      ∧ hostOffset a false 0xFFF_FFF8 = some 0xFFF_FFF8
      ∧ s.regCode (.monitor 0) .clkStg false .full ≠ .okay := by decide

theorem wit_ShapeImagesAndCommitsAct_load :
    let s := base
    let v := { s with shape := { s.shape with st := .verifying } }
    let w := { s with shape := { s.shape with st := .verifying, srcAddr := 0x2000, srcLen := 4944 }, l2 := [] }
    s.mute (.clove 0) = false ∧ s.regCode (.clove 0) .shpCmd true .full = .okay ∧ s.commit.active = false ∧ s.shape.st = .idle
      ∧ v.shape.st ≠ .idle ∧ v.shape.st = .verifying ∧ v.injHit 0x39 0x494 0 = false ∧ v.recovering = false
      ∧ decide (4944 ≤ v.shape.srcLen) = false ∧ 4944 % 16 = 0 ∧ w.shape.srcAddr + 4944 ≤ stackedBytes
      ∧ (w.rangeWait w.shape.srcAddr 4944 false).isSome = true ∧ w.rangeWait 0x1000 0x1000 false = none := by decide

/-- R42: an image whose length is none of the allowed ones fails, and detector 0x39 is reported. -/
theorem test_short_image_fails :
    (match exec .shapeLoadDone { base with shape := { base.shape with st := .verifying } } with
     | .next t => t.shape.result != 0 && t.shape.st == .idle && Tbl.get 0 t.err.cnt 0x39 == 1
     | _ => false) = true := by decide

/-- A running commit with participant 0 and a deadline. -/
def committing (acked : List Nat) (deadline : Nat) : State :=
  { base with commit := { base.commit with active := true, parts := [0], acked := acked, deadline := deadline } }

theorem wit_ShapeImagesAndCommitsAct_commit :
    let s := committing [] 10
    let staged := base.updCore 5 fun w => { w with fpStg := 1, fpPend := true }
    let a : Agent := .clove 0
    base.mute a = false ∧ base.regCode a .modeCommit true .full = .okay ∧ s.regCode a .modeCommit true .full = .okay ∧ s.commit.active = true
      ∧ base.participants = [] ∧ base.shape.staged = none ∧ staged.participants ≠ [] ∧ staged.commit.active = false
      ∧ 0 ∈ s.commit.parts ∧ 0 ∉ s.commit.acked ∧ 0 ∉ s.commit.withheld ∧ s.now < s.commit.deadline ∧ s.boundary 0 = true
      ∧ s.injHit 0x3B 0 0 = false ∧ s.commit.withOp = false ∧ (∀ u ∈ (committing [0] 10).commit.parts, u ∈ (committing [0] 10).commit.acked)
      ∧ (∃ u ∈ (committing [] 0).commit.parts, u ∉ (committing [] 0).commit.acked) ∧ (committing [] 0).commit.deadline ≤ (committing [] 0).now
      ∧ base.regCode a (.wrkFpStg 255) true .full = .okay := by decide

theorem wit_ShapeImages_withheld :
    (State.updErr (committing [] 10) fun e => { e with injArmed := true, injMode := 1, injDet := 0x3B, injUnit := 0 }).injHit 0x3B 0 0 = true := by
  decide

end Sys2Proof.Tests
end

/-! The block at reset, and the pins, time and register window: the laws of their operations, and the statements O3 and
O59. -/

namespace Sys2Proof.Machine

/-! ## The block at reset. -/

/-- Where no mailbox channel is configured, no doorbell is pending (R431). -/
theorem doorbell_of_mbx_nil {s : State} (h : s.cfg.mbx = []) (code : Nat) : s.doorbell code = false := by
  have pend : s.dbPend code = 0 := by simp [State.dbPend, h]
  simp [State.doorbell, pend]

/-- No agent has a doorbell pending at reset. -/
theorem reset_doorbell (code : Nat) : State.reset.doorbell code = false := doorbell_of_mbx_nil rfl code

/-- The error unit has nothing to handle at reset, and no doorbell is up that nobody has seen (R431, R509). -/
theorem reset_settled : State.reset.Settled :=
  ⟨rfl, rfl, fun _ _ _ _ => (reset_doorbell _).symm, (reset_doorbell _).symm⟩

/-- Settles O3: no channel is configured at reset, so that no doorbell is pending, and every memory is the empty table,
which is the model's choice of log 7. -/
theorem settledAtReset : Obligations.SettledAtReset :=
  ⟨reset_settled, rfl, reset_mem_wf, rfl, rfl, rfl⟩

/-! ## What a command leaves. -/

/-- A command leaves what a law of its effect says. -/
theorem finish_eq {s e t : State} (h : e = t) : finish s e = .next (s.after t) := h ▸ finish_after s e

/-! ## Pins. -/

section Pins

variable (s : State)

/-- Hold-up asks every quadrant for level 8 (R475, R553). -/
theorem holdupLow_holdLevel (q : Nat) : s.holdupLow.holdLevel q = max 8 (s.holdLevel q) := by
  have bound : (if s.pins.holdupLow || Tbl.get false s.nut.droopHold q then 8 else 0) ≤ 8 := by split <;> decide
  calc s.holdupLow.holdLevel q
      = max s.nut.capLevel (max (if s.nut.hot90 then 4 else 0)
          (max (if s.nut.protect then 4 else 0) (max s.nut.marginLevel 8))) := rfl
    _ = max 8 (s.holdLevel q) := by
      simp only [State.holdLevel, Nat.max_left_comm 8, Nat.max_eq_left bound]

/-- A loss of a reference that was there leaves the root PLL in holdover (R551). -/
theorem refclkLoss_of_ok (h : s.pins.refclkOk = true) :
    s.refclkLoss = State.raise { s with pins := { s.pins with refclkOk := false } } 0x2E 0x490 0 0 := by
  simp [State.refclkLoss, h]

/-- THERM_CRIT_N stays asserted, and is asserted where a spine sensor has reached 110 °C (R566). -/
theorem critCompare_eq (spine : List Nat) :
    s.critCompare spine = { s with pins := { s.pins with
      critOut := s.pins.critOut || (spine.take 4).any fun t => decide (110 ≤ t) } } := by
  cases h : (spine.take 4).any fun t => decide (110 ≤ t) <;> simp [State.critCompare, h]

/-- A packet of the MCTP type is handed to firmware once the boot sequence has begun (R526, R562). -/
theorem i3cPacket_mctp (h : s.boot.released = true) (bs : List Byte) :
    s.i3cPacket (0x01 :: bs) = { s with pins := { s.pins with mctp := s.pins.mctp ++ [0x01 :: bs] } } := by
  simp [State.i3cPacket, h]

/-- A read over I3C is the board controller's read of the offset, whose code and data go out (R562). -/
theorem i3cAccess_read (h : s.boot.released = true) {off : List Byte} (len : off.length = 4) :
    let r := s.offRead .board (bytesToNat off) .full
    let t := r.2.2.reply r.1 r.2.1
    s.i3cAccess ([0xA5, 0x01] ++ off)
      = { t with pins := { t.pins with i3cOut := BitVec.ofNat 8 (busInfo r.1) :: natToBytes r.2.1.toNat 8 } } := by
  have whole : off.take 4 = off := List.take_of_length_le (by omega)
  simp [State.i3cAccess, h, len, whole]

/-- BLK_FAIL_N is low in the two states of failure (R566). -/
theorem blkFailN_low_iff : s.blkFailN = false ↔ s.boot.st = .failed ∨ s.boot.st = .romFail := by
  simp only [State.blkFailN, BlkState.fails, Bool.not_eq_false', Bool.or_eq_true, beq_iff_eq]

/-- PIPE_RESET_N is high for a port that is enabled and not isolated (R557). -/
theorem pipeResetN_iff (h : Nat) :
    s.pipeResetN h = true ↔ (s.cfg.hostOf h).enable = 1 ∧ (s.hostPort h).isolated = false := by
  simp [State.pipeResetN, State.hostEnabled]

end Pins

/-! ## Test access port (R567). -/

section Tap

variable (p : PinSt) (tms tdi : Bool)

@[simp] theorem tckRise_tap : (p.tckRise tms tdi).tap = tapNext p.tap tms := rfl

/-- TDO changes on falling edges alone. -/
@[simp] theorem tckRise_tdo : (p.tckRise tms tdi).tdo = p.tdo := by
  unfold PinSt.tckRise
  cases p.tap <;> rfl

/-- In Shift-DR a rising edge takes TDI in at the end of the data register. -/
theorem tckRise_shiftDr (h : p.tap = .shiftDr) : (p.tckRise tms tdi).tapDr = p.tapDr.drop 1 ++ [tdi] := by
  simp [PinSt.tckRise, h]

/-- In Capture-DR a rising edge loads the register that the instruction selects. -/
theorem tckRise_captureDr (h : p.tap = .captureDr) : (p.tckRise tms tdi).tapDr = p.capture := by
  simp [PinSt.tckRise, h]

/-- Instruction 1 selects the identification register (log 9). -/
theorem capture_idcode (h : p.tapIr = 1) : p.capture = (List.range 32).map (bitOf 0x00902A37) := by
  simp [PinSt.capture, idCode, h]

end Tap

/-! ## Time (R22, R25). -/

/-- BLK_TIME takes the whole units of 5 ns, and the parts of one remain. -/
theorem blkAdd_time (s : State) (parts : Nat) :
    (s.blkAdd parts).time = { s.time with
      blk := BitVec.ofNat 64 (s.time.blk.toNat + (s.time.rem + parts) / 10560), rem := (s.time.rem + parts) % 10560 } := by
  unfold State.blkAdd
  dsimp only
  split <;> rfl

/-- An HK cycle with ROOT locked adds its 96 / MULT units to BLK_TIME and 12 CORE cycles where CORE runs. -/
theorem timeAdvance_time {s : State} (locked : s.clk.rootLocked = true) (steady : s.clk.relock = false)
    (h : s.time.blk.toNat + (s.time.rem + 1013760 / max 1 s.clk.mult) / 10560 < 2 ^ 64) :
    let t := s.timeAdvance.time
    t.blk.toNat = s.time.blk.toNat + (s.time.rem + 1013760 / max 1 s.clk.mult) / 10560
      ∧ t.rem = (s.time.rem + 1013760 / max 1 s.clk.mult) % 10560 ∧ t.hk = s.time.hk + 1
      ∧ t.core = (if s.coreClock then s.time.core + 12 else s.time.core) := by
  simp only [State.timeAdvance, locked, steady, Bool.false_eq_true, Bool.not_true, or_self, if_false, updCar_time,
    blkAdd_time, BitVec.toNat_ofNat, Nat.mod_eq_of_lt h, and_self]

/-! ## The register window (R10, R13, R420). -/

section Window

variable {s : State} {a : Agent} {page : Bool} {off : BitVec 28} {o : Nat} {w : Width} {r : Reg}

theorem regWrite_okay (h : s.regCode a r true w = .okay) (val : W64) :
    s.regWrite a r w val = (.okay, s.regPut a r w val) := by
  simp [State.regWrite, h]

theorem regWrite_refused (h : s.regCode a r true w ≠ .okay) (val : W64) :
    s.regWrite a r w val = (s.regCode a r true w, s) := by
  unfold State.regWrite
  split
  · contradiction
  · rfl

theorem regRead_okay (h : s.regCode a r false w = .okay) :
    s.regRead a r w = (.okay, s.regVal a r &&& w.mask, s.regReadEffect a r w) := by
  simp [State.regRead, h]

theorem regRead_refused (h : s.regCode a r false w ≠ .okay) : s.regRead a r w = (s.regCode a r false w, 0, s) := by
  unfold State.regRead
  split
  · contradiction
  · rfl

theorem offWrite_nowhere (h : placeAt o w = none) (val : W64) : s.offWrite a o w val = (.decode, s) := by
  simp [State.offWrite, h]

theorem offWrite_reg (h : placeAt o w = some (.reg r)) (val : W64) : s.offWrite a o w val = s.regWrite a r w val := by
  simp [State.offWrite, h]

theorem offRead_nowhere (h : placeAt o w = none) : s.offRead a o w = (.decode, 0, s) := by
  simp [State.offRead, h]

theorem offRead_reg (h : placeAt o w = some (.reg r)) : s.offRead a o w = s.regRead a r w := by
  simp [State.offRead, h]

/-- A write by an agent that can make no access changes nothing (R102, R411, R473). -/
theorem exec_registerWrite_mute (h : s.mute a = true) (val : W64) :
    exec (.registerWrite a ⟨page, off⟩ w val) s = .next (s.after s) := by
  show execRegisterWrite a ⟨page, off⟩ w val s = _
  simp [execRegisterWrite, h, finish_after]

theorem exec_rcRead_mute (h : s.mute a = true) : exec (.rcRead a ⟨page, off⟩ w) s = .next (s.after s) := by
  show execRcRead a ⟨page, off⟩ w s = _
  simp [execRcRead, h, finish_after]

/-- An access of a host function outside its page and its window gets DECODE (R415). -/
theorem exec_registerWrite_outside (hm : s.mute a = false) (ho : hostOffset a page off.toNat = none) (val : W64) :
    exec (.registerWrite a ⟨page, off⟩ w val) s = .next (s.after (s.reply .decode 0)) := by
  show execRegisterWrite a ⟨page, off⟩ w val s = _
  simp [execRegisterWrite, hm, ho, finish_after]

theorem exec_rcRead_outside (hm : s.mute a = false) (ho : hostOffset a page off.toNat = none) :
    exec (.rcRead a ⟨page, off⟩ w) s = .next (s.after (s.reply .decode 0)) := by
  show execRcRead a ⟨page, off⟩ w s = _
  simp [execRcRead, hm, ho, finish_after]

/-- An access that reaches a block offset answers with the code of that offset. -/
theorem exec_registerWrite_at (hm : s.mute a = false) (ho : hostOffset a page off.toNat = some o) {val : W64}
    {c : BusResp} {t : State} (h : s.offWrite a o w val = (c, t)) :
    exec (.registerWrite a ⟨page, off⟩ w val) s = .next (s.after (t.reply c 0)) := by
  show execRegisterWrite a ⟨page, off⟩ w val s = _
  simp [execRegisterWrite, hm, ho, h, finish_after]

theorem exec_rcRead_at (hm : s.mute a = false) (ho : hostOffset a page off.toNat = some o)
    {c : BusResp} {d : W64} {t : State} (h : s.offRead a o w = (c, d, t)) :
    exec (.rcRead a ⟨page, off⟩ w) s = .next (s.after (t.reply c d)) := by
  show execRcRead a ⟨page, off⟩ w s = _
  simp [execRcRead, hm, ho, h, finish_after]

end Window

/-! ## Pins, time and the register window. -/

/-- Settles O59: each pin event is the law of its operation, an HK cycle is `timeAdvance_time`, and a register access is told
by whether anything hears the agent, where its offset lies, what stands there and what right the agent has to it. -/
theorem pinsTimeAndRegisterAccessesAct : Obligations.PinsTimeAndRegisterAccessesAct := by
  intro s
  refine ⟨⟨s.holdupLow, rfl, rfl, rfl, rfl, holdupLow_holdLevel s⟩, rfl,
    fun ok => finish_eq (refclkLoss_of_ok s ok), rfl, fun spine => finish_eq (critCompare_eq s spine),
    fun bs released => finish_eq (i3cPacket_mctp s released bs),
    fun off released len => ⟨_, finish_eq (i3cAccess_read s released len), rfl, rfl, rfl⟩,
    fun tms tdi => ⟨fun _ => rfl, ?tap⟩, blkFailN_low_iff s, pipeResetN_iff s, fun _ _ => rfl, fun slow => ?slow,
    fun fast => ?fast, fun failed => ?highZ, fun _ => rfl, fun locked steady inRange => ⟨s.timeAdvance, rfl, timeAdvance_time locked steady inRange⟩,
    fun a page off w val => ⟨fun mute => ?mute, fun heard => ⟨fun outside => ?outside, fun o inside =>
      ⟨fun nowhere => ?nowhere, fun r place => ?reg⟩⟩⟩⟩
  case tap =>
    exact ⟨{ s with pins := s.pins.tckRise tms tdi }, rfl, tckRise_tap .., tckRise_tdo .., tckRise_shiftDr s.pins tms tdi,
      fun capture ir => (tckRise_captureDr s.pins tms tdi capture).trans (capture_idcode s.pins ir)⟩
  case slow => simp [State.xspiDiv, slow]
  case fast => simp [State.xspiDiv, fast]
  case highZ => simp [State.xspiHighZ, failed]
  case mute => exact ⟨exec_registerWrite_mute mute val, exec_rcRead_mute mute⟩
  case outside => exact ⟨exec_registerWrite_outside heard outside val, exec_rcRead_outside heard outside⟩
  case nowhere =>
    exact ⟨exec_registerWrite_at heard inside (offWrite_nowhere nowhere val),
      exec_rcRead_at heard inside (offRead_nowhere nowhere)⟩
  case reg =>
    refine ⟨fun may => ?_, fun mayNot => ?_, fun may => ?_, fun mayNot => ?_⟩
    · exact exec_registerWrite_at heard inside ((offWrite_reg place val).trans (regWrite_okay may val))
    · exact exec_registerWrite_at heard inside ((offWrite_reg place val).trans (regWrite_refused mayNot val))
    · exact exec_rcRead_at heard inside ((offRead_reg place).trans (regRead_okay may))
    · exact exec_rcRead_at heard inside ((offRead_reg place).trans (regRead_refused mayNot))

end Sys2Proof.Machine

/-! Commands of privileged channels and writes of barrier registers: the laws of their operations, and the statement
O42. -/

namespace Sys2Proof.Machine

section PrivilegedCommands

variable {s t : State} {a : Agent} {src : StreamSrc} {d : PrivDesc}

/-- A descriptor that starts runs from its first byte. -/
theorem startJob_desc (s : State) (src : StreamSrc) (d : PrivDesc) (fromShadow : Bool) :
    s.startJob src (.desc d) fromShadow
      = s.updChan src fun c => { c.begin (.desc d) .running with fromShadow := fromShadow } := by
  cases src <;> rfl

/-- The owner check comes first (R301, R304). -/
theorem privGo_notOwner (own : s.ownerCode a src ≠ 0) (rearm : Bool) :
    s.privGo a src rearm = .ok (s.ownerCode a src, s) := by
  simp [State.privGo, own]

/-- START finds its channel running (R304). -/
theorem privGo_busy (own : s.ownerCode a src = 0) (busy : (s.chanOf src).st ≠ .idle) :
    s.privGo a src false = .ok (1, s) := by
  simp [State.privGo, own, busy, firstCode]

/-- An idle channel whose engine holds a commit's new setting keeps the command waiting (R71 step 4). -/
theorem privGo_held (own : s.ownerCode a src = 0) (idle : (s.chanOf src).st = .idle)
    (held : s.appliedUnit src.unit = true) (rearm : Bool) : s.privGo a src rearm = .error s := by
  simp [State.privGo, own, idle, held, firstCode]

/-- No descriptor can be read: code 3. -/
theorem privGo_noDesc (own : s.ownerCode a src = 0) (idle : (s.chanOf src).st = .idle)
    (free : s.appliedUnit src.unit = false) (desc : s.readDesc src = .ok (none, t)) (rearm : Bool) :
    s.privGo a src rearm = .ok (3, t) := by
  simp [State.privGo, own, idle, free, desc, firstCode]

/-- Whether the partition of a source's core is held, which refuses a start with code 7. -/
def State.srcHeld (s : State) (src : StreamSrc) : Bool :=
  match src.core? with
  | some n => (match s.partOf n with | some p => s.partHeld p | none => false)
  | none => false

theorem srcHeld_eq_false (h : ∀ m p, src.core? = some m → s.partOf m = some p → s.partHeld p = false) :
    s.srcHeld src = false := by
  unfold State.srcHeld
  split
  · split
    · exact h _ _ ‹_› ‹_›
    · rfl
  · rfl

/-- A START or REARM of an idle channel starts the descriptor (R289, R304). -/
theorem privGo_idle (own : s.ownerCode a src = 0) (idle : (s.chanOf src).st = .idle)
    (free : s.appliedUnit src.unit = false) (desc : s.readDesc src = .ok (some d, t))
    (part : s.srcHeld src = false) (rearm : Bool) :
    s.privGo a src rearm = .ok (0, t.startJob src (.desc d) false) := by
  simp [State.privGo, own, idle, free, desc, firstCode]
  exact part

/-- A REARM of a channel that runs, and has no shadow, makes the descriptor its shadow (R289). -/
theorem privGo_shadow (own : s.ownerCode a src = 0) (busy : (s.chanOf src).st ≠ .idle)
    (noShadow : (s.chanOf src).shadow = .none) (ends : (s.chanOf src).st ≠ .aborting)
    (free : s.appliedUnit src.unit = false) (desc : s.readDesc src = .ok (some d, t)) (part : s.srcHeld src = false) :
    s.privGo a src true = .ok (0, t.updChan src fun c => { c with shadow := .desc d }) := by
  simp [State.privGo, own, busy, noShadow, ends, free, desc, firstCode]
  exact part

/-- START, REARM and STOP are the values 1, 2 and 3 of the command register (R304). -/
theorem exec_privChannelStart (heard : s.mute a = false) (may : s.regCode a (.chCmd src) true .full = .okay) :
    exec (.privChannelStart a src) s = .next (s.after ((s.privCmd a src 1).reply .okay 0)) :=
  finish_eq (regCmd_okay heard may 1)

theorem exec_privChannelRearm (heard : s.mute a = false) (may : s.regCode a (.chCmd src) true .full = .okay) :
    exec (.privChannelRearm a src) s = .next (s.after ((s.privCmd a src 2).reply .okay 0)) :=
  finish_eq (regCmd_okay heard may 2)

theorem exec_privChannelStop (heard : s.mute a = false) (may : s.regCode a (.chCmd src) true .full = .okay) :
    exec (.privChannelStop a src) s = .next (s.after ((s.privCmd a src 3).reply .okay 0)) :=
  finish_eq (regCmd_okay heard may 3)

theorem privCmd_start {code : Nat} (h : s.privGo a src false = .ok (code, t)) :
    s.privCmd a src 1 = t.updChan src fun c => { c with result := code } := by
  simp [State.privCmd, h]

theorem privCmd_rearm {code : Nat} (h : s.privGo a src true = .ok (code, t)) :
    s.privCmd a src 2 = t.updChan src fun c => { c with result := code } := by
  simp [State.privCmd, h]

theorem privCmd_start_waits (h : s.privGo a src false = .error t) : s.privCmd a src 1 = t := by
  simp [State.privCmd, h]

theorem privCmd_rearm_waits (h : s.privGo a src true = .error t) : s.privCmd a src 2 = t := by
  simp [State.privCmd, h]

end PrivilegedCommands

/-! ## A write of BAR_CTL (R298, R305). -/

/-- EN takes its bit, PART is written while EN = 0, clearing EN with arrivals pending breaks the barrier, and setting it
starts afresh. -/
theorem barCtl_eq (s : State) (b : Nat) (val : W64) :
    let en := val.getLsbD 0
    s.barCtl b val = s.updBar b fun x =>
      { x with en := en, part := if x.en then x.part else field val.toNat 19 16,
               broken := if x.en && !en then x.broken || x.arrived != 0 else if !x.en && en then false else x.broken,
               arrived := if !x.en && en then 0 else x.arrived } := by
  refine congrArg (s.updBar b) (funext fun x => ?_)
  obtain ⟨mem, part, en, broken, phase, arrived⟩ := x
  cases en <;> cases val.getLsbD 0 <;> simp

theorem exec_barCtlWrite {s : State} {a : Agent} {b : BarId} (heard : s.mute a = false)
    (may : s.regCode a (.barCtl b) true .full = .okay) (val : W64) :
    exec (.barCtlWrite a b val) s = .next (s.after ((s.barCtl b val).reply .okay 0)) :=
  finish_eq (regCmd_okay heard may val)

/-- Settles O42: each command is what `privGo` answers in its case, and `barCtl_eq` says all that a write of BAR_CTL
changes. -/
theorem privilegedChannelsAndBarriersObeyTheirRegisters : Obligations.PrivilegedChannelsAndBarriersObeyTheirRegisters := by
  intro a s heard
  refine ⟨fun src may => ?channel, fun b val may => ?barrier⟩
  case channel =>
    have start := exec_privChannelStart heard may
    have rearm := exec_privChannelRearm heard may
    refine ⟨exec_privChannelStop heard may, fun notOwner => ⟨?_, ?_⟩, fun own busy => ?_, fun own idle held i hi => ?_,
      fun t own free => ⟨fun desc idle i hi => ?_, fun d desc part => ?_⟩⟩
    · rw [start, privCmd_start (privGo_notOwner notOwner false)]
    · rw [rearm, privCmd_rearm (privGo_notOwner notOwner true)]
    · rw [start, privCmd_start (privGo_busy own busy)]
    · have waits := privGo_held own idle held
      simp only [List.mem_cons, List.not_mem_nil, or_false] at hi
      obtain rfl | rfl := hi
      · rw [start, privCmd_start_waits (waits false)]
      · rw [rearm, privCmd_rearm_waits (waits true)]
    · have refused := privGo_noDesc own idle free desc
      simp only [List.mem_cons, List.not_mem_nil, or_false] at hi
      obtain rfl | rfl := hi
      · rw [start, privCmd_start (refused false)]
      · rw [rearm, privCmd_rearm (refused true)]
    · have notHeld := srcHeld_eq_false part
      refine ⟨fun idle => ⟨?_, ?_⟩, fun busy noShadow ends => ?_⟩
      · rw [start, privCmd_start (privGo_idle own idle free desc notHeld false), startJob_desc]
      · rw [rearm, privCmd_rearm (privGo_idle own idle free desc notHeld true), startJob_desc]
      · rw [rearm, privCmd_rearm (privGo_shadow own busy noShadow ends free desc notHeld)]
  case barrier =>
    refine ⟨s.barCtl b val, exec_barCtlWrite heard may val, ?_⟩
    rw [barCtl_eq]
    simp only [bar_updBar_self, and_true]
    rfl

end Sys2Proof.Machine

/-! Class 0x1C: the laws of the stream, semaphore and barrier instructions, and the statement O39. -/

namespace Sys2Proof.Machine

/-! ## Folds and codes. -/

/-- What every step of a fold keeps, the fold keeps. -/
theorem foldl_keeps {α β γ : Type} (g : α → γ) {f : α → β → α} (h : ∀ a b, g (f a b) = g a) (l : List β) (a : α) :
    g (l.foldl f a) = g a :=
  List.foldlRecOn l f (motive := fun t => g t = g a) rfl fun t ht b _ => (h t b).trans ht

@[simp] theorem firstCode_nil : firstCode [] = 0 := rfl

@[simp] theorem firstCode_cons (b : Bool) (c : Nat) (cs : List (Bool × Nat)) :
    firstCode ((b, c) :: cs) = if b then c else firstCode cs := by
  cases b <;> rfl

/-! ## Class 0x1C (R300, R301). -/

section SyncInstructions

variable {s : State} {n : Core} {rd ra rb : SReg}

/-- The instruction answers a code in rd, from the state its effect leaves. -/
abbrev State.answers (s : State) (n : Core) (rd : SReg) (t : State) (code : Nat) : Out :=
  .next (s.after ((t.setSreg n rd (BitVec.ofNat 64 code)).retire n))

/-- The instruction has issued and waits. -/
abbrev State.waitsIssued (s : State) (n : Core) : Out :=
  .next (s.after (s.updCore n fun w => { w with issued := true }))

/-- An instruction of class 0x1C of a ready core ends as its body says. -/
theorem sync_ready (h : s.ready n = true) (op : Nat) (body : State → Res) :
    finish s (s.syncInstr n rd ra rb op body) = .next (s.after (s.ends n (body s))) :=
  finish_eq (instr_body h _ rfl body)

/-! ### Starts from a block of tile memory. -/

theorem tileFind_wrk (s : State) (n off len : Nat) : (s.tileFind n off len).wrk = s.wrk := by
  unfold State.tileFind
  split
  · rfl
  · refine foldl_keeps State.wrk (fun t w => ?_) _ _
    rfl

/-- Reading a block leaves the worker cores alone. -/
theorem findBlock_wrk (s : State) (n off len : Nat) : (s.findBlock n off len).wrk = s.wrk := by
  refine foldl_keeps State.wrk (fun t r => ?_) _ _
  split
  · exact tileFind_wrk ..
  · rfl

theorem findBlock_sreg (s : State) (n off len m : Nat) (r : SReg) : (s.findBlock n off len).sreg m r = s.sreg m r := by
  simp only [State.sreg, State.core, findBlock_wrk]

theorem findBlock_chanArg (s : State) (m off len : Nat) (n : Core) (r : SReg) :
    (s.findBlock m off len).chanArg n r = (s.sreg n r).toNat % 16 := by
  simp only [State.chanArg, findBlock_sreg]

section Block

variable {off : W64} {align len : Nat} (range : rangeFault off align len = none)
  (settled : s.tileHazard n [(0x800_0000_0000 + 0x40_0000 * n.val + off.toNat, len)] false = false)

include range settled

/-- A block lies whole in tile memory and no matrix instruction writes it. -/
theorem withBlock_whole (k : State → Res) : s.withBlock n off align len k = k s := by
  simp [State.withBlock, range, settled]

/-- A start whose completion record is misaligned is an exception (R300). -/
theorem startInstr_record {o : Nat} (record : s.recordOff n off.toNat = some o) (go : State → Nat × State) :
    s.startInstr n rd off align len go = .fault s 6 1 (BitVec.ofNat 64 o) := by
  simp [State.startInstr, withBlock_whole range settled, record]

/-- A start waits while its engine holds a commit's new setting (R71 step 4). -/
theorem startInstr_held (record : s.recordOff n off.toNat = none) (held : s.appliedUnit (0x100 + n.val) = true)
    (go : State → Nat × State) : s.startInstr n rd off align len go = .wait s := by
  simp [State.startInstr, withBlock_whole range settled, record, held]

/-- A start that nothing holds answers its code, and one that is accepted waits for the core's earlier stores. -/
theorem startInstr_go (record : s.recordOff n off.toNat = none) (free : s.appliedUnit (0x100 + n.val) = false)
    (go : State → Nat × State) :
    let r := go (s.findBlock n off.toNat len)
    (r.1 ≠ 0 ∨ s.storesDone n = true → s.startInstr n rd off align len go = r.2.codeOut n rd r.1)
      ∧ (r.1 = 0 → s.storesDone n = false → s.startInstr n rd off align len go = .wait s) := by
  have eq : s.startInstr n rd off align len go
      = if (go (s.findBlock n off.toNat len)).1 = 0 ∧ !s.storesDone n then .wait s
        else (go (s.findBlock n off.toNat len)).2.codeOut n rd (go (s.findBlock n off.toNat len)).1 := by
    simp [State.startInstr, withBlock_whole range settled, record, free]
  refine ⟨fun answers => ?_, fun ok pending => ?_⟩
  · rw [eq, if_neg]
    rintro ⟨ok, pending⟩
    simp [ok] at answers
    simp [answers] at pending
  · rw [eq, if_pos ⟨ok, by simp [pending]⟩]

end Block

end SyncInstructions

/-! ## The start and the re-arm of a channel (R289, R300, R301). -/

section ChannelStart

variable (s : State) (n k off : Nat)

/-- The checks that a start and a re-arm share pass for a valid block of a channel that is not privileged alone. -/
theorem startChecks_pass {s : State} {n k : Nat} {blk : Option ChanBlock} {start : Bool}
    (h : firstCode (s.startChecks n k blk start) = 0) :
    ∃ b, blk = some b ∧ progOk b.prog = true ∧ s.privChan n k = false := by
  cases blk with
  | none => simp [State.startChecks] at h
  | some b =>
    cases prog : progOk b.prog with
    | false => simp [State.startChecks, prog] at h
    | true =>
      cases priv : s.privChan n k with
      | true => simp [State.startChecks, prog, priv] at h
      | false => exact ⟨b, rfl, prog, rfl⟩

/-- A job of a program that is not multicast runs at once. -/
theorem startJob_prog (src : StreamSrc) {b : ChanBlock} (h : b.dir ≤ 1) (fromShadow : Bool) :
    s.startJob src (.prog b) fromShadow
      = s.updChan src fun c => { c.begin (.prog b) .running with fromShadow := fromShadow } := by
  have two : b.dir ≠ 2 := by omega
  have three : b.dir ≠ 3 := by omega
  cases src <;> simp [State.startJob, two, three]

/-- What a start or re-arm answers: its code, and the effect of its block where the code is OK. -/
def State.accept (s : State) (code : Nat) (blk : Option ChanBlock) (go : ChanBlock → State) : Nat × State :=
  match code, blk with
  | 0, some b => (0, go b)
  | c, _ => (c, s)

theorem sStart_eq : s.sStart n k off
    = s.accept (firstCode (((s.chanOf (chSrc n k)).st != .idle, 1) :: s.startChecks n k (s.readChan n off) true))
        (s.readChan n off) fun b => s.startJob (chSrc n k) (.prog b) false := rfl

theorem sRearm_idle {s : State} {n k : Nat} (idle : (s.chanOf (chSrc n k)).st = .idle) (off : Nat) :
    s.sRearm n k off = s.sStart n k off := by
  simp [State.sRearm, idle]

theorem sRearm_busy {s : State} {n k : Nat} (busy : (s.chanOf (chSrc n k)).st ≠ .idle) (off : Nat) :
    s.sRearm n k off
      = s.accept (firstCode (((s.chanOf (chSrc n k)).st == .aborting && (s.chanOf (chSrc n k)).shadow == .none, 1)
            :: ((s.chanOf (chSrc n k)).shadow != .none, 2) :: s.startChecks n k (s.readChan n off) false))
          (s.readChan n off) fun b => s.updChan (chSrc n k) fun c => { c with shadow := .prog b } :=
  if_neg busy

/-- A refused command changes nothing. -/
theorem accept_refused {code : Nat} {blk : Option ChanBlock} {go : ChanBlock → State}
    (h : (s.accept code blk go).1 ≠ 0) : (s.accept code blk go).2 = s := by
  unfold State.accept at h ⊢
  split
  · contradiction
  · rfl

theorem accept_code (code : Nat) (blk : Option ChanBlock) (go : ChanBlock → State) :
    (s.accept code blk go).1 = code := by
  unfold State.accept
  split <;> rfl

/-- A start that is accepted finds its channel idle and its block valid, and starts its job. -/
theorem sStart_accepted {s : State} {n k off : Nat} (h : (s.sStart n k off).1 = 0) :
    (s.chanOf (chSrc n k)).st = .idle ∧ ∃ b, s.readChan n off = some b ∧ progOk b.prog = true
      ∧ s.privChan n k = false ∧ s.sStart n k off = (0, s.startJob (chSrc n k) (.prog b) false) := by
  rw [sStart_eq] at h ⊢
  have code := (accept_code s _ _ _).symm.trans h
  have idle : (s.chanOf (chSrc n k)).st = .idle := by
    by_cases idle : (s.chanOf (chSrc n k)).st = .idle
    · exact idle
    · simp [idle] at code
  have checks : firstCode (s.startChecks n k (s.readChan n off) true) = 0 := by simpa [idle] using code
  obtain ⟨b, blk, prog, priv⟩ := startChecks_pass checks
  exact ⟨idle, b, blk, prog, priv, by rw [code, blk]; rfl⟩

/-- A re-arm of a channel that is not idle makes its block the shadow. -/
theorem sRearm_accepted {s : State} {n k off : Nat} (busy : (s.chanOf (chSrc n k)).st ≠ .idle)
    (h : (s.sRearm n k off).1 = 0) :
    ∃ b, (s.sRearm n k off).2 = s.updChan (chSrc n k) fun c => { c with shadow := .prog b } := by
  rw [sRearm_busy busy] at h ⊢
  have code := (accept_code s _ _ _).symm.trans h
  have checks : firstCode (s.startChecks n k (s.readChan n off) false) = 0 := by
    simp only [firstCode_cons] at code
    split at code
    · contradiction
    · split at code
      · contradiction
      · exact code
  obtain ⟨b, blk, -, -⟩ := startChecks_pass checks
  exact ⟨b, by rw [code, blk]; rfl⟩

theorem sStart_refused (h : (s.sStart n k off).1 ≠ 0) : (s.sStart n k off).2 = s :=
  accept_refused s h

theorem sRearm_refused (h : (s.sRearm n k off).1 ≠ 0) : (s.sRearm n k off).2 = s := by
  by_cases idle : (s.chanOf (chSrc n k)).st = .idle
  · rw [sRearm_idle idle] at h ⊢
    exact sStart_refused s n k off h
  · rw [sRearm_busy idle] at h ⊢
    exact accept_refused s h

end ChannelStart

/-! ## The instructions by their case. -/

section SyncExec

variable {s : State} {n : Core} {rd ra rb : SReg}

/-- A body that answers a code. -/
theorem sync_answers (h : s.ready n = true) (op : Nat) {body : State → Res} {t : State} {code : Nat}
    (e : body s = t.codeOut n rd code) : finish s (s.syncInstr n rd ra rb op body) = s.answers n rd t code := by
  rw [sync_ready h, e]
  rfl

/-- A body that waits at its own boundary. -/
theorem sync_stays (h : s.ready n = true) (op : Nat) {body : State → Res} (e : body s = .stay s) :
    finish s (s.syncInstr n rd ra rb op body) = .next (s.after s) := by
  rw [sync_ready h, e]
  rfl

/-- A body that has issued and waits. -/
theorem sync_waits (h : s.ready n = true) (op : Nat) {body : State → Res} (e : body s = .wait s) :
    finish s (s.syncInstr n rd ra rb op body) = s.waitsIssued n := by
  rw [sync_ready h, e]
  rfl

/-- A body that raises an exception. -/
theorem sync_fault (h : s.ready n = true) (noMatrix : (s.core n).matOps = []) (op : Nat) {body : State → Res} {code sub : Nat}
    {info : W64} (e : body s = .fault s code sub info) :
    finish s (s.syncInstr n rd ra rb op body) = .next (s.after (s.except n code sub info)) := by
  rw [sync_ready h, e, ends_fault noMatrix]
  rfl

/-- A start that nothing holds answers its code, and waits for the core's earlier stores where it is accepted. -/
theorem sync_start (h : s.ready n = true) (op : Nat) {body : State → Res} {off : W64} {align len : Nat}
    {go : State → Nat × State} {r : Nat × State} (e : body s = s.startInstr n rd off align len go)
    (range : rangeFault off align len = none)
    (settled : s.tileHazard n [(0x800_0000_0000 + 0x40_0000 * n.val + off.toNat, len)] false = false)
    (record : s.recordOff n off.toNat = none) (free : s.appliedUnit (0x100 + n.val) = false)
    (he : go (s.findBlock n off.toNat len) = r) :
    (r.1 ≠ 0 ∨ s.storesDone n = true → finish s (s.syncInstr n rd ra rb op body) = s.answers n rd r.2 r.1)
      ∧ (r.1 = 0 → s.storesDone n = false → finish s (s.syncInstr n rd ra rb op body) = s.waitsIssued n) := by
  subst he
  have start := startInstr_go (rd := rd) range settled record free go
  exact ⟨fun c => sync_answers h op (e.trans (start.1 c)), fun c d => sync_waits h op (e.trans (start.2 c d))⟩

/-- Taking a count above 0 from a semaphore leaves one less (R295). -/
theorem semTake_pos {w : Wrk} {pair : Nat} {empty : Bool} (h : 0 < Tbl.get 0 w.sems (semKey pair empty)) :
    w.semTake pair empty = some (Tbl.get 0 w.sems (semKey pair empty) - 1,
      { w with sems := Tbl.set 0 w.sems (semKey pair empty) (Tbl.get 0 w.sems (semKey pair empty) - 1) }) :=
  if_neg (Nat.ne_of_gt h)

theorem semTake_zero {w : Wrk} {pair : Nat} {empty : Bool} (h : Tbl.get 0 w.sems (semKey pair empty) = 0) :
    w.semTake pair empty = none :=
  if_pos h

/-- A stop of an idle channel changes nothing (R277). -/
theorem chanStop_idle {src : StreamSrc} (h : (s.chanOf src).st = .idle) : s.chanStop src = s :=
  if_pos h

/-- BARARV finds none of the channels of its mask at work. -/
theorem maskedChannels_idle {mask : W64} (quiet : ∀ j < 16, mask.getLsbD j = true →
      (s.chanOf (chSrc n j)).st ≠ .running ∧ (s.chanOf (chSrc n j)).st ≠ .draining) :
    ((List.range 16).any fun k =>
      mask.getLsbD k && (let c := s.chanOf (chSrc n k); c.st == .running || c.st == .draining)) = false := by
  simp only [List.any_eq_false, List.mem_range, Bool.and_eq_true, Bool.or_eq_true, beq_iff_eq]
  rintro j hj ⟨named, works⟩
  obtain ⟨notRunning, notDraining⟩ := quiet j hj named
  exact works.elim notRunning notDraining

end SyncExec

/-- Settles O39: each instruction's body answers, waits or stays by the case of its checks. -/
theorem streamInstructionsAnswerTheirCode : Obligations.StreamInstructionsAnswerTheirCode := by
  intro n rd ra rb s ready
  refine ⟨?start, ?nlarm, ?held, ?record, ?stopPriv, ?stopNone, ?stop, ?waitIdle, ?waitBusy, ?post, ?postOther, ?noPart,
    ?take, ?read, ?barrier⟩
  case start =>
    rintro ⟨⟨range, settled⟩, record, free⟩
    have regs (t : State) (h : t = s.findBlock n (s.sreg n rb).toNat 128) :
        t.chanArg n ra = (s.sreg n ra).toNat % 16 ∧ t.sreg n rb = s.sreg n rb := by
      subst h
      exact ⟨findBlock_chanArg .., findBlock_sreg ..⟩
    obtain ⟨hk, hoff⟩ := regs _ rfl
    refine ⟨⟨sync_start ready 0 rfl range settled record free (by rw [hk, hoff]), sStart_refused _ _ _ _, fun ok => ?_⟩,
      ⟨sync_start ready 1 rfl range settled record free (by rw [hk, hoff]), sRearm_refused _ _ _ _,
        fun idle => sRearm_idle idle _, fun busy ok => sRearm_accepted busy ok⟩⟩
    obtain ⟨idle, b, blk, prog, priv, eq⟩ := sStart_accepted ok
    refine ⟨idle, b, blk, prog, priv, fun single => ?_⟩
    rw [eq, startJob_prog _ _ single]
  case nlarm =>
    rintro ⟨⟨range, settled⟩, record, free⟩
    exact sync_start ready 9 rfl range settled record free (by rw [findBlock_sreg])
  case held =>
    rintro i off align len ⟨range, settled⟩ record names held
    have waits := startInstr_held (rd := rd) range settled record held
    rcases names with ⟨hi, rfl, rfl, rfl⟩ | ⟨rfl, rfl, rfl, rfl⟩
    · simp only [List.mem_cons, List.not_mem_nil, or_false] at hi
      rcases hi with rfl | rfl
      · exact sync_waits ready 0 (waits _)
      · exact sync_waits ready 1 (waits _)
    · exact sync_waits ready 9 (waits _)
  case record =>
    rintro o record ⟨range, settled⟩ noMatrix
    have fault := startInstr_record (rd := rd) range settled record
    exact ⟨sync_fault ready noMatrix _ (fault _), sync_fault ready noMatrix _ (fault _)⟩
  case stopPriv =>
    intro priv
    exact sync_answers ready _ (by simp [State.chanArg, priv])
  case stopNone =>
    intro priv part
    exact sync_answers ready _ (by simp [State.chanArg, priv, part])
  case stop =>
    intro priv part
    obtain ⟨p, part⟩ := Option.isSome_iff_exists.1 part
    exact sync_answers ready _ (by simp [State.chanArg, priv, part])
  case waitIdle =>
    intro idle
    exact ⟨chanStop_idle idle, sync_answers ready _ (if_pos idle)⟩
  case waitBusy =>
    intro busy
    exact sync_stays ready _ (if_neg busy)
  case post =>
    intro part same
    obtain ⟨p, part⟩ := Option.isSome_iff_exists.1 part
    rw [part] at same
    split
    case isTrue done => exact sync_answers ready 4 (by simp [part, same, done])
    case isFalse pending => exact sync_waits ready 4 (by simp [part, same, pending])
  case postOther =>
    intro part other
    obtain ⟨p, part⟩ := Option.isSome_iff_exists.1 part
    rw [part] at other
    exact sync_answers ready 4 (by simp [part, other])
  case noPart =>
    intro part
    exact ⟨sync_answers ready 4 (by simp [part]), sync_answers ready 7 (by simp [part])⟩
  case take =>
    refine ⟨fun pos => ?_, fun zero => ?_⟩
    · have took := semTake_pos pos
      exact ⟨sync_answers ready 5 (by simp only [State.semArg, took]; rfl),
        sync_answers ready 6 (by simp only [State.semArg, took]; rfl)⟩
    · have nothing := semTake_zero zero
      exact ⟨sync_stays ready 5 (by simp only [State.semArg, nothing]),
        sync_answers ready 6 (by simp only [State.semArg, nothing])⟩
  case read =>
    exact sync_answers ready 10 rfl
  case barrier =>
    refine ⟨fun broken => sync_answers ready 8 (if_pos broken), fun whole => ?_, fun part => ?_⟩
    · split
      case isTrue again => exact sync_stays ready 8 (by rw [if_neg (by simp [whole])]; exact if_pos again)
      case isFalse complete => exact sync_answers ready 8 (by rw [if_neg (by simp [whole])]; exact if_neg complete)
    · obtain ⟨p, part⟩ := Option.isSome_iff_exists.1 part
      refine ⟨fun broken => ?_, fun whole stranger => ?_, fun whole member again => ?_, fun whole member first => ?_⟩
      · exact sync_answers ready 7 (by simp [part, broken])
      · exact sync_answers ready 7 (by simp [part, whole, stranger])
      · have again : s.barPending n ((s.sreg n ra).toNat % 64) = true := again
        exact sync_stays ready 7 (by simp [part, whole, member, again])
      · have first : s.barPending n ((s.sreg n ra).toNat % 64) = false := first
        refine ⟨fun pending => ?_, fun done quiet => ⟨_, rfl, ?_, fun alone => ?_⟩⟩
        · exact sync_waits ready 7 (by simp [part, whole, member, first, pending])
        · exact sync_answers ready 7 (by
            simp only [part, whole, member, first, done, maskedChannels_idle quiet]
            rfl)
        · simp only [State.barArrive, alone]

end Sys2Proof.Machine

/-! Shape images and mode commits: the laws of the loader, of staged settings and of the commit, and the statement O60. -/

namespace Sys2Proof.Tbl

/-- A value that a table gives is the default, or that of an entry. -/
theorem get_eq_or_mem {α : Type} (d : α) (t : Tbl α) (k : Nat) : get d t k = d ∨ (k, get d t k) ∈ t := by
  induction t with
  | nil => exact .inl rfl
  | cons e r ih =>
    obtain ⟨j, w⟩ := e
    unfold get
    split
    · subst_vars
      simp
    · exact ih.imp_right (List.mem_cons_of_mem _)

end Sys2Proof.Tbl

namespace Sys2Proof.Machine

/-! ## The loader (R61, R67, R68). -/

section Loader

variable {s : State} {a : Agent}

/-- LOAD is bit 0 of SHP_CMD. -/
theorem regPut_shpCmd_load : s.regPut a .shpCmd .full 1 = s.shapeLoad := by
  show (if bitOf 1 0 then s.shapeLoad else s) = _
  exact if_pos (by decide)

theorem exec_shapeLoad (heard : s.mute a = false) (may : s.regCode a .shpCmd true .full = .okay) :
    exec (.shapeLoad a) s = .next (s.after (s.shapeLoad.reply .okay 0)) :=
  finish_eq ((regCmd_okay heard may 1).trans (by rw [regPut_shpCmd_load]))

theorem shapeLoad_idle (quiet : s.commit.active = false) (idle : s.shape.st = .idle) :
    s.shapeLoad = { s with shape := { s.shape with st := .verifying } } :=
  if_neg (by simp [quiet, idle])

theorem shapeLoad_busy (busy : s.commit.active = true ∨ s.shape.st ≠ .idle) :
    s.shapeLoad = { s with shape := { s.shape with result := 0x0C } } :=
  if_pos busy

/-- Whether the loader reads its source: the length is one of the allowed ones, and the range lies in stacked memory. -/
def State.loadReads (s : State) : Bool :=
  (decide (4944 ≤ s.shape.srcLen) && decide (s.shape.srcLen ≤ 4194304) && s.shape.srcLen % 16 == 0)
    && decide (s.shape.srcAddr + s.shape.srcLen ≤ stackedBytes)

/-- The state in which the loader waits for its source, where it does. -/
def State.loadWait (s : State) : Option State :=
  if s.loadReads then s.rangeWait s.shape.srcAddr s.shape.srcLen false else none

/-- What the loader has read. -/
def State.loadRead (s : State) : State × BusResp × List Byte × Bool :=
  if s.loadReads then s.rangeRead s.shape.srcAddr s.shape.srcLen else (s, .okay, [], false)

/-- The context of the check of a re-shape. -/
def State.loadCheck (s : State) : LoadCtx :=
  s.loadRead.1.loadCtx s.shape.srcLen (!decide (s.shape.srcAddr + s.shape.srcLen ≤ stackedBytes) || s.loadRead.2.2.2) false

theorem shapeLoadDone_waits {w : State} (verifying : s.shape.st = .verifying) (wait : s.loadWait = some w) :
    s.shapeLoadDone = w := by
  unfold State.shapeLoadDone
  rw [if_neg (by simp [verifying])]
  unfold State.loadWait State.loadReads at wait
  simp only [wait]

section Read

variable (verifying : s.shape.st = .verifying) (here : s.loadWait = none) (boot : s.loadRead.1.recovering = false)
  (quiet : s.loadRead.1.injHit 0x39 0x494 0 = false)

include verifying here boot quiet

/-- A re-shape that passes is staged, with the settings it results in and its digest; one that fails a check answers its
code and raises detector 0x39 (R63, R68, R504). -/
theorem shapeLoadDone_checked :
    let img := s.loadRead.2.2.1
    let code := imageCheck s.loadCheck img
    (code = 0 → ∃ us held, s.shapeLoadDone = { s.loadRead.1 with shape := { s.loadRead.1.shape with
        st := .staged, result := 0, sections := sectionMask img s.shape.srcLen,
        staged := some ⟨imageResult s.loadRead.1.cfg ((imageSections img s.shape.srcLen).getD []),
          imageDigest s.loadCheck img, BitVec.ofNat 64 (le img 0x18 8), us, held⟩ } })
      ∧ (code ≠ 0 → s.shapeLoadDone = State.raise { s.loadRead.1 with shape := { s.loadRead.1.shape with
        st := .idle, result := code, sections := sectionMask img s.shape.srcLen } } 0x39 0x494 0 code) := by
  unfold State.shapeLoadDone
  rw [if_neg (by simp [verifying])]
  unfold State.loadWait State.loadReads at here
  simp only [here]
  unfold State.loadCheck State.loadRead State.loadReads at *
  simp only [boot, quiet]
  refine ⟨fun passes => ?_, fun fails => ?_⟩
  · rw [passes]
    exact ⟨_, _, rfl⟩
  · rw [if_pos fails]
    rfl

end Read
end Loader

/-! ## Staged settings (R69, R70, R74). -/

section Staging

variable {s : State} {a : Agent}

/-- GO and DISCARD are bits 0 and 1 of MODE_COMMIT (R69, R70). -/
theorem regPut_modeCommit_go : s.regPut a .modeCommit .full 1 = s.commitGo := by
  show (if bitOf 1 0 && bitOf 1 1 then s else if bitOf 1 0 then s.commitGo else if bitOf 1 1 then s.commitDiscard else s) = _
  exact (if_neg (by decide)).trans (if_pos (by decide))

theorem regPut_modeCommit_discard : s.regPut a .modeCommit .full 2 = s.commitDiscard := by
  show (if bitOf 2 0 && bitOf 2 1 then s else if bitOf 2 0 then s.commitGo else if bitOf 2 1 then s.commitDiscard else s) = _
  exact (if_neg (by decide)).trans ((if_neg (by decide)).trans (if_pos (by decide)))

theorem exec_modeCommitGo (heard : s.mute a = false) (may : s.regCode a .modeCommit true .full = .okay) :
    exec (.modeCommitGo a) s = .next (s.after (s.commitGo.reply .okay 0)) :=
  finish_eq ((regCmd_okay heard may 1).trans (by rw [regPut_modeCommit_go]))

theorem exec_modeCommitDiscard (heard : s.mute a = false) (may : s.regCode a .modeCommit true .full = .okay) :
    exec (.modeCommitDiscard a) s = .next (s.after (s.commitDiscard.reply .okay 0)) :=
  finish_eq ((regCmd_okay heard may 2).trans (by rw [regPut_modeCommit_discard]))

theorem exec_fpdefaultStageWrite {n : Core} (heard : s.mute a = false)
    (may : s.regCode a (.wrkFpStg n.val) true .full = .okay) (val : W64) :
    exec (.fpdefaultStageWrite a n val) s = .next (s.after ((s.fpStage n.val val).reply .okay 0)) :=
  finish_eq (regCmd_okay heard may val)

/-- The staged FPDEFAULT of one entry of the core table is dropped. -/
def State.dropStaged (t : State) (e : Nat × Wrk) : State :=
  if e.2.fpPend then t.updCore e.1 fun w => { w with fpPend := false } else t

theorem clearStaged_eq (s : State) : s.clearStaged
    = s.wrk.foldl State.dropStaged { s with clk := { s.clk with stgPend := false, standby := .stopped } } := rfl

/-- Dropping staged values changes the worker cores alone. -/
theorem dropStaged_frame (l : List (Nat × Wrk)) (t : State) :
    l.foldl State.dropStaged t = { t with wrk := (l.foldl State.dropStaged t).wrk } := by
  induction l generalizing t with
  | nil => rfl
  | cons e l ih =>
    have step : t.dropStaged e = { t with wrk := (t.dropStaged e).wrk } := by
      unfold State.dropStaged
      split <;> rfl
    rw [List.foldl_cons, ih, step]

theorem clearStaged_frame (s : State) :
    s.clearStaged = { s with clk := { s.clk with stgPend := false, standby := .stopped }, wrk := s.clearStaged.wrk } :=
  dropStaged_frame ..

theorem clearStaged_shape (s : State) : s.clearStaged.shape = s.shape := by rw [clearStaged_frame]
theorem clearStaged_commit (s : State) : s.clearStaged.commit = s.commit := by rw [clearStaged_frame]
theorem clearStaged_stgPend (s : State) : s.clearStaged.clk.stgPend = false := by rw [clearStaged_frame]

/-- A core whose staged value some entry shows has none once every entry is dropped. -/
theorem dropStaged_core {n : Nat} (l : List (Nat × Wrk)) {t : State}
    (listed : (t.core n).fpPend = true → ∃ e ∈ l, e.1 = n ∧ e.2.fpPend = true) :
    ((l.foldl State.dropStaged t).core n).fpPend = false := by
  induction l generalizing t with
  | nil => simpa using listed
  | cons e l ih =>
    refine ih fun pend => ?_
    by_cases hit : e.1 = n ∧ e.2.fpPend = true
    · obtain ⟨rfl, staged⟩ := hit
      simp [State.dropStaged, staged] at pend
    · have same : (t.dropStaged e).core n = t.core n := by
        unfold State.dropStaged
        split
        · exact core_updCore_other _ _ _ fun same => hit ⟨same.symm, ‹_›⟩
        · rfl
      obtain ⟨e', mem, shows⟩ := listed (same ▸ pend)
      rcases List.mem_cons.1 mem with rfl | mem
      · exact absurd shows hit
      · exact ⟨e', mem, shows⟩

/-- No core holds a staged FPDEFAULT afterwards. -/
theorem clearStaged_fpPend (s : State) (n : Nat) : (s.clearStaged.core n).fpPend = false := by
  rw [clearStaged_eq]
  refine dropStaged_core _ fun pend => ?_
  have pend : (Tbl.get Wrk.off s.wrk n).fpPend = true := pend
  rcases Tbl.get_eq_or_mem Wrk.off s.wrk n with off | mem
  · rw [off] at pend
    cases pend
  · exact ⟨_, mem, rfl, pend⟩

theorem commitGo_active (active : s.commit.active = true) :
    s.commitGo = { s with commit := { s.commit with busyReject := true } } :=
  if_pos active

theorem commitDiscard_active (active : s.commit.active = true) :
    s.commitDiscard = { s with commit := { s.commit with busyReject := true } } :=
  if_pos active

theorem commitDiscard_idle (quiet : s.commit.active = false) :
    s.commitDiscard = { s.clearStaged with shape := { s.shape with staged := none, st := .idle } } :=
  if_neg (by simp [quiet])

theorem commitGo_empty (quiet : s.commit.active = false) (parts : s.participants = []) (noImage : s.shape.staged = none) :
    s.commitGo = { s with commit := { s.commit with parts := [], acked := [], withheld := [], result := 3 } } := by
  simp [State.commitGo, quiet, parts, noImage]

theorem commitGo_starts (quiet : s.commit.active = false) (parts : s.participants ≠ []) :
    s.commitGo = { s with
      commit := { s.commit with active := true, parts := s.participants, acked := [], withheld := [],
                                deadline := s.now + 20000, image := s.shape.staged, withOp := s.clk.stgPend },
      shape := { s.shape with staged := none, st := if s.shape.staged.isSome then .committing else s.shape.st } } := by
  simp [State.commitGo, quiet, parts]

theorem fpStage_active (active : s.commit.active = true) (n : Nat) (val : W64) :
    s.fpStage n val = { s with commit := { s.commit with stageReject := true } } :=
  if_pos active

theorem fpStage_idle (quiet : s.commit.active = false) (n : Nat) (val : W64) :
    s.fpStage n val = s.updCore n fun w => { w with fpStg := val.setWidth 4, fpPend := true } :=
  if_neg (by simp [quiet])

end Staging
/-! ## The commit (R66, R71). -/

section Commit

variable {s : State}

/-- What a change of the settings and of the cores leaves beside them: the loader, the commit and the measurements. -/
def State.commitView (s : State) : ShapeSt × CommitSt × SecSt := (s.shape, s.commit, s.sec)

theorem commitView_eq_iff {shape : ShapeSt} {commit : CommitSt} {sec : SecSt} :
    s.commitView = (shape, commit, sec) ↔ s.shape = shape ∧ s.commit = commit ∧ s.sec = sec := by
  simp only [State.commitView, Prod.mk.injEq]

theorem warmStart_view (s : State) (q : Nat) : (s.warmStart q).commitView = s.commitView := rfl

theorem takeFp_view (s : State) (o : ShapeCfg) : (s.takeFp o).commitView = s.commitView := by
  refine foldl_keeps State.commitView (fun t n => ?_) _ _
  exact (apply_ite State.commitView _ _ _).trans (ite_self _)

/-- A configuration that comes into force changes the settings in force, and neither the commit nor a measurement. -/
theorem putCfg_view (s : State) (n : ShapeCfg) :
    (s.putCfg n).commitView = ({ s.shape with cfg := n }, s.commit, s.sec) := by
  have ops (t : State) : (if s.cfg.op == n.op then t
      else (t.updNut fun x => { x with capW := n.op.capW }).markUsable).commitView = t.commitView := by
    split <;> rfl
  refine (takeFp_view _ _).trans ((ops _).trans ?_)
  refine (foldl_keeps State.commitView (fun t p => ?trees) _ _).trans (foldl_keeps State.commitView (fun t q => ?saffron) _ _)
  case trees => split <;> rfl
  case saffron =>
    split
    · rfl
    · exact warmStart_view ..

/-- The staged FPDEFAULT of one entry of the core table comes into force. -/
def State.takeStaged (t : State) (e : Nat × Wrk) : State :=
  if e.2.fpPend then t.updCore e.1 fun w => { w with fpdefault := w.fpStg, fpPend := false } else t

theorem takeStaged_view (l : List (Nat × Wrk)) (t : State) : (l.foldl State.takeStaged t).commitView = t.commitView := by
  refine foldl_keeps State.commitView (fun t e => ?_) _ _
  unfold State.takeStaged
  split <;> rfl

/-- Measurements stand beside the loader and the commit; stated for any table of them, so that no digest is computed. -/
theorem withMeas_shape (s : State) (m : Tbl (BitVec 384)) :
    ({ s with sec := { s.sec with meas := m } } : State).shape = s.shape := rfl
theorem withMeas_commit (s : State) (m : Tbl (BitVec 384)) :
    ({ s with sec := { s.sec with meas := m } } : State).commit = s.commit := rfl

theorem extend_shape (s : State) (i : Nat) (d : BitVec 384) : (s.extend i d).shape = s.shape := withMeas_shape s _
theorem extend_commit (s : State) (i : Nat) (d : BitVec 384) : (s.extend i d).commit = s.commit := withMeas_commit s _

/-- The image of the running commit, where it has one, is measured and comes into force. -/
def State.takeImage (s : State) : State :=
  match s.commit.image with
  | some i => (s.extend 4 i.digest).putCfg i.cfg
  | none => s

/-- A commit completes: the image and the staged values of the cores come into force, and the epoch advances (R66, R71
step 5). -/
theorem commitEnd_eq (s : State) : ∃ t : State, t.commitView = s.takeImage.commitView ∧ s.commitEnd = { t with
    shape := match s.commit.image with
      | some i => { t.shape with st := .idle, result := 0, reshapeSeq := i.seq }
      | none => t.shape,
    clk := { t.clk with stgPend := false },
    commit := { t.commit with epoch := t.commit.epoch + 1, epochTime := s.time.blk, active := false, result := 1,
                              image := none, withOp := false } } :=
  ⟨(s.takeImage.wrk.foldl State.takeStaged s.takeImage).updNut fun n => { n with planLate := false },
    takeStaged_view _ _, rfl⟩

theorem takeImage_image {i : StagedImage} (img : s.commit.image = some i) :
    s.takeImage.commitView = ({ s.shape with cfg := i.cfg }, s.commit, (s.extend 4 i.digest).sec) := by
  have taken : s.takeImage = (s.extend 4 i.digest).putCfg i.cfg := by simp only [State.takeImage, img]
  rw [taken, putCfg_view, extend_shape, extend_commit]

theorem takeImage_none (img : s.commit.image = none) : s.takeImage = s := by
  simp only [State.takeImage, img]

theorem takeImage_commit (s : State) : s.takeImage.commit = s.commit := by
  cases img : s.commit.image with
  | none => rw [takeImage_none img]
  | some i => exact (commitView_eq_iff.1 (takeImage_image img)).2.1

theorem commitEnd_commit (s : State) :
    s.commitEnd.commit = { s.commit with epoch := s.commit.epoch + 1, epochTime := s.time.blk, active := false, result := 1,
                                         image := none, withOp := false } := by
  obtain ⟨t, view, eq⟩ := commitEnd_eq s
  obtain ⟨-, commit, -⟩ := commitView_eq_iff.1 view
  rw [eq, commit, takeImage_commit]

/-- The image of a commit that completes: its settings are in force, its sequence number is kept and slot 4 measures it. -/
theorem commitEnd_image {i : StagedImage} (img : s.commit.image = some i) :
    s.commitEnd.cfg = i.cfg ∧ s.commitEnd.shape.reshapeSeq = i.seq ∧ s.commitEnd.slot 4 = extendSlot (s.slot 4) i.digest := by
  obtain ⟨t, view, eq⟩ := commitEnd_eq s
  obtain ⟨shape, -, sec⟩ := commitView_eq_iff.1 (view.trans (takeImage_image img))
  rw [eq, img]
  exact ⟨by rw [State.cfg, shape], rfl, by rw [State.slot, sec]; exact Tbl.get_set_self ..⟩

theorem commitEnd_settings (img : s.commit.image = none) : s.commitEnd.cfg = s.cfg := by
  obtain ⟨t, view, eq⟩ := commitEnd_eq s
  rw [takeImage_none img] at view
  obtain ⟨shape, -, -⟩ := commitView_eq_iff.1 view
  rw [eq, img, State.cfg, shape]

theorem ready_iff (c : CommitSt) : c.ready = true ↔ c.active = true ∧ ∀ u ∈ c.parts, u ∈ c.acked := by
  simp [CommitSt.ready]

theorem commitComplete_ready (ready : s.commit.ready = true) (noOp : s.commit.withOp = false) :
    s.commitComplete = s.commitEnd :=
  if_pos (by simp [ready, noOp])

theorem commitRevert_late (active : s.commit.active = true) (missing : ∃ u ∈ s.commit.parts, u ∉ s.commit.acked)
    (late : s.commit.deadline ≤ s.now) : s.commitRevert = s.revertNow := by
  have notReady : s.commit.ready = false := by
    obtain ⟨u, part, silent⟩ := missing
    exact Bool.eq_false_iff.2 fun ready => silent (((ready_iff _).1 ready).2 u part)
  exact if_pos (by simp [active, notReady, late])

/-- A commit that reverts ends with its result and the lowest unit that did not acknowledge, and changes no setting
(R71 step 7). -/
theorem revertNow_commit (s : State) :
    s.revertNow.commit = { s.commit with active := false, result := 2, failUnit := BitVec.ofNat 16 s.commit.failed,
                                         image := none, withOp := false } := by
  simp only [State.revertNow, State.raise, raiseDet_commit, updNut_commit, clearStaged_commit]

theorem revertNow_cfg (s : State) : s.revertNow.cfg = s.cfg := by
  simp only [State.revertNow, State.raise, State.cfg, raiseDet_shape, updNut_shape, clearStaged_shape]
  split <;> rfl

section Participant

variable {u : Nat} (active : s.commit.active = true) (part : u ∈ s.commit.parts) (silent : u ∉ s.commit.acked)
  (notWithheld : u ∉ s.commit.withheld) (early : s.now < s.commit.deadline) (still : s.boundary u = true)

include active part silent notWithheld early still

/-- A participant that reaches its boundary acknowledges (R71 step 3). -/
theorem partApply_acknowledges (quiet : s.injHit 0x3B u 0 = false) (noOp : s.commit.withOp = false) :
    s.partApply u = { s with commit := { s.commit with acked := s.commit.acked ++ [u] } } := by
  simp [State.partApply, active, part, silent, notWithheld, Nat.not_le.2 early, still, quiet, noOp]

/-- An injection of detector 0x3B withholds the acknowledgement (R504). -/
theorem partApply_withheld (hit : s.injHit 0x3B u 0 = true) :
    (s.partApply u).commit = { s.commit with withheld := u :: s.commit.withheld } := by
  simp [State.partApply, active, part, silent, notWithheld, Nat.not_le.2 early, still, hit, State.injUse]

end Participant

end Commit

/-- Settles O60: the loader by what it waits for, reads and checks; the commands by whether a commit runs; and the commit by
its participants, its completion and its limit. -/
theorem shapeImagesAndCommitsAct : Obligations.ShapeImagesAndCommitsAct := by
  intro a s
  refine ⟨fun heard may => ⟨fun quiet idle => ?load, fun busy => ?loadBusy⟩,
    fun verifying => ⟨fun w wait => finish_eq (shapeLoadDone_waits verifying wait), fun here => ?loaded⟩,
    fun heard may => ⟨fun active => ?runs, fun quiet parts noImage => ?goEmpty, fun quiet parts => ?go,
      fun quiet => ?discard⟩,
    fun u active part silent notWithheld early still => ⟨fun quiet noOp => ?acknowledge, fun hit => ?withhold⟩,
    fun active all noOp => ?complete, fun active missing late => ?revert,
    fun n val heard may => ⟨fun active => ?stageBusy, fun quiet => ?stage⟩⟩
  case load => rw [exec_shapeLoad heard may, shapeLoad_idle quiet idle]
  case loadBusy => rw [exec_shapeLoad heard may, shapeLoad_busy busy]
  case loaded =>
    intro r x code boot quiet
    have checked := shapeLoadDone_checked verifying here boot quiet
    rw [show s.loadCheck = x from rfl, show s.loadRead = r from rfl] at checked
    obtain ⟨staged, failed⟩ := checked
    by_cases passes : code = 0
    · obtain ⟨us, held, eq⟩ := staged passes
      refine ⟨_, finish_eq eq, ?_⟩
      rw [if_pos passes]
      refine ⟨rfl, rfl, rfl, _, rfl, ?_, ?_⟩ <;> dsimp only
    · refine ⟨_, finish_eq (failed passes), ?_⟩
      rw [if_neg passes]
  case runs =>
    constructor
    · rw [exec_modeCommitGo heard may, commitGo_active active]
    · rw [exec_modeCommitDiscard heard may, commitDiscard_active active]
  case goEmpty => rw [exec_modeCommitGo heard may, commitGo_empty quiet parts noImage]
  case go => rw [exec_modeCommitGo heard may, commitGo_starts quiet parts]
  case discard =>
    refine ⟨s.commitDiscard, exec_modeCommitDiscard heard may, ?_⟩
    rw [commitDiscard_idle quiet]
    exact ⟨rfl, rfl, clearStaged_stgPend s, clearStaged_fpPend s⟩
  case acknowledge =>
    exact finish_eq (partApply_acknowledges active part silent notWithheld early still quiet noOp)
  case withhold => exact ⟨_, rfl, partApply_withheld active part silent notWithheld early still hit⟩
  case complete =>
    have complete := commitComplete_ready ((ready_iff _).2 ⟨active, all⟩) noOp
    refine ⟨s.commitEnd, finish_eq complete, ?_⟩
    rw [commitEnd_commit]
    exact ⟨rfl, rfl, rfl, rfl, fun i img => commitEnd_image img, fun img => commitEnd_settings img⟩
  case revert =>
    refine ⟨s.revertNow, finish_eq (commitRevert_late active missing late), ?_⟩
    rw [revertNow_commit]
    exact ⟨rfl, rfl, rfl, revertNow_cfg s, rfl⟩
  case stageBusy => rw [exec_fpdefaultStageWrite heard may, fpStage_active active]
  case stage => rw [exec_fpdefaultStageWrite heard may, fpStage_idle quiet]

end Sys2Proof.Machine

/-! The scalar instructions of a worker core: its registers, how an instruction of a ready core ends, and the statements
O6 to O12, O14 and O20. -/

namespace Sys2Proof.Machine

/-! ## Registers (R76). -/

@[simp] theorem s_zero (w : Wrk) : w.s 0 = 0 := rfl

@[simp] theorem setS_zero (w : Wrk) (v : W64) : w.setS 0 v = w := rfl

/-- A register other than s0 reads back what was written, and a write leaves the others alone. -/
theorem s_setS (w : Wrk) {i : Nat} (hi : i ≠ 0) (j : Nat) (v : W64) : (w.setS i v).s j = if j = i then v else w.s j := by
  by_cases hj : j = 0
  · subst hj
    simp [Wrk.s, Ne.symm hi]
  · simp [Wrk.s, Wrk.setS, hi, hj, Tbl.get_set]

/-- Settles O6: s0 is set apart by the definitions, and the others are entries of a table (`Tbl.get_set`). -/
theorem registerZeroAndRegisterWrites : Obligations.RegisterZeroAndRegisterWrites := by
  intro w v
  refine ⟨s_zero w, setS_zero w v, fun i j hi => ⟨?_, fun hj => ?_⟩⟩
  · rw [s_setS w hi, if_pos rfl]
  · rw [s_setS w hi, if_neg hj]

/-! ## How an instruction of a ready core ends. -/

theorem core_endIssue (s : State) (n : Nat) :
    (s.endIssue n).core n = { s.core n with issued := false, partsDone := 0 } := by
  have freed (t : State) : (if (t.cacheOf (.l1 (Fin.ofNat 256 n))).fills.isEmpty then t
      else t.updCache (.l1 (Fin.ofNat 256 n)) fun c => { c with fills := [] }).wrk = t.wrk := by
    split
    · rfl
    · exact updCache_wrk ..
  have answered (t : State) : (if t.grp.dones.isEmpty then t
      else t.updGrp fun g => { g with dones := g.dones.filter fun d => d.who != .core n }).wrk = t.wrk := by
    split <;> rfl
  unfold State.endIssue
  dsimp only
  rw [State.core, answered, freed]
  exact core_updCore_self ..

/-- A change of a core is told by what it makes of the core as it is. -/
theorem updCore_congr {s : State} {n : Nat} {f g : Wrk → Wrk} (h : f (s.core n) = g (s.core n)) :
    s.updCore n f = s.updCore n g := by
  simp only [State.updCore, Tbl.upd, h]

/-- An instruction that completes falls through to the next word. -/
theorem retire_eq_retireTo (s : State) (n : Core) : s.retire n = s.retireTo n ((s.core n).pc + 4) :=
  updCore_congr (by rw [core_endIssue])

/-- In job mode an exception is the trap (R81). -/
theorem except_job {s : State} {n : Nat} (job : (s.core n).monitor = false) (code sub : Nat) (info : W64) :
    s.except n code sub info = (s.endIssue n).updCore n fun w => w.trap false code sub info := by
  have : ((s.endIssue n).core n).monitor = false := by rw [core_endIssue]; exact job
  simp only [State.except, this, Bool.false_eq_true, if_false]

/-- In monitor mode the core stops (R83). -/
theorem except_monitor {s : State} {n : Nat} (mon : (s.core n).monitor = true) (code sub : Nat) (info : W64) :
    s.except n code sub info = ((s.endIssue n).raise 0x3C n 0 code).stopCore n code := by
  have : ((s.endIssue n).core n).monitor = true := by rw [core_endIssue]; exact mon
  simp only [State.except, this, if_true]

section Ends

variable {s t : State} {n : Core} {word : W64} {legal priv : Bool} {body : State → Res}

/-- What an instruction of a ready core meets: ILLEGAL, PRIVILEGED, or its own effect (R82). -/
def State.meets (s : State) (n : Core) (word : W64) (legal priv : Bool) (body : State → Res) : Res :=
  if legal = false then .fault s 1 0 word else if priv && !(s.core n).monitor then .fault s 2 0 word else body s

theorem instr_meets (h : s.ready n = true) (word : W64) (legal priv : Bool) (body : State → Res) :
    s.instr n word legal priv body = s.ends n (s.meets n word legal priv body) :=
  instr_ready h word legal priv body

theorem meets_body (hl : legal = true) : s.meets n word legal false body = body s := by
  simp [State.meets, hl]

/-- A legal instruction runs its body where its privilege, if it asks for one, is held. -/
theorem meets_may (hl : legal = true) (may : priv = true → (s.core n).monitor = true) :
    s.meets n word legal priv body = body s := by
  cases priv with
  | false => exact meets_body hl
  | true => simp [State.meets, hl, may rfl]

theorem meets_monitor (hl : legal = true) (mon : (s.core n).monitor = true) : s.meets n word legal priv body = body s :=
  meets_may hl fun _ => mon

theorem meets_illegal (hl : legal = false) : s.meets n word legal priv body = .fault s 1 0 word := if_pos hl

theorem meets_privileged (job : (s.core n).monitor = false) : s.meets n word true true body = .fault s 2 0 word := by
  simp [State.meets, job]

/-- It completes. -/
theorem instr_retires (h : s.ready n = true) (e : s.meets n word legal priv body = .next t) :
    finish s (s.instr n word legal priv body) = .next (s.after (t.retire n)) :=
  finish_eq (by rw [instr_meets h, e, ends_next])

/-- It completes and goes elsewhere. -/
theorem instr_jumps {pc : W64} (h : s.ready n = true) (e : s.meets n word legal priv body = .goto t pc) :
    finish s (s.instr n word legal priv body) = .next (s.after (t.retireTo n pc)) :=
  finish_eq (by rw [instr_meets h, e, ends_goto])

/-- It waits at its own boundary. -/
theorem instr_stays (h : s.ready n = true) (e : s.meets n word legal priv body = .stay t) :
    finish s (s.instr n word legal priv body) = .next (s.after t) :=
  finish_eq (by rw [instr_meets h, e]; rfl)

/-- It has issued and waits. -/
theorem instr_waits (h : s.ready n = true) (e : s.meets n word legal priv body = .wait t) :
    finish s (s.instr n word legal priv body) = .next (s.after (t.updCore n fun w => { w with issued := true })) :=
  finish_eq (by rw [instr_meets h, e]; rfl)

/-- It raises an exception, which is taken where no matrix instruction is left. -/
theorem instr_excepts {code sub : Nat} {info : W64} (h : s.ready n = true) (idle : (s.core n).matOps = [])
    (e : s.meets n word legal priv body = .fault t code sub info) :
    finish s (s.instr n word legal priv body) = .next (s.after (t.except n code sub info)) :=
  finish_eq (by rw [instr_meets h, e, ends_fault idle]; rfl)

/-- It raises an exception, which waits for the matrix instructions that are left (R81, R187). -/
theorem instr_defers {code sub : Nat} {info : W64} (h : s.ready n = true) (busy : (s.core n).matOps ≠ [])
    (e : s.meets n word legal priv body = .fault t code sub info) :
    finish s (s.instr n word legal priv body) = .next (s.after s) :=
  finish_eq (by rw [instr_meets h, e]; simp [State.ends, busy])

end Ends

/-! ## Integer instructions (R93 to R95). -/

theorem field_low (v h : Nat) : field v h 0 = v % 2 ^ (h + 1) := rfl

theorem field_fn {fn : BitVec 12} (h : fn.toNat < 64) : field fn.toNat 5 0 = fn.toNat := by
  rw [field_low]
  exact Nat.mod_eq_of_lt h

/-- Settles O8: each body writes the operation's value, which the checks admit. -/
theorem integerInstructionsWriteTheirResult : Obligations.IntegerInstructionsWriteTheirResult := by
  intro n rd ra rb s ready
  refine ⟨fun fn v short unary op => ?register, fun fn imm v code shift op => ?immediate, fun imm => ⟨?liu, ?addpc⟩⟩
  case register =>
    show execIntRegisterOp n rd ra rb ⟨1, fn⟩ s = _
    rw [execIntRegisterOp, if_neg (by simp), field_fn short, op]
    refine instr_retires ready (meets_body ?_)
    cases one : intOpUnary fn.toNat with
    | false => simp [Nat.div_eq_of_lt short]
    | true => simp [Nat.div_eq_of_lt short, unary one]
  case immediate =>
    refine instr_retires ready ((meets_body (by simp [code, shift])).trans ?_)
    rw [op]
    rfl
  case liu => exact instr_retires ready (meets_body rfl)
  case addpc => exact instr_retires ready (meets_body rfl)

/-! ## Branches and jumps (R95, R96). -/

theorem not_slt_eq {w : Nat} (a b : BitVec w) : (!a.slt b) = decide (b.toInt ≤ a.toInt) := by
  rw [BitVec.slt, ← decide_not]
  exact decide_eq_decide.2 Int.not_lt

theorem not_ult_eq {w : Nat} (a b : BitVec w) : (!a.ult b) = decide (b.toNat ≤ a.toNat) := by
  rw [BitVec.ult, ← decide_not]
  exact decide_eq_decide.2 Nat.not_lt

/-- Conditions 6 and 7 are unassigned. -/
theorem branchCond_unassigned {c : Nat} (hc : 6 ≤ c) (a b : W64) : branchCond c a b = none := by
  match c, hc with
  | _ + 6, _ => rfl

/-- Settles O9: a branch goes by `branchCond`, which has no value for conditions 6 and 7. -/
theorem branchesAndJumpsGoWhereTheySay : Obligations.BranchesAndJumpsGoWhereTheySay := by
  intro n rd ra rb s ready
  refine ⟨fun cond off => ?branch, fun off => instr_jumps ready (meets_body rfl),
    fun imm => instr_jumps ready (meets_body rfl)⟩
  case branch =>
    intro holds
    have assigned (hc : cond.toNat < 6) : branchCond cond.toNat (s.sreg n ra) (s.sreg n rb) = some holds := by
      simp only [holds]
      generalize cond.toNat = c at hc
      match c, hc with
      | 0, _ | 1, _ | 2, _ | 4, _ => rfl
      | 3, _ => exact congrArg some (not_slt_eq ..)
      | 5, _ => exact congrArg some (not_ult_eq ..)
    refine ⟨fun hc taken => ?_, fun hc fallsThrough => ?_, fun hc job idle => ?_⟩
    · refine instr_jumps ready ((meets_body (by rw [assigned hc]; rfl)).trans ?_)
      rw [assigned hc, taken, if_pos rfl]
    · rw [← retire_eq_retireTo]
      refine instr_retires ready ((meets_body (by rw [assigned hc]; rfl)).trans ?_)
      rw [assigned hc, fallsThrough, if_neg (by simp)]
    · rw [← except_job job]
      exact instr_excepts ready idle (meets_illegal (by rw [branchCond_unassigned hc]; rfl))

/-! ## Multiply and divide (R94). -/

section Division

variable {w : Nat} (x y : BitVec w)

/-- The sign of the dividend picks the end at which a quotient by zero saturates. -/
theorem divS_eq : divS x y = if y = 0 then (if 0 ≤ x.toInt then BitVec.intMax w else BitVec.intMin w)
    else if x = BitVec.intMin w ∧ y = BitVec.allOnes w then BitVec.intMax w else BitVec.ofInt w (x.toInt.tdiv y.toInt) := by
  have sign : x.msb = true ↔ ¬0 ≤ x.toInt := by rw [BitVec.msb_eq_toInt, decide_eq_true_iff, Int.not_le]
  simp only [divS, sign, ite_not]

theorem divU_eq : divU x y = if y = 0 then BitVec.allOnes w else BitVec.ofNat w (x.toNat / y.toNat) := by
  rw [divU]
  by_cases zero : y = 0
  · rw [if_pos zero, if_pos zero]
  rw [if_neg zero, if_neg zero]
  apply BitVec.eq_of_toNat_eq
  rw [BitVec.toNat_udiv, BitVec.toNat_ofNat, Nat.mod_eq_of_lt (Nat.lt_of_le_of_lt (Nat.div_le_self ..) x.isLt)]

theorem remU_eq : remU x y = if y = 0 then x else BitVec.ofNat w (x.toNat % y.toNat) := by
  rw [remU]
  by_cases zero : y = 0
  · rw [if_pos zero, if_pos zero]
  rw [if_neg zero, if_neg zero]
  apply BitVec.eq_of_toNat_eq
  rw [BitVec.toNat_umod, BitVec.toNat_ofNat, Nat.mod_eq_of_lt (Nat.lt_of_le_of_lt (Nat.mod_le ..) x.isLt)]

variable {x y}

/-- The dividend is the unsigned quotient times the divisor plus the remainder. -/
theorem divU_mul_add_remU (hy : y ≠ 0) : x = divU x y * y + remU x y := by
  rw [divU, remU, if_neg hy, if_neg hy]
  apply BitVec.eq_of_toNat_eq
  rw [BitVec.toNat_add, BitVec.toNat_mul, BitVec.toNat_udiv, BitVec.toNat_umod, Nat.mod_add_mod, Nat.div_add_mod',
    Nat.mod_eq_of_lt x.isLt]

/-- Where the quotient can be represented, it is the integers' quotient rounded toward zero. -/
theorem toInt_divS (hy : y ≠ 0) (fits : ¬(x = BitVec.intMin w ∧ y = BitVec.allOnes w)) :
    (divS x y).toInt = x.toInt.tdiv y.toInt := by
  have ne : x ≠ BitVec.intMin w ∨ y ≠ -1#w := by
    rw [BitVec.neg_one_eq_allOnes]
    exact Decidable.not_and_iff_not_or_not.1 fits
  rw [divS, if_neg hy, if_neg fits, ← BitVec.toInt_sdiv_of_ne_or_ne x y ne, BitVec.ofInt_toInt]

theorem toInt_remS (hy : y ≠ 0) (fits : ¬(x = BitVec.intMin w ∧ y = BitVec.allOnes w)) :
    (remS x y).toInt = x.toInt.tmod y.toInt := by
  rw [remS, if_neg hy, if_neg fits, ← BitVec.toInt_srem, BitVec.ofInt_toInt]

/-- A remainder that is not zero takes the sign of the dividend. -/
theorem tmod_zero_or_sign (a b : Int) : a.tmod b = 0 ∨ (a.tmod b < 0 ↔ a < 0) := by
  have sign := Int.sign_tmod a b
  by_cases divides : b ∣ a
  · rw [if_pos divides] at sign
    exact .inl (Int.sign_eq_zero_iff_zero.1 sign)
  · rw [if_neg divides] at sign
    exact .inr (by rw [← Int.sign_eq_neg_one_iff_neg, sign, Int.sign_eq_neg_one_iff_neg])

end Division

theorem ofInt_toInt_mul {w : Nat} (x y : BitVec w) : BitVec.ofInt w (x.toInt * y.toInt) = x * y := by
  rw [BitVec.ofInt_mul, BitVec.ofInt_toInt, BitVec.ofInt_toInt]

/-- An instruction of class 0x03 writes the value of its code. -/
theorem exec_mulDivOp {s : State} {n : Core} {rd ra rb : SReg} (ready : s.ready n = true) {fn : BitVec 12}
    (short : fn.toNat < 64) {v : W64} (value : mulDiv fn.toNat (s.sreg n ra) (s.sreg n rb) = some v) :
    exec (.mulDivOp n rd ra rb fn) s = .next (s.after ((s.setSreg n rd v).retire n)) := by
  show execMulDivOp n rd ra rb fn s = _
  rw [execMulDivOp, field_fn short, value]
  exact instr_retires ready (meets_body (by simp [Nat.div_eq_of_lt short]))

/-- Settles O7: each code gives its row of `mulDiv`, whose quotients and remainders are those of the integers. -/
theorem multiplyAndDivideFollowTheirTable : Obligations.MultiplyAndDivideFollowTheirTable := by
  unfold Obligations.MultiplyAndDivideFollowTheirTable
  intro quoS modS quoU modU
  have quoS_eq : quoS = fun w x y => divS x y := by
    funext w x y
    exact (divS_eq x y).symm
  have modS_eq : modS = fun w x y => remS x y := rfl
  have quoU_eq : quoU = fun w x y => divU x y := by
    funext w x y
    exact (divU_eq x y).symm
  have modU_eq : modU = fun w x y => remU x y := by
    funext w x y
    exact (remU_eq x y).symm
  simp only [quoS_eq, modS_eq, quoU_eq, modU_eq, ofInt_toInt_mul]
  refine ⟨fun n rd ra rb s ready => ?_, fun w _ x y hy => ⟨divU_mul_add_remU hy, fun fits => ?_⟩⟩
  · refine ⟨?_, ?_, ?_, ?_, ?_, ?_, ?_, ?_, ?_, ?_, ?_, ?_, ?_⟩ <;> exact exec_mulDivOp ready (by decide) rfl
  · rw [toInt_divS hy fits, toInt_remS hy fits, Int.tdiv_mul_add_tmod]
    exact ⟨rfl, tmod_zero_or_sign ..⟩

/-! ## Exceptions and system instructions (R80 to R83, R101). -/

/-- cs.tcode holds the three fields of the trap side by side. -/
theorem trap_tcode (w : Wrk) (intr : Bool) {code sub : Nat} (hc : code < 256) (hs : sub < 256) (info : W64) :
    (w.trap intr code sub info).tcode.toNat = (if intr then 65536 else 0) + 256 * sub + code := by
  show (BitVec.ofNat 17 (b2n intr * 2 ^ 16 + sub * 2 ^ 8 + code)).toNat = _
  rw [BitVec.toNat_ofNat]
  cases intr <;> simp [b2n] <;> omega

/-- A trap enters at an offset in the page of cs.tentry. -/
theorem and_not_page (x : W64) : x &&& ~~~(0xFFF : W64) = x >>> 12 <<< 12 := by
  have low : ∀ i < 64, (0xFFF : W64).getLsbD i = decide (i < 12) := by decide
  refine BitVec.eq_of_getLsbD_eq fun i hi => ?_
  rw [BitVec.getLsbD_and, BitVec.getLsbD_not, low i hi, BitVec.getLsbD_shiftLeft, BitVec.getLsbD_ushiftRight]
  by_cases inPage : i < 12
  · simp [inPage]
  · simp [inPage, hi, Nat.add_sub_cancel' (Nat.le_of_not_lt inPage)]

/-- Settles O12: the fields of `Wrk.trap`, with cs.tcode from `trap_tcode`. -/
theorem trapSavesAndEnters : Obligations.TrapSavesAndEnters := by
  intro w intr code sub info hc hs t
  refine ⟨rfl, trap_tcode w intr hc hs info, rfl, rfl, rfl, rfl, rfl, ?pc, rfl, rfl, rfl, rfl⟩
  show (w.tentry &&& ~~~0xFFF) + BitVec.ofNat 64 (b2n intr * 0x800 + code * 16) = _
  rw [and_not_page, Nat.mul_comm code]
  cases intr <;> rfl

section Exceptions

variable {s : State} {n : Core}

/-- A word that no command spells, or one of class 0x01 without an assigned code, is not legal (R92). -/
theorem exec_intRegisterOp_illegal {cls : BitVec 5} {rd ra rb : SReg} {fn : BitVec 12}
    (unassigned : if cls = 1 then fn.toNat ≥ 64 ∨ intOp fn.toNat (s.sreg n ra) (s.sreg n rb) = none
          ∨ (intOpUnary fn.toNat = true ∧ rb.val ≠ 0)
        else decodeWorker n (wordOf cls rd ra rb fn) = none) :
    ∃ body, exec (.intRegisterOp n rd ra rb ⟨cls, fn⟩) s
      = finish s (s.instr n (regWord cls.toNat rd.val ra.val rb.val fn) false false body) := by
  have command : ¬(cls ≠ 1 ∧ (decodeWorker n (wordOf cls rd ra rb fn)).isSome) := by
    rintro ⟨one, spelled⟩
    rw [if_neg one] at unassigned
    simp [unassigned] at spelled
  have illegal : (cls == 1 && fn.toNat / 64 == 0 && (intOp (field fn.toNat 5 0) (s.sreg n ra) (s.sreg n rb)).isSome
      && (!intOpUnary fn.toNat || rb.val == 0)) = false := by
    by_cases one : cls = 1
    · rw [if_pos one] at unassigned
      by_cases short : fn.toNat < 64
      · rw [field_fn short]
        rcases unassigned with long | none_ | ⟨unary, used⟩
        · omega
        · simp [none_]
        · rw [unary, beq_false_of_ne used]
          exact Bool.and_false _
      · have : fn.toNat / 64 ≠ 0 := by omega
        simp [this]
    · rw [beq_false_of_ne one]
      rfl
  show ∃ body, execIntRegisterOp n rd ra rb ⟨cls, fn⟩ s = _
  refine ⟨fun t => t.put n rd ((intOp (field fn.toNat 5 0) (s.sreg n ra) (s.sreg n rb)).getD 0), ?_⟩
  unfold execIntRegisterOp
  dsimp only
  rw [if_neg command, illegal]

theorem exec_mcall : exec (.mcall n) s
    = finish s (s.instr n (sysWord 0 0) true false fun s => .fault s 0x09 0 ((s.core n).s 1)) := rfl

theorem exec_brk : exec (.brk n) s
    = finish s (s.instr n (sysWord 0 1) true false fun s => .fault s 0x0A 0 (s.core n).pc) := rfl

end Exceptions

/-- Settles O10: each instruction meets its exception, which waits, traps or stops by the matrix instructions that are left
and by the mode. -/
theorem exceptionsTrapOrStopTheCore : Obligations.ExceptionsTrapOrStopTheCore := by
  intro n s ready none_ stopped
  refine ⟨fun idle job => ⟨fun cls rd ra rb fn unassigned => ?illegalTraps, ?retmTraps, ?jobgoTraps⟩,
    fun idle mon => ⟨fun cls rd ra rb fn unassigned => ?illegalStops, ?mcallStops, ?brkStops⟩,
    fun busy => ⟨fun cls rd ra rb fn unassigned => ?illegalWaits, ?mcallWaits, ?brkWaits⟩⟩
  case illegalTraps =>
    obtain ⟨body, run⟩ := exec_intRegisterOp_illegal unassigned
    rw [run, instr_excepts ready idle (meets_illegal rfl), except_job job]
  case retmTraps =>
    rw [← except_job job]
    exact instr_excepts ready idle (meets_privileged job)
  case jobgoTraps =>
    rw [← except_job job]
    exact instr_excepts ready idle (meets_privileged job)
  case illegalStops =>
    obtain ⟨body, run⟩ := exec_intRegisterOp_illegal unassigned
    rw [run, instr_excepts ready idle (meets_illegal rfl), except_monitor mon]
    rfl
  case mcallStops =>
    rw [exec_mcall, instr_excepts ready idle (meets_body rfl), except_monitor mon]
    rfl
  case brkStops =>
    rw [exec_brk, instr_excepts ready idle (meets_body rfl), except_monitor mon]
    rfl
  case illegalWaits =>
    obtain ⟨body, run⟩ := exec_intRegisterOp_illegal unassigned
    rw [run, instr_defers ready busy (meets_illegal rfl)]
  case mcallWaits => rw [exec_mcall, instr_defers ready busy (meets_body rfl)]
  case brkWaits => rw [exec_brk, instr_defers ready busy (meets_body rfl)]

/-- Settles O11: MCALL, BREAK and JEXIT are exceptions of their own, and RETM, JOBGO and WFI end as their bodies say. -/
theorem systemInstructionsTrapAndReturn : Obligations.SystemInstructionsTrapAndReturn := by
  intro n ra s ready
  refine ⟨fun job idle => ⟨?mcall, ?brk, ?jexit⟩, fun mon => ⟨?retm, ?jobgo⟩, ?wfi⟩
  case mcall => rw [exec_mcall, instr_excepts ready idle (meets_body rfl), except_job job]
  case brk => rw [exec_brk, instr_excepts ready idle (meets_body rfl), except_job job]
  case jexit =>
    have ended : ((s.updCore n fun w => { w with jobActive := false }).core n).monitor = false := by
      rw [core_updCore_self]
      exact job
    rw [← except_job ended]
    exact instr_excepts ready idle ((meets_body rfl).trans (if_neg (by simp [idle])))
  case retm => exact instr_jumps ready (meets_monitor rfl mon)
  case jobgo => exact instr_stays ready (meets_monitor rfl mon)
  case wfi =>
    split
    case isTrue none_ => exact instr_stays ready ((meets_body rfl).trans (if_neg fun pends => pends none_))
    case isFalse pends => exact instr_retires ready ((meets_body rfl).trans (if_pos pends))

/-! ## Fences (R99, R348). -/

/-- A fence that orders stores completes once all of them are visible, and waits until then. -/
theorem fence_ends {s : State} {n : Core} (ready : s.ready n = true) (fn : Nat) : finish s (s.fence n fn)
    = .next (s.after (if s.storesDone n then s.retire n else s.updCore n fun w => { w with issued := true })) := by
  unfold State.fence
  cases visible : s.storesDone n with
  | true => exact instr_retires ready ((meets_body rfl).trans (if_pos visible))
  | false => exact instr_waits ready ((meets_body rfl).trans (if_neg (by simp [visible])))

/-- Settles O14: the three fences that order stores are `fence_ends`. -/
theorem fencesCompleteOnceStoresAreVisible : Obligations.FencesCompleteOnceStoresAreVisible := by
  intro n s ready
  refine ⟨instr_retires ready (meets_body rfl), instr_retires ready (meets_body rfl), fun c hc => ?_⟩
  simp only [List.mem_cons, List.not_mem_nil, or_false] at hc
  obtain rfl | rfl | rfl := hc
  · exact fence_ends ready 0
  · exact fence_ends ready 2
  · exact fence_ends ready 3

end Sys2Proof.Machine

/-! Waiting cores, the start of a job, CSR instructions and the commands of a core's registers, and the statements O13, O15,
O19, O20 and O21. -/

namespace Sys2Proof.Machine

/-! ## Interrupts and waits (R84 to R86). -/

section Waits

variable {s : State} {n : Core} {k : Nat}

/-- WFI ends once an interrupt is pending and enabled. -/
theorem wfiWake_pending (on : s.tileOff n = false) (runs : s.coreRuns (n.val / 64) = true) (waits : (s.core n).run = .wfi)
    (pends : s.ipOn n ≠ 0) : s.wfiWake n = s.updCore n fun w =>
      { w with run := .running, pc := w.pc + 4, instret := w.instret + 1 } :=
  if_neg fun c => pends (by simpa [on, runs, waits] using c)

/-- At a boundary the interrupt that is due is taken, and STOP ends the job (log 26). -/
theorem takeIntr_due (boundary : s.atBoundary n = true) (due : s.intrDue n = some k) :
    s.takeIntr n = s.updCore n fun w =>
      let t := { w.trap true k 0 0 with run := .running }
      if k = 0 then { t with killPend := false, jobActive := false } else t := by
  simp only [State.takeIntr, boundary, due, Bool.not_true, Bool.false_eq_true, if_false]

/-- The interrupt that is due is the lowest of those pending and enabled, and in monitor mode IEN admits it. -/
theorem intrDue_lowest (due : s.intrDue n = some k) : k < 8 ∧ (s.ipOn n).getLsbD k = true
    ∧ (∀ j < k, (s.ipOn n).getLsbD j = false) ∧ ((s.core n).monitor = true → (s.core n).ien = true) := by
  unfold State.intrDue at due
  split at due
  case isTrue => cases due
  case isFalse admitted =>
    obtain ⟨pends, inRange, lowest⟩ := List.find?_range_eq_some.1 due
    refine ⟨List.mem_range.1 inRange, pends, fun j hj => by simpa using lowest j hj, fun mon => ?_⟩
    simpa [mon] using admitted

end Waits

/-- Settles O13: WFI's end is `wfiWake_pending`, and interrupts are `takeIntr_due` and `intrDue_lowest`. -/
theorem waitingCoresWakeTrapAndStart : Obligations.WaitingCoresWakeTrapAndStart := by
  intro n s on runs
  refine ⟨fun waits pends => finish_eq (wfiWake_pending on runs waits pends), fun k boundary due pos => finish_eq ?_,
    fun boundary due => finish_eq ?_, fun k due => intrDue_lowest due⟩
  · simp only [takeIntr_due boundary due, Nat.ne_of_gt pos, if_false]
  · simp only [takeIntr_due boundary due, if_true]

/-! ## The start of a job (R108, R109). -/

/-- Word `i` of the descriptor at the head of the job ring. -/
def Wrk.headWord (w : Wrk) (i : Nat) : W64 := Tbl.get 0 w.slots (8 * (w.jobHead.toNat % 8) + i)

/-- The scalar registers that a job starts with: s1 to s5 from words 2 to 6, the others zero. -/
def Wrk.jobRegs (w : Wrk) : Tbl W64 :=
  (List.range 5).foldl (fun t i => Tbl.set 0 t (i + 1) (w.headWord (2 + i))) []

/-- A core with the job at the head of its ring. -/
def Wrk.startJob (w : Wrk) : Wrk :=
  { w with sregs := w.jobRegs, vregs := [], mregs := [], acc := [],
           fpmode := BitVec.ofNat 5 (16 * b2n ((w.headWord 7).getLsbD 0) + w.fpdefault.toNat),
           flags := 0, jobid := w.headWord 0, jobHead := w.jobHead + 1, monitor := false, jobActive := true,
           run := .running, pc := w.headWord 1 &&& ~~~3, instret := w.instret + 1 }

/-- A JOBGO that waits starts the job once nothing holds it back. -/
theorem jobStart_starts {s : State} {n : Core} (waits : (s.core n).run = .jobgo) (on : s.tileOff n = false)
    (runs : s.coreRuns (n.val / 64) = true) (noIntr : s.intrDue n = none) (job : (s.core n).jobHead ≠ (s.core n).jobTail)
    (free : s.coreHeld n = false) (idle : (s.core n).matOps = []) :
    s.jobStart n = s.updCore n fun _ => (s.core n).startJob :=
  (if_neg (by simp [waits, on, runs, noIntr, job, free, idle])).trans rfl

theorem get_jobRegs (w : Wrk) (j : Nat) : Tbl.get 0 w.jobRegs j = if 1 ≤ j ∧ j ≤ 5 then w.headWord (j + 1) else 0 := by
  show Tbl.get 0 (Tbl.set 0 (Tbl.set 0 (Tbl.set 0 (Tbl.set 0 (Tbl.set 0 [] 1 (w.headWord 2)) 2 (w.headWord 3)) 3
    (w.headWord 4)) 4 (w.headWord 5)) 5 (w.headWord 6)) j = _
  simp only [Tbl.get_set]
  match j with
  | 0 | 1 | 2 | 3 | 4 | 5 => rfl
  | i + 6 =>
    rw [if_neg (by omega), if_neg (by omega), if_neg (by omega), if_neg (by omega), if_neg (by omega), if_neg (by omega)]
    rfl

/-- The mode of a job: SR from its descriptor, the rest from the core's default (R88, R108). -/
theorem startJob_fpmode (w : Wrk) : w.startJob.fpmode.getLsbD 4 = (w.headWord 7).getLsbD 0
    ∧ w.startJob.fpmode.setWidth 4 = w.fpdefault := by
  have fields : ∀ (b : Bool) (f : BitVec 4), (BitVec.ofNat 5 (16 * b2n b + f.toNat)).getLsbD 4 = b
      ∧ (BitVec.ofNat 5 (16 * b2n b + f.toNat)).setWidth 4 = f := by decide
  exact fields _ _

/-- Settles O15: what a job starts with is `Wrk.startJob`. -/
theorem jobStartLoadsItsDescriptor : Obligations.JobStartLoadsItsDescriptor := by
  intro n s w d waits on runs noIntr job free idle
  obtain ⟨rounding, format⟩ := startJob_fpmode w
  refine ⟨w.startJob, finish_eq (jobStart_starts waits on runs noIntr job free idle), rfl, rfl, rfl, rfl, rfl, rounding, format,
    rfl, fun i hi => ?args, fun i hi => ?others, fun i => ⟨rfl, rfl⟩, rfl, rfl, rfl, rfl, rfl, rfl⟩
  case args =>
    show Tbl.get 0 w.jobRegs (i + 1) = _
    rw [get_jobRegs, if_pos (by omega), Nat.add_comm 2 i]
    rfl
  case others =>
    have : i ≠ 0 := by omega
    rw [Wrk.s, if_neg this]
    exact (get_jobRegs w i).trans (if_neg (by omega))

/-! ## CSR instructions (R87, R100). -/

/-- Settles O20: `csrValue`, `Wrk.csrArg` and `csrWrites`, operation by operation. -/
theorem csrOperationsFollowTheirTable : Obligations.CsrOperationsFollowTheirTable := by
  intro old a w i
  refine ⟨rfl, rfl, fun k hk => ?_, fun op => ⟨?_, ?_⟩⟩
  · simp [csrValue, hk]
  · cases op <;> rfl
  · cases op <;> simp [csrWrites]

/-- A CSR instruction that its checks admit puts the old value in rd and writes the new one where it writes. -/
theorem csrInstr_swaps {s : State} {n : Core} (ready : s.ready n = true) {op : CsrOp} {rd : SReg} {src : Nat} {csr : BitVec 12}
    {c : Nat} {old x v : W64} {writes : Bool} (number : csr.toNat = c) (arg : (s.core n).csrArg op src = x)
    (value : csrValue op old x = v) (condition : csrWrites op src = writes)
    (runs : c < 4096 ∧ s.csrRead n c = some old ∧ (c / 2048 = 1 → (s.core n).monitor = true)
      ∧ (writes = true → csrLegal c old v = true) ∧ (c = 2 → (s.core n).matOps = [])) :
    let t := s.csrTouch n c
    finish s (s.csrInstr n op rd.val src csr)
      = .next (s.after (((if writes then t.csrWrite n c v else t).updCore n fun w => w.setS rd.val old).retire n)) := by
  obtain ⟨_, read, priv, legal, idle⟩ := runs
  have admits : ((some old).isSome && (!writes || csrLegal c old v)) = true := by
    cases writes with
    | false => rfl
    | true => simp [legal]
  unfold State.csrInstr
  dsimp only
  rw [number, arg, condition, read, Option.getD_some, value]
  refine instr_retires ready ((meets_may admits fun p => priv (beq_iff_eq.1 p)).trans ?_)
  exact if_neg fun ⟨flags, busy⟩ => by simp [idle flags] at busy

/-- An immediate form writes where uimm5 is not zero. -/
theorem toNat_bne_zero {w : Nat} (i : BitVec w) : (i.toNat != 0) = (i != 0) := by
  rw [Bool.eq_iff_iff, bne_iff_ne, bne_iff_ne, ← BitVec.toNat_ne_iff_ne]
  simp

/-- Settles O19: each instruction is its row of `csrInstr_swaps`. -/
theorem csrInstructionsSwapTheOldValue : Obligations.CsrInstructionsSwapTheOldValue := by
  intro n rd ra uimm csr old s ready a i runs ends
  have imm : BitVec.ofNat 64 uimm.toNat = i := BitVec.ofNat_toNat ..
  refine ⟨csrInstr_swaps ready rfl rfl rfl rfl, csrInstr_swaps ready rfl rfl rfl rfl, csrInstr_swaps ready rfl rfl rfl rfl,
    csrInstr_swaps ready rfl imm rfl rfl, csrInstr_swaps ready rfl imm rfl (toNat_bne_zero uimm),
    csrInstr_swaps ready rfl imm rfl (toNat_bne_zero uimm), fun op ring k => ?_⟩
  intro x v writes
  have arg : (s.core n).csrArg op ra.val = x := by cases op <;> rfl
  have value : csrValue op old x = v := by cases op <;> rfl
  have condition : csrWrites op ra.val = writes := by cases op <;> rfl
  exact ⟨csrInstr_swaps ready rfl arg value condition, csrInstr_swaps ready rfl arg value condition,
    csrInstr_swaps ready (Nat.mod_eq_of_lt (by omega)) arg value condition,
    csrInstr_swaps ready (Nat.mod_eq_of_lt (by omega)) arg value condition,
    csrInstr_swaps ready (Nat.mod_eq_of_lt (by omega)) arg value condition⟩

/-! ## Commands of a core's registers (R110). -/

section Registers

variable {s : State} {a : Agent} {n : Core}

/-- RUN, RESET and KILL are bits 0, 1 and 2 of WRK_CTRL. -/
theorem regPut_wrkCtrl (v : W64) : s.regPut a (.wrkCtrl n) .full v
    = s.wrkCtrl n (bitOf v.toNat 0) (bitOf v.toNat 1) (bitOf v.toNat 2) := rfl

theorem exec_wrkKill (heard : s.mute a = false) (may : s.regCode a (.wrkCtrl n) true .full = .okay) :
    exec (.wrkKill a n) s = .next (s.after ((s.updCore n fun w => { w with killPend := true }).reply .okay 0)) :=
  finish_eq ((regCmd_okay heard may 4).trans (by rw [regPut_wrkCtrl]; rfl))

theorem exec_wrkReset (heard : s.mute a = false) (may : s.regCode a (.wrkCtrl n) true .full = .okay) :
    exec (.wrkReset a n) s = .next (s.after ((s.coreReset n).reply .okay 0)) :=
  finish_eq ((regCmd_okay heard may 2).trans (by rw [regPut_wrkCtrl]; rfl))

theorem exec_wrkRun (heard : s.mute a = false) (may : s.regCode a (.wrkCtrl n) true .full = .okay) :
    exec (.wrkRun a n) s = .next (s.after ((s.coreRun n).reply .okay 0)) :=
  finish_eq ((regCmd_okay heard may 1).trans (by rw [regPut_wrkCtrl]; rfl))

theorem exec_jobTailWrite (heard : s.mute a = false) (may : s.regCode a (.wrkJobTail n) true .full = .okay) (val : W64) :
    exec (.jobTailWrite a n val) s = .next (s.after ((s.tailWrite n (val.setWidth 4)).reply .okay 0)) :=
  finish_eq (regCmd_okay heard may val)

/-- A tail that no request to turn the tile off meets is put, and nothing else changes. -/
theorem tailWrite_unasked (h : s.nut.pdReq.getLsbD n = false ∨ s.nut.pdState.getLsbD n = true
      ∨ Tbl.get 0 s.nut.pdAt n ≠ s.time.hk + 1) (t : BitVec 4) :
    s.tailWrite n t = s.updCore n fun w => w.tailPut t := by
  refine if_neg fun c => ?_
  simp only [Bool.and_eq_true, Bool.not_eq_true', beq_iff_eq] at c
  obtain ⟨⟨⟨_, asked⟩, on⟩, now⟩ := c
  rcases h with notAsked | off | later
  · exact Bool.false_ne_true (notAsked.symm.trans asked)
  · exact Bool.false_ne_true (on.symm.trans off)
  · exact later now

/-- A job that lands in the HK cycle of a request to turn its tile off withdraws the request (R473, R498). -/
theorem tailWrite_asked (asked : s.nut.pdReq.getLsbD n = true) (on : s.nut.pdState.getLsbD n = false)
    (now : Tbl.get 0 s.nut.pdAt n = s.time.hk + 1) {t : BitVec 4}
    (job : ((s.updCore n fun w => w.tailPut t).core n).jobHead ≠ ((s.updCore n fun w => w.tailPut t).core n).jobTail) :
    s.tailWrite n t = (s.updCore n fun w => w.tailPut t).updNut fun x =>
      { x with pdReq := x.pdReq &&& ~~~(BitVec.ofNat 256 (2 ^ n.val)), pdReject := true } :=
  if_pos (by simp only [bne_iff_ne.2 job, asked, on, now, beq_self_eq_true, Bool.not_false, Bool.and_self])

end Registers

/-- Settles O21: the commands write WRK_CTRL, and a tail is put by `tailWrite_unasked` or `tailWrite_asked`. -/
theorem workerRegisterCommandsAct : Obligations.WorkerRegisterCommandsAct := by
  intro a n s heard
  refine ⟨fun may => ⟨exec_wrkKill heard may, exec_wrkReset heard may, exec_wrkRun heard may⟩, fun val may => ?_⟩
  intro t
  rw [exec_jobTailWrite heard may]
  refine ⟨fun unasked => ?_, fun asked on now job => ?_⟩
  · rw [tailWrite_unasked unasked]
    rfl
  · rw [tailWrite_asked asked on now job]
    rfl

end Sys2Proof.Machine

/-! Accesses of a worker core to tile memory: what a write leaves, the parts of an access, and the statements O16 and O17. -/

namespace Sys2Proof.Tbl

variable {α : Type}

/-- A run of writes to keys other than `k` leaves `k` alone. -/
theorem get_foldl_set_other [DecidableEq α] {β : Type} (d : α) (g : β → Nat) (f : Tbl α → β → α) {k : Nat} {l : List β}
    (h : ∀ x ∈ l, k ≠ g x) (t : Tbl α) : get d (l.foldl (fun t x => set d t (g x) (f t x)) t) k = get d t k := by
  induction l generalizing t with
  | nil => rfl
  | cons x l ih =>
    rw [List.foldl_cons, ih fun y hy => h y (List.mem_cons_of_mem _ hy), get_set_other d t _ (h x List.mem_cons_self)]

theorem getMany_add (d : α) (t : Tbl α) (k a b : Nat) :
    getMany d t k (a + b) = getMany d t k a ++ getMany d t (k + a) b := by
  induction a generalizing k with
  | zero => simp [getMany]
  | succ a ih => simp [Nat.add_right_comm a 1 b, getMany, ih, Nat.add_assoc, Nat.add_comm 1 a]

theorem put_put (k : Nat) (v w : α) (t : Tbl α) : put k w (put k v t) = put k w t := by
  induction t with
  | nil => simp [put]
  | cons e r ih =>
    obtain ⟨j, x⟩ := e
    rcases Nat.lt_trichotomy k j with lt | rfl | gt
    · simp [put, lt]
    · simp [put]
    · simp [put, Nat.not_lt_of_gt gt, Nat.ne_of_gt gt, ih]

theorem del_put (k : Nat) (v : α) (t : Tbl α) : del k (put k v t) = del k t := by
  induction t with
  | nil => simp [put, del]
  | cons e r ih =>
    obtain ⟨j, x⟩ := e
    rcases Nat.lt_trichotomy k j with lt | rfl | gt
    · simp [put, del, lt]
    · simp [put, del]
    · simp [put, del, Nat.not_lt_of_gt gt, Nat.ne_of_gt gt, Nat.ne_of_lt gt, ih]

/-- A write makes an earlier write of an entry to the same key as if it had not been. -/
theorem set_set [DecidableEq α] {d v : α} (hv : v ≠ d) (w : α) (t : Tbl α) (k : Nat) :
    set d (set d t k v) k w = set d t k w := by
  simp only [set, if_neg hv, put_put, del_put]

end Sys2Proof.Tbl

namespace Sys2Proof.Machine

/-! ## What a write to tile memory leaves (R584). -/

section TileWrite

variable (s : State) (n off : Nat) (bs : List Byte) (p : Bool)

/-- A write to tile memory changes its bytes and the marks of their words. -/
theorem tileWrite_frame : s.tileWrite n off bs p = { s with mem := { s.mem with
    tile := (s.tileWrite n off bs p).mem.tile, tilePoison := (s.tileWrite n off bs p).mem.tilePoison,
    tileErr := (s.tileWrite n off bs p).mem.tileErr } } := by
  unfold State.tileWrite
  split <;> rfl

@[simp] theorem tileWrite_nut : (s.tileWrite n off bs p).nut = s.nut := by rw [tileWrite_frame]

theorem tileWrite_updCore (m : Nat) (f : Wrk → Wrk) :
    (s.updCore m f).tileWrite n off bs p = (s.tileWrite n off bs p).updCore m f := by
  unfold State.tileWrite
  split <;> rfl

variable {s n off bs p}

/-- The marks of the words that a write does not touch stay. -/
theorem tileWrite_marks {w : Nat} (untouched : ¬(off / 8 ≤ w ∧ 8 * w < off + bs.length)) :
    Tbl.get false (s.tileWrite n off bs p).mem.tilePoison (0x8_0000 * n + w) = Tbl.get false s.mem.tilePoison (0x8_0000 * n + w)
      ∧ Tbl.get false (s.tileWrite n off bs p).mem.tileErr (0x8_0000 * n + w)
        = Tbl.get false s.mem.tileErr (0x8_0000 * n + w) := by
  unfold State.tileWrite
  split
  case isTrue => exact ⟨rfl, rfl⟩
  case isFalse some_ =>
    have pos : 0 < bs.length := List.length_pos_iff.2 fun e => some_ (by simp [e])
    have other : ∀ x ∈ (List.range ((off + bs.length - 1) / 8 - off / 8 + 1)).map (off / 8 + ·),
        0x8_0000 * n + w ≠ 0x8_0000 * n + x := by
      intro x hx
      obtain ⟨i, hi, rfl⟩ := List.mem_map.1 hx
      have := List.mem_range.1 hi
      omega
    refine ⟨Tbl.get_foldl_set_other false _ _ other _, ?_⟩
    show Tbl.get false (if s.mem.tileErr.isEmpty then _ else _) _ = _
    split
    · rfl
    · exact Tbl.get_foldl_set_other false _ _ other _

end TileWrite

/-- Settles O17: the bytes are `tileWrite_tile`, the marks `tileWrite_marks`, and the rest is `tileWrite_frame`. -/
theorem tileWriteChangesItsBytesOnly : Obligations.TileWriteChangesItsBytesOnly :=
  fun s n off bs p => ⟨tileWrite_tile s n off bs p, fun _ untouched => tileWrite_marks untouched, tileWrite_frame s n off bs p⟩

/-! ## The parts of an access (R106). -/

section Parts

variable {a : W64} {len : Nat}

theorem halves_within (h : a.toNat % 128 + len ≤ 128) : halves a len = [(a.toNat, len)] := if_pos (by omega)

/-- An access that crosses into the next line has two parts. -/
theorem halves_across (h : 128 < a.toNat % 128 + len) (inRange : a.toNat + 128 < 2 ^ 64) :
    halves a len = [(a.toNat, 128 - a.toNat % 128), (a.toNat + (128 - a.toNat % 128), len - (128 - a.toNat % 128))] := by
  have next : (a + BitVec.ofNat 64 (128 - a.toNat % 128)).toNat = a.toNat + (128 - a.toNat % 128) := by
    rw [BitVec.toNat_add, BitVec.toNat_ofNat]
    omega
  rw [← next]
  exact if_neg (by omega)

theorem storeHalves_within {bs : List Byte} (h : a.toNat % 128 + bs.length ≤ 128) : storeHalves a bs = [(a.toNat, bs)] := by
  simp only [storeHalves, halves_within h]

theorem storeHalves_across {bs : List Byte} (h : 128 < a.toNat % 128 + bs.length) (inRange : a.toNat + 128 < 2 ^ 64) :
    storeHalves a bs = [(a.toNat, bs.take (128 - a.toNat % 128)),
      (a.toNat + (128 - a.toNat % 128), bs.drop (128 - a.toNat % 128))] := by
  simp only [storeHalves, halves_across h inRange]

end Parts

section Space

variable {a m : Nat}

theorem inWindow_of_space (h : spaceOf a ≠ .window) : inWindow a = false := by
  refine decide_eq_false fun inside => h ?_
  unfold spaceOf
  rw [if_neg (by omega), if_neg (by omega), if_neg (by omega), if_neg (by omega), if_neg (by omega), if_pos (by omega)]

/-- The tile memory of core `m` (R308). -/
theorem spaceOf_tile_iff : spaceOf a = .tile m
    ↔ m < 256 ∧ 0x800_0000_0000 + 0x40_0000 * m ≤ a ∧ a < 0x800_0000_0000 + 0x40_0000 * (m + 1) := by
  unfold spaceOf
  constructor
  · intro h
    split at h
    · cases h
    · split at h
      · injection h
        omega
      · split at h
        · cases h
        · split at h
          · cases h
          · split at h
            · cases h
            · split at h <;> cases h
  · rintro ⟨hm, lo, hi⟩
    rw [if_neg (by omega), if_pos (by omega)]
    congr 1
    omega

end Space

/-! ## Loads of a ready core (R102 to R106). -/

section Loads

variable {s t : State} {n : Nat}

theorem loadParts_one_ok {a len : Nat} {bs : List Byte} (h : s.loadPart n a len = .ok t bs false) :
    s.loadParts n [(a, len)] = .ok t [bs] := by
  simp [State.loadParts, h]

theorem loadParts_two_ok {p q : Nat × Nat} {bs cs : List Byte} (hp : s.loadPart n p.1 p.2 = .ok s bs false)
    (hq : s.loadPart n q.1 q.2 = .ok t cs false) : s.loadParts n [p, q] = .ok t [bs, cs] := by
  simp [State.loadParts, hp, hq]

theorem loadParts_one_wait {a len : Nat} (h : s.loadPart n a len = .wait t) : s.loadParts n [(a, len)] = .wait t := by
  simp [State.loadParts, h]

variable {c : Core} {a : W64} {len : Nat} {k : State → List Byte → Res}

/-- A load that its checks admit, outside the register window, performs its parts. -/
theorem coreLoad_ok (space : spaceOf a.toNat ≠ .window) (admitted : s.accFault c a len false = none)
    (free : s.tileHazard c (halves a len) false = false) {bs : List (List Byte)}
    (parts : s.loadParts c (halves a len) = .ok t bs) : s.coreLoad c a len k = k t bs.flatten := by
  simp [State.coreLoad, State.withLoad, inWindow_of_space space, admitted, free, parts]

theorem coreLoad_wait (space : spaceOf a.toNat ≠ .window) (admitted : s.accFault c a len false = none)
    (free : s.tileHazard c (halves a len) false = false) (parts : s.loadParts c (halves a len) = .wait t) :
    s.coreLoad c a len k = .wait t := by
  simp [State.coreLoad, State.withLoad, inWindow_of_space space, admitted, free, parts]

end Loads

/-! ### Loads from tile memory. -/

section TileLoads

variable {s : State} {n m off len : Nat}

theorem mem_tileWords {w : Nat} : w ∈ tileWords n off len
    ↔ 0 < len ∧ 0x8_0000 * n + off / 8 ≤ w ∧ w ≤ 0x8_0000 * n + (off + len - 1) / 8 := by
  unfold tileWords
  split
  case isTrue zero => simp [zero]
  case isFalse pos =>
    simp only [List.mem_map, List.mem_range]
    constructor
    · rintro ⟨i, hi, rfl⟩
      omega
    · rintro ⟨_, lo, hi⟩
      exact ⟨w - (0x8_0000 * n + off / 8), by omega, by omega⟩

/-- A part of a range without a poisoned word has none. -/
theorem tileBytes_part_good {o l : Nat} (lo : off ≤ o) (hi : o + l ≤ off + len) (good : (s.tileBytes m off len).2 = false) :
    (s.tileBytes m o l).2 = false := by
  refine List.any_eq_false.2 fun w hw => List.any_eq_false.1 good w ?_
  rw [mem_tileWords] at hw ⊢
  omega

/-- A read that meets no bad word changes nothing. -/
theorem tileFind_good (good : (s.tileBytes m off len).2 = false) : s.tileFind m off len = s := by
  have none_ : (tileWords m off len).filter (fun w => Tbl.get false s.mem.tileErr w) = [] := by
    refine List.filter_eq_nil_iff.2 fun w hw err => List.any_eq_false.1 good w hw ?_
    simp [MemSt.wordBad, err]
  unfold State.tileFind
  split
  · rfl
  · rw [none_, List.foldl_nil]

theorem loadPart_tile {a : Nat} (space : spaceOf a = .tile m) (on : s.tileOff m = false)
    (good : (s.tileBytes m (a % 0x40_0000) len).2 = false) :
    s.loadPart n a len = .ok s (s.tileBytes m (a % 0x40_0000) len).1 false := by
  simp only [State.loadPart, space, on, Bool.false_eq_true, if_false, tileFind_good good, good]

theorem tileBytes_add (a b : Nat) :
    (s.tileBytes m off (a + b)).1 = (s.tileBytes m off a).1 ++ (s.tileBytes m (off + a) b).1 := by
  simp only [State.tileBytes, Tbl.getMany_add, Nat.add_assoc]

/-- The parts of an access that lies in one tile lie in it, one after the other. -/
theorem next_in_tile {a k : Nat} (space : spaceOf a = .tile m) (fits : a % 0x40_0000 + k < 0x40_0000) :
    spaceOf (a + k) = .tile m ∧ (a + k) % 0x40_0000 = a % 0x40_0000 + k := by
  rw [spaceOf_tile_iff] at space ⊢
  omega

/-- A load within one tile, whose words are good, gives the bytes of the tile. -/
theorem loadParts_tile {a : W64} (space : spaceOf a.toNat = .tile m) (on : s.tileOff m = false)
    (fits : a.toNat % 0x40_0000 + len ≤ 0x40_0000) (good : (s.tileBytes m (a.toNat % 0x40_0000) len).2 = false) :
    ∃ bs, s.loadParts n (halves a len) = .ok s bs ∧ bs.flatten = (s.tileBytes m (a.toNat % 0x40_0000) len).1 := by
  by_cases within : a.toNat % 128 + len ≤ 128
  · rw [halves_within within]
    exact ⟨_, loadParts_one_ok (loadPart_tile space on good), by simp⟩
  · obtain ⟨hm, _, inRange⟩ := spaceOf_tile_iff.1 space
    rw [halves_across (by omega) (by omega)]
    obtain ⟨space', place⟩ := next_in_tile (k := 128 - a.toNat % 128) space (by omega)
    have first := loadPart_tile (n := n) space on (tileBytes_part_good (l := 128 - a.toNat % 128) (Nat.le_refl _) (by omega) good)
    have second := loadPart_tile (n := n) (len := len - (128 - a.toNat % 128)) space' on
      (tileBytes_part_good (by omega) (by omega) good)
    refine ⟨_, loadParts_two_ok first second, ?_⟩
    rw [place, List.flatten_cons, List.flatten_cons, List.flatten_nil, List.append_nil, ← tileBytes_add]
    congr 2
    omega

end TileLoads

/-! ## Stores of a ready core (R102 to R107). -/

section Stores

/-- How far a store has come is forgotten with its end. -/
theorem endIssue_counted (s : State) (n : Nat) :
    (s.updCore n fun w => { w with partsDone := w.partsDone + 1 }).endIssue n = s.endIssue n := by
  have once : (s.updCore n fun w => { w with partsDone := w.partsDone + 1 }).updCore n
      (fun w => { w with issued := false, partsDone := 0 }) = s.updCore n fun w => { w with issued := false, partsDone := 0 } := by
    have counted : { s.core n with partsDone := (s.core n).partsDone + 1 } ≠ Wrk.off :=
      fun e => Nat.succ_ne_zero _ (congrArg Wrk.partsDone e)
    simp only [State.updCore, Tbl.upd, Tbl.get_set_self, Tbl.set_set counted]
  unfold State.endIssue
  dsimp only
  rw [once]

theorem retire_counted (s : State) (n : Core) :
    (s.updCore n fun w => { w with partsDone := w.partsDone + 1 }).retire n = s.retire n := by
  unfold State.retire
  rw [endIssue_counted]

variable {s t u : State} {n : Nat} {k : State → Res} {info : W64}

/-- A store of one part. -/
theorem storeParts_one (first : (s.core n).partsDone = 0) {a : Nat} {bs r : List Byte} {p : Bool}
    (h : s.storePart n a bs = .ok t r p) :
    s.storeParts n [(a, bs)] k info = k (t.updCore n fun w => { w with partsDone := w.partsDone + 1 }) := by
  simp [State.storeParts, first, h]

/-- A store of two parts. -/
theorem storeParts_two (first : (s.core n).partsDone = 0) {x y : Nat × List Byte} {r q : List Byte} {p o : Bool}
    (hx : s.storePart n x.1 x.2 = .ok t r p)
    (hy : (t.updCore n fun w => { w with partsDone := w.partsDone + 1 }).storePart n y.1 y.2 = .ok u q o) :
    s.storeParts n [x, y] k info = k (u.updCore n fun w => { w with partsDone := w.partsDone + 1 }) := by
  simp [State.storeParts, first, hx, hy]

/-- A store that its checks admit, outside the register window, performs its parts. -/
theorem coreStore_parts {s : State} {n : Core} {a : W64} {bs : List Byte} {release : Bool} {k : State → Res}
    (space : spaceOf a.toNat ≠ .window) (admitted : s.accFault n a bs.length true = none)
    (free : s.tileHazard n (halves a bs.length) true = false) (ordered : release = true → s.storesDone n = true) :
    s.coreStore n a bs release k = s.storeParts n (storeHalves a bs) k a := by
  have goes : (release && (s.core n).partsDone == 0 && !s.storesDone n) = false := by
    cases release with
    | false => rfl
    | true => simp [ordered rfl]
  simp [State.coreStore, State.withStore, inWindow_of_space space, admitted, free, goes]

/-! ### Stores to tile memory. -/

variable {m : Nat}

theorem storePart_tile {a : Nat} (space : spaceOf a = .tile m) (on : s.tileOff m = false) (bs : List Byte) :
    s.storePart n a bs = .ok (s.tileWrite m (a % 0x40_0000) bs false) [] false := by
  simp only [State.storePart, space, on, Bool.false_eq_true, if_false]

/-- A store within one tile writes its parts to the tile. -/
theorem storeParts_tile {s : State} {n : Core} {a : W64} {bs : List Byte} (space : spaceOf a.toNat = .tile m)
    (on : s.tileOff m = false) (fits : a.toNat % 0x40_0000 + bs.length ≤ 0x40_0000) (first : (s.core n).partsDone = 0) :
    ∃ t, s.storeParts n (storeHalves a bs) Res.next a = .next t ∧ t.retire n
      = ((storeHalves a bs).foldl (fun t p => t.tileWrite m (p.1 % 0x40_0000) p.2 false) s).retire n := by
  by_cases within : a.toNat % 128 + bs.length ≤ 128
  · rw [storeHalves_within within]
    exact ⟨_, storeParts_one first (storePart_tile space on bs), retire_counted ..⟩
  · obtain ⟨hm, _, inRange⟩ := spaceOf_tile_iff.1 space
    rw [storeHalves_across (by omega) (by omega)]
    obtain ⟨space', place⟩ := next_in_tile (k := 128 - a.toNat % 128) space (by omega)
    refine ⟨_, storeParts_two first (storePart_tile space on _) (storePart_tile space' ?_ _), ?_⟩
    · simpa [State.tileOff] using on
    · rw [retire_counted, tileWrite_updCore, retire_counted]
      rfl

end Stores

/-! ## Atomics on tile memory (R98, R342). -/

section Atomics

/-- Tile memory after an atomic: with the new value, or as it was where a CAS does not match. -/
def State.tileSwap (s : State) (m off w : Nat) : Option W64 → State
  | some v => s.tileWrite m off (natToBytes v.toNat w) false
  | none => s

variable {s : State} {n : Core} {m w : Nat} {a b : W64} {rd : SReg} {fn : BitVec 12} {new : Option W64}

theorem atomicAt_tile {cmp : W64} (space : spaceOf a.toNat = .tile m) (on : s.tileOff m = false)
    (good : (s.tileBytes m (a.toNat % 0x40_0000) w).2 = false)
    (op : atomicNew (field fn.toNat 4 0) w (BitVec.ofNat 64 (bytesToNat (s.tileBytes m (a.toNat % 0x40_0000) w).1)) b cmp
      = some new) :
    s.atomicAt n a.toNat w fn b cmp = .ok (s.tileSwap m (a.toNat % 0x40_0000) w new)
      (BitVec.ofNat 64 (bytesToNat (s.tileBytes m (a.toNat % 0x40_0000) w).1)) := by
  simp only [State.atomicAt, space, on, good, op, Bool.false_eq_true, if_false]
  cases new <;> rfl

theorem coreAtomic_ok {t : State} {old : W64} (aligned : a.toNat % w = 0) (space : spaceOf a.toNat ≠ .window)
    (admitted : s.accFault n a w true = none) (free : s.tileHazard n [(a.toNat, w)] true = false)
    (ordered : fn.getLsbD 11 = true → s.storesDone n = true)
    (swapped : s.atomicAt n a.toNat w fn b (s.sreg n rd) = .ok t old) :
    s.coreAtomic n rd a w fn b = .next (t.setSreg n rd (atomicOld w old)) := by
  have goes : (fn.getLsbD 11 && !s.storesDone n) = false := by
    cases release : fn.getLsbD 11 with
    | false => rfl
    | true => simp [ordered release]
  simp only [State.coreAtomic, aligned, inWindow_of_space space, admitted, free, goes, swapped, ne_eq, not_true,
    Bool.false_eq_true, if_false]
  rfl

end Atomics

/-- Settles O16: a load is `loadParts_tile`, a store `storeParts_tile` and an atomic `atomicAt_tile`, each behind the checks
that its class makes first. -/
theorem tileMemoryAccessesComplete : Obligations.TileMemoryAccessesComplete := by
  intro n m s ready on
  refine ⟨fun rd ra fn imm => ?load, fun rs ra fn imm => ?store, fun rd ra rb fn w new => ?atomic⟩
  case load =>
    intro a len off legal space fits admitted free good
    obtain ⟨bs, parts, bytes⟩ := loadParts_tile (n := n) space on fits good
    refine instr_retires ready ((meets_body legal).trans ?_)
    rw [coreLoad_ok (by simp [space]) admitted free parts, bytes]
  case store =>
    intro a bs legal space fits admitted free first ordered
    obtain ⟨t, parts, ends⟩ := storeParts_tile space on fits first
    rw [← ends]
    exact instr_retires ready ((meets_body legal).trans ((coreStore_parts (by simp [space]) admitted free ordered).trans parts))
  case atomic =>
    intro a old size aligned space admitted free ordered good op
    refine instr_retires ready ((meets_body (by rw [size]; rfl)).trans ?_)
    rw [size]
    have memory : spaceOf a.toNat ≠ .window := by simp [space]
    exact coreAtomic_ok aligned memory admitted free ordered (atomicAt_tile space on good op)

end Sys2Proof.Machine

/-! Cacheable memory as a worker core reaches it: the store buffer, loads through the L1, and the statement O18. -/

namespace Sys2Proof.Machine

section StoreBuffer

variable {s : State} {n : Core} {a : W64} {len : Nat}

/-- The matrix unit of a core uses its own tile memory alone (R199). -/
theorem tileHazard_within (elsewhere : ∀ m, spaceOf a.toNat ≠ .tile m) (within : a.toNat % 128 + len ≤ 128) (store : Bool) :
    s.tileHazard n (halves a len) store = false := by
  unfold State.tileHazard
  dsimp only
  split
  · rfl
  · simp [halves_within within, elsewhere]

/-! ### Stores. -/

/-- A store to cacheable memory goes into the store buffer. -/
theorem storePart_buffered {x : Nat} {bs : List Byte} {w : Wrk} (space : spaceOf x = .stacked) (cached : s.cacheable x = true)
    (room : (s.core n).buffer x bs = some w) : s.storePart n x bs = .ok (s.updCore n fun _ => w) [] false := by
  simp only [State.storePart, space, cached, room, if_true]

/-! ### Loads. -/

/-- A load of cacheable stacked memory is the L1's. -/
theorem loadPart_cached {x : Nat} (space : spaceOf x = .stacked) (cached : s.cacheable x = true)
    (answers : s.busCode x = .okay) : s.loadPart n x len = s.l1Load n x len := by
  simp [State.loadPart, space, cached, answers]

theorem busCode_stacked {x : Nat} (space : spaceOf x = .stacked) : s.busCode x = .okay := by
  simp only [State.busCode, space]

/-- The store buffer gives the bytes that it covers. -/
theorem l1Load_covered {x : Nat} (covered : (s.core n).covers x len = true) :
    s.l1Load n x len = .ok s ((s.core n).overlay x (List.replicate len 0)) false := by
  simp only [State.l1Load, covered, if_true]

/-- A hit gives the bytes of the line, with those of the store buffer over them. -/
theorem l1Load_hit {l : CLine} {x : Nat} (uncovered : (s.core n).covers x len = false)
    (noFill : (s.cacheOf (.l1 n)).fills.find? (fun f => f.line == x / 128) = none) (serves : s.l1Serves n = true)
    (hit : s.held (.l1 n) (x / 128) = some l) :
    s.l1Load n x len = .ok ((s.updCache (.l1 n) fun c => c.touch ((Cacher.l1 n).set (x / 128)) (Cacher.l1 n).ways (x / 128)).count
      n 0x101) ((s.core n).overlay x (lineSlice l.data (x % 128) len)) l.poison := by
  simp only [State.l1Load, Fin.ofNat_val_eq_self, uncovered, noFill, serves, hit, Bool.false_eq_true, if_false, Bool.not_true]

/-- A miss asks for the line. -/
theorem l1Load_miss {x : Nat} (uncovered : (s.core n).covers x len = false)
    (noFill : (s.cacheOf (.l1 n)).fills.find? (fun f => f.line == x / 128) = none) (serves : s.l1Serves n = true)
    (miss : s.held (.l1 n) (x / 128) = none) : s.l1Load n x len = .wait (s.missFor n (x / 128) false) := by
  simp only [State.l1Load, Fin.ofNat_val_eq_self, uncovered, noFill, serves, miss, Bool.false_eq_true, if_false, Bool.not_true]

/-! ### Drains and losses. -/

/-- A buffered line that the L1 owns drains into it (R322 to R324). -/
theorem sbDrain_owned {l : Nat} {e : SbEntry} (entry : (s.core n).sb.find? (fun e => e.line == l) = some e)
    (answers : s.busCode (128 * l) = .okay) (cached : s.cacheable (128 * l) = true)
    (writeBack : (attrOf s.cfg (128 * l)).wpol = 0) (serves : s.l1Serves n = true) (owned : s.l1Owns n l = true) :
    s.sbDrain n l = ((s.l1Write n l e.mask e.data).updCache (.l1 n) fun c =>
      { c with fills := c.fills.filter fun f => f.line != l }).sbDrop n l := by
  simp [State.sbDrain, entry, answers, cached, writeBack, serves, owned]

/-- A buffered line whose fill or home write failed, and that no home has granted, is lost (R585). -/
theorem cachedStoreLost_eq {l : Nat} {c : BusResp} {e : SbEntry} (entry : e ∈ (s.core n).sb) (line : e.line = l)
    (failed : c ≠ .okay) (clean : c ≠ .poison) (ungranted : (s.cacheOf (.l1 n)).grants = []) :
    s.cachedStoreLost n l c = ((s.updCache (.l1 n) fun x =>
      { x with miss := if (x.miss.map (·.1)) = some l then none else x.miss,
               fills := x.fills.filter fun f => f.line != l }).storeLost n (128 * l) c).sbDrop n l := by
  have buffered : ((s.core n).sb.any fun e => e.line == l) = true := List.any_eq_true.2 ⟨e, entry, by simp [line]⟩
  exact if_neg (by simp [buffered, failed, clean, ungranted])

end StoreBuffer

/-- Settles O18: a store goes into the buffer (`storePart_buffered`), a load is one of the three cases of `l1Load`, and an
entry leaves the buffer by `sbDrain_owned` or `cachedStoreLost_eq`. -/
theorem storeBufferTakesDrainsAndLosesStores : Obligations.StoreBufferTakesDrainsAndLosesStores := by
  intro n s
  refine ⟨fun rs ra fn imm w => ?store, fun rd ra fn imm => ?load,
    fun l e on entry answers cached writeBack serves owned => ?drain,
    fun l c e entry line failed clean ungranted => ?lost⟩
  case store =>
    intro a bs ready legal space cached within admitted first ordered room
    have parts := storeParts_one (k := Res.next) (info := a) first (storePart_buffered space cached room)
    rw [← retire_counted]
    refine instr_retires ready ((meets_body legal).trans ?_)
    rw [coreStore_parts (by simp [space]) admitted (tileHazard_within (by simp [space]) within true) ordered,
      storeHalves_within within, parts]
  case load =>
    intro a len l r loads ready legal space cached within admitted free
    have memory : spaceOf a.toNat ≠ .window := by simp [space]
    have part : s.loadPart n a.toNat len = s.l1Load n a.toNat len :=
      loadPart_cached space cached (busCode_stacked space)
    have ends {t : State} {bs : List Byte} (h : s.l1Load n a.toNat len = .ok t bs false) :
        exec (.scalarLoad n rd ra fn imm) s = loads t bs := by
      refine instr_retires ready ((meets_body legal).trans ?_)
      rw [coreLoad_ok memory admitted free (by rw [halves_within within]; exact loadParts_one_ok (part.trans h))]
      simp
    refine ⟨fun covered => ends (l1Load_covered covered), fun uncovered noFill serves => ⟨fun x hit good => ends ?_, fun miss _ => ?_⟩⟩
    · rw [← good]
      exact l1Load_hit uncovered noFill serves hit
    · refine instr_waits ready ((meets_body legal).trans ?_)
      exact coreLoad_wait memory admitted free
        (by rw [halves_within within]; exact loadParts_one_wait (part.trans (l1Load_miss uncovered noFill serves miss)))
  case drain => exact finish_eq ((if_neg (by simp [on])).trans (sbDrain_owned entry answers cached writeBack serves owned))
  case lost =>
    refine ⟨_, finish_eq (cachedStoreLost_eq entry line failed clean ungranted), ?_, ?_, ?_⟩
    · show (s.updCache (.l1 n) _).err.queue ++ [mkDet 0x43 n (128 * l / 128 * 128) (busInfo c)] = _
      rw [updCache_err, Nat.mul_div_cancel_left l (by decide), Nat.mul_comm l]
    · rw [State.sbDrop, core_updCore_self]
      rfl
    · rfl

end Sys2Proof.Machine

/-! The vector instructions of a worker core that reach no memory: how they end, what a write of elements or of mask bits
leaves, and the statements O23 to O27. -/

namespace Sys2Proof.Machine

/-! ## How a vector instruction of a ready core ends (R199). -/

section VectorEnds

variable {s t : State} {n : Core} {word : W64} {legal : Bool} {regs named : List Nat} {body : State → Res}

theorem readyV_ready (ready : s.readyV n named = true) : s.ready n = true := (Bool.and_eq_true_iff.1 ready).1

@[simp] theorem readyV_nil : s.readyV n [] = s.ready n := by simp [State.readyV]

/-- An instruction that names some of the registers that no matrix read writes runs its body. -/
theorem vinstr_meets (ready : s.readyV n named = true) (names : regs ⊆ named) (hl : legal = true) :
    s.meets n word legal false (fun s => if regs.any (s.core n).mrdRegs.contains then .stay s else body s) = body s := by
  have free : regs.any (s.core n).mrdRegs.contains = false := by
    simp only [State.readyV, Bool.and_eq_true, Bool.not_eq_true', List.any_eq_false] at ready ⊢
    exact fun r hr => ready.2 r (names hr)
  rw [meets_body hl, free]
  rfl

/-- It completes. -/
theorem vinstr_retires (ready : s.readyV n named = true) (names : regs ⊆ named) (hl : legal = true) (e : body s = .next t) :
    finish s (s.vinstr n word legal regs body) = .next (s.after (t.retire n)) :=
  instr_retires (readyV_ready ready) ((vinstr_meets ready names hl).trans e)

/-- In job mode it traps, where no matrix instruction is left. -/
theorem vinstr_traps {code sub : Nat} {info : W64} (ready : s.readyV n named = true) (names : regs ⊆ named) (hl : legal = true)
    (job : (s.core n).monitor = false) (idle : (s.core n).matOps = []) (e : body s = .fault s code sub info) :
    finish s (s.vinstr n word legal regs body)
      = .next (s.after ((s.endIssue n).updCore n fun w => w.trap false code sub info)) := by
  rw [← except_job job]
  exact instr_excepts (readyV_ready ready) idle ((vinstr_meets ready names hl).trans e)

end VectorEnds

/-- Settles O23: each body sets cs.vl or moves a register, and nothing else. -/
theorem vectorLengthAndWholeMoves : Obligations.VectorLengthAndWholeMoves := by
  intro n s ready
  refine ⟨fun rd ra fmt defined => ?vsetvl, fun rd uimm fmt defined => ?vsetvli, fun vd va free => ?vmvr,
    fun vd free => ?vzero, fun md ma => ?mmvr⟩
  case vsetvl => exact instr_retires ready (meets_body defined)
  case vsetvli => exact instr_retires ready (meets_body defined)
  case vmvr => exact vinstr_retires free (List.Subset.refl _) rfl (congrArg Res.next (updCore_congr rfl))
  case vzero => exact vinstr_retires free (List.Subset.refl _) rfl rfl
  case mmvr =>
    exact vinstr_retires (readyV_nil.trans ready) (List.Subset.refl _) rfl (congrArg Res.next (updCore_congr rfl))

/-! ## Vector and mask registers. -/

section Registers

variable (w : Wrk)

theorem v_setV (i j : Nat) (x : VecReg) : (w.setV i x).v j = if j = i then x else w.v j := Tbl.get_set ..

theorem m_setM (i j : Nat) (x : MaskReg) : (w.setM i x).m j = if j = i then x else w.m j := Tbl.get_set ..

@[simp] theorem v_raise (f : Flags) (i : Nat) : (w.raise f).v i = w.v i := rfl

@[simp] theorem m_raise (f : Flags) (i : Nat) : (w.raise f).m i = w.m i := rfl

@[simp] theorem raise_zero : w.raise 0 = w := by simp [Wrk.raise]

end Registers

/-- A union of flags has the bits that one of them has. -/
theorem getLsbD_unionFlags (fs : List Flags) (k : Nat) : (unionFlags fs).getLsbD k = fs.any (·.getLsbD k) := by
  have from_ (a : Flags) : (fs.foldl (· ||| ·) a).getLsbD k = (a.getLsbD k || fs.any (·.getLsbD k)) := by
    induction fs generalizing a with
    | nil => simp
    | cons f fs ih => simp [ih, Bool.or_assoc]
  simp [unionFlags, from_]

/-- What `Wrk.elements` and the compares add to cs.flags: the flags of the active elements below the count (R174). -/
def activeFlags (cnt : Nat) (act : Nat → Bool) (fl : Nat → Flags) : Flags :=
  unionFlags ((List.range cnt).map fun j => if act j then fl j else 0)

theorem getLsbD_activeFlags (cnt : Nat) (act : Nat → Bool) (fl : Nat → Flags) (k : Nat) :
    (activeFlags cnt act fl).getLsbD k = (List.range cnt).any fun j => act j && (fl j).getLsbD k := by
  rw [activeFlags, getLsbD_unionFlags, List.any_map]
  congr 1
  funext j
  cases h : act j <;> simp [h]

theorem getLsbD_raise_activeFlags (w : Wrk) (cnt : Nat) (act : Nat → Bool) (fl : Nat → Flags) (k : Nat) :
    (w.raise (activeFlags cnt act fl)).flags.getLsbD k
      = (w.flags.getLsbD k || (List.range cnt).any fun j => act j && (fl j).getLsbD k) := by
  rw [← getLsbD_activeFlags]
  exact BitVec.getLsbD_or

/-! ## Elements (R144, R147). -/

section Elements

variable {width cnt j : Nat} {act : Nat → Bool}

theorem packElems_lt (width : Nat) (cs : List Nat) : packElems width cs < 2 ^ (width * cs.length) := by
  induction cs with
  | nil => simp [packElems]
  | cons c cs ih =>
    have low : c % 2 ^ width < 2 ^ width := Nat.mod_lt _ (Nat.two_pow_pos _)
    have : packElems width (c :: cs) = packElems width cs * 2 ^ width + c % 2 ^ width := rfl
    rw [this, List.length_cons, Nat.mul_succ, Nat.pow_add]
    calc packElems width cs * 2 ^ width + c % 2 ^ width
        < (packElems width cs + 1) * 2 ^ width := by rw [Nat.succ_mul]; omega
      _ ≤ 2 ^ (width * cs.length) * 2 ^ width := Nat.mul_le_mul_right _ ih

/-- The elements of packed codes are the codes. -/
theorem packElems_elem (width : Nat) (cs : List Nat) (j : Nat) :
    packElems width cs / 2 ^ (width * j) % 2 ^ width = cs.getD j 0 % 2 ^ width := by
  induction cs generalizing j with
  | nil => simp [packElems]
  | cons c cs ih =>
    have cons_ : packElems width (c :: cs) = c % 2 ^ width + 2 ^ width * packElems width cs := by
      rw [Nat.add_comm, Nat.mul_comm]; rfl
    cases j with
    | zero => simp [cons_]
    | succ j =>
      have high : packElems width (c :: cs) / 2 ^ width = packElems width cs := by
        rw [cons_, Nat.add_mul_div_left _ _ (Nat.two_pow_pos _), Nat.mod_div_self, Nat.zero_add]
      rw [Nat.mul_succ, Nat.add_comm, Nat.pow_add, ← Nat.div_div_eq_div_mul, high, ih, List.getD_cons_succ]

theorem testBit_vecElem (width : Nat) (r : VecReg) (j i : Nat) :
    (vecElem width r j).testBit i = (decide (i < width) && r.getLsbD (width * j + i)) := by
  rw [vecElem, Nat.testBit_mod_two_pow, Nat.testBit_shiftRight, BitVec.getLsbD]

/-- The low part of a register replaced, element by element. -/
theorem vecElem_splice (old : VecReg) {b : Nat} (hb : b < 2 ^ (width * cnt)) (fits : width * (j + 1) ≤ 8192) :
    vecElem width (BitVec.ofNat 8192 ((old.toNat >>> (width * cnt)) * 2 ^ (width * cnt) + b)) j
      = if j < cnt then b / 2 ^ (width * j) % 2 ^ width else vecElem width old j := by
  rw [Nat.mul_succ] at fits
  refine Nat.eq_of_testBit_eq fun i => ?_
  rw [testBit_vecElem, BitVec.getLsbD_ofNat, Nat.mul_comm _ (2 ^ _), Nat.testBit_two_pow_mul_add _ hb]
  by_cases hi : i < width
  · have inside : width * j + i < 8192 := by omega
    by_cases hj : j < cnt
    · have : width * (j + 1) ≤ width * cnt := Nat.mul_le_mul_left _ hj
      rw [Nat.mul_succ] at this
      simp [hi, hj, inside, Nat.testBit_div_two_pow, Nat.add_comm i, show width * j + i < width * cnt by omega]
    · have : width * cnt ≤ width * j := Nat.mul_le_mul_left _ (by omega)
      simp [testBit_vecElem, hi, hj, inside, BitVec.getLsbD, show ¬ width * j + i < width * cnt by omega,
        show width * cnt + (width * j + i - width * cnt) = width * j + i by omega]
  · by_cases hj : j < cnt <;> simp [testBit_vecElem, hi, hj]

/-- A write of elements, element by element (R147). -/
theorem vecElem_vecWrite (old : VecReg) (f : Nat → Nat) (fits : width * (j + 1) ≤ 8192) :
    vecElem width (vecWrite width cnt act old f) j
      = if j < cnt ∧ act j = true then f j % 2 ^ width else vecElem width old j := by
  have bound := packElems_lt width ((List.range cnt).map fun j => if act j then f j else vecElem width old j)
  rw [List.length_map, List.length_range] at bound
  rw [vecWrite, vecElem_splice old bound fits, packElems_elem]
  by_cases below : j < cnt
  · cases on : act j <;> simp [below, on, vecElem]
  · simp [below]

/-- An element-wise write of some elements is a write of them to the register, and of their flags. -/
theorem elements_eq (w : Wrk) (vd width : Nat) {cnt : Nat} (some_ : cnt ≠ 0) (act : Nat → Bool) (f : Nat → Nat × Flags) :
    w.elements vd width cnt act f = (w.setV vd (vecWrite width cnt act (w.v vd) fun j => (f j).1)).raise
      (activeFlags cnt act fun j => (f j).2) := by
  have codes : (((List.range cnt).map fun j => if act j then some (f j) else none).zipIdx.map fun r =>
      match r.1 with | some x => x.1 | none => vecElem width (w.v vd) r.2)
      = (List.range cnt).map fun j => if act j then (f j).1 else vecElem width (w.v vd) j := by
    refine List.ext_getElem (by simp) fun j _ _ => ?_
    cases on : act j <;> simp [on]
  have flags : (((List.range cnt).map fun j => if act j then some (f j) else none).map fun r =>
      match r with | some x => x.2 | none => 0) = (List.range cnt).map fun j => if act j then (f j).2 else 0 := by
    refine List.ext_getElem (by simp) fun j _ _ => ?_
    cases on : act j <;> simp [on]
  rw [vecWrite, activeFlags, ← codes, ← flags]
  exact if_neg some_

end Elements

/-- Settles O24: a write of no elements changes nothing, and any other is `elements_eq`, whose register is read back by
`vecElem_vecWrite`. -/
theorem elementWritesChangeActiveElementsOnly : Obligations.ElementWritesChangeActiveElementsOnly := by
  intro w vd width cnt act f _ _ short t
  by_cases none_ : cnt = 0
  · have same : t = w := if_pos none_
    simp [same, none_]
  · have written : t = _ := elements_eq w vd width none_ act f
    refine ⟨fun j fits => ?_, fun i other => ?_, fun k _ => ?_, ?_⟩
    · rw [written, v_raise, v_setV, if_pos rfl, vecElem_vecWrite _ _ fits, Nat.mod_eq_of_lt (short j)]
    · rw [written, v_raise, v_setV, if_neg other]
    · rw [written]
      exact getLsbD_raise_activeFlags ..
    · rw [written]
      rfl

/-! ## Element-wise instructions (R152 to R156, R158). -/

theorem scalarElem_mod (f : Nat) (v : W64) : scalarElem f v % 2 ^ fmtBits f = scalarElem f v := Nat.mod_mod ..

/-- VBCAST gives its second operand, in every format. -/
theorem vecBinary_broadcast (md : FpMode) (f a : Nat) (v : W64) : vecBinary md 13 f a (scalarElem f v) = (scalarElem f v, 0) := by
  unfold vecBinary
  split <;> simp [scalarElem_mod]

/-- Settles O25: each body writes elements by `State.elementwise`, with the operation's element function. -/
theorem elementwiseInstructionsWriteTheirElements : Obligations.ElementwiseInstructionsWriteTheirElements := by
  intro n vd va vb rb mk fmt s ready f w e done
  have two : [vd.val, va.val] ⊆ [vd.val, va.val, vb.val] := by simp
  refine ⟨fun op notUnary notMerge defined accepts => ?binary, fun zero defined accepts => ?broadcast,
    fun sub defined accepts => ?unary, fun defined accepts masked => ?merge, fun op defined accepts short => ?fma,
    fun accepts => ?permute, fun defined int => ?index⟩
  case binary =>
    have legal : (fmtDefined f && binaryAccepts op.toNat f && (op.toNat != 13 || va.val == 0)) = true := by
      simp [defined, accepts, notUnary]
    have writes (scalarB : Bool) : exec (.vectorElementwiseOp n scalarB op vd va vb mk fmt) s = done mk.val fun j =>
        vecBinary w.fp.arith op.toNat f (e va.val j) (if scalarB then scalarElem f (w.s vb.val) else e vb.val j) := by
      show finish s (if op.toNat = 14 then _ else if op.toNat = 13 ∧ _ then _ else _) = _
      rw [if_neg notMerge, if_neg (by simp [notUnary])]
      refine vinstr_retires ready ?_ legal rfl
      cases scalarB with
      | false => exact List.Subset.refl _
      | true => exact two
    exact ⟨writes false, writes true⟩
  case broadcast =>
    have value : (fun j => vecBinary w.fp.arith 13 f (e va.val j) (scalarElem f (w.s vb.val)))
        = fun _ => (scalarElem f (w.s vb.val), 0) := funext fun j => vecBinary_broadcast ..
    show exec _ _ = done _ _
    rw [← value]
    refine vinstr_retires ready two ?_ rfl
    simp only [Bool.and_eq_true]
    exact ⟨⟨defined, accepts⟩, by simp [zero]⟩
  case unary => exact vinstr_retires ready two (Bool.and_eq_true_iff.2 ⟨defined, accepts⟩) rfl
  case merge =>
    have legal : (fmtDefined f && (isF f || isI f) && mk.val != 0) = true := by simp [defined, accepts, masked]
    exact ⟨vinstr_retires ready (List.Subset.refl _) legal rfl, vinstr_retires ready two legal rfl⟩
  case fma =>
    have legal : (fmtDefined f && (isF f || isI f) && decide (op.toNat < 8)) = true := by simp [defined, accepts, short]
    refine vinstr_retires ready ?_ legal rfl
    split
    · exact two
    · exact List.Subset.refl _
  case permute =>
    exact ⟨vinstr_retires ready two accepts rfl, vinstr_retires ready two accepts rfl,
      vinstr_retires ready (List.Subset.refl _) accepts rfl⟩
  case index => exact vinstr_retires ready (by simp) (Bool.and_eq_true_iff.2 ⟨defined, int⟩) rfl

/-! ## Compares and mask operations (R157). -/

section Masks

/-- One bit of a mask written. -/
def putBit (m : MaskReg) (j : Nat) (b : Bool) : MaskReg :=
  if b then m ||| BitVec.ofNat 2048 (2 ^ j) else m &&& ~~~(BitVec.ofNat 2048 (2 ^ j))

/-- The bits that `r` gives written where they are active and below the count. -/
def putBits (m : MaskReg) (cnt : Nat) (act r : Nat → Bool) : MaskReg :=
  (List.range cnt).foldl (fun m j => if act j then putBit m j (r j) else m) m

theorem getLsbD_putBit (m : MaskReg) (j : Nat) (b : Bool) {i : Nat} (hi : i < 2048) :
    (putBit m j b).getLsbD i = if i = j then b else m.getLsbD i := by
  have bit : (BitVec.ofNat 2048 (2 ^ j)).getLsbD i = decide (i = j) := by
    rw [BitVec.getLsbD_ofNat, Nat.testBit_two_pow, decide_eq_true hi, Bool.true_and, decide_eq_decide]
    exact eq_comm
  cases b with
  | false =>
    rw [putBit, if_neg Bool.false_ne_true, BitVec.getLsbD_and, BitVec.getLsbD_not, bit]
    by_cases same : i = j <;> simp [hi, same]
  | true =>
    rw [putBit, if_pos rfl, BitVec.getLsbD_or, bit]
    by_cases same : i = j <;> simp [same]

theorem getLsbD_putBits (m : MaskReg) (cnt : Nat) (act r : Nat → Bool) {i : Nat} (hi : i < 2048) :
    (putBits m cnt act r).getLsbD i = if i < cnt ∧ act i = true then r i else m.getLsbD i := by
  induction cnt with
  | zero => simp [putBits]
  | succ cnt ih =>
    have next : putBits m (cnt + 1) act r
        = if act cnt then putBit (putBits m cnt act r) cnt (r cnt) else putBits m cnt act r := by
      simp [putBits, List.range_succ]
    rw [next]
    by_cases last : i = cnt
    · subst last
      cases on : act i <;> simp [on, ih, getLsbD_putBit _ _ _ hi]
    · have bound : i < cnt + 1 ↔ i < cnt := by omega
      simp only [bound, ← ih]
      split
      · rw [getLsbD_putBit _ _ _ hi, if_neg last]
      · rfl

/-- A core after a compare whose bits and flags `r` gives. -/
def Wrk.compared (w : Wrk) (md cnt : Nat) (act : Nat → Bool) (r : Nat → Bool × Flags) : Wrk :=
  (w.setM md (putBits (w.m md) cnt act fun j => (r j).1)).raise (activeFlags cnt act fun j => (r j).2)

/-- A compare writes mask bits and flags. -/
theorem exec_vectorCompare {s : State} {n : Core} {op : BitVec 4} {md : MReg} {va vb : VReg} {mk : MReg} {fmt : BitVec 5}
    (assigned : op.toNat < 10) (defined : fmtDefined fmt.toNat = true)
    (accepts : (isF fmt.toNat || (isI fmt.toNat && op.toNat % 5 != 4)) = true) (ready : s.readyV n [va.val, vb.val] = true) :
    exec (.vectorCompare n op md va vb mk fmt) s = .next (s.after ((s.updCore n fun w =>
      w.compared md.val (min w.vl (vlmax fmt.toNat)) (w.active mk.val) fun j =>
        vecCompare w.fp.arith (op.toNat % 5) fmt.toNat (vecElem (fmtBits fmt.toNat) (w.v va.val) j)
          (if 5 ≤ op.toNat then scalarElem fmt.toNat (w.s vb.val)
            else vecElem (fmtBits fmt.toNat) (w.v vb.val) j)).retire n)) := by
  have legal : (fmtDefined fmt.toNat && decide (op.toNat < 10)
      && (isF fmt.toNat || (isI fmt.toNat && op.toNat % 5 != 4))) = true := by
    simp only [defined, assigned, accepts, decide_true, Bool.and_self]
  show finish s (if 10 ≤ op.toNat ∧ op.toNat ≤ 12 then s else _) = _
  rw [if_neg (by omega)]
  refine vinstr_retires ready ?_ legal (congrArg Res.next (updCore_congr ?_))
  · split <;> simp
  · refine congr (congrArg (fun m => ((s.core n).setM md.val m).raise) ?_) ?_
    · rw [List.foldl_map]
      refine congrArg (fun f => List.foldl f _ _) (funext fun m => funext fun j => ?_)
      cases (s.core n).active mk.val j <;> simp [putBit]
    · rw [List.map_map]
      refine congrArg unionFlags (List.map_congr_left fun j _ => ?_)
      cases on : (s.core n).active mk.val j <;> simp [on]

/-- MPOP and MFIRST write rd where the count is not 0. -/
theorem maskOut_some {s : State} {n : Core} {f : Nat} (some_ : min (s.core n).vl (vlmax f) ≠ 0) (rd : SReg) (v : W64) :
    s.maskOut n rd f v = .next (s.setSreg n rd v) :=
  (if_neg some_).trans (congrArg Res.next (updCore_congr (raise_zero _)))

theorem maskOut_none {s : State} {n : Core} {f : Nat} (none_ : min (s.core n).vl (vlmax f) = 0) (rd : SReg) (v : W64) :
    s.maskOut n rd f v = .next s := if_pos none_

end Masks

/-- Settles O26: a compare is `exec_vectorCompare`, whose mask is read back by `getLsbD_putBits`, and the others write what
their bodies say. -/
theorem comparesAndMaskOperations : Obligations.ComparesAndMaskOperations := by
  intro n s ready w
  have readyNone : s.readyV n [] = true := readyV_nil.trans ready
  refine ⟨fun op md va vb mk fmt => ?compare, fun md ma mb sub unused => ?logic, fun rd ma fmt defined => ?scan⟩
  case compare =>
    intro f cnt e r assigned defined accepts free
    refine ⟨w.compared md.val cnt (w.active mk.val) r, ?_, fun j below => ?_, fun i other => ?_, fun k _ => ?_, rfl⟩
    · rw [exec_vectorCompare assigned defined accepts free]
      exact congrArg (fun t : State => Host.Outcome.next (s.after (t.retire n))) (updCore_congr rfl)
    · rw [Wrk.compared, m_raise, m_setM, if_pos rfl]
      exact getLsbD_putBits _ _ _ _ below
    · rw [Wrk.compared, m_raise, m_setM, if_neg other]
    · exact getLsbD_raise_activeFlags ..
  case logic =>
    refine vinstr_retires readyNone (List.Subset.refl _) ?_ (congrArg Res.next (updCore_congr rfl))
    simp only [Bool.and_eq_true, Bool.or_eq_true, decide_eq_true_eq, beq_iff_eq]
    omega
  case scan =>
    intro bits
    refine ⟨fun some_ => ⟨?_, ?_⟩, fun none_ => ⟨?_, ?_⟩⟩
    · exact vinstr_retires readyNone (List.Subset.refl _) defined (maskOut_some some_ rd _)
    · refine vinstr_retires readyNone (List.Subset.refl _) defined ((maskOut_some some_ rd _).trans ?_)
      show Res.next (s.setSreg n rd (match bits with | j :: _ => _ | [] => _)) = _
      cases bits <;> rfl
    · exact vinstr_retires readyNone (List.Subset.refl _) defined (maskOut_none none_ rd _)
    · exact vinstr_retires readyNone (List.Subset.refl _) defined (maskOut_none none_ rd _)

/-! ## Reductions, moves and conversions (R158 to R161). -/

section Reductions

variable {s : State} {n : Core} {op : Nat} {va : VReg} {mk : MReg} {f : Nat}

/-- A reduction writes rd and its flags, and nothing where the count is 0 (R146). -/
theorem reduce_retires (ready : s.readyV n [va.val] = true)
    (legal : (fmtDefined f && decide (op < 6) && (isI f || (isF f && decide (op < 3)))) = true) (rd : SReg) :
    let cs := ((List.range (min (s.core n).vl (vlmax f))).filter ((s.core n).active mk.val)).map
      (vecElem (fmtBits f) ((s.core n).v va.val))
    finish s (s.reduce n op rd va mk f) = .next (s.after (if min (s.core n).vl (vlmax f) = 0 then s.retire n
      else (s.updCore n fun w =>
        (w.setS rd.val (vecReduce w.fp.arith op f cs).1).raise (vecReduce w.fp.arith op f cs).2).retire n)) := by
  intro cs
  by_cases none_ : min (s.core n).vl (vlmax f) = 0
  · rw [if_pos none_]
    exact vinstr_retires ready (List.Subset.refl _) legal (if_pos none_)
  · rw [if_neg none_]
    exact vinstr_retires ready (List.Subset.refl _) legal ((if_neg none_).trans (congrArg Res.next (updCore_congr rfl)))

end Reductions

/-- A check that asks for zero where a condition holds. -/
theorem not_or_beq_zero {b : Bool} {x : Nat} (h : b = true → x = 0) : (!b || x == 0) = true := by
  cases b with
  | false => rfl
  | true => simp [h]

/-- Settles O27: reductions are `reduce_retires`, moves write what their bodies say, and VCVT converts or traps by whether its
count fills blocks. -/
theorem reductionsMovesAndConversions : Obligations.ReductionsMovesAndConversions := by
  refine ⟨fun n va mk fmt s ready => ?scalar, fun n vd va mk s ready => ?vector⟩
  case scalar =>
    intro f w cnt cs done rd
    refine ⟨fun defined accepts => ?reduce, fun op defined int lo hi => ?bitwise, fun rb accepts => ?toScalar,
      fun ra rb accepts => ?toVector⟩
    case reduce =>
      have legal {op : Nat} (h : op < 3) :
          (fmtDefined f && decide (op < 6) && (isI f || (isF f && decide (op < 3)))) = true := by
        simp only [Bool.or_eq_true] at accepts
        simp [defined, h, accepts.symm, show op < 6 by omega]
      exact ⟨reduce_retires ready (legal (by decide)) rd, reduce_retires ready (legal (by decide)) rd,
        reduce_retires ready (legal (by decide)) rd⟩
    case bitwise =>
      have legal : (fmtDefined f && decide (op.toNat < 6) && (isI f || (isF f && decide (op.toNat < 3)))) = true := by
        simp [defined, int, hi]
      show finish s (if 8 ≤ op.toNat ∧ op.toNat ≤ 14 then s else _) = _
      rw [if_neg (by omega)]
      exact reduce_retires ready legal rd
    case toScalar => exact vinstr_retires ready (List.Subset.refl _) accepts rfl
    case toVector => exact vinstr_retires ready (List.Subset.refl _) accepts (congrArg Res.next (updCore_congr rfl))
  case vector =>
    intro w
    refine ⟨fun fmt accepts => ?compress, fun sfmt dfmt part => ?convert⟩
    case compress => exact vinstr_retires ready (by simp) accepts (congrArg Res.next (updCore_congr rfl))
    case convert =>
      intro f d vw blk cnt accepts inRange unmasked source target
      have legal : (cvtAccepts f d && decide (part.toNat < max (vlmax f) (vlmax d) / vw) && (!blk || mk.val == 0)
          && (!fmtBlock f || va.val % 2 == 0) && (!fmtBlock d || vd.val % 2 == 0)) = true := by
        simp only [Bool.and_eq_true, decide_eq_true_eq]
        exact ⟨⟨⟨⟨accepts, inRange⟩, not_or_beq_zero unmasked⟩, not_or_beq_zero source⟩, not_or_beq_zero target⟩
      have names : [vd.val, va.val] ++ (if fmtBlock f then [va.val + 1] else []) ++ (if fmtBlock d then [vd.val + 1] else [])
          ⊆ [vd.val, va.val, va.val + 1, vd.val + 1] := by
        cases fmtBlock f <;> cases fmtBlock d <;> simp
      refine ⟨fun whole some_ => ?_, fun block ragged job idle => ?_⟩
      · have fills : ¬ (blk && cnt % 32 != 0) = true := by
          rcases whole with whole | whole <;> simp [whole]
        exact vinstr_retires ready names legal ((if_neg fills).trans (if_neg some_))
      · have breaks : (blk && cnt % 32 != 0) = true := by simp [block, ragged]
        exact vinstr_traps ready names legal job idle (if_pos breaks)

end Sys2Proof.Machine

/-! The vector accesses of a worker core to tile memory, and the statements O28 and O29. -/

namespace Sys2Proof.Machine

/-! ## Folds. -/

/-- A fold that gathers one value for each entry of a numbered list. -/
theorem foldl_zipIdx_gather {α β γ : Type} {f : β → α × Nat → β} (acc : List γ → β) (g : α → γ) {ps : List α}
    (h : ∀ bs, ∀ p ∈ ps, ∀ i, f (acc bs) (p, i) = acc (bs ++ [g p])) (k : Nat) (bs : List γ) :
    (ps.zipIdx k).foldl f (acc bs) = acc (bs ++ ps.map g) := by
  induction ps generalizing k bs with
  | nil => simp
  | cons p ps ih =>
    rw [List.zipIdx_cons, List.foldl_cons, h bs p List.mem_cons_self,
      ih (fun bs q hq => h bs q (List.mem_cons_of_mem _ hq))]
    simp

/-- A fold that makes a step of its own for each entry, while `P` holds. -/
theorem foldl_steps {α β σ : Type} {f : β → α → β} (acc : σ → β) (step : σ → α → σ) {P : σ → Prop}
    (keeps : ∀ s p, P s → P (step s p)) {ps : List α} (h : ∀ s, P s → ∀ p ∈ ps, f (acc s) p = acc (step s p))
    {s : σ} (hs : P s) : ps.foldl f (acc s) = acc (ps.foldl step s) := by
  induction ps generalizing s with
  | nil => rfl
  | cons p ps ih =>
    rw [List.foldl_cons, h s hs p List.mem_cons_self, List.foldl_cons]
    exact ih (fun s hs q hq => h s hs q (List.mem_cons_of_mem _ hq)) (keeps s p hs)

/-! ## Elements in one tile (R163 to R166). -/

section Elements

variable {s : State} {n : Core} {m : Nat} {es : List VElem} {store : Bool}

/-- What `State.elemsInTile` gives, check by check: the tile is on, no matrix instruction has the bytes in use, no element
faults, and every part lies in the tile, where a load meets no bad word. -/
theorem elemsInTile_checks (fits : s.elemsInTile n m es store = true) :
    s.tileOff m = false ∧ s.tileHazard n (es.flatMap fun e => halves e.addr e.len) store = false
      ∧ (∀ e ∈ es, s.elemFault n e store = none)
      ∧ ∀ h ∈ es.flatMap fun e => halves e.addr e.len,
          spaceOf h.1 = .tile m ∧ (store = false → (s.tileBytes m (h.1 % 0x40_0000) h.2).2 = false) := by
  simp only [State.elemsInTile, Bool.and_eq_true, Bool.not_eq_true', List.all_eq_true, Option.isNone_iff_eq_none,
    beq_iff_eq, Bool.or_eq_true] at fits
  obtain ⟨⟨on, free⟩, each⟩ := fits
  refine ⟨on, free, fun e he => (each e he).1, fun h hh => ?_⟩
  obtain ⟨e, he, part⟩ := List.mem_flatMap.1 hh
  obtain ⟨⟨space, -⟩, good⟩ := (each e he).2 h part
  exact ⟨space, fun load => good.resolve_left (by simp [load])⟩

/-- Where no element faults, an access goes on to its parts. -/
theorem findFault_none (sound : ∀ e ∈ es, s.elemFault n e store = none) :
    (es.findSome? fun e => (s.elemFault n e store).map fun f => (e.idx, f)) = none :=
  List.findSome?_eq_none_iff.2 fun e he => by rw [sound e he]; rfl

/-! ### Loads. -/

/-- Parts that a load performs without a change of state give their bytes. -/
theorem loadParts_each {ps : List (Nat × Nat)} {g : Nat × Nat → List Byte}
    (h : ∀ p ∈ ps, s.loadPart n p.1 p.2 = .ok s (g p) false) : s.loadParts n ps = .ok s (ps.map g) := by
  unfold State.loadParts
  refine (foldl_zipIdx_gather (Loaded.ok s) g (fun bs p hp i => ?_) 0 []).trans (by rw [List.nil_append])
  simp [h p hp]

/-- The bytes of the parts, given back to the elements that they belong to. -/
theorem gatherElems (g : Nat × Nat → List Byte) (es : List VElem) (acc : List (VElem × List Byte)) :
    es.foldl (fun (r : List (List Byte) × List (VElem × List Byte)) e =>
        let h := (halves e.addr e.len).length
        (r.1.drop h, r.2 ++ [(e, (r.1.take h).flatten)])) ((es.flatMap fun e => halves e.addr e.len).map g, acc)
      = ([], acc ++ es.map fun e => (e, ((halves e.addr e.len).map g).flatten)) := by
  induction es generalizing acc with
  | nil => simp
  | cons e es ih =>
    rw [List.foldl_cons, List.flatMap_cons, List.map_append]
    simp only [List.drop_left' (List.length_map g), List.take_left' (List.length_map g)]
    rw [ih]
    simp

/-- A load of elements that lie in one tile gives each its bytes (R166). -/
theorem vecLoad_tile (fits : s.elemsInTile n m es false = true) (k : State → List (VElem × List Byte) → Res) :
    s.vecLoad n es k = k s (es.map fun e => (e, s.tileElem m e)) := by
  obtain ⟨on, free, sound, parts⟩ := elemsInTile_checks fits
  have numbered : (es.flatMap fun e => (halves e.addr e.len).map fun h => (e.idx, h)).map (·.2)
      = es.flatMap fun e => halves e.addr e.len := by
    simp [List.map_flatMap, Function.comp_def]
  have loaded := loadParts_each (n := n) (g := fun h => (s.tileBytes m (h.1 % 0x40_0000) h.2).1)
    fun h hh => loadPart_tile (parts h hh).1 on ((parts h hh).2 rfl)
  simp only [State.vecLoad, findFault_none sound, numbered, free, loaded, gatherElems]
  rfl

/-- A load of some elements into a register replaces their bytes (R145). -/
theorem vecLoadTo_tile (some_ : es ≠ []) (fits : s.elemsInTile n m es false = true) (vd f : Nat) :
    s.vecLoadTo n vd f es = .next (s.updCore n fun w => w.setV vd (sixTop f (es.foldl (fun r e =>
      putBytes r e.off (s.tileElem m e)) (w.v vd)))) := by
  rw [State.vecLoadTo, if_neg (by simpa using some_), vecLoad_tile fits]
  simp only [List.foldl_map]

/-! ### Stores. -/

/-- Parts of a store written to tile memory. -/
def State.tileWrites (s : State) (m : Nat) (ps : List (Nat × List Byte)) : State :=
  ps.foldl (fun t p => t.tileWrite m (p.1 % 0x40_0000) p.2 false) s

theorem tileWrites_updCore (s : State) (m c : Nat) (f : Wrk → Wrk) (ps : List (Nat × List Byte)) :
    (s.updCore c f).tileWrites m ps = (s.tileWrites m ps).updCore c f := by
  induction ps generalizing s with
  | nil => rfl
  | cons p ps ih =>
    show ((s.updCore c f).tileWrite m _ _ false).tileWrites m ps = _
    rw [tileWrite_updCore, ih]
    rfl

/-- A part written, and counted. -/
def State.tilePart (s : State) (n : Core) (m : Nat) (p : Nat × List Byte) : State :=
  (s.tileWrite m (p.1 % 0x40_0000) p.2 false).updCore n fun w => { w with partsDone := w.partsDone + 1 }

/-- How many parts a store has performed is forgotten with its end. -/
theorem retire_tileParts (s : State) (n : Core) (m : Nat) (ps : List (Nat × List Byte)) :
    (ps.foldl (fun t p => t.tilePart n m p) s).retire n = (s.tileWrites m ps).retire n := by
  induction ps generalizing s with
  | nil => rfl
  | cons p ps ih =>
    rw [List.foldl_cons, ih, State.tilePart, tileWrites_updCore, retire_counted]
    rfl

/-- A store whose parts lie in one tile writes them all. -/
theorem storeParts_inTile {ps : List (Nat × List Byte)} (on : s.tileOff m = false) (first : (s.core n).partsDone = 0)
    (inTile : ∀ p ∈ ps, spaceOf p.1 = .tile m) (info : W64) :
    s.storeParts n ps Res.next info = .next (ps.foldl (fun t p => t.tilePart n m p) s) := by
  have keeps (t : State) (p : Nat × List Byte) (ht : t.tileOff m = false) : (t.tilePart n m p).tileOff m = false := by
    simpa [State.tileOff, State.tilePart] using ht
  unfold State.storeParts
  rw [first, List.drop_zero, foldl_steps (fun t => ((t, none) : State × Option Res)) (fun t p => t.tilePart n m p) keeps
    (fun t ht p hp => ?_) on]
  simp only [storePart_tile (inTile p hp) ht]
  rfl

/-- The parts of a store are those of its range. -/
theorem storeHalves_range (a : W64) (bs : List Byte) :
    (storeHalves a bs).map (fun p => (p.1, p.2.length)) = halves a bs.length := by
  unfold storeHalves halves
  dsimp only
  by_cases within : bs.length ≤ 128 - a.toNat % 128
  · simp only [if_pos within, List.map_cons, List.map_nil]
  · simp only [if_neg within, List.map_cons, List.map_nil, List.length_take, List.length_drop]
    rw [Nat.min_eq_left (by omega)]

/-- A store of elements that lie in one tile writes their bytes (R166, R168). -/
theorem vecStore_tile {bytes : VElem → List Byte} (fits : s.elemsInTile n m es true = true)
    (first : (s.core n).partsDone = 0) (sized : ∀ e ∈ es, (bytes e).length = e.len) :
    ∃ t, s.vecStore n (es.map fun e => (e, bytes e)) = .next t ∧ t.retire n
      = (es.foldl (fun t e => (storeHalves e.addr (bytes e)).foldl (fun t p =>
          t.tileWrite m (p.1 % 0x40_0000) p.2 false) t) s).retire n := by
  obtain ⟨on, free, sound, parts⟩ := elemsInTile_checks fits
  have ranges : (es.flatMap fun e => storeHalves e.addr (bytes e)).map (fun p => (p.1, p.2.length))
      = es.flatMap fun e => halves e.addr e.len := by
    rw [List.map_flatMap, List.flatMap_def, List.flatMap_def]
    exact congrArg List.flatten (List.map_congr_left fun e he => by rw [storeHalves_range, sized e he])
  have inTile : ∀ p ∈ es.flatMap fun e => storeHalves e.addr (bytes e), spaceOf p.1 = .tile m := by
    intro p hp
    have : (p.1, p.2.length) ∈ es.flatMap fun e => halves e.addr e.len := ranges ▸ List.mem_map_of_mem hp
    exact (parts _ this).1
  refine ⟨(es.flatMap fun e => storeHalves e.addr (bytes e)).foldl (fun t p => t.tilePart n m p) s, ?_,
    (retire_tileParts s n m _).trans ?_⟩
  · simp only [State.vecStore, List.findSome?_map, Function.comp_def, findFault_none sound, List.flatMap_map, ranges, free,
      storeParts_inTile on first inTile]
    rfl
  · rw [State.tileWrites, List.foldl_flatMap]

end Elements

/-! ## Vector accesses by their form. -/

theorem length_natToBytes (v len : Nat) : (natToBytes v len).length = len := by
  induction len generalizing v with
  | zero => rfl
  | succ len ih => rw [natToBytes, List.length_cons, ih]

section Accesses

variable {s : State} {n : Core} {m : Nat} {es : List VElem} {word : W64} {legal : Bool} {regs named : List Nat}

/-- A contiguous access whose count fills blocks, or whose elements are bytes, performs its elements (R164). -/
theorem contiguous_whole {f : Nat} (whole : 8 ≤ fmtBits f ∨ min (s.core n).vl (vlmax f) % 32 = 0) (ra : SReg) (mk : Nat)
    (k : State → List VElem → Res) : s.contiguous n ra mk f k
      = k s ((s.core n).elems mk f (s.sreg n ra) fun j => BitVec.ofNat 64 (j * fmtBits f / 8)) := by
  refine if_neg fun ⟨narrow, ragged⟩ => ?_
  rcases whole with wide | filled
  · exact absurd narrow (Nat.not_lt_of_le wide)
  · exact ragged filled

/-- A vector instruction that ends in a load of elements of one tile into a register. -/
theorem vload_retires {body : State → Res} {vd f : Nat} (ready : s.readyV n named = true) (names : regs ⊆ named)
    (hl : legal = true) (fits : es ≠ [] ∧ s.elemsInTile n m es false = true) (loads : body s = s.vecLoadTo n vd f es) :
    finish s (s.vinstr n word legal regs body) = .next (s.after ((s.updCore n fun w => w.setV vd (sixTop f
      (es.foldl (fun r e => putBytes r e.off (s.tileElem m e)) (w.v vd)))).retire n)) :=
  vinstr_retires ready names hl (loads.trans (vecLoadTo_tile fits.1 fits.2 vd f))

/-- A vector instruction that ends in a store of elements of one tile. -/
theorem vstore_retires {body : State → Res} {bytes : VElem → List Byte} (ready : s.readyV n named = true)
    (names : regs ⊆ named) (hl : legal = true) (fits : s.elemsInTile n m es true = true)
    (first : (s.core n).partsDone = 0) (sized : ∀ e ∈ es, (bytes e).length = e.len)
    (stores : body s = s.vecStore n (es.map fun e => (e, bytes e))) :
    finish s (s.vinstr n word legal regs body) = .next (s.after ((es.foldl (fun t e =>
      (storeHalves e.addr (bytes e)).foldl (fun t p => t.tileWrite m (p.1 % 0x40_0000) p.2 false) t) s).retire n)) := by
  obtain ⟨t, stored, ends⟩ := vecStore_tile fits first sized
  rw [← ends]
  exact vinstr_retires ready names hl (stores.trans stored)

end Accesses

/-- Settles O28: each load is `vload_retires` for the elements of its form, and MLD is `vecLoad_tile`. -/
theorem vectorLoadsFromTileMemory : Obligations.VectorLoadsFromTileMemory := by
  intro n m vd ra mk fmt s ready f w load fits unit
  have whole := List.Subset.refl [vd.val]
  refine ⟨fun legal fills inTile => ?contiguous, fun rb defined wide inTile => ?strided, fun vb legal inTile free => ?indexed,
    fun inTile => ?register, fun md inTile => ?mask⟩
  case contiguous => exact vload_retires ready whole legal inTile (contiguous_whole fills ra mk.val _)
  case strided => exact vload_retires ready whole (Bool.and_eq_true_iff.2 ⟨defined, decide_eq_true wide⟩) inTile rfl
  case indexed => exact vload_retires free (List.Subset.refl _) legal inTile rfl
  case register => exact vload_retires ready whole rfl inTile rfl
  case mask =>
    refine vinstr_retires ready (List.nil_subset _) rfl ((vecLoad_tile inTile.2 _).trans ?_)
    simp only [List.foldl_map]

/-- Settles O29: each store is `vstore_retires` for the elements of its form. -/
theorem vectorStoresToTileMemory : Obligations.VectorStoresToTileMemory := by
  intro n m vd ra mk fmt s ready first f w store reg fits unit
  have whole := List.Subset.refl [vd.val]
  have sized (e : VElem) : (reg e).length = e.len := length_natToBytes ..
  refine ⟨fun legal fills inTile => ?contiguous, fun rb defined wide inTile => ?strided, fun vb legal inTile free => ?indexed,
    fun inTile => ?register, fun md inTile => ?mask⟩
  case contiguous =>
    exact vstore_retires ready whole legal inTile first (fun e _ => sized e) (contiguous_whole fills ra mk.val _)
  case strided =>
    exact vstore_retires ready whole (Bool.and_eq_true_iff.2 ⟨defined, decide_eq_true wide⟩) inTile first
      (fun e _ => sized e) rfl
  case indexed => exact vstore_retires free (List.Subset.refl _) legal inTile first (fun e _ => sized e) rfl
  case register => exact vstore_retires ready whole rfl inTile first (fun e _ => sized e) rfl
  case mask =>
    exact vstore_retires ready (List.nil_subset _) rfl inTile first (fun e _ => length_natToBytes ..) rfl

end Sys2Proof.Machine

/-! The matrix unit of a worker core: how its instructions join the queue, which of those that run completes first, and the
statements O30 and O31. -/

namespace Sys2Proof.Machine

/-! ## The queue (R187, R197). -/

section Queue

variable {s : State} {n : Core} {word : W64} {legal pair seeded : Bool} {acc : AccId} {kind : MatKind} {body : State → Res}
  {named : List Nat}

/-- The instruction that a core queues: it takes the shape and the mode in force and the next place in the order. -/
def Wrk.newOp (w : Wrk) (acc : AccId) (pair : Bool) (kind : MatKind) : MatOp :=
  { kind, acc := acc.val, pair, rows := w.mrows, cols := w.ncols, md := w.fp, order := w.mseq, done := 0 }

/-- A core with one instruction more in its queue. -/
def Wrk.queued (w : Wrk) (acc : AccId) (pair : Bool) (kind : MatKind) (seeded : Bool) : Wrk :=
  { w with mq := w.mq ++ [w.newOp acc pair kind], mseq := w.mseq + 1,
           srseed := if seeded && w.fp.srnd then w.srseed + 1 else w.srseed }

/-- Where the queue has room, an instruction whose check passes joins it. -/
theorem matIssue_joins {check : Option (Nat × W64)} (room : (s.core n).mq.length < 8) (passes : check = none) :
    s.matIssue n acc.val pair kind seeded check = .next (s.updCore n (·.queued acc pair kind seeded)) := by
  subst passes
  exact (if_neg (Nat.not_le.2 room)).trans (congrArg Res.next (updCore_congr rfl))

/-- A legal instruction whose body issues it joins the queue and completes. -/
theorem instr_joins {check : Option (Nat × W64)} (ready : s.ready n = true) (room : (s.core n).mq.length < 8)
    (hl : legal = true) (passes : check = none) (issues : body s = s.matIssue n acc.val pair kind seeded check) :
    finish s (s.instr n word legal false body)
      = .next (s.after ((s.updCore n (·.queued acc pair kind seeded)).retire n)) :=
  instr_retires ready ((meets_body hl).trans (issues.trans (matIssue_joins room passes)))

/-- So does one that names vector registers, where no matrix read writes them. -/
theorem vinstr_joins {check : Option (Nat × W64)} (free : s.readyV n named = true) (room : (s.core n).mq.length < 8)
    (hl : legal = true) (passes : check = none) (issues : body s = s.matIssue n acc.val pair kind seeded check) :
    finish s (s.vinstr n word legal named body)
      = .next (s.after ((s.updCore n (·.queued acc pair kind seeded)).retire n)) :=
  vinstr_retires free (List.Subset.refl _) hl (issues.trans (matIssue_joins room passes))

/-- The check of a row passes where the shape has it. -/
theorem rowCheck_none {w : Wrk} {v : W64} (row : v.toNat < w.mrows) : rowCheck w v = none := if_neg (Nat.not_le.2 row)

/-- What a conversion's legality asks of its block scales and its pair. -/
theorem accConv_legal {f rb a : Nat} (accepts : convAccepts pair f = true) (scales : fmtBlock f = true ∨ rb = 0)
    (even : pair = true → a % 2 = 0) :
    (convAccepts pair f && (fmtBlock f || rb == 0) && (!pair || a % 2 == 0)) = true := by
  simp only [accepts, not_or_beq_zero even, Bool.true_and, Bool.and_true, Bool.or_eq_true, beq_iff_eq]
  exact scales

end Queue

/-- Settles O30: each instruction's body is `State.matIssue` under its own check, which `matIssue_joins` runs. -/
theorem matrixInstructionsQueue : Obligations.MatrixInstructionsQueue := by
  intro n acc ra rb rc fmt s ready f w join a b room
  refine ⟨fun fb legal passes => ?product, fun legal => ⟨?zero, fun passes => ⟨?load, ?store⟩⟩,
    fun pair accepts scales even passes => ?convert, fun v legal row => ⟨?rowRead, fun free => ?rowWrite⟩⟩
  case product => exact instr_joins ready room legal passes rfl
  case zero => exact instr_joins ready room legal rfl rfl
  case load => exact instr_joins ready room legal passes rfl
  case store => exact instr_joins ready room legal passes rfl
  case convert =>
    cases pair <;> exact instr_joins ready room (accConv_legal accepts scales even) passes rfl
  case rowRead => exact instr_joins ready room legal (rowCheck_none row) rfl
  case rowWrite => exact vinstr_joins free room legal (rowCheck_none row) rfl

/-! ## The engines (R197, R198). -/

/-- Of some instructions that run, one completes first. -/
theorem firstDone_eq_none_iff (l : List MatOp) : firstDone l = none ↔ l = [] := by
  cases l with
  | nil => exact iff_of_true rfl rfl
  | cons o rest =>
    rw [firstDone]
    split
    case h_1 => split <;> simp
    case h_2 => simp

/-- It is one of them, and none completes before it. -/
theorem firstDone_least {l : List MatOp} {o : MatOp} (first : firstDone l = some o) : o ∈ l ∧ ∀ y ∈ l, o.done ≤ y.done := by
  induction l generalizing o with
  | nil => cases first
  | cons p rest ih =>
    rw [firstDone] at first
    split at first
    case h_1 x later =>
      obtain ⟨isIn, least⟩ := ih later
      split at first
      case isTrue before =>
        cases first
        exact ⟨List.mem_cons_of_mem _ isIn, List.forall_mem_cons.2 ⟨Nat.le_of_lt before, least⟩⟩
      case isFalse notBefore =>
        cases first
        exact ⟨List.mem_cons_self, List.forall_mem_cons.2
          ⟨Nat.le_refl _, fun y hy => Nat.le_trans (Nat.not_lt.1 notBefore) (least y hy)⟩⟩
    case h_2 none_ =>
      cases first
      rw [firstDone_eq_none_iff] at none_
      simp [none_]

section Engines

variable {s : State} {n : Core} {e : MEngine} {o : MatOp}

/-- The cycle in which an instruction of an engine can start now: after the cycles that have run and the last completion,
and no earlier than the engine is free. -/
def State.matBegin (s : State) (n : Core) (e : MEngine) : Nat :=
  max (max (Tbl.get 0 s.time.ran (n.val / 64)) (s.core n).matLast + 1)
    (if e = .array then (s.core n).arrayFree else (s.core n).accessFree)

/-- A core whose engine starts an instruction in cycle `start`. -/
def Wrk.starts (w : Wrk) (e : MEngine) (o : MatOp) (start : Nat) : Wrk :=
  let x := { o with done := start + o.times.1 + o.times.2 }
  { w with mq := w.mq.filter fun y => y.order != o.order,
           arrayRun := if e = .array then w.arrayRun ++ [x] else w.arrayRun,
           accessRun := if e = .access then w.accessRun ++ [x] else w.accessRun,
           arrayFree := if e = .array then start + o.times.1 else w.arrayFree,
           accessFree := if e = .access then start + o.times.1 else w.accessFree }

/-- A core after an instruction that ran is complete. -/
def Wrk.completes (w : Wrk) (o : MatOp) : Wrk :=
  { w with arrayRun := w.arrayRun.filter fun y => y.order != o.order,
           accessRun := w.accessRun.filter fun y => y.order != o.order, matLast := max w.matLast o.done }

/-- The oldest queued instruction of a clocked engine starts where nothing that it depends on is incomplete. -/
theorem matStart_starts (clocked : s.matRuns n = true)
    (oldest : (s.core n).mq.find? (fun o => o.engine == e) = some o)
    (free : ((s.core n).matOps.any fun y => decide (y.order < o.order) && o.dependsOn y) = false) :
    s.matStart n e = s.updCore n (·.starts e o (s.matBegin n e)) := by
  unfold State.matStart
  simp only [oldest]
  rw [if_neg (by simp [clocked, free])]
  rfl

/-- The instruction of a clocked engine that completes first has its effect made and is incomplete no longer. -/
theorem matComplete_completes (clocked : s.matRuns n = true)
    (first : firstDone (if e = .array then (s.core n).arrayRun else (s.core n).accessRun) = some o) :
    s.matComplete n e = (s.opEffect n o).updCore n (·.completes o) := by
  unfold State.matComplete
  simp only [first]
  rw [if_neg (by simp [clocked])]
  rfl

/-- MFENCE completes once no matrix instruction is left, and waits until then. -/
theorem exec_mfence (ready : s.ready n = true) :
    exec (.mfence n) s = .next (s.after (if (s.core n).matOps = [] then s.retire n else s)) := by
  split
  case isTrue none_ => exact instr_retires ready ((meets_body rfl).trans (if_pos (List.isEmpty_iff.2 none_)))
  case isFalse left =>
    exact instr_stays ready ((meets_body rfl).trans (if_neg fun empty => left (List.isEmpty_iff.1 empty)))

end Engines

/-- Settles O31: the choice is `firstDone_least`, the events are `matStart_starts` and `matComplete_completes`, and the two
instructions end as their bodies say. -/
theorem matrixEnginesStartAndComplete : Obligations.MatrixEnginesStartAndComplete := by
  refine ⟨fun l => ⟨firstDone_eq_none_iff l, fun _ => firstDone_least⟩, fun n s => ?_⟩
  refine ⟨fun e o clocked oldest free => ?start, fun e o clocked first => ?complete,
    fun ready => ⟨?fence, fun mrowsm1 ncolsm1 small => ?shape⟩⟩
  case start => exact finish_eq (matStart_starts clocked oldest free)
  case complete => exact finish_eq (matComplete_completes clocked first)
  case fence => exact exec_mfence ready
  case shape => exact instr_retires ready (meets_body (decide_eq_true small))

end Sys2Proof.Machine

/-! Tree tables and the acceptance of queries: the laws of the table's operations, of their requesters and of Saffron's
store, and the statements O32, O33 and O35. -/

namespace Sys2Proof.Machine

/-! ## Entries of the tree tables (R225, R227, R229). -/

section TreeTables

variable {s : State} {p x : Nat} {root xs : W64}

@[simp] theorem tree_updTree_self (s : State) (p x : Nat) (f : TreeEnt → TreeEnt) :
    (s.updTree p x f).tree p x = f (s.tree p x) := Tbl.get_upd_self ..

/-- Entries of other partitions and of other numbers have places of their own. -/
theorem tree_updTree_other (s : State) {p x p' x' : Nat} (f : TreeEnt → TreeEnt) (hx : x < 1024) (hx' : x' < 1024)
    (other : p' ≠ p ∨ x' ≠ x) : (s.updTree p x f).tree p' x' = s.tree p' x' :=
  Tbl.get_upd_other _ _ f (by omega)

/-- An entry whose staged root has become current under the next epoch. -/
def TreeEnt.swapped (t : TreeEnt) : TreeEnt :=
  { t with curRoot := t.nextRoot, curXs := t.nextXs, epoch := t.epoch + 1, nextValid := false }

/-- An entry with a root staged. -/
def TreeEnt.staged (t : TreeEnt) (root xs : W64) : TreeEnt := { t with nextRoot := root, nextXs := xs, nextValid := true }

theorem treeSwap_noNext (none_ : (s.tree p x).nextValid = false) : s.treeSwap p x = (7, s) := by
  simp [State.treeSwap, none_]

theorem treeSwap_full (next : (s.tree p x).nextValid = true) (full : (s.tree p x).epoch - (s.tree p x).retired = 3) :
    s.treeSwap p x = (8, s) := by
  simp [State.treeSwap, next, full]

theorem treeSwap_swaps (next : (s.tree p x).nextValid = true) (room : (s.tree p x).epoch - (s.tree p x).retired ≠ 3) :
    s.treeSwap p x = (0, s.updTree p x TreeEnt.swapped) := by
  simp only [State.treeSwap, next, Bool.not_true, Bool.false_eq_true, if_false, if_neg room]
  rfl

theorem setNext_badRoot (bad : s.rootOk p root.toNat = false) (xs : W64) : s.setNext p x root xs = (9, s) := by
  simp [State.setNext, bad]

theorem setNext_badXs (good : s.rootOk p root.toNat = true) (bad : s.xsFits p xs.toNat = false) :
    s.setNext p x root xs = (10, s) := by
  simp [State.setNext, good, bad]

theorem setNext_stages (good : s.rootOk p root.toNat = true) (fits : s.xsFits p xs.toNat = true) :
    s.setNext p x root xs = (0, s.updTree p x (·.staged root xs)) := by
  simp only [State.setNext, good, fits, Bool.not_true, Bool.false_eq_true, if_false]
  rfl

/-- Whatever SWAP answers, it changes its own entry at most. -/
theorem treeSwap_changes (s : State) (p x : Nat) :
    (s.treeSwap p x).2 = s ∨ ∃ f, (s.treeSwap p x).2 = s.updTree p x f := by
  by_cases next : (s.tree p x).nextValid = true
  · by_cases full : (s.tree p x).epoch - (s.tree p x).retired = 3
    · exact .inl (by rw [treeSwap_full next full])
    · exact .inr ⟨_, by rw [treeSwap_swaps next full]⟩
  · exact .inl (by rw [treeSwap_noNext (Bool.eq_false_iff.2 next)])

/-- Whatever SETNEXT answers, it changes its own entry at most. -/
theorem setNext_changes (s : State) (p x : Nat) (root xs : W64) :
    (s.setNext p x root xs).2 = s ∨ ∃ f, (s.setNext p x root xs).2 = s.updTree p x f := by
  by_cases good : s.rootOk p root.toNat = true
  · by_cases fits : s.xsFits p xs.toNat = true
    · exact .inr ⟨_, by rw [setNext_stages good fits]⟩
    · exact .inl (by rw [setNext_badXs good (Bool.eq_false_iff.2 fits)])
  · exact .inl (by rw [setNext_badRoot (Bool.eq_false_iff.2 good)])

/-- An operation that changes its own entry at most leaves every other. -/
theorem tree_other {t : State} (changes : t = s ∨ ∃ f, t = s.updTree p x f) {p' x' : Nat} (hx : x < 1024) (hx' : x' < 1024)
    (other : p' ≠ p ∨ x' ≠ x) : t.tree p' x' = s.tree p' x' := by
  rcases changes with rfl | ⟨f, rfl⟩
  · rfl
  · exact tree_updTree_other s f hx hx' other

end TreeTables

/-- Settles O32: SWAP and SETNEXT by what they find, and both change their own entry at most. -/
theorem treeTableOperations : Obligations.TreeTableOperations := by
  intro s p x root xs
  refine ⟨fun next room => ?swaps, treeSwap_noNext, treeSwap_full, fun bad => setNext_badRoot bad xs, setNext_badXs,
    fun good fits => ?stages, fun p' x' hx hx' other => ?other⟩
  case swaps =>
    rw [treeSwap_swaps next room]
    exact ⟨rfl, tree_updTree_self ..⟩
  case stages =>
    rw [setNext_stages good fits]
    exact ⟨rfl, tree_updTree_self ..⟩
  case other =>
    exact ⟨tree_other (treeSwap_changes s p x) hx hx' other, tree_other (setNext_changes s p x root xs) hx hx' other⟩

/-! ## Requests of an HK cycle (R228, R229). -/

section Requests

/-- An operation takes its place among those in order, after those of its own requester. -/
def ttInsert (a : List TtOp) (o : TtOp) : List TtOp :=
  a.takeWhile (fun x => decide (x.unit ≤ o.unit)) ++ [o] ++ a.dropWhile fun x => decide (x.unit ≤ o.unit)

theorem ttOrder_eq (l : List TtOp) : ttOrder l = l.foldl ttInsert [] := rfl

theorem ttInsert_before {x o : TtOp} (first : x.unit ≤ o.unit) (a : List TtOp) : ttInsert (x :: a) o = x :: ttInsert a o := by
  simp [ttInsert, first]

theorem ttInsert_after {x o : TtOp} (last : o.unit < x.unit) (a : List TtOp) : ttInsert (x :: a) o = o :: x :: a := by
  simp [ttInsert, Nat.not_le.2 last]

theorem ttInsert_perm (a : List TtOp) (o : TtOp) : (ttInsert a o).Perm (o :: a) := by
  have whole := List.takeWhile_append_dropWhile (p := fun x : TtOp => decide (x.unit ≤ o.unit)) (l := a)
  rw [ttInsert, List.append_assoc]
  exact List.perm_middle.trans (.of_eq (congrArg (o :: ·) whole))

theorem ttInsert_sorted {a : List TtOp} {o : TtOp} (sorted : a.Pairwise fun x y => x.unit ≤ y.unit) :
    (ttInsert a o).Pairwise fun x y => x.unit ≤ y.unit := by
  induction a with
  | nil => exact List.pairwise_singleton ..
  | cons x a ih =>
    obtain ⟨least, rest⟩ := List.pairwise_cons.1 sorted
    by_cases first : x.unit ≤ o.unit
    · rw [ttInsert_before first]
      refine List.pairwise_cons.2 ⟨fun y hy => ?_, ih rest⟩
      rcases List.mem_cons.1 ((ttInsert_perm a o).mem_iff.1 hy) with rfl | hy
      · exact first
      · exact least y hy
    · have last : o.unit < x.unit := Nat.not_le.1 first
      rw [ttInsert_after last]
      refine List.pairwise_cons.2 ⟨fun y hy => ?_, sorted⟩
      rcases List.mem_cons.1 hy with rfl | hy
      · exact Nat.le_of_lt last
      · exact Nat.le_trans (Nat.le_of_lt last) (least y hy)

theorem foldl_ttInsert_perm (l a : List TtOp) : (l.foldl ttInsert a).Perm (a ++ l) := by
  induction l generalizing a with
  | nil => rw [List.append_nil, List.foldl_nil]
  | cons o l ih => exact (ih _).trans (((ttInsert_perm a o).append_right l).trans List.perm_middle.symm)

/-- The operations of an HK cycle take effect in ascending order of their requesters. -/
theorem ttOrder_sorts (l : List TtOp) : (ttOrder l).Perm l ∧ (ttOrder l).Pairwise fun a b => a.unit ≤ b.unit :=
  ⟨foldl_ttInsert_perm l [],
    List.foldlRecOn l ttInsert (motive := fun a => a.Pairwise fun x y => x.unit ≤ y.unit) List.Pairwise.nil
      fun _ sorted _ _ => ttInsert_sorted sorted⟩

/-- RETIRED advances over epochs that have ended and hold no query, and stops at the first that holds one. -/
theorem retireGo_advances (t : TreeEnt) (n r : Nat) :
    r ≤ retireGo t n r
      ∧ (∀ e, r ≤ e → e < retireGo t n r → e < t.epoch ∧ Tbl.get 0 t.inflight e = 0)
      ∧ (retireGo t n r < r + n → retireGo t n r < t.epoch → Tbl.get 0 t.inflight (retireGo t n r) ≠ 0) := by
  induction n generalizing r with
  | zero =>
    simp only [retireGo]
    exact ⟨Nat.le_refl _, by omega, by omega⟩
  | succ n ih =>
    by_cases past : r < t.epoch ∧ Tbl.get 0 t.inflight r = 0
    · obtain ⟨up, quiet, stop⟩ := ih (r + 1)
      simp only [retireGo, if_pos past]
      refine ⟨by omega, fun e lo hi => ?_, fun soon => stop (by omega)⟩
      rcases Nat.eq_or_lt_of_le lo with rfl | lo
      · exact past
      · exact quiet e lo hi
    · simp only [retireGo, if_neg past]
      exact ⟨Nat.le_refl _, by omega, fun _ live zero => past ⟨live, zero⟩⟩

end Requests

/-! ## The end of an HK cycle (R228, R230, R231). -/

section Take

variable {s : State} {o : TtOp}

/-- The result code of an operation on the table of an enabled partition. -/
def State.ttCode (s : State) (o : TtOp) : Nat :=
  if o.op = 1 then (s.setNext o.part o.entry o.root o.xs).1
  else if o.op = 2 then (s.treeSwap o.part o.entry).1 else 0

/-- What an operation on the table of an enabled partition makes of the state. -/
def State.ttEffect (s : State) (o : TtOp) : State :=
  if o.op = 1 then (s.setNext o.part o.entry o.root o.xs).2
  else if o.op = 2 then (s.treeSwap o.part o.entry).2 else s

/-- What READ copies; the others copy nothing. -/
def State.ttCopied (s : State) (o : TtOp) (old : Tbl W64) : Tbl W64 :=
  if o.op = 3 then (s.tree o.part o.entry).copy else old

/-- An operation changes its own entry at most. -/
theorem ttEffect_changes (s : State) (o : TtOp) :
    s.ttEffect o = s ∨ ∃ f, s.ttEffect o = s.updTree o.part o.entry f := by
  unfold State.ttEffect
  split
  · exact setNext_changes ..
  · split
    · exact treeSwap_changes ..
    · exact .inl rfl

@[simp] theorem ttEffect_wrk (s : State) (o : TtOp) : (s.ttEffect o).wrk = s.wrk := by
  rcases ttEffect_changes s o with e | ⟨f, e⟩
  · rw [e]
  · rw [e, updTree_wrk]

@[simp] theorem ttEffect_ttRegs (s : State) (o : TtOp) : (s.ttEffect o).ttRegs = s.ttRegs := by
  rcases ttEffect_changes s o with e | ⟨f, e⟩
  · rw [e]
  · rw [e, updTree_ttRegs]

@[simp] theorem ttEffect_ttOps (s : State) (o : TtOp) : (s.ttEffect o).ttOps = s.ttOps := by
  rcases ttEffect_changes s o with e | ⟨f, e⟩
  · rw [e]
  · rw [e, updTree_ttOps]

/-- A SWAP that nothing refuses. -/
theorem ttSwap_acts (swap : o.op = 2) (next : (s.tree o.part o.entry).nextValid = true)
    (room : (s.tree o.part o.entry).epoch - (s.tree o.part o.entry).retired ≠ 3) :
    s.ttCode o = 0 ∧ s.ttEffect o = s.updTree o.part o.entry TreeEnt.swapped := by
  simp [State.ttCode, State.ttEffect, swap, treeSwap_swaps next room]

/-- A SETNEXT that nothing refuses. -/
theorem ttSetnext_acts (stage : o.op = 1) (good : s.rootOk o.part o.root.toNat = true)
    (fits : s.xsFits o.part o.xs.toNat = true) :
    s.ttCode o = 0 ∧ s.ttEffect o = s.updTree o.part o.entry (·.staged o.root o.xs) := by
  simp [State.ttCode, State.ttEffect, stage, setNext_stages good fits]

/-- SETNEXT, SWAP, and whatever else reads. -/
theorem ttApply_on (on : s.partOn o.part = true) :
    s.ttApply o = (s.ttCode o, if o.op = 1 ∨ o.op = 2 then [] else (s.tree o.part o.entry).copy, s.ttEffect o) := by
  simp only [State.ttApply, on, State.ttCode, State.ttEffect, Bool.not_true, Bool.false_eq_true, if_false]
  split
  case h_1 one => simp [one]
  case h_2 two => simp [two]
  case h_3 one two => simp [show o.op ≠ 1 from one, show o.op ≠ 2 from two]

/-- What a requester gets of a READ: only a READ copies, and it never fails where its partition is enabled. -/
theorem ttApply_copied (on : s.partOn o.part = true) (old : Tbl W64) :
    (if (o.op == 3 && (s.ttApply o).1 == 0) = true then (s.ttApply o).2.1 else old) = s.ttCopied o old := by
  rw [ttApply_on on, State.ttCopied]
  by_cases read : o.op = 3
  · simp [read, State.ttCode]
  · simp [read]

/-- A worker core gets its result. -/
theorem ttTake_core (on : s.partOn o.part = true) (core : o.unit < 0x100) :
    s.ttTake o = (s.ttEffect o).updCore o.unit fun w => { w with ttRes := some (s.ttCode o), tt := s.ttCopied o w.tt } := by
  simp only [State.ttTake, if_pos core, ttApply_copied on]
  rw [ttApply_on on]

/-- The firmware register set shows the result. -/
theorem ttTake_regs (on : s.partOn o.part = true) (regs : 0x100 ≤ o.unit) :
    s.ttTake o = { s.ttEffect o with ttRegs := { s.ttRegs with
      result := ttResult (s.ttCode o), busy := false, copy := s.ttCopied o s.ttRegs.copy } } := by
  simp only [State.ttTake, if_neg (Nat.not_lt.2 regs), ttApply_copied on]
  rw [ttApply_on on, ttEffect_ttRegs]

theorem ttTake_tree (on : s.partOn o.part = true) (p x : Nat) : (s.ttTake o).tree p x = (s.ttEffect o).tree p x := by
  rcases Nat.lt_or_ge o.unit 0x100 with core | regs
  · rw [ttTake_core on core]
    rfl
  · rw [ttTake_regs on regs]

theorem ttTake_ttOps (on : s.partOn o.part = true) : (s.ttTake o).ttOps = s.ttOps := by
  rcases Nat.lt_or_ge o.unit 0x100 with core | regs
  · rw [ttTake_core on core, updCore_ttOps, ttEffect_ttOps]
  · rw [ttTake_regs on regs]
    exact ttEffect_ttOps s o

/-- An operation alone takes effect at the end of its HK cycle. -/
theorem ttTick_one (alone : s.ttOps = [o]) : s.ttTick = State.ttTake { s with ttOps := [] } o := by
  simp only [State.ttTick, alone]
  rfl

/-- The codes do not depend on what waits for the end of the HK cycle. -/
theorem ttCode_ttOps (s : State) (l : List TtOp) (o : TtOp) : State.ttCode { s with ttOps := l } o = s.ttCode o := by
  have staging : (State.setNext { s with ttOps := l } o.part o.entry o.root o.xs).1
      = (s.setNext o.part o.entry o.root o.xs).1 := by
    simp only [State.setNext, apply_ite Prod.fst]
    rfl
  have swapping : (State.treeSwap { s with ttOps := l } o.part o.entry).1 = (s.treeSwap o.part o.entry).1 := by
    simp only [State.treeSwap, apply_ite Prod.fst]
  rw [State.ttCode, State.ttCode, staging, swapping]

end Take

/-! ## Requesters (R228, R231, R261). -/

section Requesters

variable {s : State} {n : Core} {rd ra rb : SReg}

/-- The instructions that send an operation on a tree table. -/
abbrev treeInstrs (n : Core) (rd ra rb : SReg) : List Instr := [.ttnext n rd ra rb, .ttswap n rd ra, .ttread n rd ra]

/-- Each of them does nothing but send its operation and answer its code. -/
theorem exec_treeInstr {i : Instr} (named : i ∈ treeInstrs n rd ra rb) (s : State) :
    ∃ word body release op entry root xs, exec i s = finish s (s.instr n word true false body)
      ∧ body s = s.treeOp n rd release op entry root xs := by
  simp only [List.mem_cons, List.not_mem_nil, or_false] at named
  rcases named with rfl | rfl | rfl
  · exact ⟨_, _, _, _, _, _, _, rfl, rfl⟩
  · exact ⟨_, _, _, _, _, _, _, rfl, rfl⟩
  · exact ⟨_, _, _, _, _, _, _, rfl, rfl⟩

variable {release : Bool} {op entry : Nat} {root xs : W64}

/-- The result of its operation ends the instruction. -/
theorem treeOp_done {c : Nat} (done : (s.core n).ttRes = some c) :
    s.treeOp n rd release op entry root xs
      = .next ((s.updCore n fun w => { w with ttRes := none }).setSreg n rd (BitVec.ofNat 64 c)) := by
  simp only [State.treeOp, done]
  rfl

/-- A core in no enabled partition gets NO_PARTITION. -/
theorem treeOp_noPart (fresh : (s.core n).ttRes = none) (noPart : s.onPart n = none) :
    s.treeOp n rd release op entry root xs = .next (s.setSreg n rd 11) := by
  simp only [State.treeOp, fresh, noPart]
  rfl

/-- An operation is sent once the stores before a releasing instruction are visible. -/
theorem treeOp_posts {p : Nat} (fresh : (s.core n).ttRes = none) (part : s.onPart n = some p)
    (unsent : (s.ttOps.any fun o => o.unit == n.val) = false) (stores : release = true → s.storesDone n = true) :
    s.treeOp n rd release op entry root xs = .wait (s.ttPost ⟨n.val, p, entry, op, root, xs⟩) := by
  have visible : (release && !s.storesDone n) = false := by
    cases release with
    | false => rfl
    | true => simp [stores rfl]
  simp [State.treeOp, fresh, part, unsent, visible]

/-- A command written while BUSY is ignored and sets CMD_REJECT. -/
theorem ttCmd_busy {c op : Nat} (busy : s.ttRegs.busy = true) :
    s.ttCmd c op = { s with ttRegs := { s.ttRegs with cmdReject := true } } := by
  simp [State.ttCmd, busy]

/-- A command written otherwise sends its operation. -/
theorem ttCmd_posts {c op : Nat} (free : s.ttRegs.busy = false) (some_ : op ≠ 0) :
    s.ttCmd c op = { s with ttRegs := { s.ttRegs with busy := true }, ttOps := s.ttOps ++
      [⟨0x450 + c, s.ttRegs.part, s.ttRegs.entry, op, s.ttRegs.nextRoot, s.ttRegs.nextXs⟩] } := by
  simp [State.ttCmd, free, some_, State.ttPost]

variable {a : Agent}

/-- The three commands of the register set, by what a write of TRV_TT_CMD does. -/
theorem exec_ttCmds (heard : s.mute a = false) (may : s.regCode a .ttCmd true .full = .okay) :
    exec (.ttSetnext a) s = .next (s.after ((s.ttCmd (a.hart / 8) 1).reply .okay 0))
      ∧ exec (.ttSwap a) s = .next (s.after ((s.ttCmd (a.hart / 8) 2).reply .okay 0))
      ∧ exec (.ttRead a) s = .next (s.after ((s.ttCmd (a.hart / 8) 3).reply .okay 0)) :=
  ⟨finish_eq (regCmd_okay heard may 1), finish_eq (regCmd_okay heard may 2), finish_eq (regCmd_okay heard may 3)⟩

end Requesters

/-- Settles O33: the order is `ttOrder_sorts`, the instructions end as `treeOp` says, the register set's commands as `ttCmd`
says, the end of the HK cycle is `ttTake`, and RETIRED moves as `retireGo_advances` says. -/
theorem treeTableCommandsComplete : Obligations.TreeTableCommandsComplete := by
  refine ⟨ttOrder_sorts, fun s => ⟨fun n rd ra rb ready => ⟨fun c i named done => ?done, fun i named fresh noPart => ?noPart,
    fun p fresh part unsent => ⟨fun stores => ⟨?next, ?swap⟩, ?read⟩⟩,
    fun a heard may => ⟨fun free => ?cmds, fun i named busy => ?busy⟩, fun o alone on => ?tick, fun p x => ?retire⟩⟩
  case done =>
    obtain ⟨_, _, _, _, _, _, _, runs, sends⟩ := exec_treeInstr named s
    rw [runs]
    exact instr_retires ready ((meets_body rfl).trans (sends.trans (treeOp_done done)))
  case noPart =>
    obtain ⟨_, _, _, _, _, _, _, runs, sends⟩ := exec_treeInstr named s
    rw [runs]
    exact instr_retires ready ((meets_body rfl).trans (sends.trans (treeOp_noPart fresh noPart)))
  case next => exact instr_waits ready ((meets_body rfl).trans (treeOp_posts fresh part unsent fun _ => stores))
  case swap => exact instr_waits ready ((meets_body rfl).trans (treeOp_posts fresh part unsent fun _ => stores))
  case read => exact instr_waits ready ((meets_body rfl).trans (treeOp_posts fresh part unsent nofun))
  case cmds =>
    obtain ⟨stage, swap, read⟩ := exec_ttCmds heard may
    rw [ttCmd_posts free (by decide)] at stage swap read
    exact ⟨stage, swap, read⟩
  case busy =>
    obtain ⟨stage, swap, read⟩ := exec_ttCmds heard may
    rw [ttCmd_busy busy] at stage swap read
    simp only [List.mem_cons, List.not_mem_nil, or_false] at named
    rcases named with rfl | rfl | rfl
    · exact stage
    · exact swap
    · exact read
  case tick =>
    rw [ttTick_one alone]
    let s0 : State := { s with ttOps := [] }
    have on0 : s0.partOn o.part = true := on
    have code : s0.ttCode o = s.ttCode o := ttCode_ttOps s [] o
    have read (old : Tbl W64) (h : o.op = 3) : s0.ttCopied o old = (s.tree o.part o.entry).copy := if_pos h
    refine ⟨ttTake_ttOps on0, fun core => ?_, fun regs => ?_, fun op next room => ?_, fun op good fits => ?_⟩
    · rw [ttTake_core on0 core, core_updCore_self, code]
      exact ⟨rfl, ttEffect_ttRegs s0 o, read _⟩
    · rw [ttTake_regs on0 regs, code]
      exact ⟨ttEffect_wrk s0 o, rfl⟩
    · obtain ⟨ok, effect⟩ := ttSwap_acts (s := s0) op next room
      rw [ttTake_tree on0, effect]
      exact ⟨code.symm.trans ok, tree_updTree_self ..⟩
    · obtain ⟨ok, effect⟩ := ttSetnext_acts (s := s0) op good fits
      rw [ttTake_tree on0, effect]
      exact ⟨code.symm.trans ok, tree_updTree_self ..⟩
  case retire =>
    obtain ⟨up, quiet, stop⟩ := retireGo_advances (s.tree p.val x.val) 4 (s.tree p.val x.val).retired
    exact ⟨retireGo (s.tree p.val x.val) 4 (s.tree p.val x.val).retired, rfl, up, quiet, stop⟩

/-! ## What reads and writes of memory leave to Saffron and the tree tables (R250, R338). -/

section Tables

variable (s : State)

/-- The tree tables and the four Saffrons. -/
def State.queryTables (s : State) : Tbl TreeEnt × Tbl Saffron := (s.trees, s.saf)

@[simp] theorem updMem_queryTables (f : MemSt → MemSt) : (s.updMem f).queryTables = s.queryTables := rfl
@[simp] theorem updErr_queryTables (f : ErrSt → ErrSt) : (s.updErr f).queryTables = s.queryTables := rfl
@[simp] theorem updVault_queryTables (v : Nat) (f : Vlt → Vlt) : (s.updVault v f).queryTables = s.queryTables := rfl
@[simp] theorem updSlice_queryTables (n : Nat) (f : Slice → Slice) : (s.updSlice n f).queryTables = s.queryTables := rfl
@[simp] theorem raiseDet_queryTables (d : Detection) : (s.raiseDet d).queryTables = s.queryTables := rfl
@[simp] theorem raise_queryTables (d u a i : Nat) : (s.raise d u a i).queryTables = s.queryTables := rfl
@[simp] theorem choose_queryTables (n : Nat) : (s.choose n).2.queryTables = s.queryTables := rfl
@[simp] theorem carRecord_queryTables (k : Nat) (b : List Byte) : (s.carRecord k b).queryTables = s.queryTables := rfl
@[simp] theorem eraseSlice_queryTables (v t k : Nat) : (s.eraseSlice v t k).queryTables = s.queryTables := rfl

@[simp] theorem updCache_queryTables (r : Cacher) (f : Cache → Cache) : (s.updCache r f).queryTables = s.queryTables := by
  cases r <;> rfl

@[simp] theorem addPmc_queryTables (u i k : Nat) : (s.addPmc u i k).queryTables = s.queryTables := by
  simp only [State.addPmc]
  split
  · split <;> rfl
  · rfl

@[simp] theorem count_queryTables (u ev : Nat) : (s.count u ev).queryTables = s.queryTables := by
  unfold State.count State.countBy
  split
  · rfl
  · refine foldl_keeps State.queryTables (fun t i => ?_) _ _
    dsimp only
    split
    · exact addPmc_queryTables ..
    · rfl

@[simp] theorem rawWrite_queryTables (l : Nat) (m : BitVec 128) (d : Line128) (p : Bool) :
    (s.rawWrite l m d p).queryTables = s.queryTables := by
  simp only [State.rawWrite]
  split
  · rfl
  · split <;> rfl

@[simp] theorem tileWrite_queryTables (n off : Nat) (bs : List Byte) (p : Bool) :
    (s.tileWrite n off bs p).queryTables = s.queryTables := by rw [tileWrite_frame]; rfl

@[simp] theorem tileFind_queryTables (n off len : Nat) : (s.tileFind n off len).queryTables = s.queryTables := by
  unfold State.tileFind
  split
  · rfl
  · refine foldl_keeps State.queryTables (fun t w => ?_) _ _
    rfl

/-! ### The vaults. -/

@[simp] theorem satCount_queryTables (old u i : Nat) : (s.satCount old u i).2.queryTables = s.queryTables := by
  unfold State.satCount
  dsimp only
  split <;> rfl

@[simp] theorem activate_queryTables (v bank row : Nat) : (s.activate v bank row).queryTables = s.queryTables := by
  unfold State.activate
  extract_lets x t c t1
  split
  · exact count_queryTables ..
  · rfl

@[simp] theorem openRow_queryTables (v l : Nat) (read : Bool) : (s.openRow v l read).queryTables = s.queryTables := by
  simp only [State.openRow]
  split
  · split <;> simp
  · split <;> simp

@[simp] theorem innerPass_queryTables (v t : Nat) (p : ErrPat) : (s.innerPass v t p).2.2.queryTables = s.queryTables := by
  unfold State.innerPass
  refine foldl_keeps (fun a : ErrPat × Bool × State => a.2.2.queryTables) (fun a sl => ?_) _ _
  extract_lets here many c r k
  have chosen : c.2.queryTables = a.2.2.queryTables := by
    unfold c
    split
    · exact choose_queryTables ..
    · rfl
  split
  · have counted : k.2.queryTables = c.2.queryTables := satCount_queryTables ..
    dsimp only
    rw [raise_queryTables, updVault_queryTables, counted, chosen]
  · exact chosen

@[simp] theorem diagnose_queryTables (v t sl : Nat) : (s.diagnose v t sl).queryTables = s.queryTables := by
  unfold State.diagnose
  extract_lets x d k s1
  have marked : s1.queryTables = s.queryTables := updVault_queryTables ..
  split
  · split
    · exact (eraseSlice_queryTables ..).trans marked
    · split
      · exact marked
      · exact (raiseDet_queryTables ..).trans marked
  · exact marked

@[simp] theorem vaultDecode_queryTables (v l : Nat) (hit : List SymErr) :
    (s.vaultDecode v l hit).2.queryTables = s.queryTables := by
  simp only [State.vaultDecode]
  split
  · rfl
  · split
    · rfl
    · split
      · simp
      · split
        · simp
        · split
          · simp
          · dsimp only
            split <;> simp

@[simp] theorem vaultPut_queryTables (v l : Nat) (d : Line128) (p : Bool) :
    (s.vaultPut v l d p).queryTables = s.queryTables := rawWrite_queryTables ..

@[simp] theorem vaultFetch_queryTables (v l : Nat) (hit : List SymErr) :
    (s.vaultFetch v l hit).2.2.queryTables = s.queryTables := by
  simp only [State.vaultFetch]
  split <;> simp

@[simp] theorem vaultMerge_queryTables (v l : Nat) (m : BitVec 128) (d : Line128) (p : Bool) (hit : List SymErr) :
    (s.vaultMerge v l m d p hit).1.queryTables = s.queryTables := by
  unfold State.vaultMerge
  split <;> simp [State.vaultStore]

@[simp] theorem memRead_queryTables (l : Nat) : (s.memRead l).2.queryTables = s.queryTables := by
  unfold State.memRead
  split <;> simp

@[simp] theorem memWrite_queryTables (l : Nat) (m : BitVec 128) (d : Line128) (p : Bool) :
    (s.memWrite l m d p).1.queryTables = s.queryTables := by
  unfold State.memWrite
  split <;> simp

/-! ### The home slice. -/

@[simp] theorem dirMap_queryTables (l : Nat) (f : DirEnt → DirEnt) : (s.dirMap l f).queryTables = s.queryTables := by
  simp only [State.dirMap, State.dirSet]
  split <;> rfl

@[simp] theorem takeCopy_queryTables (r : Cacher) (l : Nat) : (s.takeCopy r l).1.queryTables = s.queryTables :=
  updCache_queryTables ..

@[simp] theorem shareCopy_queryTables (r : Cacher) (l : Nat) : (s.shareCopy r l).1.queryTables = s.queryTables :=
  updCache_queryTables ..

@[simp] theorem dropNodes_queryTables (l : Nat) : (s.dropNodes l).queryTables = s.queryTables := by
  unfold State.dropNodes
  split
  · exact (dirMap_queryTables ..).trans (foldl_keeps State.queryTables (fun _ _ => takeCopy_queryTables ..) _ _)
  · rfl

@[simp] theorem l2Modify_queryTables (l : Nat) (f : CLine → CLine) : (s.l2Modify l f).queryTables = s.queryTables := rfl
@[simp] theorem l2SetAge_queryTables (l a : Nat) : (s.l2SetAge l a).queryTables = s.queryTables := rfl

@[simp] theorem l2Install_queryTables (l : Nat) (elig : List Nat) (x : CLine) (age : Nat) :
    (s.l2Install l elig x age).queryTables = s.queryTables := by
  simp only [State.l2Install]
  split
  · split <;> simp
  · rfl

@[simp] theorem l2Hit_queryTables (l : Nat) : (s.l2Hit l).queryTables = s.queryTables := by
  simp only [State.l2Hit]
  split <;> simp

@[simp] theorem l2Serve_queryTables (l : Nat) (own : Option (Line128 × Bool)) (alloc : Bool) :
    (s.l2Serve l own alloc).2.queryTables = s.queryTables := by
  unfold State.l2Serve
  split
  · exact l2Hit_queryTables ..
  · cases own <;> cases alloc <;> simp

@[simp] theorem homePut_queryTables (l : Nat) (d : Line128) (p : Bool) (b : Nat) :
    (s.homePut l d p b).queryTables = s.queryTables := by
  simp only [State.homePut]
  split
  · simp
  · split <;> simp

@[simp] theorem land_queryTables (r : State × Option (Line128 × Bool)) (l : Nat) :
    (State.land r l).queryTables = r.1.queryTables := by
  unfold State.land
  split <;> simp

@[simp] theorem killCopies_queryTables (l : Nat) (but : Option Nat) : (s.killCopies l but).queryTables = s.queryTables := by
  unfold State.killCopies
  rw [dirMap_queryTables]
  refine foldl_keeps State.queryTables (fun t u => ?_) _ _
  rw [land_queryTables, takeCopy_queryTables]

@[simp] theorem shareOwner_queryTables (l : Nat) : (s.shareOwner l).queryTables = s.queryTables := by
  unfold State.shareOwner
  split <;> simp

@[simp] theorem homeStore_queryTables (l : Nat) (m : BitVec 128) (d : Line128) (p : Bool) (keep : Option Nat) :
    (s.homeStore l m d p keep).1.queryTables = s.queryTables := by
  simp only [State.homeStore]
  split
  · split <;> simp
  · split
    · simp
    · dsimp only
      split <;> simp

@[simp] theorem homeStoreBy_queryTables (u a l : Nat) (m : BitVec 128) (d : Line128) (p : Bool) (keep : Option Nat) :
    (s.homeStoreBy u a l m d p keep).queryTables = s.queryTables := by
  simp only [State.homeStoreBy]
  split <;> simp

@[simp] theorem memStoreBy_queryTables (u a l : Nat) (m : BitVec 128) (d : Line128) (p : Bool) :
    (s.memStoreBy u a l m d p).queryTables = s.queryTables := by
  simp only [State.memStoreBy]
  split <;> simp

@[simp] theorem homeRead_queryTables (l : Nat) : (s.homeRead l).1.queryTables = s.queryTables := by
  simp [State.homeRead]

/-! ### Ranges. -/

@[simp] theorem busReadNow_queryTables (a len : Nat) : (s.busReadNow a len).1.queryTables = s.queryTables := by
  simp only [State.busReadNow]
  split
  · rfl
  · split
    · exact tileFind_queryTables ..
    · split <;> simp

@[simp] theorem busWriteNow_queryTables (u a : Nat) (bs : List Byte) (p : Bool) :
    (s.busWriteNow u a bs p).1.queryTables = s.queryTables := by
  simp only [State.busWriteNow]
  split
  · rfl
  · split
    · exact tileWrite_queryTables ..
    · split <;> simp

/-- A read of a range changes neither table. -/
@[simp] theorem rangeRead_queryTables (a len : Nat) : (s.rangeRead a len).1.queryTables = s.queryTables := by
  unfold State.rangeRead
  refine foldl_keeps (fun r : State × BusResp × List Byte × Bool => r.1.queryTables) (fun r p => ?_) _ _
  split
  · rfl
  · exact busReadNow_queryTables ..

/-- A write of a range changes neither table. -/
@[simp] theorem rangeWrite_queryTables (u a : Nat) (bs : List Byte) (p : Bool) :
    (s.rangeWrite u a bs p).1.queryTables = s.queryTables := by
  unfold State.rangeWrite
  refine foldl_keeps (fun r : State × BusResp => r.1.queryTables) (fun r q => ?_) _ _
  split
  · rfl
  · exact busWriteNow_queryTables ..

/-- The read of a root node changes neither table. -/
@[simp] theorem rootRead_queryTables (p root : Nat) : (s.rootRead p root).queryTables = s.queryTables := by
  unfold State.rootRead
  split <;> simp

end Tables

/-! ## Saffron's store (R250 to R253). -/

section Store

variable (f : Saffron) (now b : Nat)

/-- What Saffron counts: the slots of its store, and the acceptances of warm-up. -/
def Saffron.counted (f : Saffron) : Nat × Nat := (f.storeUsed, f.warmCount)

/-- A bin that fires keeps its slots. -/
@[simp] theorem fireBin_counted : (f.fireBin now b).counted = f.counted := by
  unfold Saffron.fireBin
  split <;> rfl

/-- A query that enters its bin has its slots already. -/
@[simp] theorem enter_counted (key : Nat) (held : Bool) (e : QEntry) : (f.enter now key held e).counted = f.counted := by
  have fired (c : Prop) [Decidable c] (b : Nat) (g : Saffron) : (if c then g.fireBin now b else g).counted = g.counted := by
    split
    · exact fireBin_counted ..
    · rfl
  exact (fired _ _ _).trans (fired _ _ f)

/-- A split changes its own Saffron at most. -/
theorem resplitNow_updSaf (s : State) (q : Nat) : s.resplitNow q = s ∨ ∃ f, s.resplitNow q = s.updSaf q f := by
  unfold State.resplitNow
  split
  · exact .inl rfl
  · exact .inr ⟨_, rfl⟩

@[simp] theorem resplitNow_shape (s : State) (q : Nat) : (s.resplitNow q).shape = s.shape := by
  rcases resplitNow_updSaf s q with e | ⟨f, e⟩
  · rw [e]
  · rw [e, updSaf_shape]

@[simp] theorem resplitNow_trees (s : State) (q : Nat) : (s.resplitNow q).trees = s.trees := by
  rcases resplitNow_updSaf s q with e | ⟨f, e⟩
  · rw [e]
  · rw [e, updSaf_trees]

/-- A split that takes effect keeps what is counted. -/
theorem resplitNow_counted (s : State) (q : Nat) : ((s.resplitNow q).saffron q).counted = (s.saffron q).counted := by
  unfold State.resplitNow
  split
  · rfl
  · rw [saffron_updSaf_self]
    split
    · rfl
    · exact foldl_keeps Saffron.counted (fun _ _ => fireBin_counted ..) _ _

end Store

/-! ## Acceptance (R226, R237, R250, R262). -/

section Acceptance

variable {s t : State} {q p : Nat} {r : Query}

/-- INFLIGHT of the current epoch of an entry rises (R226). -/
def TreeEnt.binds (t : TreeEnt) : TreeEnt := { t with inflight := Tbl.upd 0 t.inflight t.epoch (· + 1) }

theorem binds_inflight (x : TreeEnt) : Tbl.get 0 x.binds.inflight x.epoch = Tbl.get 0 x.inflight x.epoch + 1 :=
  Tbl.get_upd_self 0 x.inflight x.epoch (· + 1)

/-- The bytes of a spilled query go to memory slot by slot; the tables stay. -/
theorem spillWrite_queryTables (u : Nat) (at_ : Nat → Nat) (bs : Nat → List Byte) (n : Nat) (s : State) :
    ((List.range n).foldl (fun v i => (State.rangeWrite v u (at_ i) (bs i) false).1) s).queryTables = s.queryTables :=
  foldl_keeps State.queryTables (fun _ _ => rangeWrite_queryTables ..) _ _

/-- A change of a Saffron, in a state with the tables of another. -/
theorem updSaf_sameTables {w u : State} (same : w.queryTables = u.queryTables) (q : Nat) (f : Saffron → Saffron) :
    (w.updSaf q f).trees = u.trees ∧ (w.updSaf q f).saffron q = f (u.saffron q) := by
  have saf : w.saf = u.saf := congrArg Prod.snd same
  refine ⟨congrArg Prod.fst same, (saffron_updSaf_self ..).trans ?_⟩
  rw [State.saffron, saf]

/-- An acceptance binds its tree and is counted; with room in the store it takes its slots there. -/
theorem acceptQuery_binds (ok : s.acceptQuery q p r = .ok t) :
    t.trees = (s.updTree p r.tree TreeEnt.binds).trees
      ∧ (t.saffron q).warmCount = min ((s.saffron q).warmCount + 1) (2 ^ 20)
      ∧ ((s.saffron q).room r.slots = true → (t.saffron q).storeUsed = (s.saffron q).storeUsed + r.slots) := by
  unfold State.acceptQuery at ok
  extract_lets c f x n e bound key at_ bs w at ok
  split at ok
  case isTrue room =>
    split at ok
    case isTrue waits => contradiction
    case isFalse may =>
      cases ok
      obtain ⟨trees, saf⟩ := updSaf_sameTables (rootRead_queryTables bound p x.curRoot.toNat) q fun f =>
        ({ f.tally r.qtype with storeUsed := f.storeUsed + n }).enter s.time.core key false e
      rw [trees, saf]
      have counted := enter_counted { f.tally r.qtype with storeUsed := f.storeUsed + n } s.time.core key false e
      exact ⟨rfl, congrArg Prod.snd counted, fun _ => congrArg Prod.fst counted⟩
  case isFalse noRoom =>
    split at ok
    case isTrue spill =>
      cases ok
      obtain ⟨trees, saf⟩ := updSaf_sameTables (spillWrite_queryTables (0x440 + q) at_
        (fun i => (bs.drop (64 * i)).take 64) n bound) q fun f => { f.tally r.qtype with
          spill := f.spill ++ [⟨e, f.spillNext⟩], spillUsed := f.spillUsed + n, spillNext := (f.spillNext + n) % c.spillRecords }
      rw [trees, saf]
      exact ⟨rfl, rfl, fun room => absurd room noRoom⟩
    case isFalse full => contradiction

/-- Where store and spill area are full, a query is not taken. -/
theorem acceptQuery_full (noRoom : (s.saffron q).room r.slots = false)
    (noSpill : (s.cfg.safOf q).spillRecords < (s.saffron q).spillUsed + r.slots) : s.acceptQuery q p r = .full := by
  simp [State.acceptQuery, noRoom, Nat.not_le.2 noSpill]

variable {n : Nat} {body : List Byte} {ext : Option (List Byte)}

theorem submit_badRecord (bad : parseQuery body ext = none) : s.submit n p body ext = some (2, s) := by
  unfold State.submit
  rw [bad]

theorem submit_refused (good : parseQuery body ext = some r) (code : (s.resplitNow (n / 64)).queryCode (n / 64) p r ≠ 0) :
    s.submit n p body ext = some ((s.resplitNow (n / 64)).queryCode (n / 64) p r, s) := by
  unfold State.submit
  rw [good]
  exact if_pos code

theorem submit_full (good : parseQuery body ext = some r) (code : (s.resplitNow (n / 64)).queryCode (n / 64) p r = 0)
    (full : (s.resplitNow (n / 64)).acceptQuery (n / 64) p r = .full) : s.submit n p body ext = some (1, s) := by
  unfold State.submit
  rw [good]
  refine (if_neg (not_not_intro code)).trans ?_
  rw [full]

theorem submit_accepted (good : parseQuery body ext = some r) (code : (s.resplitNow (n / 64)).queryCode (n / 64) p r = 0)
    (ok : (s.resplitNow (n / 64)).acceptQuery (n / 64) p r = .ok t) : s.submit n p body ext = some (0, t) := by
  unfold State.submit
  rw [good]
  refine (if_neg (not_not_intro code)).trans ?_
  rw [ok]

end Acceptance

/-- Settles O35: the refusals are `submit`'s in their order, and an acceptance is `acceptQuery_binds` after the split. -/
theorem acceptedQueriesBindAndTakeRoom : Obligations.AcceptedQueriesBindAndTakeRoom := by
  intro s n p body ext
  refine ⟨submit_badRecord, fun r good code => submit_refused good code, fun r good code noRoom noSpill => ?full,
    fun r t good code ok => ?accepted⟩
  case full =>
    refine submit_full good code (acceptQuery_full noRoom ?_)
    rw [State.cfg, resplitNow_shape]
    exact noSpill
  case accepted =>
    obtain ⟨trees, counted, takes⟩ := acceptQuery_binds ok
    have entry : t.tree p r.tree = (s.tree p r.tree).binds := by
      rw [State.tree, trees]
      refine (tree_updTree_self ..).trans ?_
      rw [State.tree, resplitNow_trees]
    have used : ((s.resplitNow (n / 64)).saffron (n / 64)).storeUsed = (s.saffron (n / 64)).storeUsed :=
      congrArg Prod.fst (resplitNow_counted s (n / 64))
    rw [entry]
    exact ⟨submit_accepted good code ok, binds_inflight _, rfl, rfl, counted, fun room => (takes room).trans (by rw [used])⟩

end Sys2Proof.Machine

/-! Submissions of queries, Saffron's events and its dispatch: the laws of their operations, and the statements O34, O36 and
O37. -/

namespace Sys2Proof.Machine

/-! ## Submissions (R240, R255, R260, R262). -/

section Submissions

variable {s t : State} {n : Core} {rd ra rb : SReg} {p : Nat}

/-- A source range is aligned and in tile memory, no word of it is poisoned, and no matrix instruction still writes it. -/
structure State.Readable (s : State) (n : Core) (off : W64) (align len : Nat) : Prop where
  range : rangeFault off align len = none
  clean : s.badWord n off.toNat len = none
  settled : s.tileHazard n [(0x800_0000_0000 + 0x40_0000 * n.val + off.toNat, len)] false = false

/-- A submission from a readable source goes on to its own checks. -/
theorem withSource_readable {off : W64} {align len : Nat} (h : s.Readable n off align len) (k : State → Res) :
    s.withSource n off align len k = k s := by
  simp only [State.withSource, h.range, h.settled, h.clean, Bool.false_eq_true, if_false]

/-- An instruction whose body gives a code puts it in rd. -/
theorem instr_answers {word : W64} {body : State → Res} {code : Nat} (ready : s.ready n = true)
    (e : body s = t.codeOut n rd code) : finish s (s.instr n word true false body) = s.answers n rd t code :=
  instr_retires ready ((meets_body rfl).trans e)

/-- QSUB of a readable record for a core in no enabled partition. -/
theorem exec_qsub_noPart (ready : s.ready n = true) (slot : rangeFault (s.sreg n ra) 64 64 = none)
    (readable : s.Readable n (s.sreg n ra) 64 (s.recordLen n (s.sreg n ra))) (noPart : s.onPart n = none) :
    exec (.qsub n rd ra) s = s.answers n rd s 11 := by
  refine instr_answers ready ?_
  simp only [slot, Option.isNone_none, if_true, withSource_readable readable, noPart]

/-- QSUB of a readable record, once no home it needs must wait, answers the record's code. -/
theorem exec_qsub {r : Nat × State} (ready : s.ready n = true) (slot : rangeFault (s.sreg n ra) 64 64 = none)
    (readable : s.Readable n (s.sreg n ra) 64 (s.recordLen n (s.sreg n ra))) (part : s.onPart n = some p)
    (homes : s.submitWait (n.val / 64) p (s.recordsAt n (s.sreg n ra).toNat 1) = none)
    (taken : let b := (s.tileBytes n (s.sreg n ra).toNat (s.recordLen n (s.sreg n ra))).1
      s.submit n p (b.take 64) (if s.recordLen n (s.sreg n ra) = 128 then some (b.drop 64) else none) = some r) :
    exec (.qsub n rd ra) s = s.answers n rd r.2 r.1 := by
  refine instr_answers ready ?_
  simp only [slot, Option.isNone_none, if_true, withSource_readable readable, part, homes, taken]

/-- QSUBN of a count out of its range is a bad record of which none is accepted. -/
theorem exec_qsubn_badCount (ready : s.ready n = true) (bad : (s.sreg n rb).toNat = 0 ∨ 64 < (s.sreg n rb).toNat)
    (part : s.onPart n = some p) : exec (.qsubn n rd ra rb) s = s.answers n rd s 512 := by
  refine instr_answers ready ?_
  simp only [if_pos bad, part, Option.isNone_some, Bool.false_eq_true, if_false]

/-- QSUBN of readable records answers how many were accepted, and the first refusal. -/
theorem exec_qsubn {cnt : Nat} {r : Nat × Nat × State} (ready : s.ready n = true) (count : (s.sreg n rb).toNat = cnt)
    (least : 1 ≤ cnt) (most : cnt ≤ 64) (readable : s.Readable n (s.sreg n ra) 64 (64 * cnt)) (part : s.onPart n = some p)
    (homes : s.submitWait (n.val / 64) p (s.recordsAt n (s.sreg n ra).toNat cnt) = none)
    (taken : s.submitMany n p (s.sreg n ra).toNat cnt cnt 0 = some r) :
    exec (.qsubn n rd ra rb) s = s.answers n rd r.2.2 (r.1 + 256 * r.2.1) := by
  have inRange : ¬(cnt = 0 ∨ 64 < cnt) := by omega
  refine instr_answers ready ?_
  simp only [count, if_neg inRange, withSource_readable readable, part, homes, taken]

/-- QSRC of a readable description answers its code. -/
theorem exec_qsrc (ready : s.ready n = true) (readable : s.Readable n (s.sreg n ra) 128 128) (part : s.onPart n = some p) :
    let r := s.submitSource n p (s.tileBytes n (s.sreg n ra).toNat 128).1
    exec (.qsrc n rd ra) s = s.answers n rd r.2 r.1 := by
  refine instr_answers ready ?_
  simp only [withSource_readable readable, part]

/-- QFLUSH fires the bins of the core's partition. -/
theorem exec_qflush (ready : s.ready n = true) (part : s.onPart n = some p) :
    exec (.qflush n) s = .next (s.after ((s.binFlush (n.val / 64) p).retire n)) :=
  instr_retires ready ((meets_body rfl).trans (by simp only [part]))

end Submissions

/-- Settles O34: each submission reads a readable source and answers its code (`instr_answers`). -/
theorem querySubmissionsAnswerTheirCode : Obligations.QuerySubmissionsAnswerTheirCode := by
  intro n rd ra rb p s ready
  refine ⟨fun ⟨range, clean, settled⟩ slot => ⟨?noPart, fun r part homes taken => ?qsub⟩,
    ⟨fun r least most ⟨range, clean, settled⟩ part homes taken => ?qsubn, ?badCount⟩,
    fun ⟨range, clean, settled⟩ part => ?qsrc, exec_qflush ready⟩
  case noPart => exact exec_qsub_noPart ready slot ⟨range, clean, settled⟩
  case qsub => exact exec_qsub ready slot ⟨range, clean, settled⟩ part homes taken
  case qsubn => exact exec_qsubn ready rfl least most ⟨range, clean, settled⟩ part homes taken
  case badCount => exact exec_qsubn_badCount ready
  case qsrc => exact exec_qsrc ready ⟨range, clean, settled⟩ part

/-! ## Saffron's events (R250, R252 to R254, R256). -/

section SaffronEvents

variable {s : State} {q : Nat}

/-- A change of a Saffron is told by what it makes of the Saffron as it is. -/
theorem updSaf_congr {f g : Saffron → Saffron} (h : f (s.saffron q) = g (s.saffron q)) : s.updSaf q f = s.updSaf q g := by
  simp only [State.updSaf, Tbl.upd, h]

/-- A bin with queries fires into the fire queue of their partition. -/
theorem fireBin_fires {f : Saffron} {b : Nat} {e : QEntry} {rest : List QEntry}
    (full : (Tbl.get Bin.off f.bins b).qs = e :: rest) (now : Nat) :
    f.fireBin now b = { f with bins := Tbl.set Bin.off f.bins b Bin.off,
                               fire := Tbl.upd [] f.fire e.part (fireAt ⟨now, b, e :: rest⟩) } := by
  simp only [Saffron.fireBin, full]

/-- A Saffron but for its bins and fire queues. -/
def Saffron.unfired (f : Saffron) : Saffron := { f with bins := [], fire := [] }

/-- Firing moves queries from bins to fire queues and does nothing else. -/
theorem fireBin_unfired (f : Saffron) (now b : Nat) : (f.fireBin now b).unfired = f.unfired := by
  unfold Saffron.fireBin
  split <;> rfl

/-- The oldest query of a bin is 2,048 cycles old. -/
theorem binAge_fires {b : Nat} {e : QEntry} {rest : List QEntry} (runs : s.safRuns q = true)
    (full : (Tbl.get Bin.off (s.saffron q).bins b).qs = e :: rest) (old : e.since + 2048 ≤ s.time.core)
    (free : s.partHeld e.part = false) : s.binAge q b = s.updSaf q fun f =>
      { f with bins := Tbl.set Bin.off f.bins b Bin.off,
               fire := Tbl.upd [] f.fire e.part (fireAt ⟨s.time.core, b, e :: rest⟩) } := by
  have fires : s.binAge q b = s.updSaf q fun f => f.fireBin s.time.core b := by
    simp [State.binAge, runs, full, old, free]
  exact fires.trans (updSaf_congr (fireBin_fires full _))

/-- With ADAPT = 0 the end of warm-up leaves the split. -/
theorem resplitNow_fixed (due : s.splitDue q = true) (fixed : bitOf (s.cfg.safOf q).flags 0 = false) :
    s.resplitNow q = s.updSaf q fun f => { f with warm := false } := by
  simp [State.resplitNow, due, fixed]

/-- With ADAPT = 1 the split is computed anew and the counts begin again; bins fire, and nothing else changes. -/
theorem resplitNow_adapts (due : s.splitDue q = true) (adapt : bitOf (s.cfg.safOf q).flags 0 = true) :
    ∃ g : Saffron, s.resplitNow q = s.updSaf q (fun _ => g)
      ∧ g.unfired = { (s.saffron q).unfired with
          share := resplit (s.saffron q).counts, warm := false, counts := [0, 0, 0, 0, 0, 0] } := by
  unfold State.resplitNow
  simp only [due, adapt, Bool.not_true, Bool.false_eq_true, if_false]
  refine ⟨_, updSaf_congr (g := fun _ => _) rfl, ?_⟩
  have fired (l : List Nat) : (l.foldl (fun g b => g.fireBin s.time.core b) (s.saffron q)).unfired = (s.saffron q).unfired :=
    foldl_keeps Saffron.unfired (fun f b => fireBin_unfired f s.time.core b) l _
  exact congrArg (fun f : Saffron => { f with
    share := resplit (s.saffron q).counts, warm := false, counts := [0, 0, 0, 0, 0, 0] }) (fired _)

/-- What Saffron reads of a spilled query's slots: the state then, the bytes, and whether some were poisoned. -/
def State.spillRead (s : State) (q : Nat) (x : Spilled) : State × List Byte × Bool :=
  (s.spillSlots q x).foldl (fun v a =>
    let y := v.1.rangeRead a 64
    (y.1, v.2.1 ++ y.2.2.1, v.2.2 || y.2.2.2)) (s, [], false)

/-- A spilled query returns as `r`: the store has room for it, no home that is read must wait, its record is whole, and no held
partition's queries block its bin. -/
structure State.MayReturn (s : State) (q : Nat) (x : Spilled) (r : Query) : Prop where
  room : (s.saffron q).room x.e.slots = true
  homes : ((s.spillSlots q x).findSome? fun a => s.rangeWait a 64 false) = none
  rootHome : s.rootWait x.e.part x.e.root.toNat = none
  clean : (s.spillRead q x).2.2 = false
  whole : parseQuery ((s.spillRead q x).2.1.take 64)
    (if x.e.slots = 2 then some ((s.spillRead q x).2.1.drop 64) else none) = some r
  slots : r.slots = x.e.slots
  fits : groupFits r x.e.xs.toNat = true
  may : (s.saffron q).mayEnter s.partHeld (s.queryKey x.e.part x.e.root.toNat r) r.qtype = true

/-- Such a query leaves the spill area for its bin. -/
theorem spillReturn_enters {x : Spilled} {rest : List Spilled} {r : Query} (runs : s.safRuns q = true)
    (oldest : (s.saffron q).spill = x :: rest) (h : s.MayReturn q x r) :
    s.spillReturn q = (((s.spillRead q x).1.updSaf q fun f =>
        { f with spill := rest, spillUsed := f.spillUsed - x.e.slots }).rootRead x.e.part x.e.root.toNat).updSaf q fun f =>
      ({ f with storeUsed := f.storeUsed + x.e.slots } : Saffron).enter s.time.core
        (s.queryKey x.e.part x.e.root.toNat r) (s.partHeld x.e.part) { x.e with q := r } := by
  obtain ⟨room, homes, rootHome, clean, whole, slots, fits, may⟩ := h
  have goes : ¬((!s.safRuns q || !(s.saffron q).room x.e.slots) = true) := by simp [runs, room]
  have good : ¬((decide (r.slots ≠ x.e.slots) || !groupFits r x.e.xs.toNat) = true) := by simp [slots, fits]
  unfold State.spillRead at clean whole ⊢
  simp only [State.spillReturn, oldest, if_neg goes, homes, rootHome, Option.none_or, clean, whole, if_neg good, may,
    Bool.false_eq_true, Bool.not_true, if_false]

/-- The generator's next query is accepted. -/
theorem genEmit_accepts {g : GenRun} {rest : List GenRun} {t : State} (runs : s.safRuns q = true)
    (run : (s.saffron q).gen = g :: rest) (free : s.partHeld g.part = false)
    (bins : ((s.resplitNow q).saffron q).share.getD (sourceQuery g.src g.done).qtype 0 ≠ 0)
    (units : (s.resplitNow q).hasTu q g.part = true)
    (homes : (s.resplitNow q).submitWait q g.part [sourceQuery g.src g.done] = none)
    (ok : (s.resplitNow q).acceptQuery q g.part (sourceQuery g.src g.done) = .ok t) :
    s.genEmit q = t.updSaf q fun f =>
      { f with gen := if g.done + 1 = g.src.count then rest else { g with done := g.done + 1 } :: rest } := by
  have goes : ¬((!s.safRuns q || s.partHeld g.part) = true) := by simp [runs, free]
  have room : ¬((decide (((s.resplitNow q).saffron q).share.getD (sourceQuery g.src g.done).qtype 0 = 0)
      || !(s.resplitNow q).hasTu q g.part) = true) := by simp only [bins, units]; decide
  simp only [State.genEmit, run, if_neg goes, if_neg room, homes, ok]

end SaffronEvents

/-- Settles O36: a bin fires as `fireBin_fires` says, a split as `resplitNow_adapts` says, and a return and an emission go
through where nothing that they wait for holds them back. -/
theorem saffronEventsAct : Obligations.SaffronEventsAct := by
  intro q s runs
  refine ⟨fun bin e rest full old free => finish_eq (binAge_fires runs full old free), fun due => ?split,
    fun x rest r oldest room homes rootHome clean whole slots fits may => ?spill,
    fun g rest t run free bins units homes ok => finish_eq (genEmit_accepts runs run free bins units homes ok)⟩
  case split =>
    by_cases adapt : bitOf (s.cfg.safOf q.val).flags 0 = true
    · obtain ⟨g, split, kept⟩ := resplitNow_adapts due adapt
      exact ⟨g, finish_eq split, (congrArg Saffron.warm kept :), (congrArg Saffron.storeUsed kept :),
        (congrArg Saffron.spill kept :), (congrArg Saffron.gen kept :),
        fun _ => ⟨(congrArg Saffron.share kept :), (congrArg Saffron.counts kept :)⟩,
        fun fixed => absurd adapt (by simp [fixed])⟩
    · have fixed := Bool.eq_false_iff.2 adapt
      exact ⟨{ s.saffron q.val with warm := false }, finish_eq ((resplitNow_fixed due fixed).trans (updSaf_congr rfl)),
        rfl, rfl, rfl, rfl, fun h => absurd h adapt, fun _ => rfl⟩
  case spill =>
    exact finish_eq (spillReturn_enters runs oldest ⟨room, homes, rootHome, clean, whole, slots, fits, may⟩)

/-! ## Dispatch (R254). -/

section Dispatch

/-- A bin comes before another in the order of dispatch: it fired earlier, or with it and has no higher index. -/
def Fired.Before (x y : Fired) : Prop := x.at_ < y.at_ ∨ (x.at_ = y.at_ ∧ x.bin ≤ y.bin)

theorem Fired.Before.refl (x : Fired) : x.Before x := .inr ⟨rfl, Nat.le_refl _⟩

theorem Fired.Before.trans {x y z : Fired} (h : x.Before y) (h' : y.Before z) : x.Before z := by
  unfold Fired.Before at *
  omega

/-- A fire-queue head that may be dispatched: its partition, the bin, and the unit that takes it. -/
abbrev FiredHead := Nat × Fired × Nat

/-- The one to dispatch of what was found so far and another head. -/
def FiredHead.sooner (b : Option FiredHead) (x : FiredHead) : Option FiredHead :=
  match b with
  | none => some x
  | some y => if x.2.1.at_ < y.2.1.at_ ∨ (x.2.1.at_ = y.2.1.at_ ∧ x.2.1.bin < y.2.1.bin) then some x else b

/-- Of two heads the one that comes first stays. -/
theorem sooner_some (y x : FiredHead) : ∃ z : FiredHead, FiredHead.sooner (some y) x = some z ∧ (z = y ∨ z = x)
    ∧ z.2.1.Before y.2.1 ∧ z.2.1.Before x.2.1 := by
  by_cases less : x.2.1.at_ < y.2.1.at_ ∨ (x.2.1.at_ = y.2.1.at_ ∧ x.2.1.bin < y.2.1.bin)
  · refine ⟨x, if_pos less, .inr rfl, ?_, .refl _⟩
    unfold Fired.Before
    omega
  · refine ⟨y, if_neg less, .inl rfl, .refl _, ?_⟩
    unfold Fired.Before
    omega

/-- The search among heads ends at one of them that comes before all. -/
theorem foldl_sooner (l : List FiredHead) (y : FiredHead) : ∃ z ∈ y :: l, l.foldl FiredHead.sooner (some y) = some z
    ∧ ∀ x ∈ y :: l, z.2.1.Before x.2.1 := by
  induction l generalizing y with
  | nil => exact ⟨y, by simp, rfl, fun x hx => List.mem_singleton.1 hx ▸ .refl _⟩
  | cons x l ih =>
    obtain ⟨y', step, source, beforeY, beforeX⟩ := sooner_some y x
    obtain ⟨z, found, ends, least⟩ := ih y'
    refine ⟨z, ?_, by rw [List.foldl_cons, step, ends], fun w hw => ?_⟩
    · rcases List.mem_cons.1 found with rfl | later
      · rcases source with rfl | rfl <;> simp
      · simp [later]
    · have first := least y' (by simp)
      rcases List.mem_cons.1 hw with rfl | hw
      · exact first.trans beforeY
      · rcases List.mem_cons.1 hw with rfl | hw
        · exact first.trans beforeX
        · exact least w (by simp [hw])

variable {s : State} {q : Nat}

/-- The fire-queue heads that may be dispatched. -/
def State.firedHeads (s : State) (q : Nat) : List FiredHead :=
  (s.saffron q).fire.filterMap fun x => match x.2 with
    | h :: _ => if s.partHeld x.1 then none else (s.freeTu q x.1).map fun m => (x.1, h, m)
    | [] => none

theorem mem_firedHeads {p m : Nat} {h : Fired} : (p, h, m) ∈ s.firedHeads q ↔
    (∃ rest, (p, h :: rest) ∈ (s.saffron q).fire) ∧ s.partHeld p = false ∧ s.freeTu q p = some m := by
  rw [State.firedHeads, List.mem_filterMap]
  constructor
  · rintro ⟨⟨p', l⟩, queue, head⟩
    cases l with
    | nil => cases head
    | cons h' rest =>
      dsimp only at head
      by_cases held : s.partHeld p' = true
      · rw [if_pos held] at head
        cases head
      · rw [if_neg held, Option.map_eq_some_iff] at head
        obtain ⟨m', unit, ⟨⟩⟩ := head
        exact ⟨⟨rest, queue⟩, Bool.eq_false_iff.2 held, unit⟩
  · rintro ⟨⟨rest, queue⟩, free, unit⟩
    exact ⟨(p, h :: rest), queue, by simp [free, unit]⟩

/-- A head leaves its queue for its unit, and its store slots are free. -/
def State.takeHead (s : State) (q : Nat) (x : FiredHead) : State :=
  let freed := s.updSaf q fun f => { f with
    fire := Tbl.upd [] f.fire x.1 (·.drop 1), storeUsed := f.storeUsed - (x.2.1.qs.map (·.slots)).sum }
  freed.updTu x.2.2 fun u => { u with held := u.held ++ [⟨x.2.1.bin, x.2.1.qs, [], none⟩] }

theorem binDispatch_of_best (runs : s.safRuns q = true) {x : FiredHead}
    (best : (s.firedHeads q).foldl FiredHead.sooner none = some x) : s.binDispatch q = s.takeHead q x := by
  obtain ⟨p, h, m⟩ := x
  simp only [State.binDispatch, runs, Bool.not_true, Bool.false_eq_true, if_false]
  change (match (s.firedHeads q).foldl FiredHead.sooner none with | none => s | some (p, h, m) => s.takeHead q (p, h, m)) = _
  rw [best]

/-- Where heads may be dispatched, one that comes before all of them is. -/
theorem binDispatch_takes (runs : s.safRuns q = true) {x : FiredHead} (waits : x ∈ s.firedHeads q) :
    ∃ z ∈ s.firedHeads q, (∀ y ∈ s.firedHeads q, z.2.1.Before y.2.1) ∧ s.binDispatch q = s.takeHead q z := by
  cases heads : s.firedHeads q with
  | nil => simp [heads] at waits
  | cons y l =>
    obtain ⟨z, found, ends, least⟩ := foldl_sooner l y
    exact ⟨z, found, least, binDispatch_of_best runs (by rw [heads]; exact ends)⟩

end Dispatch

/-- Settles O37: the heads that may be dispatched are `firedHeads`, and the earliest is taken (`binDispatch_takes`). -/
theorem dispatchTakesTheEarliestFiredBin : Obligations.DispatchTakesTheEarliestFiredBin := by
  rintro q s runs f may ⟨p, h, m, may_⟩
  obtain ⟨⟨p', h', m'⟩, found, least, takes⟩ := binDispatch_takes runs (mem_firedHeads.2 may_)
  exact ⟨p', h', m', mem_firedHeads.1 found, fun p h m other => least (p, h, m) (mem_firedHeads.2 other), finish_eq takes⟩

end Sys2Proof.Machine

/-! Traversal units: what a read at its target changes, how a walk ends, how packets form and leave, and the statement
O38. -/

namespace Sys2Proof.Machine

/-! ## What a read at its target changes (R308, R316, R360). -/

section Reads

variable (s : State)

/-- The state but for the memories and their vaults, the records for Caraway, the error unit and the draws. -/
def State.besideMemory (s : State) : State :=
  { s with free := 0, mem := State.reset.mem, vlt := [], car := CarSt.init, err := ErrSt.init }

@[simp] theorem updVault_beside (v : Nat) (f : Vlt → Vlt) : (s.updVault v f).besideMemory = s.besideMemory := rfl
@[simp] theorem raise_beside (d u a i : Nat) : (s.raise d u a i).besideMemory = s.besideMemory := rfl
@[simp] theorem choose_beside (n : Nat) : (s.choose n).2.besideMemory = s.besideMemory := rfl
@[simp] theorem eraseSlice_beside (v t k : Nat) : (s.eraseSlice v t k).besideMemory = s.besideMemory := rfl

@[simp] theorem addPmc_beside (u i k : Nat) : (s.addPmc u i k).besideMemory = s.besideMemory := by
  simp only [State.addPmc]
  split
  · split <;> rfl
  · rfl

@[simp] theorem count_beside (u ev : Nat) : (s.count u ev).besideMemory = s.besideMemory := by
  unfold State.count State.countBy
  split
  · rfl
  · refine foldl_keeps State.besideMemory (fun t i => ?_) _ _
    dsimp only
    split
    · exact addPmc_beside ..
    · rfl

@[simp] theorem rawWrite_beside (l : Nat) (m : BitVec 128) (d : Line128) (p : Bool) :
    (s.rawWrite l m d p).besideMemory = s.besideMemory := by
  simp only [State.rawWrite]
  split
  · rfl
  · split <;> rfl

@[simp] theorem satCount_beside (old u i : Nat) : (s.satCount old u i).2.besideMemory = s.besideMemory := by
  unfold State.satCount
  dsimp only
  split <;> rfl

@[simp] theorem activate_beside (v bank row : Nat) : (s.activate v bank row).besideMemory = s.besideMemory := by
  unfold State.activate
  extract_lets x t c t1
  split
  · exact (count_beside ..).trans (updVault_beside ..)
  · exact updVault_beside ..

@[simp] theorem openRow_beside (v l : Nat) (read : Bool) : (s.openRow v l read).besideMemory = s.besideMemory := by
  unfold State.openRow
  extract_lets b r was s1
  have opened : s1.besideMemory = s.besideMemory := (activate_beside ..).trans (updVault_beside ..)
  split
  · split
    · exact count_beside ..
    · rfl
  · split
    · exact (count_beside ..).trans opened
    · exact opened

@[simp] theorem innerPass_beside (v t : Nat) (p : ErrPat) : (s.innerPass v t p).2.2.besideMemory = s.besideMemory := by
  unfold State.innerPass
  refine foldl_keeps (fun a : ErrPat × Bool × State => a.2.2.besideMemory) (fun a sl => ?_) _ _
  extract_lets here many c r k
  have chosen : c.2.besideMemory = a.2.2.besideMemory := by
    unfold c
    split
    · exact choose_beside ..
    · rfl
  split
  · have counted : k.2.besideMemory = c.2.besideMemory := satCount_beside ..
    dsimp only
    rw [raise_beside, updVault_beside, counted, chosen]
  · exact chosen

@[simp] theorem diagnose_beside (v t sl : Nat) : (s.diagnose v t sl).besideMemory = s.besideMemory := by
  unfold State.diagnose
  extract_lets x d k s1
  split
  · split
    · exact eraseSlice_beside ..
    · split <;> rfl
  · rfl

@[simp] theorem vaultDecode_beside (v l : Nat) (hit : List SymErr) :
    (s.vaultDecode v l hit).2.besideMemory = s.besideMemory := by
  simp only [State.vaultDecode]
  split
  · rfl
  · split
    · rfl
    · split
      · simp
      · split
        · simp
        · split
          · simp
          · dsimp only
            split <;> simp

@[simp] theorem vaultFetch_beside (v l : Nat) (hit : List SymErr) :
    (s.vaultFetch v l hit).2.2.besideMemory = s.besideMemory := by
  simp only [State.vaultFetch]
  split <;> simp [State.vaultPut]

/-- A read at its target leaves whatever lies beside the memories. -/
theorem memRead_beside (l : Nat) : (s.memRead l).2.besideMemory = s.besideMemory := by
  simp only [State.memRead]
  split
  · exact vaultFetch_beside ..
  · rfl

end Reads

/-! ## Walks of traversal units (R237, R316, R320, R321). -/

section Walks

variable {r : Cacher} {e : QEntry} {s : State} {buf : List Fill}

/-- Two changes of a cache are one, where the first leaves an entry. -/
theorem updCache_updCache {f : Cache → Cache} (entry : f (s.cacheOf r) ≠ Cache.off) (g : Cache → Cache) :
    (s.updCache r f).updCache r g = s.updCache r fun c => g (f c) := by
  have once (table : Tbl Cache) (k : Nat) (h : f (Tbl.get Cache.off table k) ≠ Cache.off) :
      Tbl.upd Cache.off (Tbl.upd Cache.off table k f) k g = Tbl.upd Cache.off table k fun c => g (f c) := by
    simp only [Tbl.upd, Tbl.get_set_self, Tbl.set_set h]
  cases r with
  | l1 n => exact congrArg (fun x => { s with l1 := x }) (once s.l1 n entry)
  | clv c => exact congrArg (fun x => { s with clvCache := x }) (once s.clvCache c entry)
  | node m => exact congrArg (fun x => { s with node := x }) (once s.node m entry)

theorem touch_busy (c : Cache) (set ways l : Nat) : (c.touch set ways l).busy = c.busy := by
  unfold Cache.touch
  split <;> rfl

/-- What a walk goes by and does not change: the settings, and whether its cache invalidates itself. -/
def State.walkBasis (s : State) (r : Cacher) : ShapeCfg × Bool := (s.cfg, (s.cacheOf r).busy)

theorem memRead_walkBasis (s : State) (r : Cacher) (l : Nat) : (s.memRead l).2.walkBasis r = s.walkBasis r :=
  (congrArg (fun t : State => t.walkBasis r) (memRead_beside s l) :)

theorem touch_walkBasis (s : State) (r : Cacher) (l : Nat) :
    (s.updCache r fun c => c.touch (r.set l) r.ways l).walkBasis r = s.walkBasis r := by
  rw [State.walkBasis, State.cfg, updCache_shape, cacheOf_updCache_self, touch_busy]
  rfl

/-- The outcome of a walk: what it goes by is as before, and a walk that has ended has its query's records with the lines of
its buffer, none of which names a line that it still needs. -/
def Walked.Right (r : Cacher) (e : QEntry) (basis : ShapeCfg × Bool) : Walked → Prop
  | .ended t buf rs => t.walkBasis r = basis ∧ rs = runQuery (bufFetch basis.1 e.part buf) e.q e.root.toNat e.xs.toNat
      ∧ ∀ x ∈ rs, ¬(x.kind = 9 ∧ 2 ^ 32 ≤ x.data0)
  | .needs t _ _ => t.walkBasis r = basis

theorem Walked.right_needs (t : State) (buf : List Fill) (l : Nat) : (Walked.needs t buf l).Right r e (t.walkBasis r) := rfl

/-- A walk goes on with the line that it needs next, where that is at hand. -/
def State.walkOn (s : State) (r : Cacher) (e : QEntry) (fuel : Nat) (buf : List Fill) (l : Nat) : Walked :=
  if !s.cacheable (128 * l) then
    if s.zeroing l then .needs s buf l
    else
      let d := s.memRead l
      State.walkLines r e fuel d.2 (buf ++ [⟨l, .okay, d.1.1, d.1.2⟩])
  else match s.held r l with
    | some y =>
      State.walkLines r e fuel (s.updCache r fun c => c.touch (r.set l) r.ways l) (buf ++ [⟨l, .okay, y.data, y.poison⟩])
    | none => .needs s buf l

/-- The records of a walk with the lines that it has; one of them may name the line that it needs next. -/
def State.walkRecs (s : State) (e : QEntry) (buf : List Fill) : List HitRec :=
  runQuery (bufFetch s.cfg e.part buf) e.q e.root.toNat e.xs.toNat

/-- The line that records name as needed. -/
def neededLine (rs : List HitRec) : Option Nat :=
  (rs.find? fun x => x.kind == 9 && decide (2 ^ 32 ≤ x.data0)).map fun x => x.data0 - 2 ^ 32

theorem neededLine_none {rs : List HitRec} (h : neededLine rs = none) : ∀ x ∈ rs, ¬(x.kind = 9 ∧ 2 ^ 32 ≤ x.data0) := by
  simpa [neededLine] using h

theorem walkLines_succ (fuel : Nat) : State.walkLines r e (fuel + 1) s buf =
    match neededLine (s.walkRecs e buf) with
    | none => .ended s buf (s.walkRecs e buf)
    | some l => s.walkOn r e fuel buf l := by
  unfold State.walkLines neededLine State.walkRecs
  generalize runQuery _ _ _ _ = rs
  dsimp only
  cases rs.find? fun x => x.kind == 9 && decide (2 ^ 32 ≤ x.data0) with
  | none => rfl
  | some x =>
    dsimp only [Option.map_some]
    generalize x.data0 - 2 ^ 32 = l
    rfl

theorem walkLines_right (r : Cacher) (e : QEntry) (fuel : Nat) (s : State) (buf : List Fill) :
    (State.walkLines r e fuel s buf).Right r e (s.walkBasis r) := by
  induction fuel generalizing s buf with
  | zero => exact Walked.right_needs ..
  | succ fuel ih =>
    rw [walkLines_succ]
    split
    next none_ => exact ⟨rfl, rfl, neededLine_none none_⟩
    next l _ =>
      unfold State.walkOn
      split
      · split
        · exact Walked.right_needs ..
        · rw [← memRead_walkBasis s r l]
          exact ih _ _
      · split
        · rw [← touch_walkBasis s r l]
          exact ih _ _
        · exact Walked.right_needs ..

end Walks

/-! ## Traversal units (R237, R257 to R259, R321). -/

section Units

variable {m : Tu} {s t : State} {i k l : Nat} {e : QEntry} {rest : List (Nat × Nat × QEntry)} {buf : List Fill}

/-- The next query of a unit may end: the unit runs, is not lost and has room for packets, and its node cache has no miss
out. -/
structure State.Walks (s : State) (m : Tu) : Prop where
  runs : s.tuRuns m.val = true
  whole : s.tuLost.getLsbD m.val = false
  room : (s.trav m.val).waiting.length ≠ 8
  quiet : (s.cacheOf (.node m)).busy = false
  hit : (s.cacheOf (.node m)).miss = none

theorem State.Walks.goes (h : s.Walks m) :
    (!s.tuRuns m.val || s.tuLost.getLsbD m.val || (s.trav m.val).waiting.length == 8 || (s.cacheOf (.node m)).busy
      || ((s.cacheOf (.node m)).miss.isSome && !s.hitUnderMiss (.node m))) = false := by
  simp only [h.runs, h.whole, beq_false_of_ne h.room, h.quiet, h.hit, Option.isSome_none, Bool.not_true, Bool.false_and,
    Bool.or_false]

/-- Such a unit walks its first query, which may end. -/
theorem queryEnd_ends (h : s.Walks m) (todo : (s.trav m.val).todo = (i, k, e) :: rest) {rs : List HitRec}
    (walk : State.walkLines (.node m) e walkFuel s (s.cacheOf (.node m)).fills = .ended t buf rs) :
    s.queryEnd m.val = (t.queryRecs m.val i k buf rs).updCache (.node m) fun c => { c with fills := [] } := by
  simp only [State.queryEnd, Fin.ofNat_val_eq_self, h.goes, todo, walk, Bool.false_eq_true, if_false]

/-- Or its node cache asks for the line that the walk needs. -/
theorem queryEnd_asks (h : s.Walks m) (todo : (s.trav m.val).todo = (i, k, e) :: rest)
    (walk : State.walkLines (.node m) e walkFuel s (s.cacheOf (.node m)).fills = .needs t buf l)
    (cacheable : s.cacheable (128 * l) = true) (free : s.cacheHeld (.node m) = false) :
    s.queryEnd m.val = t.updCache (.node m) fun c => { c with fills := buf, miss := some (l, false) } := by
  have right := walkLines_right (.node m) e walkFuel s (s.cacheOf (.node m)).fills
  rw [walk] at right
  have busy : (t.cacheOf (.node m)).busy = false := (congrArg Prod.snd right).trans h.quiet
  have entry : { t.cacheOf (.node m) with fills := buf } ≠ Cache.off := fun off => by
    exact absurd ((congrArg Cache.busy off).symm.trans busy) (by decide)
  simp only [State.queryEnd, Fin.ofNat_val_eq_self, h.goes, todo, walk, Bool.false_eq_true, if_false]
  simp only [h.hit, Option.isSome_none, cacheable, free, Bool.not_true, Bool.or_false, Bool.false_eq_true, if_false]
  exact updCache_updCache entry _

/-- Records without poison stand for their query in its bin. -/
theorem queryRecs_clean {rs : List HitRec} (clean : (rs.any fun r => r.kind == 9 && r.data0 == 5) = false) (m i k : Nat) :
    t.queryRecs m i k buf rs = t.updTu m fun u => { u with held := u.held.zipIdx.map fun h =>
      if h.2 = i then { h.1 with recs := Tbl.set [] h.1.recs k rs } else h.1 } := by
  simp only [State.queryRecs, clean, Bool.false_eq_true, if_false]

variable {u : TravUnit} {p : HitPacket}

theorem binDeliver_runs (runs : s.tuRuns m.val = true) :
    s.binDeliver m.val = s.updTu m.val fun u => u.deliver (m.val / 16) := by
  simp [State.binDeliver, runs]

/-- The first bin of a unit, once all its queries have ended, leaves as packets as far as there is room for them. -/
theorem deliver_forms {h : HeldBin} {rest : List HeldBin} (held : u.held = h :: rest) (formed : u.form = [])
    (ended : h.ended = true) (fresh : h.packs = none) (room : u.waiting.length < 8) (q : Nat) :
    u.deliver q = { u with
      waiting := u.waiting ++ (h.packets q).take (8 - u.waiting.length)
      held := if (h.packets q).drop (8 - u.waiting.length) = [] then rest
        else { h with packs := some ((h.packets q).drop (8 - u.waiting.length)) } :: rest } := by
  have some_ : (8 - u.waiting.length == 0) = false := beq_false_of_ne (by omega)
  simp only [TravUnit.deliver, formed, List.take_nil, List.drop_nil, List.append_nil, held, ended, some_, fresh, Option.getD_none,
    Bool.not_true, Bool.or_false, Bool.false_eq_true, if_false, List.isEmpty_iff]

/-- The ring that a packet is for. -/
abbrev State.ringOf (s : State) (p : HitPacket) : HitRing := Tbl.get HitRing.off (s.core p.core).rings p.ring

/-- A unit without a packet that has left it, whose queries are complete. -/
def State.packetLeaves (s : State) (m : Nat) (p : HitPacket) : State :=
  p.binds.foldl State.queryDone (s.updTu m fun u => { u with waiting := u.waiting.erase p })

/-- The first packet that is lost or whose ring has room. -/
def State.nextPacket (s : State) (m : Nat) : Option HitPacket :=
  (s.trav m).waiting.find? fun p => s.packetLost p || decide ((s.ringOf p).filled + 1 < (s.ringOf p).slots)

theorem packetWrite_lost (clock : s.coreClock = true) (on : s.tileOff (tuTile m.val) = false)
    (next : s.nextPacket m.val = some p) (lost : s.packetLost p = true) : s.packetWrite m.val =
      if s.tileOff p.core then s.packetLeaves m.val p else (s.packetLeaves m.val p).ringDrop p.core p.ring 1 := by
  unfold State.nextPacket at next
  simp only [State.packetWrite, clock, on, next, lost, Bool.not_true, Bool.or_self, Bool.false_eq_true, if_false, if_true]
  rfl

theorem packetWrite_writes (clock : s.coreClock = true) (on : s.tileOff (tuTile m.val) = false)
    (next : s.nextPacket m.val = some p) (kept : s.packetLost p = false) : s.packetWrite m.val =
      ((s.packetLeaves m.val p).tileWrite p.core (4096 * ((s.ringOf p).base + (s.ringOf p).tail))
        (p.bytes m.val (s.ringOf p).seq) false).updCore p.core fun w =>
          { w with rings := Tbl.upd HitRing.off w.rings p.ring fun r =>
            { r with tail := (r.tail + 1) % r.slots, seq := (r.seq + 1) % 2 ^ 32 } } := by
  unfold State.nextPacket at next
  simp only [State.packetWrite, clock, on, next, kept, Bool.not_true, Bool.or_self, Bool.false_eq_true, if_false]
  rfl

end Units

/-- Settles O38: how a walk ends is `walkLines_right`; two changes of the node cache are one, since a cache that does not
invalidate itself has an entry; and packets form and leave as `deliver_forms` and `packetWrite` say. -/
theorem traversalUnitsEndAndDeliver : Obligations.TraversalUnitsEndAndDeliver := by
  refine ⟨fun r e fuel s t buf buf' rs walk => ?ended, fun m s => ⟨fun runs => ⟨fun i k e rest whole room quiet hit todo =>
    ⟨fun t buf rs walk clean => ?ends, fun t buf l walk cacheable free => ?asks⟩, finish_eq (binDeliver_runs runs),
    fun h rest held formed ended fresh room => deliver_forms held formed ended fresh room _⟩,
    fun p clock on next => ⟨fun kept => finish_eq (packetWrite_writes clock on next kept),
      fun lost => finish_eq (packetWrite_lost clock on next lost)⟩⟩⟩
  case ended =>
    have right := walkLines_right r e fuel s buf
    rw [walk] at right
    exact right.2
  case ends =>
    refine finish_eq ((queryEnd_ends ⟨runs, whole, room, quiet, hit⟩ todo walk).trans ?_)
    rw [queryRecs_clean clean]
  case asks => exact finish_eq (queryEnd_asks ⟨runs, whole, room, quiet, hit⟩ todo walk cacheable free)

end Sys2Proof.Machine

/-! Stream programs and the events of stream engines: the laws of their operations, and the statements O40 and O41. -/

namespace Sys2Proof.Tbl

/-- A change of an entry is told by what it makes of the entry as it is. -/
theorem upd_congr {α : Type} [DecidableEq α] {d : α} {t : Tbl α} {k : Nat} {f g : α → α} (h : f (get d t k) = g (get d t k)) :
    upd d t k f = upd d t k g :=
  congrArg (set d t k) h

end Sys2Proof.Tbl

namespace Sys2Proof.Machine

/-! ## Channels of a stream engine (R265). -/

section Channels

variable (s : State)

/-- A channel named by the numbers of its core and its own is that channel. -/
@[simp] theorem chSrc_val (n : Core) (k : Chan) : chSrc n.val k.val = .chan n k := by
  simp only [chSrc, Fin.ofNat_val_eq_self]

@[simp] theorem chanOf_updChan_self (src : StreamSrc) (f : Channel → Channel) :
    (s.updChan src f).chanOf src = f (s.chanOf src) := by
  cases src with
  | chan n k => simp only [State.updChan, State.chanOf, core_updCore_self, Tbl.get_upd_self]
  | next n => simp only [State.updChan, State.chanOf, core_updCore_self, Tbl.get_upd_self]
  | dma d => exact Tbl.get_upd_self ..

/-- A change of a channel leaves the other channels of all cores alone. -/
theorem chanOf_updChan_other {n m : Core} {k j : Chan} (other : StreamSrc.chan m j ≠ .chan n k) (f : Channel → Channel) :
    (s.updChan (.chan n k) f).chanOf (.chan m j) = s.chanOf (.chan m j) := by
  by_cases core : m = n
  · subst core
    have chan : j.val ≠ k.val := fun h => other (by rw [Fin.ext h])
    simp only [State.updChan, State.chanOf, core_updCore_self]
    exact Tbl.get_upd_other _ _ _ chan
  · simp only [State.updChan, State.chanOf, core_updCore_other s n.val _ (Fin.val_ne_of_ne core)]

/-- A change of a core that leaves its channels alone. -/
theorem chanOf_updCore (n : Nat) {f : Wrk → Wrk} (chans : ∀ w, (f w).chans = w.chans) (src : StreamSrc) :
    (s.updCore n f).chanOf src = s.chanOf src := by
  have core (m : Nat) : ((s.updCore n f).core m).chans = (s.core m).chans := by
    by_cases h : m = n
    · rw [h, core_updCore_self, chans]
    · rw [core_updCore_other s n f h]
  cases src with
  | chan m j => exact congrArg (Tbl.get Channel.off · j.val) (core m)
  | next m => exact congrArg (Tbl.get Channel.off · 16) (core m)
  | dma d => rfl

@[simp] theorem chanOf_tileWrite (n off : Nat) (bs : List Byte) (p : Bool) (src : StreamSrc) :
    (s.tileWrite n off bs p).chanOf src = s.chanOf src := by
  rw [tileWrite_frame]
  rfl

/-- A post changes semaphores alone. -/
theorem chanOf_semPost (n pair : Nat) (empty : Bool) (src : StreamSrc) : (s.semPost n pair empty).chanOf src = s.chanOf src := by
  unfold State.semPost
  split
  · rfl
  · refine chanOf_updCore s n (fun w => ?_) src
    unfold Wrk.semPost
    dsimp only
    split <;> rfl

/-- A change of a channel is told by what it makes of the channel as it is. -/
theorem updChan_congr {s : State} {src : StreamSrc} {f g : Channel → Channel} (h : f (s.chanOf src) = g (s.chanOf src)) :
    s.updChan src f = s.updChan src g := by
  cases src with
  | chan n k => exact updCore_congr (congrArg (fun t => ({ s.core n with chans := t } : Wrk)) (Tbl.upd_congr h))
  | next n => exact updCore_congr (congrArg (fun t => ({ s.core n with chans := t } : Wrk)) (Tbl.upd_congr h))
  | dma d => exact congrArg (fun t => ({ s with dma := t } : State)) (Tbl.upd_congr h)

/-- The block in force is that of the program that runs. -/
theorem blk_eq_some {c : Channel} {b : ChanBlock} : c.blk = some b ↔ c.job = .prog b := by
  unfold Channel.blk
  cases c.job <;> simp

end Channels

/-! ## Turns of the programs of an engine (R275). -/

section Programs

variable {s : State} {n : Core} {k : Chan} {b : ChanBlock}

/-- The first channel that runs, counted in round-robin order from the one that executed last, has the turn. -/
theorem execTurn_first (runs : s.chanRuns n k = true) (first : ∀ j < 16, s.chanRuns n j = true →
      (k.val + 15 * ((s.core n).execLast + 1)) % 16 ≤ (j + 15 * ((s.core n).execLast + 1)) % 16) :
    s.execTurn n = some k.val := by
  generalize hl : (s.core n).execLast = last at first
  have hk := k.isLt
  have at_ : (last + 1 + (k.val + 15 * (last + 1)) % 16) % 16 = k.val := by omega
  have found : (List.range 16).find? (s.chanRuns n ∘ fun i => (last + 1 + i) % 16) = some ((k.val + 15 * (last + 1)) % 16) := by
    refine List.find?_range_eq_some.2 ⟨?_, List.mem_range.2 (Nat.mod_lt _ (by decide)), fun i before => ?_⟩
    · rw [Function.comp_apply, at_, runs]
    · cases earlier : s.chanRuns n ((last + 1 + i) % 16) with
      | false => simp [earlier]
      | true =>
        have := first _ (Nat.mod_lt _ (by decide)) earlier
        omega
  rw [State.execTurn, hl, afterChan, List.find?_map, found, Option.map_some, at_]

theorem chanRuns_of_execTurn (turn : s.execTurn n = some k.val) : s.chanRuns n k = true := List.find?_some turn

/-- A channel that has the turn runs. -/
theorem running_of_execTurn (turn : s.execTurn n = some k.val) : (s.chanOf (.chan n k)).st = .running := by
  have runs := chanRuns_of_execTurn turn
  simp only [State.chanRuns, chSrc_val, Bool.and_eq_true, beq_iff_eq] at runs
  obtain ⟨⟨⟨⟨running, -⟩, -⟩, -⟩, -⟩ := runs
  exact running

/-- A channel that has the turn does not wait. -/
theorem chanWaits_of_execTurn (job : (s.chanOf (.chan n k)).job = .prog b) (turn : s.execTurn n = some k.val) :
    s.chanWaits n k b = false := by
  have runs := chanRuns_of_execTurn turn
  simp only [State.chanRuns, chSrc_val, Channel.blk, job, Bool.and_eq_true, Bool.not_eq_true'] at runs
  obtain ⟨-, -, free⟩ := runs
  exact free

/-- What an instruction of a program leaves: its effect, with its channel as the one that executed last. -/
def State.ran (t : State) (n : Core) (k : Chan) : State := t.updCore n fun x => { x with execLast := k.val }

/-- The instruction at the program counter, in its channel's turn. -/
theorem progStep_turn (job : (s.chanOf (.chan n k)).job = .prog b) (turn : s.execTurn n = some k.val) {op : Nat}
    (named : sop ((s.chanOf (.chan n k)).word b) = op) (f : ChanBlock → BitVec 32 → State) :
    s.progStep n k op f = (f b ((s.chanOf (.chan n k)).word b)).ran n k := by
  simp only [State.progStep, chSrc_val, Channel.blk, job, turn, named, and_self, if_true]
  rfl

/-- Another instruction, or one of a channel whose turn it is not, does nothing. -/
theorem progStep_idle {op : Nat} (idle : s.execTurn n ≠ some k.val ∨
      ((s.chanOf (.chan n k)).job = .prog b ∧ sop ((s.chanOf (.chan n k)).word b) ≠ op)) (f : ChanBlock → BitVec 32 → State) :
    s.progStep n k op f = s := by
  unfold State.progStep
  split
  case h_1 x blk =>
    refine if_neg fun ⟨turn, named⟩ => ?_
    rw [chSrc_val] at blk named
    rcases idle with notTurn | ⟨job, other⟩
    · exact notTurn turn
    · obtain rfl := Option.some.inj ((blk_eq_some.2 job).symm.trans blk)
      exact other named
  case h_2 => rfl

/-- A register operation reads the registers as they are, and the next instruction follows. -/
theorem progReg_turn (job : (s.chanOf (.chan n k)).job = .prog b) (turn : s.execTurn n = some k.val) {op : Nat}
    (named : sop ((s.chanOf (.chan n k)).word b) = op) (f : ChanBlock → Channel → BitVec 32 → W64) :
    s.progReg n k op f = State.ran (s.updChan (.chan n k) fun c => { c.setA (sad ((s.chanOf (.chan n k)).word b))
      (f b (s.chanOf (.chan n k)) ((s.chanOf (.chan n k)).word b)) with pc := c.pc + 1 }) n k := by
  rw [State.progReg, progStep_turn job turn named, chSrc_val]
  exact congrArg (State.ran · n k) (updChan_congr rfl)

end Programs

/-! ## Transfers, table reads and posts (R272, R287). -/

section Accesses

variable {s : State} {n : Core} {k : Chan} {b : ChanBlock} {w : BitVec 32} {a len : Nat}

theorem xferLen_xfer (c : Channel) (named : sop w = 0xC) : c.xferLen w = (c.a (sat w)).toNat := if_pos named

theorem xferLen_xferi (c : Channel) (named : sop w = 0xD) : c.xferLen w = simmU w % 8192 :=
  if_neg (by rw [named]; decide)

section Transfers

variable (from_ : ((s.chanOf (.chan n k)).a (sas w)).toNat = a) (names : (s.chanOf (.chan n k)).xferLen w = len)

include from_ names

/-- A transfer of no byte or of more than 4,096 faults. -/
theorem xferStart_badLength (bad : len = 0 ∨ 4096 < len) :
    s.xferStart n k b w = s.chanFault (.chan n k) 0x0D (s.chanOf (.chan n k)).begun a := by
  subst from_ names
  simp only [State.xferStart, chSrc_val]
  exact if_pos bad

variable (some_ : 1 ≤ len) (most : len ≤ 4096)

include some_ most

/-- A transfer whose first line fails a check faults. -/
theorem xferStart_badLine {x : Nat}
    (cause : s.lineCause true (s.partOf n) a (min len (128 - a % 128)) (b.dir == 1) = some x) :
    s.xferStart n k b w = s.chanFault (.chan n k) x (s.chanOf (.chan n k)).begun a := by
  subst from_ names
  simp only [State.xferStart, chSrc_val, cause]
  exact if_neg (by omega)

variable (good : s.lineCause true (s.partOf n) a (min len (128 - a % 128)) (b.dir == 1) = none)

include good

/-- A transfer over the end of its slot faults. -/
theorem xferStart_overSlot (passes : 2 ^ b.slotLog2 < (s.chanOf (.chan n k)).cursor + len) :
    s.xferStart n k b w = s.chanFault (.chan n k) 0x09 (s.chanOf (.chan n k)).begun a := by
  subst from_ names
  simp only [State.xferStart, chSrc_val, good, if_pos passes]
  exact if_neg (by omega)

/-- A transfer that passes its checks starts. -/
theorem xferStart_starts (fits : (s.chanOf (.chan n k)).cursor + len ≤ 2 ^ b.slotLog2) :
    s.xferStart n k b w = s.updChan (.chan n k) fun c =>
      { c with xfer := some ⟨a, len, c.cursor, 0, c.begun⟩, begun := c.begun + len, cursor := c.cursor + len, pc := c.pc + 1,
               starts := if c.cursor = 0 then c.starts ++ [c.begun] else c.starts } := by
  subst from_ names
  simp only [State.xferStart, chSrc_val, good, if_neg (Nat.not_lt.2 fits)]
  exact if_neg (by omega)

end Transfers

/-- A table read that is misaligned or leaves the tile memory faults. -/
theorem progLdt_badAddress (from_ : ((s.chanOf (.chan n k)).a (sas w)).toNat = a) (bad : a % 8 ≠ 0 ∨ 0x40_0000 < a + 8) :
    s.progLdt n k w = s.chanFault (.chan n k) 0x0A (s.chanOf (.chan n k)).begun a := by
  subst from_
  simp only [State.progLdt, chSrc_val]
  exact if_pos bad

/-- A table read of a poisoned word raises detector 0x3F and faults. -/
theorem progLdt_poisoned (from_ : ((s.chanOf (.chan n k)).a (sas w)).toNat = a) (aligned : a % 8 = 0) (inside : a + 8 ≤ 0x40_0000)
    (poisoned : (s.tileBytes n a 8).2 = true) :
    s.progLdt n k w = ((s.tileFind n a 8).raise 0x3F (0x100 + n) (0x800_0000_0000 + 0x40_0000 * n + a) 3).chanFault
      (.chan n k) 0x05 (s.chanOf (.chan n k)).begun a := by
  subst from_
  simp only [State.progLdt, chSrc_val, poisoned, if_true]
  exact if_neg (by omega)

theorem progLdt_reads (from_ : ((s.chanOf (.chan n k)).a (sas w)).toNat = a) (aligned : a % 8 = 0) (inside : a + 8 ≤ 0x40_0000)
    (whole : (s.tileBytes n a 8).2 = false) :
    s.progLdt n k w = s.updChan (.chan n k) fun c =>
      { c.setA (sad w) (BitVec.ofNat 64 (bytesToNat (s.tileBytes n a 8).1)) with pc := c.pc + 1 } := by
  subst from_
  simp only [State.progLdt, chSrc_val, whole, Bool.false_eq_true, if_false]
  exact if_neg (by omega)

/-- A post to a core outside the poster's partition faults (R295). -/
theorem progPost_outside (outside : s.partOf n = none ∨ s.partOf (simmU w % 256) ≠ s.partOf n) :
    s.progPost n k w = s.chanFault (.chan n k) 0x0B (s.chanOf (.chan n k)).begun 0 := by
  simp only [State.progPost, chSrc_val, Option.isNone_iff_eq_none]
  exact if_pos outside.symm

/-- A post takes the lowest posted-write number that is free (R279). -/
theorem progPost_issues (part : (s.partOf n).isSome = true) (inside : s.partOf (simmU w % 256) = s.partOf n) {t : Nat}
    (free : freeNum (s.engineReqs (.chan n k)) 1024 1280 = some t) :
    s.progPost n k w = ((s.updChan (.chan n k) fun c =>
      { c with pc := c.pc + 1, reqs := c.reqs ++
          [⟨t, true, 0, 0, 0, 0, c.begun, [], false, some (simmU w % 256, field (simmU w) 12 8, bitOf (simmU w) 13)⟩]
      }).count (0x100 + n.val) 2).count (0x100 + n.val) 3 := by
  have near : ¬(s.partOf (simmU w % 256) ≠ s.partOf n ∨ (s.partOf n).isNone = true) := by
    rw [Option.isNone_iff_eq_none, ← Option.not_isSome_iff_eq_none]
    exact fun h => h.elim (· inside) (· part)
  simp only [State.progPost, chSrc_val, if_neg near, free]
  exact congrArg (fun t => (State.count t (0x100 + n.val) 2).count (0x100 + n.val) 3) (updChan_congr rfl)

/-- A channel at a POST that may execute has no transfer outstanding (R272). -/
theorem reqs_of_post (job : (s.chanOf (.chan n k)).job = .prog b) (turn : s.execTurn n = some k.val)
    (named : sop ((s.chanOf (.chan n k)).word b) = 0xF) (part : (s.partOf n).isSome = true)
    (inside : s.partOf (simmU ((s.chanOf (.chan n k)).word b) % 256) = s.partOf n) :
    ∀ r ∈ (s.chanOf (.chan n k)).reqs, r.post ≠ none := by
  have waits := chanWaits_of_execTurn job turn
  simp only [State.chanWaits, chSrc_val, named, inside, part, beq_self_eq_true, Bool.true_and, if_true] at waits
  obtain ⟨answered, -⟩ := Bool.or_eq_false_iff.1 waits
  simpa only [List.any_eq_false, Option.isNone_iff_eq_none] using answered

end Accesses

/-! ## The end of a tile (R270, R273). -/

section Tiles

variable {s : State} {n : Core} {k : Chan} {b : ChanBlock}

/-- Where every closed tile has completed, no tile completes. -/
theorem tileStep_none (done : (s.chanOf (.chan n k)).tiles = (s.chanOf (.chan n k)).closed) : s.tileStep (.chan n k) = s := by
  unfold State.tileStep
  split
  · rw [done, Nat.sub_self]
    split <;> rfl
  · rfl

/-- A channel that is not multicast leads no stream. -/
theorem leads_single (single : b.dir ≤ 1) : s.leads n k b = none := by
  unfold State.leads
  split
  · exact if_neg fun h => by omega
  · rfl

/-- A channel that is not multicast delivers its tiles to no other. -/
theorem mcTargets_single (single : b.dir ≤ 1) (j : Nat) : s.mcTargets n k b j = [] := by
  rw [State.mcTargets, leads_single single]

/-- The one tile that is closed and not complete completes once its requests are answered. -/
theorem tileStep_one (job : (s.chanOf (.chan n k)).job = .prog b) (lives : (s.chanOf (.chan n k)).st ≠ .aborting)
    (single : b.dir ≤ 1) (one : (s.chanOf (.chan n k)).closed = (s.chanOf (.chan n k)).tiles + 1)
    (answered : ∀ r ∈ (s.chanOf (.chan n k)).reqs, r.post = none → r.tile ≠ (s.chanOf (.chan n k)).tiles) :
    s.tileStep (.chan n k) = (s.updChan (.chan n k) fun c => c.tileDone b).count (0x100 + n.val) 6 := by
  have open_ : ¬((s.chanOf (.chan n k)).st = .aborting ∨ b.dir = 3) := fun h => h.elim lives fun h => by omega
  have ready : (s.chanOf (.chan n k)).tiles < (s.chanOf (.chan n k)).closed ∧
      (!(s.chanOf (.chan n k)).reqs.any fun r => r.post.isNone && r.tile == (s.chanOf (.chan n k)).tiles) = true := by
    refine ⟨by omega, ?_⟩
    simpa [Option.isNone_iff_eq_none] using answered
  simp only [State.tileStep, Channel.blk, job, if_neg open_]
  rw [one, Nat.add_sub_cancel_left]
  simp only [State.tileGo, chSrc_val, if_pos ready, mcTargets_single single, List.foldl_nil]

/-- A tile that completes frees its slot to the side that its ring's direction names. -/
theorem tileDone_eq (c : Channel) (b : ChanBlock) :
    c.tileDone b = { c with tiles := c.tiles + 1, starts := c.starts.drop 1,
                            head := if b.dir = 1 then (c.head + 1) % b.slots else c.head,
                            tail := if b.dir = 1 then c.tail else (c.tail + 1) % b.slots } := by
  unfold Channel.tileDone
  dsimp only
  split <;> rfl

end Tiles

/-! ## The instructions of a program (R272). -/

/-- Each instruction with its op in a program word. -/
def progInstrs (n : Core) (k : Chan) : List (Nat × Instr) :=
  [(0, .streamHalt n k), (1, .streamArg n k), (2, .streamLi n k), (3, .streamAddi n k), (4, .streamAdd n k),
   (5, .streamSub n k), (6, .streamMul n k), (7, .streamShli n k), (8, .streamAndi n k), (9, .streamLdt n k),
   (10, .streamBnzd n k), (11, .streamBltu n k), (12, .streamXfer n k), (13, .streamXferi n k), (14, .streamEmit n k),
   (15, .streamPost n k)]

/-- Each instruction is one step of its channel's program. -/
theorem exec_progInstr {n : Core} {k : Chan} {i : Nat × Instr} (named : i ∈ progInstrs n k) (s : State) :
    ∃ f, exec i.2 s = finish s (s.progStep n k i.1 f) := by
  simp only [progInstrs, List.mem_cons, List.not_mem_nil, or_false] at named
  rcases named with rfl | rfl | rfl | rfl | rfl | rfl | rfl | rfl | rfl | rfl | rfl | rfl | rfl | rfl | rfl | rfl <;>
    exact ⟨_, rfl⟩

/-- Settles O40: a channel's turn is the first in round-robin order, and each instruction is one step of its channel's
program, whose effect is told by the laws of its operation. -/
theorem streamProgramsRun : Obligations.StreamProgramsRun := by
  intro n k s b
  refine ⟨execTurn_first, fun i named idle => ?idle, fun job turn => ?_⟩
  case idle =>
    obtain ⟨f, eq⟩ := exec_progInstr named s
    exact eq.trans (finish_eq (progStep_idle idle f))
  have step {op : Nat} (named : sop ((s.chanOf (.chan n k)).word b) = op) {f : ChanBlock → BitVec 32 → State} {t : State}
      (effect : f b ((s.chanOf (.chan n k)).word b) = t) :
      finish s (s.progStep n k op f) = .next (s.after (t.ran n k)) :=
    finish_eq ((progStep_turn job turn named f).trans (congrArg (State.ran · n k) effect))
  have reg {op : Nat} (named : sop ((s.chanOf (.chan n k)).word b) = op) (f : ChanBlock → Channel → BitVec 32 → W64) :=
    finish_eq (s := s) (progReg_turn job turn named f)
  have lives : (s.chanOf (.chan n k)).st ≠ .aborting := by
    rw [running_of_execTurn turn]
    decide
  refine ⟨fun op whole done => ?haltWhole, fun op => step op rfl, fun op => reg op _, fun op => reg op _, fun op => reg op _,
    fun op => reg op _, fun op => reg op _, fun op => reg op _, fun op => reg op _, fun op => reg op _, fun op => ?ldt,
    fun op => step op rfl, fun op => step op rfl, fun op => have names := xferLen_xfer (s.chanOf (.chan n k)) op; ?xfer,
    fun op => have names := xferLen_xferi (s.chanOf (.chan n k)) op; ?xferi, fun op => step op rfl,
    fun op begun done answered single => ?emit, fun op outside => step op (progPost_outside outside),
    fun op part inside => ⟨reqs_of_post job turn op part inside, fun t free => step op (progPost_issues part inside free)⟩⟩
  case haltWhole =>
    refine step op ?_
    have close : (s.chanOf (.chan n k)).close = s.chanOf (.chan n k) := if_pos whole
    rw [updChan_congr (g := fun c => { c with st := .draining }) (by rw [close])]
    exact tileStep_none (by simpa only [chanOf_updChan_self] using done)
  case ldt =>
    exact ⟨fun bad => step op (progLdt_badAddress rfl bad),
      fun aligned inside poisoned => step op (progLdt_poisoned rfl aligned inside poisoned),
      fun aligned inside whole => step op (progLdt_reads rfl aligned inside whole)⟩
  case xfer | xferi =>
    exact ⟨fun bad => step op (xferStart_badLength rfl names bad),
      fun some_ most x cause => step op (xferStart_badLine rfl names some_ most cause),
      fun some_ most good passes => step op (xferStart_overSlot rfl names some_ most good passes),
      fun some_ most good fits => step op (xferStart_starts rfl names some_ most good fits)⟩
  case emit =>
    refine step op ?_
    have close : (s.chanOf (.chan n k)).close
        = { s.chanOf (.chan n k) with closed := (s.chanOf (.chan n k)).closed + 1, cursor := 0 } := if_neg begun
    rw [updChan_congr (g := fun c => { c with closed := c.closed + 1, cursor := 0, pc := c.pc + 1 }) (by rw [close]),
      tileStep_one (b := b) (by simpa only [chanOf_updChan_self] using job) (by simpa only [chanOf_updChan_self] using lives)
      single (by simp only [chanOf_updChan_self, done]) (by simpa only [chanOf_updChan_self] using answered)]
    simp only [tileDone_eq]

/-! ## Requests and responses of lines (R275, R278, R279, R299). -/

section Lines

variable {s t : State} {src : StreamSrc} {r : LineReq}

/-- The line generator serves the channel whose turn it is alone. -/
theorem lineIssue_notTurn {n : Core} {k : Chan} (notTurn : s.genTurn n ≠ some k.val) : s.lineIssue (.chan n k) = s := by
  simp only [State.lineIssue, beq_false_of_ne notTurn, Bool.not_false, or_true, if_true]

/-- In its turn a program's transfer issues its next line. -/
theorem lineIssue_xfer {n : Core} {k : Chan} {b : ChanBlock} {x : Xfer} (runs : s.engineRuns (.chan n k) = true)
    (running : (s.chanOf (.chan n k)).st = .running) (job : (s.chanOf (.chan n k)).job = .prog b)
    (xfer : (s.chanOf (.chan n k)).xfer = some x) (turn : s.genTurn n = some k.val) :
    s.lineIssue (.chan n k) = s.issueXfer n k b x := by
  simp only [State.lineIssue, runs, running, job, xfer, turn, beq_self_eq_true, Bool.not_true, Bool.false_eq_true,
    ne_eq, not_true_eq_false, or_self, if_false]

/-- A read that is not a peer's takes the lowest free tag. -/
theorem issue_read {n : Core} {k : Chan} (read : r.write = false) (near : ∀ p, spaceOf r.addr ≠ .peer p) {tag : Nat}
    (free : freeNum (s.engineReqs (.chan n k)) 0 1024 = some tag) (f : Channel → Channel) :
    s.issue (.chan n k) r f = ((s.updCore n fun y => { y with genLast := k.val }).updChan (.chan n k) fun c =>
      { f c with reqs := c.reqs ++ [{ r with tag := tag }] }).count (0x100 + n.val) 1 := by
  simp only [State.issue, read, Bool.false_and, Bool.false_eq_true, if_false, free]
  rfl

/-- The next line of a read transfer that passes its checks (R273). -/
theorem issueXfer_read {n : Core} {k : Chan} {b : ChanBlock} {x : Xfer} {a len tag : Nat} (ha : a = x.addr + x.issued)
    (hlen : len = min (x.len - x.issued) (128 - a % 128)) (read : b.dir = 0)
    (good : s.lineCause true (s.partOf n) a len false = none)
    (free : freeNum (s.engineReqs (.chan n k)) 0 1024 = some tag) (near : ∀ p, spaceOf a ≠ .peer p) :
    s.issueXfer n k b x = ((s.updCore n fun y => { y with genLast := k.val }).updChan (.chan n k) fun c =>
      { c with xfer := if x.issued + len = x.len then none else some { x with issued := x.issued + len },
               reqs := c.reqs ++ [⟨tag, false, a, len, b.slot c.closed + x.cursor + x.issued, c.closed, x.off + x.issued, [],
                 false, none⟩] }).count (0x100 + n.val) 1 := by
  subst ha hlen
  have dir : (b.dir == 1) = false := by rw [read]; rfl
  simp only [State.issueXfer, chSrc_val, dir, good, Bool.false_eq_true, if_false]
  rw [issue_read rfl near free]
  have same : (s.updCore n fun y => { y with genLast := k.val }).chanOf (.chan n k) = s.chanOf (.chan n k) :=
    chanOf_updCore s n (f := fun y => { y with genLast := k.val }) (fun _ => rfl) _
  exact congrArg (State.count · (0x100 + n.val) 1) (updChan_congr (by rw [same]))

/-- A response finds its request by its tag. -/
theorem lineResponse_done {code : BusResp} {bytes : List Byte}
    (found : (s.chanOf src).reqs.find? (fun q => q.tag == r.tag) = some r)
    {resp : BusResp} (access : s.lineAccess src r resp = .ok (t, code, bytes)) :
    s.lineResponse src r.tag resp = t.lineDone src r code bytes := by
  simp only [State.lineResponse, found, access]

/-- A read that its target answers. -/
theorem lineAccess_read {bytes : List Byte} (read : r.write = false) (noPost : r.post = none)
    (near : ∀ p, spaceOf r.addr ≠ .peer p) (bus : s.busCode r.addr = .okay)
    (answers : s.busRead r.addr r.len = .done t .okay bytes false) : s.lineAccess src r .okay = .ok (t, .okay, bytes) := by
  simp [State.lineAccess, noPost, bus, read, answers]

/-- A post that reaches a tile that is on adds to its semaphore (R279). -/
theorem lineAccess_post {p : Nat × Nat × Bool} (post : r.post = some p) (on : s.tileOff p.1 = false) :
    s.lineAccess src r .okay = .ok (s.semPost p.1 p.2.1 p.2.2, .okay, []) := by
  simp [State.lineAccess, post, on]

/-- A response to a run that aborts is dropped (R285). -/
theorem lineDone_aborting (aborts : (s.chanOf src).st = .aborting) (code : BusResp) (bytes : List Byte) :
    s.lineDone src r code bytes = s.updChan src fun c => { c with reqs := c.reqs.filter fun q => q.tag != r.tag } :=
  if_pos aborts

/-- The bytes of a next-layer line land in the core's tile memory (R299). -/
theorem lineDone_next {n : Core} {b : NextBlock} (lives : (s.chanOf (.next n)).st ≠ .aborting)
    (job : (s.chanOf (.next n)).job = .next b) (bytes : List Byte) :
    s.lineDone (.next n) r .okay bytes = (s.updChan (.next n) fun c =>
      { c with reqs := c.reqs.filter fun q => q.tag != r.tag }).tileWrite n r.dest bytes false := by
  simp only [State.lineDone, if_neg lives, job, ne_eq, not_true_eq_false, if_false]

end Lines

/-! ## The end of a run (R277, R283). -/

section Completion

variable {s : State} {n : Core} {k : Chan} {b : ChanBlock}

/-- The record of a program's run, where its block enables it (R269). -/
def State.progRecord (s : State) (n : Core) (b : ChanBlock) (bytes : List Byte) : State :=
  if b.crecEn then s.tileWrite n b.crecOff bytes false else s

@[simp] theorem progRecord_chanOf (bytes : List Byte) (src : StreamSrc) : (s.progRecord n b bytes).chanOf src = s.chanOf src := by
  unfold State.progRecord
  split
  · exact chanOf_tileWrite ..
  · rfl

@[simp] theorem progRecord_mcast (bytes : List Byte) : (s.progRecord n b bytes).mcast = s.mcast := by
  unfold State.progRecord
  split
  · rw [tileWrite_frame]
  · rfl

/-- How a run ends: an end other than OK discards the shadow (R289). -/
def Channel.ending (c : Channel) : EndInfo :=
  { c.endInfo with discarded := c.endInfo.discarded || (c.endInfo.status != 0 && c.shadow != .none) }

/-- The record of a program's run lies in the tile memory of its core. -/
theorem recordAt_prog {c : Channel} (job : c.job = .prog b) :
    c.recordAt (.chan n k) = if b.crecEn then .tile n b.crecOff else .nowhere := by
  rw [Channel.recordAt, job]
  rfl

/-- A program's run ends with its record, its bit of cs.stdone and an idle channel. -/
theorem finishChan_prog (job : (s.chanOf (.chan n k)).job = .prog b) :
    s.finishChan (.chan n k) = (((s.progRecord n b ((s.chanOf (.chan n k)).record (.chan n k) (s.chanOf (.chan n k)).ending
      ((s.chanOf (.chan n k)).ending.status == 0 && (s.chanOf (.chan n k)).shadow != .none))).updCore n fun w =>
        { w with stdone := w.stdone ||| BitVec.ofNat 17 (if b.irq then 2 ^ k.val else 0) }).updChan (.chan n k) fun c =>
          { c with st := .idle, last := (s.chanOf (.chan n k)).ending.status, xfer := none, toWrite := [],
                   shadow := if (s.chanOf (.chan n k)).ending.status = 0 then c.shadow else .none }) := by
  have place (bytes : List Byte) : s.putRecord (.chan n k) ((s.chanOf (.chan n k)).recordAt (.chan n k)) bytes
      = s.progRecord n b bytes := by
    rw [recordAt_prog job, State.progRecord]
    split <;> rfl
  unfold State.finishChan
  dsimp only
  rw [place, job]
  rfl

/-- A run that is not multicast and has no shadow leaves its channel idle. -/
theorem chanComplete_single (runs : s.engineRuns (.chan n k) = true)
    (ends : (s.chanOf (.chan n k)).st = .draining ∨ (s.chanOf (.chan n k)).st = .aborting)
    (answered : (s.chanOf (.chan n k)).reqs = []) (written : (s.chanOf (.chan n k)).toWrite = [])
    (job : (s.chanOf (.chan n k)).job = .prog b) (single : b.dir ≤ 1) (noShadow : (s.chanOf (.chan n k)).shadow = .none) :
    s.chanComplete (.chan n k) = s.finishChan (.chan n k) := by
  have ready : ¬(((s.chanOf (.chan n k)).st ≠ .draining ∧ (s.chanOf (.chan n k)).st ≠ .aborting) ∨
      (!(s.chanOf (.chan n k)).reqs.isEmpty) = true ∨ (!(s.chanOf (.chan n k)).toWrite.isEmpty) = true
      ∨ (!s.engineRuns (.chan n k)) = true) := by
    simp only [answered, written, runs, List.isEmpty_nil, Bool.not_true, Bool.false_eq_true, or_false]
    exact fun ⟨notDraining, notAborting⟩ => ends.elim notDraining notAborting
  have alone : (s.mcEnd n k b).mcLeave n k b = s := by
    rw [State.mcEnd, leads_single single]
    exact if_neg (by omega)
  have two : b.dir ≠ 2 := by omega
  unfold State.chanComplete
  rw [if_neg ready]
  simp only [Channel.blk, job, noShadow, alone, if_neg two, recordAt_prog job]
  cases b.crecEn <;> simp

end Completion

/-! ## Multicast timers (R291, R293). -/

section Multicast

variable {s t : State} {n m : Core} {k j : Chan} {b : ChanBlock}

/-- What the end of another channel's run leaves: the groups' streams, this channel, and what every channel runs. -/
structure State.KeepsStream (s t : State) (n : Core) (k : Chan) : Prop where
  mcast : t.mcast = s.mcast
  chan : t.chanOf (.chan n k) = s.chanOf (.chan n k)
  jobs : ∀ (m : Core) (j : Chan), (t.chanOf (.chan m j)).job = (s.chanOf (.chan m j)).job

theorem State.KeepsStream.refl (s : State) (n : Core) (k : Chan) : s.KeepsStream s n k := ⟨rfl, rfl, fun _ _ => rfl⟩

theorem State.KeepsStream.trans {u : State} (h : s.KeepsStream t n k) (h' : t.KeepsStream u n k) : s.KeepsStream u n k :=
  ⟨h'.mcast.trans h.mcast, h'.chan.trans h.chan, fun m j => (h'.jobs m j).trans (h.jobs m j)⟩

/-- A change of another channel that leaves what it runs. -/
theorem updChan_keepsStream (s : State) (other : StreamSrc.chan n k ≠ .chan m j) {f : Channel → Channel}
    (job : ∀ c, (f c).job = c.job) : s.KeepsStream (s.updChan (.chan m j) f) n k := by
  refine ⟨rfl, chanOf_updChan_other s other f, fun m' j' => ?_⟩
  by_cases same : StreamSrc.chan m' j' = .chan m j
  · rw [same, chanOf_updChan_self, job]
  · rw [chanOf_updChan_other s same]

/-- The end of another program's run. -/
theorem finishChan_keepsStream (other : StreamSrc.chan n k ≠ .chan m j) (job : (s.chanOf (.chan m j)).job = .prog b) :
    s.KeepsStream (s.finishChan (.chan m j)) n k := by
  rw [finishChan_prog job]
  refine .trans (t := State.updCore _ _ _) ⟨progRecord_mcast _, ?_, fun m' j' => ?_⟩
    (updChan_keepsStream _ other fun _ => rfl)
  · rw [chanOf_updCore, progRecord_chanOf]
    exact fun _ => rfl
  · rw [chanOf_updCore, progRecord_chanOf]
    exact fun _ => rfl

/-- A receiver that waits for a stream waits for its group, and runs a program. -/
theorem mem_mcWaiting {g q : Nat} {r : Nat × Nat} (waits : r ∈ s.mcWaiting g q) :
    (s.chanOf (chSrc r.1 r.2)).st = .waitGroup ∧ ∃ y, (s.chanOf (chSrc r.1 r.2)).job = .prog y := by
  obtain ⟨c, -, chan⟩ := List.mem_flatMap.1 waits
  obtain ⟨i, chosen, rfl⟩ := List.mem_map.1 chan
  obtain ⟨-, fits⟩ := List.mem_filter.1 chosen
  simp only [Bool.and_eq_true, beq_iff_eq] at fits
  obtain ⟨waiting, block⟩ := fits
  refine ⟨waiting, ?_⟩
  cases blk : (s.chanOf (chSrc c i)).blk with
  | none => simp [blk] at block
  | some y => exact ⟨y, blk_eq_some.1 blk⟩

/-- A stream that has started, with its leader running. -/
def State.leaderRuns (s : State) (g : Nat) (x : McStream) (n : Core) (k : Chan) : State :=
  (s.updGroup g fun y => { y with lastSeq := some x.mseq }).updChan (.chan n k) fun c => { c with st := .running }

/-- A receiver that waited for a stream that started without it completes with RECEIVER_DETACHED (R291). -/
def State.leftOut (s : State) (src : StreamSrc) : State :=
  (s.updChan src fun c => { c with fin := some ⟨4, 0xFF, 0, 0, 0, false⟩ }).finishChan src

theorem mcStart_eq {g : Nat} {x : McStream} (leader : x.leader = n.val) (chan : x.chan = k.val) :
    s.mcStart g x = ((s.leaderRuns g x n k).mcWaiting g x.mseq).foldl (fun t r => t.leftOut (chSrc r.1 r.2))
      (s.leaderRuns g x n k) := by
  simp only [State.mcStart, leader, chan, chSrc_val]
  rfl

theorem leftOut_keepsStream (other : StreamSrc.chan n k ≠ .chan m j) (job : (s.chanOf (.chan m j)).job = .prog b) :
    s.KeepsStream (s.leftOut (.chan m j)) n k := by
  have shed := updChan_keepsStream s other (f := fun c => { c with fin := some ⟨4, 0xFF, 0, 0, 0, false⟩ }) fun _ => rfl
  exact shed.trans (finishChan_keepsStream other ((shed.jobs m j).trans job))

/-- A stream that starts has its leader running and its number as the last started (R291). -/
theorem mcStart_runs {g : Nat} {x : McStream} (leader : x.leader = n.val) (chan : x.chan = k.val) :
    ((s.mcStart g x).chanOf (.chan n k)).st = .running ∧ ((s.mcStart g x).group g).lastSeq = some x.mseq := by
  have running : ((s.leaderRuns g x n k).chanOf (.chan n k)).st = .running := by
    rw [State.leaderRuns, chanOf_updChan_self]
  have last : ((s.leaderRuns g x n k).group g).lastSeq = some x.mseq :=
    congrArg McGroup.lastSeq (group_updGroup_self s g fun y => { y with lastSeq := some x.mseq })
  rw [mcStart_eq leader chan]
  have keeps := List.foldlRecOn ((s.leaderRuns g x n k).mcWaiting g x.mseq) (fun t r => t.leftOut (chSrc r.1 r.2))
    (motive := fun t => (s.leaderRuns g x n k).KeepsStream t n k) (.refl _ n k) fun t keeps r waits => by
      obtain ⟨waiting, y, job⟩ := mem_mcWaiting waits
      have other : StreamSrc.chan n k ≠ chSrc r.1 r.2 := fun same => by
        rw [← same, running] at waiting
        cases waiting
      exact keeps.trans (leftOut_keepsStream other ((keeps.jobs _ _).trans job))
  exact ⟨by rw [keeps.chan, running], by rw [State.group, keeps.mcast, last]⟩

section Leader

variable {x : McStream} (waits : (s.chanOf (.chan n k)).st = .waitGroup) (job : (s.chanOf (.chan n k)).job = .prog b)
  (dir : b.dir = 2) (active : (s.group b.group).active = some x)

include waits job dir active

theorem attachTimeout_early (early : s.nocNow < (s.chanOf (.chan n k)).since + (s.core n).stragTimeout) :
    s.attachTimeout n k = s := by
  simp only [State.attachTimeout, chSrc_val, Channel.blk, job, waits, dir, active, ne_eq, not_true_eq_false, or_self, if_false]
  exact if_neg fun ⟨_, _, due⟩ => Nat.not_le.2 early due

theorem attachTimeout_due (leader : x.leader = n.val) (chan : x.chan = k.val)
    (due : (s.chanOf (.chan n k)).since + (s.core n).stragTimeout ≤ s.nocNow) :
    s.attachTimeout n k = s.mcStart b.group x := by
  simp only [State.attachTimeout, chSrc_val, Channel.blk, job, waits, dir, active, ne_eq, not_true_eq_false, or_self, if_false]
  exact if_pos ⟨leader, chan, due⟩

end Leader

/-- The one receiver of a core that holds back the next tile is shed once its timer has reached the timeout (R293). -/
theorem straggler_one {r : Nat} {y : ChanBlock} {x : McStream} {q : Nat × Nat}
    (job : (s.chanOf (.chan n k)).job = .prog b) (leads : s.leads n k b = some x)
    (running : (s.chanOf (.chan n k)).st = .running) (one : x.recv.filter (fun q => q.1 == r) = [q])
    (recv : (s.chanOf (chSrc q.1 q.2)).job = .prog y) (attached : (s.chanOf (chSrc q.1 q.2)).fin = none)
    (between : (s.chanOf (.chan n k)).cursor = 0)
    (holds : (s.chanOf (chSrc q.1 q.2)).released + min 8 (y.slots - 1) ≤ (s.chanOf (.chan n k)).closed) :
    s.straggler n k r = if (s.chanOf (chSrc q.1 q.2)).strag < (s.core n).stragTimeout then s
      else (s.updChan (chSrc q.1 q.2) fun c =>
        { c with fin := some ⟨4, 0xFF, 0, (s.chanOf (.chan n k)).begun, 0, false⟩, closed := (s.chanOf (.chan n k)).closed,
                 st := if c.tiles = (s.chanOf (.chan n k)).closed then .draining else c.st }).count (0x100 + n.val) 7 := by
  simp only [State.straggler, chSrc_val, Channel.blk, job, leads, running, one, recv, attached, between, holds,
    List.foldl_cons, List.foldl_nil, ne_eq, not_true_eq_false, if_false, Option.isNone_none, true_and]
  split
  case isTrue due => rw [if_neg (Nat.not_lt.2 due)]
  case isFalse early => rw [if_pos (Nat.not_le.1 early)]

end Multicast

/-- Settles O41: a line issues and is answered as the laws of `issueXfer` and `lineDone` say, a run ends as
`finishChan_prog` says, and the multicast timers act by `mcStart_runs` and `straggler_one`. -/
theorem streamEventsAct : Obligations.StreamEventsAct := by
  intro s
  refine ⟨fun n k b x runs running job xfer read => ⟨fun notTurn => finish_eq (lineIssue_notTurn notTurn),
      fun turn tag good free near => finish_eq ((lineIssue_xfer runs running job xfer turn).trans
        (issueXfer_read rfl rfl read good free near))⟩,
    fun n b r t bytes found read noPost near bus answers lives job => finish_eq ((lineResponse_done found
      (lineAccess_read read noPost near bus answers)).trans (lineDone_next lives job bytes)),
    fun n k r p found post on aborts => finish_eq ((lineResponse_done found (lineAccess_post post on)).trans
      (lineDone_aborting (by rw [chanOf_semPost, aborts]) _ _)),
    fun n k b runs ends answered written job single record noShadow => ?complete,
    fun n k b x waits job dir active leader chan => ⟨fun early => finish_eq (attachTimeout_early waits job dir active early),
      fun due => ⟨_, finish_eq (attachTimeout_due waits job dir active leader chan due), mcStart_runs leader chan⟩⟩,
    fun n r k b y x q job leads running one recv attached between holds =>
      finish_eq (straggler_one job leads running one recv attached between holds)⟩
  case complete =>
    refine finish_eq ((chanComplete_single runs ends answered written job single noShadow).trans ((finishChan_prog job).trans ?_))
    have ending : (s.chanOf (.chan n k)).ending = (s.chanOf (.chan n k)).endInfo := by
      simp [Channel.ending, noShadow]
    rw [ending, State.progRecord, if_pos record, noShadow, bne_self_eq_false, Bool.and_false]
    refine updChan_congr ?_
    rw [chanOf_updCore, chanOf_tileWrite, noShadow, ite_self]
    · rfl
    · exact fun _ => rfl

end Sys2Proof.Machine

/-! Home slices: what an access at home leaves alone, and how a directory finds its entries and changes them. -/

namespace Sys2Proof.Machine

/-! ## What an access at home leaves alone (R320, R325, R335). -/

section Beside

variable (s : State)

@[simp] theorem vaultPut_beside (v l : Nat) (d : Line128) (p : Bool) : (s.vaultPut v l d p).besideMemory = s.besideMemory :=
  rawWrite_beside ..

@[simp] theorem vaultMerge_beside (v l : Nat) (m : BitVec 128) (d : Line128) (p : Bool) (hit : List SymErr) :
    (s.vaultMerge v l m d p hit).1.besideMemory = s.besideMemory := by
  unfold State.vaultMerge
  split <;> simp [State.vaultStore]

/-- A write at its target leaves whatever lies beside the memories. -/
theorem memWrite_beside (l : Nat) (m : BitVec 128) (d : Line128) (p : Bool) :
    (s.memWrite l m d p).1.besideMemory = s.besideMemory := by
  unfold State.memWrite
  split
  · exact vaultMerge_beside ..
  · exact rawWrite_beside ..

/-- The state but for memory and the home slices, and of these the directories. -/
def State.besideLines (s : State) : State × (Nat → Tbl DirEnt) :=
  ({ s.besideMemory with l2 := [] }, fun n => (s.slice n).dir)

variable {s}

theorem besideLines_of_besideMemory {t : State} (h : t.besideMemory = s.besideMemory) : t.besideLines = s.besideLines :=
  (congrArg (fun u : State => (({ u with l2 := [] } : State), fun n => (u.slice n).dir)) h :)

@[simp] theorem memRead_besideLines (l : Nat) : (s.memRead l).2.besideLines = s.besideLines :=
  besideLines_of_besideMemory (memRead_beside s l)

@[simp] theorem memWrite_besideLines (l : Nat) (m : BitVec 128) (d : Line128) (p : Bool) :
    (s.memWrite l m d p).1.besideLines = s.besideLines :=
  besideLines_of_besideMemory (memWrite_beside s l m d p)

@[simp] theorem count_besideLines (u ev : Nat) : (s.count u ev).besideLines = s.besideLines :=
  besideLines_of_besideMemory (count_beside s u ev)

/-- A change of a slice that leaves its directory alone. -/
theorem updSlice_besideLines (n : Nat) {f : Slice → Slice} (dir : ∀ x, (f x).dir = x.dir) :
    (s.updSlice n f).besideLines = s.besideLines := by
  refine Prod.ext rfl (funext fun m => ?_)
  by_cases h : m = n
  · subst h
    exact (congrArg Slice.dir (slice_updSlice_self s m f)).trans (dir _)
  · exact congrArg Slice.dir (slice_updSlice_other s n f h)

@[simp] theorem l2Modify_besideLines (l : Nat) (f : CLine → CLine) : (s.l2Modify l f).besideLines = s.besideLines :=
  updSlice_besideLines _ fun _ => rfl

@[simp] theorem l2SetAge_besideLines (l a : Nat) : (s.l2SetAge l a).besideLines = s.besideLines :=
  updSlice_besideLines _ fun y => by split <;> rfl

@[simp] theorem l2Install_besideLines (l : Nat) (elig : List Nat) (x : CLine) (age : Nat) :
    (s.l2Install l elig x age).besideLines = s.besideLines := by
  have put (c : Cache) (n : Nat) : (s.updSlice n fun y => { y with l2 := c }).besideLines = s.besideLines :=
    updSlice_besideLines _ fun _ => rfl
  simp only [State.l2Install]
  split
  · split
    · rw [memWrite_besideLines, put]
    · exact put ..
  · exact put ..

@[simp] theorem l2Hit_besideLines (l : Nat) : (s.l2Hit l).besideLines = s.besideLines := by
  simp only [State.l2Hit]
  split
  · exact updSlice_besideLines _ fun _ => rfl
  · rw [count_besideLines, l2SetAge_besideLines]

@[simp] theorem l2Serve_besideLines (l : Nat) (own : Option (Line128 × Bool)) (alloc : Bool) :
    (s.l2Serve l own alloc).2.besideLines = s.besideLines := by
  unfold State.l2Serve
  split
  · exact l2Hit_besideLines ..
  · cases own <;> cases alloc <;> simp

/-- The line of a home write lands in the slice or in memory; one that is not held privately has no node-cache copies to drop
(R325, R338). -/
theorem homePut_besideLines {l : Nat} (shared : s.isPrivate l = false) (d : Line128) (p : Bool) (b : Nat) :
    (s.homePut l d p b).besideLines = s.besideLines := by
  have nodes : s.dropNodes l = s := by simp only [State.dropNodes, shared, Bool.false_eq_true, if_false]
  simp only [State.homePut, nodes]
  split
  · simp
  · split <;> simp

theorem land_besideLines {r : State × Option (Line128 × Bool)} {l : Nat} (shared : r.1.isPrivate l = false) :
    (State.land r l).besideLines = r.1.besideLines := by
  unfold State.land
  split
  · exact homePut_besideLines shared ..
  · rfl

end Beside

/-! ## The directory (R335, R340). -/

section Directory

variable {s t : State} {l w : Nat} {e : DirEnt}

/-- What a directory lookup goes by: the settings, which give a line its home, and the directories. -/
def State.dirs (s : State) : ShapeCfg × (Nat → Tbl DirEnt) := (s.cfg, fun n => (s.slice n).dir)

theorem dirs_of_besideLines (h : t.besideLines = s.besideLines) : t.dirs = s.dirs :=
  (congrArg (fun p : State × (Nat → Tbl DirEnt) => (p.1.cfg, p.2)) h :)

theorem cacheOf_of_besideLines (h : t.besideLines = s.besideLines) (r : Cacher) : t.cacheOf r = s.cacheOf r :=
  (congrArg (fun p : State × (Nat → Tbl DirEnt) => p.1.cacheOf r) h :)

@[simp] theorem updCache_dirs (r : Cacher) (f : Cache → Cache) : (s.updCache r f).dirs = s.dirs := by cases r <;> rfl

theorem cfg_of_dirs (h : t.dirs = s.dirs) : t.cfg = s.cfg := congrArg Prod.fst h

theorem isPrivate_of_dirs (h : t.dirs = s.dirs) (l : Nat) : t.isPrivate l = s.isPrivate l := by
  rw [State.isPrivate, cfg_of_dirs h]
  rfl

/-- The directory entry in a way of a line's set, at the line's home. -/
def State.dirAt (s : State) (l w : Nat) : DirEnt := Tbl.get DirEnt.off (s.slice (homeOf s.cfg l)).dir (16 * dirSetOf l + w)

/-- An entry that tracks the line `l`. -/
def DirEnt.tracks (e : DirEnt) (l : Nat) : Bool := !e.empty && e.line == l

theorem dirAt_of_dirs (h : t.dirs = s.dirs) (l w : Nat) : t.dirAt l w = s.dirAt l w :=
  (congrArg (fun p : ShapeCfg × (Nat → Tbl DirEnt) => Tbl.get DirEnt.off (p.2 (homeOf p.1 l)) (16 * dirSetOf l + w)) h :)

theorem dirWay_eq (s : State) (l : Nat) :
    (s.slice (homeOf s.cfg l)).dirWay l = (List.range 16).find? fun w => (s.dirAt l w).tracks l := rfl

theorem dirEnt_of_way (way : (s.slice (homeOf s.cfg l)).dirWay l = some w) : s.dirEnt l = s.dirAt l w := by
  simp only [State.dirEnt, way]
  rfl

theorem dirEnt_of_noWay (way : (s.slice (homeOf s.cfg l)).dirWay l = none) : s.dirEnt l = DirEnt.off := by
  simp only [State.dirEnt, way]

theorem dirEnt_of_dirs (h : t.dirs = s.dirs) (l : Nat) : t.dirEnt l = s.dirEnt l := by
  have ways : (t.slice (homeOf t.cfg l)).dirWay l = (s.slice (homeOf s.cfg l)).dirWay l := by
    simp only [dirWay_eq, dirAt_of_dirs h]
  cases way : (s.slice (homeOf s.cfg l)).dirWay l with
  | none => rw [dirEnt_of_noWay way, dirEnt_of_noWay (ways.trans way)]
  | some w => rw [dirEnt_of_way way, dirEnt_of_way (ways.trans way), dirAt_of_dirs h]

/-- The way of a line is the first that tracks it. -/
theorem dirWay_eq_some_iff : (s.slice (homeOf s.cfg l)).dirWay l = some w ↔
    (s.dirAt l w).tracks l = true ∧ w < 16 ∧ ∀ v < w, (s.dirAt l v).tracks l = false := by
  rw [dirWay_eq, List.find?_range_eq_some]
  simp

theorem dirWay_eq_none_iff : (s.slice (homeOf s.cfg l)).dirWay l = none ↔ ∀ v < 16, (s.dirAt l v).tracks l = false := by
  rw [dirWay_eq, List.find?_eq_none]
  simp

/-- Way `w` of a line's set may take its entry: no way before it tracks the line. -/
def State.dirFits (s : State) (l w : Nat) : Prop := w < 16 ∧ ∀ v < w, (s.dirAt l v).tracks l = false

theorem dirFits_of_dirs (h : t.dirs = s.dirs) (fits : s.dirFits l w) : t.dirFits l w :=
  ⟨fits.1, fun v below => (congrArg (DirEnt.tracks · l) (dirAt_of_dirs h l v)).trans (fits.2 v below)⟩

/-- The way in which a request finds room is such a way (R335). -/
theorem dirFits_of_room (room : s.dirRoom l = .ok (w, t)) : s.dirFits l w := by
  cases way : (s.slice (homeOf s.cfg l)).dirWay l with
  | some k =>
    simp only [State.dirRoom, way, Except.ok.injEq, Prod.mk.injEq] at room
    exact room.1 ▸ (dirWay_eq_some_iff.1 way).2
  | none =>
    have fits {v : Nat} (hv : v < 16) : s.dirFits l v :=
      ⟨hv, fun u below => dirWay_eq_none_iff.1 way u (Nat.lt_trans below hv)⟩
    have found {p : Nat → Bool} {v : Nat} (h : (List.range 16).find? p = some v) : v < 16 :=
      List.mem_range.1 (List.mem_of_find?_eq_some h)
    simp only [State.dirRoom, way] at room
    split at room
    next v free =>
      simp only [Except.ok.injEq, Prod.mk.injEq] at room
      exact room.1 ▸ fits (found free)
    next =>
      have victim (p : Nat → Bool) : ((List.range 16).find? p).getD 0 < 16 := by
        cases h : (List.range 16).find? p with
        | none => decide
        | some v => exact found h
      split at room
      · cases room
      · split at room
        · cases room
        · simp only [Except.ok.injEq, Prod.mk.injEq] at room
          exact room.1 ▸ fits (victim _)

/-- An entry put in such a way is the line's entry. -/
theorem dirEnt_updSlice (fits : s.dirFits l w) (tracks : e.tracks l = true) {f : Slice → Slice}
    (dir : ∀ x, (f x).dir = Tbl.set DirEnt.off x.dir (16 * dirSetOf l + w) e) :
    (s.updSlice (homeOf s.cfg l) f).dirEnt l = e := by
  have at_ (v : Nat) : (s.updSlice (homeOf s.cfg l) f).dirAt l v = if v = w then e else s.dirAt l v := by
    show Tbl.get DirEnt.off ((s.updSlice (homeOf s.cfg l) f).slice (homeOf s.cfg l)).dir _ = _
    rw [slice_updSlice_self, dir, Tbl.get_set]
    simp only [Nat.add_left_cancel_iff]
    rfl
  have self := (at_ w).trans (if_pos rfl)
  rw [dirEnt_of_way (w := w) (dirWay_eq_some_iff.2 ⟨self.symm ▸ tracks, fits.1, fun v below => ?_⟩), self]
  rw [at_, if_neg (Nat.ne_of_lt below), fits.2 v below]

theorem tracks_iff : e.tracks l = true ↔ e.empty = false ∧ e.line = l := by simp [DirEnt.tracks]

/-- What a request records in the way made for it is the line's entry (R335). -/
theorem dirEnt_dirPut (fits : s.dirFits l w) (tracks : e.tracks l = true) : (s.dirPut l w e).dirEnt l = e :=
  dirEnt_updSlice fits tracks fun x => by simp only [(tracks_iff.1 tracks).1, Bool.false_eq_true, if_false]

theorem dirFits_of_way (way : (s.slice (homeOf s.cfg l)).dirWay l = some w) : s.dirFits l w :=
  (dirWay_eq_some_iff.1 way).2

theorem tracks_of_way (way : (s.slice (homeOf s.cfg l)).dirWay l = some w) : (s.dirEnt l).tracks l = true :=
  dirEnt_of_way way ▸ (dirWay_eq_some_iff.1 way).1

theorem dirMap_noWay (way : (s.slice (homeOf s.cfg l)).dirWay l = none) (f : DirEnt → DirEnt) : s.dirMap l f = s := by
  simp only [State.dirMap, State.dirSet, way]

theorem dirEnt_dirMap (way : (s.slice (homeOf s.cfg l)).dirWay l = some w) {f : DirEnt → DirEnt}
    (tracks : (f (s.dirEnt l)).tracks l = true) : (s.dirMap l f).dirEnt l = f (s.dirEnt l) := by
  simp only [State.dirMap, State.dirSet, way]
  exact dirEnt_updSlice (dirFits_of_way way) tracks fun x => by
    simp only [(tracks_iff.1 tracks).1, Bool.false_eq_true, if_false]

/-- A change of a line's entry leaves the ways before it as they were. -/
theorem dirFits_dirMap (fits : s.dirFits l w) (f : DirEnt → DirEnt) : (s.dirMap l f).dirFits l w := by
  cases way : (s.slice (homeOf s.cfg l)).dirWay l with
  | none => rwa [dirMap_noWay way]
  | some k =>
    refine ⟨fits.1, fun v below => ?_⟩
    have other : v ≠ k := fun h => by
      have := (dirWay_eq_some_iff.1 way).1
      rw [← h, fits.2 v below] at this
      cases this
    have same : (s.dirMap l f).dirAt l v = s.dirAt l v := by
      simp only [State.dirMap, State.dirSet, way]
      show Tbl.get DirEnt.off ((s.updSlice (homeOf s.cfg l) _).slice (homeOf s.cfg l)).dir _ = _
      rw [slice_updSlice_self]
      exact Tbl.get_set_other _ _ _ (by omega)
    rw [same, fits.2 v below]

@[simp] theorem cacheOf_dirMap (f : DirEnt → DirEnt) (r : Cacher) : (s.dirMap l f).cacheOf r = s.cacheOf r := by
  simp only [State.dirMap, State.dirSet]
  split
  · cases r <;> rfl
  · rfl

/-- A line that is tracked has its room already. -/
theorem dirRoom_way (way : (s.slice (homeOf s.cfg l)).dirWay l = some w) : s.dirRoom l = .ok (w, s) := by
  simp only [State.dirRoom, way]

theorem way_of_tracked (tracked : (s.dirEnt l).empty = false) : ∃ w, (s.slice (homeOf s.cfg l)).dirWay l = some w := by
  cases way : (s.slice (homeOf s.cfg l)).dirWay l with
  | none => rw [dirEnt_of_noWay way] at tracked; cases tracked
  | some w => exact ⟨w, rfl⟩

theorem forget_other {u : Nat} (sharer : u ∉ e.sharers) (owner : e.owner = none) : e.forget u = e := by
  have all : e.sharers.filter (· != u) = e.sharers :=
    List.filter_eq_self.2 fun v mem => bne_iff_ne.2 fun h => sharer (h ▸ mem)
  cases e
  subst owner
  exact congrArg (fun us : List Nat => (⟨_, us, none, _, _⟩ : DirEnt)) all

theorem shareOwner_noOwner (none_ : (s.dirEnt l).owner = none) : s.shareOwner l = s := by
  simp only [State.shareOwner, none_]

theorem ownerData_noOwner (none_ : (s.dirEnt l).owner = none) : s.ownerData l = none := by
  simp only [State.ownerData, none_, Option.bind_none]

end Directory

end Sys2Proof.Machine

/-! Caches and their requests at home: copies and ways, grants, home writes, fills and evictions, and the statement O43. -/

namespace Sys2Proof.Machine

/-! ## Copies in caches (R318 to R320, R337). -/

section Copies

variable {s t : State} {l : Nat} {r : Cacher}

theorem cacheOf_updCache_other {q : Cacher} (other : q ≠ r) (f : Cache → Cache) : (s.updCache q f).cacheOf r = s.cacheOf r := by
  cases q with
  | l1 n =>
    cases r with
    | l1 m => exact Tbl.get_upd_other _ _ _ fun h => other (congrArg Cacher.l1 (Fin.ext h.symm))
    | clv _ | node _ => rfl
  | clv n =>
    cases r with
    | clv m => exact Tbl.get_upd_other _ _ _ fun h => other (congrArg Cacher.clv (Fin.ext h.symm))
    | l1 _ | node _ => rfl
  | node n =>
    cases r with
    | node m => exact Tbl.get_upd_other _ _ _ fun h => other (congrArg Cacher.node (Fin.ext h.symm))
    | l1 _ | clv _ => rfl

/-- A change of a cache is told by what it makes of the cache as it is. -/
theorem updCache_congr {f g : Cache → Cache} (h : f (s.cacheOf r) = g (s.cacheOf r)) : s.updCache r f = s.updCache r g := by
  cases r with
  | l1 n => exact congrArg (fun x => { s with l1 := x }) (Tbl.upd_congr h)
  | clv c => exact congrArg (fun x => { s with clvCache := x }) (Tbl.upd_congr h)
  | node m => exact congrArg (fun x => { s with node := x }) (Tbl.upd_congr h)

/-- The copies that a request at home invalidates: the directory then names those that are left, and no cache changes but
those that gave up a copy. A line not held privately has no node-cache copies beside (R337, R338). -/
theorem killCopies_eq (shared : s.isPrivate l = false) (but : Option Nat) :
    ∃ (t : State) (f : DirEnt → DirEnt), s.killCopies l but = t.dirMap l f ∧ t.dirs = s.dirs
      ∧ ∀ r : Cacher, (∀ u, some u ≠ but → cacherOf u ≠ r) → t.cacheOf r = s.cacheOf r := by
  unfold State.killCopies
  refine ⟨_, _, rfl, ?_⟩
  refine List.foldlRecOn _ _ (motive := fun t : State => t.dirs = s.dirs
    ∧ ∀ r : Cacher, (∀ u, some u ≠ but → cacherOf u ≠ r) → t.cacheOf r = s.cacheOf r) ⟨rfl, fun _ _ => rfl⟩ ?_
  intro t ⟨dirs, caches⟩ u killed
  have taken : (t.takeCopy (cacherOf u) l).1.dirs = t.dirs := updCache_dirs ..
  have landed := land_besideLines (r := t.takeCopy (cacherOf u) l) (l := l)
    ((isPrivate_of_dirs (taken.trans dirs) l).trans shared)
  refine ⟨(dirs_of_besideLines landed).trans (taken.trans dirs), fun r kept => ?_⟩
  rw [cacheOf_of_besideLines landed, ← caches r kept]
  exact cacheOf_updCache_other (kept u (bne_iff_ne.1 (List.mem_filter.1 killed).2)) _

/-- The L1 of a core is the cache of its unit identifier alone. -/
theorem cacherOf_ne_l1 {u : Nat} {m : Core} (other : u ≠ m.val) : cacherOf u ≠ .l1 m := by
  unfold cacherOf
  split
  next small =>
    intro h
    cases h
    exact other (Nat.mod_eq_of_lt small).symm
  next => split <;> exact nofun

/-- Nothing is invalidated where nothing is tracked. -/
theorem killCopies_noWay (way : (s.slice (homeOf s.cfg l)).dirWay l = none) (but : Option Nat) : s.killCopies l but = s := by
  simp only [State.killCopies, dirEnt_of_noWay way]
  exact dirMap_noWay way _

/-- The parts of a cache beside its ways. -/
def Cache.besideWays (c : Cache) : Cache := { c with lines := [], ages := [] }

theorem victim_besideWays {c c1 : Cache} {set w : Nat} {elig : List Nat} (found : c.victim set elig = some (w, c1)) :
    c1.besideWays = c.besideWays := by
  unfold Cache.victim at found
  split at found
  · cases found
  · split at found
    · cases found
      rfl
    · obtain ⟨_, -, h⟩ := Option.map_eq_some_iff.1 found
      cases h
      exact foldl_keeps Cache.besideWays (f := fun (x : Cache) w => x.setAge set w (c.age set w + (3 - _))) (fun _ _ => rfl) elig c

/-- An installation changes ways and their ages. -/
theorem install_besideWays (c : Cache) (set ways : Nat) (elig : List Nat) (x : CLine) (age : Nat) :
    (c.install set ways elig x age).1.besideWays = c.besideWays := by
  unfold Cache.install
  split
  · rfl
  · split
    · rfl
    next w c1 found => exact (rfl : _ = c1.besideWays).trans (victim_besideWays found)

/-- A line changed in place is the cache's line, where it stays valid under its number. -/
theorem line?_modify {c : Cache} {set ways : Nat} {x : CLine} (held : c.line? set ways l = some x) {f : CLine → CLine}
    (line : (f x).line = x.line) (valid : (f x).st ≠ .i) : (c.modify set ways l f).line? set ways l = some (f x) := by
  obtain ⟨w, found, rfl⟩ := Option.map_eq_some_iff.1 held
  unfold Cache.find at found
  obtain ⟨hit, inWays, before⟩ := List.find?_range_eq_some.1 found
  have way_ (v : Nat) : (c.setWay set w (f (c.way set w))).way set v = if v = w then f (c.way set w) else c.way set v := by
    simp only [Cache.way, Cache.setWay, Tbl.get_set, Nat.add_left_cancel_iff]
  have found' : (c.setWay set w (f (c.way set w))).find set ways l = some w := by
    unfold Cache.find
    refine List.find?_range_eq_some.2 ⟨?_, inWays, fun v below => ?_⟩
    · simp only [Bool.and_eq_true, bne_iff_ne, beq_iff_eq] at hit
      simp only [way_, if_true, line, hit.2, valid, Bool.and_eq_true, bne_iff_ne, beq_iff_eq, ne_eq, not_false_eq_true, and_true]
      exact hit.1.1
    · rw [way_, if_neg (Nat.ne_of_lt below)]
      exact before v below
  have changed : c.modify set ways l f = c.setWay set w (f (c.way set w)) := by
    simp only [Cache.modify, Cache.find, found]
  rw [changed, Cache.line?, found', Option.map_some, way_, if_pos rfl]

end Copies

/-! ## Requests of caches at home (R321, R335 to R338). -/

section Requests

variable {s t : State} {r : Cacher} {l w : Nat}

theorem exec_gets (may : s.mayRequest r l = true) (unheld : s.held r l = none) :
    exec (.gets r l) s = finish s (if r.writes then s.getS r l else s.getSNode r l) :=
  finish_eq (if_pos (by simp [may, unheld]))

theorem exec_getm (may : s.mayRequest r l = true) (writes : r.writes = true) (unowned : s.owns r l = false) :
    exec (.getm r l) s = finish s (s.getM r l) :=
  finish_eq (if_pos (by simp [may, writes, unowned]))

/-- A grant is among those of its cache. -/
theorem mem_grants_grant (s : State) (r : Cacher) (l : Nat) (st : Mesi) (d : Line128 × Bool) :
    (⟨l, st, d.1, d.2, false⟩ : Grant) ∈ ((s.grant r l st d).cacheOf r).grants := by
  simp [State.grant]

theorem dirEnt_grant (s : State) (r : Cacher) (l : Nat) (st : Mesi) (d : Line128 × Bool) (k : Nat) :
    (s.grant r l st d).dirEnt k = s.dirEnt k := dirEnt_of_dirs (updCache_dirs ..) k

theorem dirEnt_l2Serve (own : Option (Line128 × Bool)) (alloc : Bool) : (s.l2Serve l own alloc).2.dirEnt l = s.dirEnt l :=
  dirEnt_of_dirs (dirs_of_besideLines (l2Serve_besideLines ..)) l

/-- A slice that serves a line without an owner leaves it without one to share it. -/
theorem shareOwner_l2Serve (none_ : (s.dirEnt l).owner = none) (own : Option (Line128 × Bool)) (alloc : Bool) :
    (s.l2Serve l own alloc).2.shareOwner l = (s.l2Serve l own alloc).2 :=
  shareOwner_noOwner ((congrArg DirEnt.owner (dirEnt_l2Serve own alloc)).trans none_)

/-- The first copy of a shared line is granted in E to its owner (R337). -/
theorem getS_first (served : s.homeWait l false = none) (shared : s.isPrivate l = false)
    (way : (s.slice (homeOf s.cfg l)).dirWay l = none) (room : s.dirRoom l = .ok (w, s)) :
    s.getS r l = ((s.l2Serve l none (s.l2Allocates l)).2.dirPut l w ⟨l, [], some r.unit, 0, 0⟩).grant r l .e
      (s.l2Serve l none (s.l2Allocates l)).1 := by
  have none_ : (s.dirEnt l).owner = none := by rw [dirEnt_of_noWay way]
  simp only [State.getS, served, shared, room, dirMap_noWay way, ownerData_noOwner none_, shareOwner_l2Serve none_, dirEnt_l2Serve,
    dirEnt_of_noWay way, Bool.false_eq_true, if_false]
  exact if_pos rfl

/-- A further copy is granted in S, and its cache joins the sharers (R337). -/
theorem getS_further (served : s.homeWait l false = none) (shared : s.isPrivate l = false) (tracked : (s.dirEnt l).empty = false)
    (none_ : (s.dirEnt l).owner = none) (sharer : r.unit ∉ (s.dirEnt l).sharers) :
    (∃ d : Line128 × Bool, (⟨l, .s, d.1, d.2, false⟩ : Grant) ∈ ((s.getS r l).cacheOf r).grants)
      ∧ (s.getS r l).dirEnt l = { s.dirEnt l with sharers := r.unit :: (s.dirEnt l).sharers } := by
  obtain ⟨w, way⟩ := way_of_tracked tracked
  have line : (s.dirEnt l).line = l := (tracks_iff.1 (tracks_of_way way)).2
  have same : (s.dirEnt l).forget r.unit = s.dirEnt l := forget_other sharer none_
  generalize s1e : s.dirMap l (fun e => e.forget r.unit) = s1
  have ent : s1.dirEnt l = s.dirEnt l := by
    rw [← s1e, dirEnt_dirMap way (by rw [same]; exact tracks_of_way way), same]
  have fits : s1.dirFits l w := s1e ▸ dirFits_dirMap (dirFits_of_way way) _
  have free : (s1.dirEnt l).owner = none := ent ▸ none_
  have granted : s.getS r l = ((s1.l2Serve l none (s1.l2Allocates l)).2.dirPut l w
      { s.dirEnt l with line := l, sharers := r.unit :: (s.dirEnt l).sharers }).grant r l .s
        (s1.l2Serve l none (s1.l2Allocates l)).1 := by
    simp only [State.getS, served, shared, dirRoom_way way, s1e, ownerData_noOwner free, shareOwner_l2Serve free, dirEnt_l2Serve,
      ent, tracked, Bool.false_eq_true, if_false]
  rw [granted, dirEnt_grant, dirEnt_dirPut (dirFits_of_dirs (dirs_of_besideLines (l2Serve_besideLines ..)) fits)]
  · exact ⟨⟨_, mem_grants_grant ..⟩, by simp only [line]⟩
  · simp [tracks_iff, DirEnt.empty]

/-- A node cache takes its copy in S, always tracked, and the slice allocates nothing for it (R321, R338). -/
theorem getSNode_first (served : s.homeWait l false false = none) (way : (s.slice (homeOf s.cfg l)).dirWay l = none)
    (room : s.dirRoom l = .ok (w, s)) :
    s.getSNode r l = ((s.l2Serve l none false).2.dirPut l w ⟨l, [r.unit], none, 0, 0⟩).grant r l .s
      (s.l2Serve l none false).1 := by
  have none_ : (s.dirEnt l).owner = none := by rw [dirEnt_of_noWay way]
  simp only [State.getSNode, served, room, ownerData_noOwner none_, shareOwner_l2Serve none_, dirEnt_l2Serve, dirEnt_of_noWay way]
  rfl

/-- A request for M leaves its cache as the only one that has the line (R337). -/
theorem getM_takes (served : s.homeWait l true = none) (shared : s.isPrivate l = false) (room : s.dirRoom l = .ok (w, s)) :
    (∃ d : Line128 × Bool, (⟨l, .m, d.1, d.2, false⟩ : Grant) ∈ ((s.getM r l).cacheOf r).grants)
      ∧ (s.getM r l).dirEnt l = ⟨l, [], some r.unit, 0, 0⟩ := by
  simp only [State.getM, served, shared, room, Bool.false_eq_true, if_false]
  refine ⟨⟨_, mem_grants_grant ..⟩, ?_⟩
  generalize (s.l2Serve l (s.ownerData l) (s.l2Allocates l)).1 = d
  have dirs : (s.l2Serve l (s.ownerData l) (s.l2Allocates l)).2.dirs = s.dirs := dirs_of_besideLines (l2Serve_besideLines ..)
  obtain ⟨t, f, kills, left, -⟩ := killCopies_eq ((isPrivate_of_dirs dirs l).trans shared) (some r.unit)
  rw [dirEnt_grant, kills, dirEnt_dirPut (dirFits_dirMap (dirFits_of_dirs (left.trans dirs) (dirFits_of_room room)) f)]
  simp [tracks_iff, DirEnt.empty]

/-- A shared copy of a core's L1 becomes modified, and keeps its data (R337). -/
theorem upgrade_takes {m : Core} {x : CLine} (may : s.mayRequest (.l1 m) l = true) (shared : s.isPrivate l = false)
    (held : s.held (.l1 m) l = some x) (copy : x.st = .s) (served : s.homeWait l true false = none) :
    ∃ t, exec (.upgrade (.l1 m) l) s = .next (s.after t) ∧ t.held (.l1 m) l = some { x with st := .m } := by
  obtain ⟨t, f, kills, -, caches⟩ := killCopies_eq shared (some (Cacher.l1 m).unit)
  have kept : t.cacheOf (.l1 m) = s.cacheOf (.l1 m) := caches _ fun u other => cacherOf_ne_l1 fun h => other (congrArg some h)
  let up := s.upgradeLine (.l1 m) l
  have cache : up.cacheOf (.l1 m) = (s.cacheOf (.l1 m)).modify ((Cacher.l1 m).set l) (Cacher.l1 m).ways l
      fun y => { y with st := .m } := by
    simp only [up, State.upgradeLine, served, held, copy, if_true, kills, cacheOf_updCache_self, cacheOf_dirMap, kept]
  have taken : up.held (.l1 m) l = some { x with st := .m } := by
    rw [State.held, cache]
    exact line?_modify held rfl nofun
  have owned : up.owns (.l1 m) l = true := by simp only [State.owns, taken]; rfl
  have unowned : s.owns (.l1 m) l = false := by simp only [State.owns, held, copy]; rfl
  refine ⟨_, finish_eq ((if_pos ?_).trans (if_pos owned)), ?_⟩
  · simp [may, Cacher.writes, held, unowned]
  · rw [State.held, cacheOf_updCache_self]
    exact taken

/-- A store at the home slice of a line that no cache has takes its place in the slice's copy (R324). -/
theorem homeStoreBy_copy {x : CLine} (way : (s.slice (homeOf s.cfg l)).dirWay l = none) (copy : s.l2Line l = some x)
    (clean : x.poison = false) (kept : (attrOf s.cfg (128 * l)).wpol ≠ 3) (u a : Nat) (m : BitVec 128) (d : Line128) (p : Bool) :
    s.homeStoreBy u a l m d p none = (s.l2Hit l).l2Modify l fun _ => ⟨l, .m, mergeLine x.data m d, p⟩ := by
  simp [State.homeStoreBy, State.homeStore, killCopies_noWay way, copy, clean, kept]

theorem exec_homeWrite (cached : s.cacheable (128 * l) = true) (answers : s.busCode (128 * l) = .okay) (u : BitVec 16)
    (m : BitVec 128) (d : BitVec 1024) (p : Bool) :
    (∀ t, s.homeWait l true (m != BitVec.allOnes 128) = some t → exec (.homeWrite u l m d p) s = .next (s.after t))
      ∧ (s.homeWait l true (m != BitVec.allOnes 128) = none → u.toNat ∉ (s.dirEnt l).units →
        exec (.homeWrite u l m d p) s = .next (s.after (s.homeStoreBy u.toNat (128 * l) l m d p none))) := by
  have reaches : (!s.cacheable (128 * l) || s.busCode (128 * l) != .okay) = false := by simp [cached, answers]
  refine ⟨fun t waits => finish_eq ?_, fun served other => finish_eq ?_⟩
  · simp only [State.homeWrite, reaches, waits, Bool.false_eq_true, if_false]
  · simp only [State.homeWrite, reaches, served, List.contains_iff_mem, other, Bool.false_eq_true, if_false]

/-- A cache whose oldest grant `g` has come for its miss: the fill buffer has what the miss waits for. -/
def Cache.answered (c : Cache) (g : Grant) (rest : List Grant) : Cache :=
  { c with grants := rest, miss := none, pf := if (c.pf.map (·.1)) == some g.line then none else c.pf,
           fills := c.fills ++ [⟨g.line, .okay, g.data, g.poison⟩] }

/-- A line installed in a cache; what it displaces goes to the eviction buffer (R320, R352). -/
def Cache.bring (c : Cache) (set ways : Nat) (elig : List Nat) (x : CLine) (age : Nat) : Cache :=
  let y := c.install set ways elig x age
  match y.2 with
  | some old => { y.1 with evict := y.1.evict ++ [⟨old.line, old.st == .m, old.data, old.poison⟩] }
  | none => y.1

theorem bring_requests (c : Cache) (set ways : Nat) (elig : List Nat) (x : CLine) (age : Nat) :
    (c.bring set ways elig x age).grants = c.grants ∧ (c.bring set ways elig x age).miss = c.miss
      ∧ (c.bring set ways elig x age).fills = c.fills := by
  have beside := install_besideWays c set ways elig x age
  have kept : (c.install set ways elig x age).1.grants = c.grants ∧ (c.install set ways elig x age).1.miss = c.miss
      ∧ (c.install set ways elig x age).1.fills = c.fills :=
    ⟨(congrArg Cache.grants beside :), (congrArg Cache.miss beside :), (congrArg Cache.fills beside :)⟩
  unfold Cache.bring
  dsimp only
  split <;> exact kept

/-- The fill that a miss waits for ends it; the cache keeps the line, unless a maintenance operation has overtaken the grant
(R320, R321, R334). -/
theorem fill_demanded {g : Grant} {rest : List Grant} {b : Bool} (grants : (s.cacheOf r).grants = g :: rest)
    (miss : (s.cacheOf r).miss = some (g.line, b)) :
    s.fill r .okay = s.updCache r fun c => if g.gone then c.answered g rest
      else (c.answered g rest).bring (r.set g.line) r.ways ((List.range r.ways).filter fun w => !c.dis.getLsbD w)
        ⟨g.line, g.st, g.data, g.poison⟩ (s.insAge g.line 1) := by
  have demand : ((s.cacheOf r).miss.map (·.1) == some g.line) = true := by simp [miss]
  have same : (g.poison || (BusResp.okay == BusResp.poison)) = g.poison := Bool.or_false _
  unfold State.fill
  simp only [grants, demand, same, reduceCtorEq, if_false, if_true, BEq.rfl, Bool.true_and, Bool.true_or, Bool.and_true]
  cases gone : g.gone with
  | false => exact updCache_congr rfl
  | true => exact updCache_congr rfl

theorem fill_ends_miss {g : Grant} {rest : List Grant} {b : Bool} (grants : (s.cacheOf r).grants = g :: rest)
    (miss : (s.cacheOf r).miss = some (g.line, b)) : ((s.fill r .okay).cacheOf r).grants = rest
      ∧ ((s.fill r .okay).cacheOf r).miss = none
      ∧ ((s.fill r .okay).cacheOf r).fills = (s.cacheOf r).fills ++ [⟨g.line, .okay, g.data, g.poison⟩] := by
  rw [fill_demanded grants miss, cacheOf_updCache_self]
  split
  · exact ⟨rfl, rfl, rfl⟩
  · exact bring_requests ..

theorem fillDone_okay (s : State) (r : Cacher) : s.fillDone r .okay = s.fill r .okay := by
  unfold State.fillDone
  dsimp only
  split
  · exact if_pos (.inl rfl)
  · rfl

/-- The state once an evicted line has left its cache, which its home then no longer tracks (R325, R335). -/
def State.evictOut (s : State) (r : Cacher) (l : Nat) (ev : Evicted) : State :=
  (s.updCache r fun c => { c with evict := c.evict.erase ev }).dirMap l fun e => e.forget r.unit

/-- An evicted line that its home tracks, once the slice takes it: dirty data is put there, and a clean line is declined or
allocated at age 1 (R325, R352). -/
theorem evictHome_tracked {ev : Evicted} {dirty : Bool} (tracked : s.isPrivate l = true ∨ r.unit ∈ (s.dirEnt l).units)
    (open_ : s.homeStall l = false) (found : (s.cacheOf r).evict.find? (fun e => e.line == l && e.dirty == dirty) = some ev)
    (q : Nat) : s.evictHome r l dirty q =
      let out := s.evictOut r l ev
      let n := homeOf s.cfg l
      if dirty then out.homePut l ev.data ev.poison q
      else if out.declines l q then out.count (0x200 + n) 5
      else
        let out := out.count (0x200 + n) 4
        if (out.l2Line l).isSome then out.l2SetAge l 1 else out.l2Install l (out.slice n).open ⟨l, .e, ev.data, ev.poison⟩ 1 := by
  have ent : (s.updCache r fun c => { c with evict := c.evict.erase ev }).dirEnt l = s.dirEnt l :=
    dirEnt_of_dirs (updCache_dirs ..) l
  have known : (s.isPrivate l || (s.dirEnt l).units.contains r.unit) = true := by simpa using tracked
  simp only [State.evictHome, found, open_, ent, known, State.evictOut, Bool.not_true, Bool.false_eq_true, if_false]
  refine ite_congr rfl (fun _ => rfl) fun _ => ite_congr rfl (fun _ => rfl) fun _ => ?_
  split
  next copy => simp only [copy, Option.isSome_some, if_true]
  next copy => simp only [copy, Option.isSome_none, Bool.false_eq_true, if_false]

end Requests

/-- Settles O43: requests are granted as `getS_first`, `getS_further`, `getSNode_first`, `getM_takes` and `upgrade_takes` say, a
store at home is `exec_homeWrite`, a fill is `fill_ends_miss` and an eviction `evictHome_tracked`. -/
theorem coherenceRequestsGrantAndEvict : Obligations.CoherenceRequestsGrantAndEvict := by
  intro r l s
  refine ⟨fun may unheld => ?gets, fun may writes unowned => ⟨fun served => ⟨fun privately => ?ownM, fun w shared room => ?getm⟩,
    fun t waits => ?waitM, fun m x core shared held copy served => ?upgrade⟩, fun u m d p cached answers => ?store,
    fun g rest w grants miss => ?fill, fun ev q tracked open_ => ?evict⟩
  case gets =>
    rw [exec_gets may unheld]
    refine ⟨fun writes served => ⟨fun privately => finish_eq ?_, fun w shared way room => finish_eq ?_,
      fun shared tracked none_ sharer => ?_⟩, fun w reads served way room => finish_eq ?_, fun t waits => finish_eq ?_⟩
    · simp only [writes, if_true, State.getS, served, privately]
    · rw [if_pos writes, getS_first served shared way room]
    · obtain ⟨⟨d, granted⟩, ent⟩ := getS_further served shared tracked none_ sharer
      refine ⟨_, finish_eq (if_pos writes), ⟨_, _, granted⟩, ?_, ?_⟩ <;> rw [ent]
      exact none_
    · rw [if_neg (by simp [reads]), getSNode_first served way room]
    · cases writes : r.writes <;> rw [writes] at waits
      · simp only [State.getSNode, waits, Bool.false_eq_true, if_false]
      · simp only [State.getS, waits, if_true]
  case ownM => exact (exec_getm may writes unowned).trans (finish_eq (by simp only [State.getM, served, privately, if_true]))
  case getm =>
    obtain ⟨⟨d, granted⟩, ent⟩ := getM_takes (r := r) served shared room
    exact ⟨_, exec_getm may writes unowned, ⟨_, _, granted⟩, by rw [ent], by rw [ent]⟩
  case waitM => exact (exec_getm may writes unowned).trans (finish_eq (by simp only [State.getM, waits]))
  case upgrade =>
    subst core
    exact upgrade_takes may shared held copy served
  case store =>
    obtain ⟨waits, performs⟩ := exec_homeWrite cached answers u m d p
    exact ⟨waits, performs, fun x way copy clean kept => homeStoreBy_copy way copy clean kept ..⟩
  case fill => exact ⟨_, finish_eq (fillDone_okay s r), fill_ends_miss grants miss⟩
  case evict =>
    refine ⟨fun found => finish_eq (evictHome_tracked tracked open_ found q), fun found => ⟨fun declined => finish_eq ?_,
      fun accepted => finish_eq ?_⟩⟩
    · exact (evictHome_tracked tracked open_ found q).trans (if_pos declined)
    · exact (evictHome_tracked tracked open_ found q).trans (if_neg (Bool.eq_false_iff.1 accepted))


end Sys2Proof.Machine

/-! Host ports at the home slices: snoops of host lines, reads and writes of stacked memory, the copies that a port keeps, and
the statement O44. -/

namespace Sys2Proof.Machine

/-! ## Host accesses to stacked memory (R340, R417). -/

section HostAccesses

variable {s : State} {h : HostId} {x len w : Nat} {write fetch excl : Bool} {f : State → Nat → State}

theorem hostMem_halted (halted : s.boot.halted = true) : s.hostMem h x len write fetch f = s.reply .perm 0 := by
  simp only [State.hostMem, halted, if_true]

/-- A request that a port carries to home: the block runs, CXL.mem is open, and the bytes, at least one, lie in one line of block
memory. -/
structure State.HostCarries (s : State) (h : HostId) (x len : Nat) : Prop where
  runs : s.boot.halted = false
  mem : s.cxlMem h = true
  some_ : 0 < len
  within : (x - (s.hostPort h).hdmBase.toNat) % 128 + len ≤ 128

/-- A host physical address that the port's HDM decoder does not map to block memory (R417). -/
def State.hdmMisses (s : State) (h : HostId) (x : Nat) : Prop :=
  x < (s.hostPort h).hdmBase.toNat ∨ stackedBytes ≤ x - (s.hostPort h).hdmBase.toNat

theorem State.HostCarries.reaches (req : s.HostCarries h x len) :
    ¬(!s.cxlMem h ∨ len = 0 ∨ 128 < (x - (s.hostPort h).hdmBase.toNat) % 128 + len) := by
  have some_ := req.some_
  have within := req.within
  simp only [req.mem, Bool.not_true, Bool.false_eq_true, false_or]
  omega

/-- Beyond what the decoder maps, a request is answered with poison. -/
theorem hostMem_unmapped (req : s.HostCarries h x len) (beyond : s.hdmMisses h x) :
    s.hostMem h x len write fetch f = s.replyLine .poison 0 true := by
  unfold State.hdmMisses at beyond
  simp only [State.hostMem, req.runs, if_neg req.reaches, if_pos beyond, Bool.false_eq_true, if_false]

/-- A mapped request waits for its home slice. -/
theorem hostMem_waits (req : s.HostCarries h x len) (maps : ¬s.hdmMisses h x) {t : State}
    (waits : s.hostWait h ((x - (s.hostPort h).hdmBase.toNat) / 128) write fetch = some t) :
    s.hostMem h x len write fetch f = t := by
  unfold State.hdmMisses at maps
  simp only [State.hostMem, req.runs, if_neg req.reaches, if_neg maps, waits, Bool.false_eq_true, if_false]

/-- Or it is served there, at its address in block memory. -/
theorem hostMem_served (req : s.HostCarries h x len) (maps : ¬s.hdmMisses h x)
    (served : s.hostWait h ((x - (s.hostPort h).hdmBase.toNat) / 128) write fetch = none) :
    s.hostMem h x len write fetch f = f s (x - (s.hostPort h).hdmBase.toNat) := by
  unfold State.hdmMisses at maps
  simp only [State.hostMem, req.runs, if_neg req.reaches, if_neg maps, served, Bool.false_eq_true, if_false]

/-- The home slice answers a host read with the bytes of the line and its poison (R341, R516). -/
def State.hostAnswer (s : State) (h : HostId) (a len : Nat) (d : Line128 × Bool) : State :=
  let t := s.replyLine (if d.2 then .poison else .okay) (lineOf (lineSlice d.1 (a % 128) len)) d.2
  if d.2 then t.raise 0x3F (0x480 + h.val) a 6 else t

theorem hostRead_privately {a : Nat} (privately : s.isPrivate (a / 128) = true) :
    s.hostRead h a len excl = (s.l2Serve (a / 128) none false).2.hostAnswer h a len (s.l2Serve (a / 128) none false).1 := by
  simp only [State.hostRead, privately, if_true]
  rfl

theorem hostRead_shared {a : Nat} (shared : s.isPrivate (a / 128) = false) (room : s.dirRoom (a / 128) = .ok (w, s)) :
    s.hostRead h a len excl =
      let v := s.l2Serve (a / 128) (s.ownerData (a / 128)) false
      ((if excl then v.2.killCopies (a / 128) none else v.2.shareOwner (a / 128)).hostRecord h (a / 128) w
        (if excl then 2 else 1)).hostAnswer h a len v.1 := by
  simp only [State.hostRead, shared, room, Bool.false_eq_true, if_false]
  rfl

/-- The home slice performs a host write. -/
def State.hostStore (s : State) (h : HostId) (a len : Nat) (d : Line128) (p : Bool) : State :=
  (s.homeStoreBy (0x480 + h.val) a (a / 128) (byteMask (a % 128) len) (d <<< (8 * (a % 128))) p none).reply .okay 0

theorem hostWrite_privately {a : Nat} {d : Line128} {p : Bool} (privately : s.isPrivate (a / 128) = true) :
    s.hostWrite h a len d p = s.hostStore h a len d p := by
  simp only [State.hostWrite, privately, if_true]
  rfl

theorem hostWrite_shared {a : Nat} {d : Line128} {p : Bool} (shared : s.isPrivate (a / 128) = false)
    (room : s.dirRoom (a / 128) = .ok (w, s)) :
    s.hostWrite h a len d p = (s.hostStore h a len d p).hostRecord h (a / 128) w 2 := by
  simp only [State.hostWrite, shared, room, Bool.false_eq_true, if_false]
  rfl

end HostAccesses

/-! ## The copies of host ports (R339, R340, R419). -/

section HostCopies

variable {s t : State} {h : HostId} {l w : Nat} {e : DirEnt}

theorem host_setHost (e : DirEnt) (h k : Nat) : (e.setHost h k).host h = k := by
  unfold DirEnt.host DirEnt.setHost
  split <;> rfl

/-- A record of one port's copy leaves the other port's. -/
theorem host_setHost_other (e : DirEnt) (h : HostId) (k : Nat) : (e.setHost h k).host (1 - h.val) = e.host (1 - h.val) := by
  match h with
  | 0 => rfl
  | 1 => rfl

theorem setHost_caches (e : DirEnt) (h k : Nat) :
    (e.setHost h k).line = e.line ∧ (e.setHost h k).sharers = e.sharers ∧ (e.setHost h k).owner = e.owner := by
  unfold DirEnt.setHost
  split <;> exact ⟨rfl, rfl, rfl⟩

/-- An entry stays one when a port's copy is recorded that is not less than what it has. -/
theorem tracks_setHost (tracks : e.tracks l = true) (h : HostId) (k : Nat) :
    (e.setHost h (max k (e.host h))).tracks l = true := by
  obtain ⟨some_, line⟩ := tracks_iff.1 tracks
  refine tracks_iff.2 ⟨?_, (setHost_caches ..).1.trans line⟩
  have grows (a b : Nat) (zero : max a b = 0) : b = 0 := by omega
  simp only [DirEnt.empty, DirEnt.setHost, DirEnt.host, Bool.and_eq_false_iff, beq_eq_false_iff_ne] at some_ ⊢
  split
  · exact some_.imp_left (Or.imp_right fun h zero => h (grows _ _ zero))
  · exact some_.imp_right fun h zero => h (grows _ _ zero)

/-- The home slice records what a port may keep in the line's entry. -/
theorem dirEnt_hostRecord (way : (s.slice (homeOf s.cfg l)).dirWay l = some w) (h : HostId) (k : Nat) :
    (s.hostRecord h l w k).dirEnt l = (s.dirEnt l).setHost h (max k ((s.dirEnt l).host h)) := by
  have tracks := tracks_of_way way
  have line : ({ s.dirEnt l with line := l } : DirEnt) = s.dirEnt l := by
    generalize s.dirEnt l = e at tracks
    cases e
    exact congrArg (fun k => (⟨k, _, _, _, _⟩ : DirEnt)) (tracks_iff.1 tracks).2.symm
  unfold State.hostRecord
  dsimp only
  rw [line, dirEnt_dirPut (dirFits_of_way way) (tracks_setHost tracks h k)]

/-! ### The settings, by which a line keeps its home. -/

theorem memPut_cfg (s : State) (l : Nat) (d : Line128) (p : Bool) : (s.memPut l d p).cfg = s.cfg :=
  (congrArg State.cfg (memWrite_beside s l (BitVec.allOnes 128) d p) :)

theorem dirMap_cfg (s : State) (l : Nat) (f : DirEnt → DirEnt) : (s.dirMap l f).cfg = s.cfg := by
  simp only [State.dirMap, State.dirSet]
  split <;> rfl

theorem killCopies_cfg (shared : s.isPrivate l = false) (but : Option Nat) : (s.killCopies l but).cfg = s.cfg := by
  obtain ⟨t, f, kills, dirs, -⟩ := killCopies_eq shared but
  rw [kills, dirMap_cfg, cfg_of_dirs dirs]

theorem shareOwner_cfg (shared : s.isPrivate l = false) : (s.shareOwner l).cfg = s.cfg := by
  unfold State.shareOwner
  split
  · rfl
  next u _ =>
    have given : (s.shareCopy (cacherOf u) l).1.dirs = s.dirs := updCache_dirs ..
    have landed := land_besideLines (r := s.shareCopy (cacherOf u) l) ((isPrivate_of_dirs given l).trans shared)
    rw [dirMap_cfg, cfg_of_dirs (dirs_of_besideLines landed), cfg_of_dirs given]

theorem l2Drop_cfg (s : State) (l : Nat) (save : Bool) : (s.l2Drop l save).cfg = s.cfg := by
  simp only [State.l2Drop]
  split
  · rfl
  · rw [State.cfg, updSlice_shape]
    split
    · exact memPut_cfg ..
    · rfl

theorem l2Clean_cfg (s : State) (l : Nat) : (s.l2Clean l).cfg = s.cfg := by
  unfold State.l2Clean
  split
  · split
    · exact memPut_cfg ..
    · rfl
  · rfl

/-- A served snoop answers with the dirty data there is, once its home slice has done and counted it. -/
theorem snoop_answers {d : Option (Line128 × Bool)} (served : s.snoops h l = true) (home : t.cfg = s.cfg) :
    (if s.snoops h l then (t.snooped l).snoopReply d else s) = (t.count (0x200 + homeOf s.cfg l) 8).snoopReply d := by
  rw [if_pos served, State.snooped, home]

/-- A line that hosts snoop is host memory, which is never held privately. -/
theorem shared_of_snoops (served : s.snoops h l = true) : s.isPrivate l = false := by
  simp only [State.snoops, Bool.and_eq_true, beq_iff_eq] at served
  simp [State.isPrivate, served.1.1.1]

end HostCopies

/-- Settles O44: a snoop is `snoop_answers`, a host access one of the cases of `hostMem` with `hostRead` or `hostWrite` behind
it, a record `dirEnt_hostRecord`, and a back-invalidation ends as its operations say at the home that the line keeps. -/
theorem hostCoherenceIsServedAtHome : Obligations.HostCoherenceIsServedAtHome := by
  intro h l s
  refine ⟨fun served => ?snoop,
    fun x len excl d poison => ⟨fun halted => ⟨finish_eq (hostMem_halted halted), finish_eq (hostMem_halted halted)⟩,
      fun runs mem some_ within => ?request⟩, fun w k way => ?record, fun b out => ?invalidation⟩
  case snoop =>
    have shared := shared_of_snoops served
    exact ⟨finish_eq (snoop_answers served ((l2Drop_cfg ..).trans (killCopies_cfg shared none))),
      finish_eq (snoop_answers served ((l2Clean_cfg ..).trans (shareOwner_cfg shared))), finish_eq (snoop_answers served rfl)⟩
  case request =>
    have req : s.HostCarries h x.toNat len.val := ⟨runs, mem, some_, within⟩
    refine ⟨fun beyond => ⟨finish_eq (hostMem_unmapped req beyond), finish_eq (hostMem_unmapped req beyond)⟩,
      fun above below line => ?_⟩
    have maps : ¬s.hdmMisses h x.toNat := not_or.2 ⟨Nat.not_lt.2 above, Nat.not_le.2 below⟩
    subst line
    exact ⟨fun t waits => finish_eq (hostMem_waits req maps waits),
      fun served => ⟨fun privately => finish_eq ((hostMem_served req maps served).trans (hostRead_privately privately)),
        fun w shared room => finish_eq ((hostMem_served req maps served).trans (hostRead_shared shared room))⟩,
      fun t waits => finish_eq (hostMem_waits req maps waits),
      fun served => ⟨fun privately => finish_eq ((hostMem_served req maps served).trans (hostWrite_privately privately)),
        fun w shared room => finish_eq ((hostMem_served req maps served).trans (hostWrite_shared shared room))⟩⟩
  case record =>
    dsimp only
    rw [dirEnt_hostRecord way]
    exact ⟨host_setHost_other .., host_setHost .., (setHost_caches ..).2⟩
  case invalidation =>
    have found : s.biOf h l = some b := out
    refine ⟨fun mem => ⟨finish_eq ?_, fun d => finish_eq ?_⟩, fun early => finish_eq ?_, fun due => finish_eq ?_⟩
    · simp only [State.biRsp, found, mem, Bool.not_true, Bool.false_eq_true, if_false]
      rfl
    · simp only [State.biRsp, found, mem, Bool.not_true, Bool.false_eq_true, if_false]
      rfl
    · simp only [State.biTimeout, found, early, if_true]
    · simp only [State.biTimeout, found, Nat.not_lt.2 due, if_false]
      have home : (if (s.dirEnt l).host h.val = 2 then
          (s.memPut l (s.homeData l).1 true).l2Modify l fun x => { x with poison := true } else s).cfg = s.cfg := by
        split
        · exact memPut_cfg ..
        · rfl
      rw [State.biEnd, home]

end Sys2Proof.Machine

/-! Maintenance by address, prefetches, way locks and the invalidation of caches, and the statement O45. -/

namespace Sys2Proof.Tbl

/-- A table from which a key is dropped reads as the default there. -/
theorem get_filter_dropped {α : Type} (d : α) {p : Nat × α → Bool} {k : Nat} (dropped : ∀ x, p (k, x) = false) (t : Tbl α) :
    get d (t.filter p) k = d := by
  induction t with
  | nil => rfl
  | cons e t ih =>
    obtain ⟨j, x⟩ := e
    rw [List.filter_cons]
    split
    next kept =>
      have other : j ≠ k := fun h => by rw [h, dropped] at kept; cases kept
      rw [get, if_neg other, ih]
    next => exact ih

end Sys2Proof.Tbl

namespace Sys2Proof.Machine

/-! ## Maintenance instructions (R330 to R332, R344). -/

section Maintenance

variable {s t : State} {n : Core} {rd ra : SReg} {imm : BitVec 12} {op : Maint}

/-- The address that a maintenance instruction names. -/
abbrev State.maintAddr (s : State) (n : Core) (ra : SReg) (imm : BitVec 12) : W64 := s.sreg n ra + imm.signExtend 64

/-- An operation on a line whose checks pass, and to which the core has no store left, acts where the line need not wait
(R344). -/
theorem maintInstr_acts (ready : s.ready n = true) (fn : Nat) (admitted : s.accFault n (s.maintAddr n ra imm) 1 op.store = none)
    (drained : s.sbHas n [(s.maintAddr n ra imm).toNat / 128] = false)
    (acts : s.maintOne (.l1 n) op ((s.maintAddr n ra imm).toNat / 128) = .ok t) :
    finish s (s.maintInstr n fn ra imm op) = .next (s.after (t.retire n)) := by
  refine instr_retires ready ((meets_body rfl).trans ?_)
  simp only [admitted, drained, acts, Bool.false_eq_true, if_false]

/-- A line outside of memory leaves nothing to act on (R331). -/
theorem maintOne_outside {r : Cacher} {l : Nat} (outside : maintains l = false) : s.maintOne r op l = .ok s := by
  simp [State.maintOne, State.maintHold, State.maintDo, outside]

/-- CLEAN of a line in memory goes on wherever the home slice takes requests (R331). -/
theorem maintOne_clean {r : Cacher} {l : Nat} (inside : maintains l = true) (idle : (s.cacheOf r).busy = false)
    (open_ : s.homeStall l = false) : s.maintOne r .clean l = .ok (s.cleanLine r l) := by
  simp [State.maintOne, State.maintHold, State.maintDo, inside, idle, open_]

/-- The operations that invalidate copies go on where no host copy stands in the way (R331, R340). -/
theorem maintOne_served {r : Cacher} {l : Nat} (inside : maintains l = true) (idle : (s.cacheOf r).busy = false)
    (served : s.homeWait l true false = none) : s.maintOne r .flush l = .ok (s.invalLine r l true)
      ∧ s.maintOne r .inval l = .ok (s.invalLine r l false) ∧ s.maintOne r .zero l = s.zeroLine r l := by
  simp [State.maintOne, State.maintHold, State.maintWait, State.maintDo, inside, idle, served]

theorem maintLock_outside {r : Cacher} {l : Nat} (outside : maintains l = false) : s.maintLock r l = .ok (2, s) := by
  simp only [State.maintLock, outside, Bool.not_false, if_true]

theorem maintLock_served {r : Cacher} {l : Nat} (inside : maintains l = true) (idle : (s.cacheOf r).busy = false)
    (served : s.lfillWait l = none) : s.maintLock r l = .ok (s.lfillLine l) := by
  simp [State.maintLock, inside, idle, served]

theorem maintPref_dropped {r : Cacher} {l : Nat} {w ok : Bool} (fails : ok = false) : s.maintPref r l w ok = .ok s := by
  simp only [State.maintPref, fails, Bool.not_false, if_true]

theorem maintPref_asks {r : Cacher} {l : Nat} {w ok : Bool} (passes : ok = true) (idle : (s.cacheOf r).busy = false) :
    s.maintPref r l w ok = .ok (s.prefetch r l w) := by
  simp [State.maintPref, passes, idle]

theorem prefInstr_ends (ready : s.ready n = true) (fn : Nat) (w : Bool) (ends : s.maintPref (.l1 n)
    ((s.maintAddr n ra imm).toNat / 128) w ((s.accFault n (s.maintAddr n ra imm) 1 w).isNone
      && s.cacheable (s.maintAddr n ra imm).toNat) = .ok t) :
    finish s (s.prefInstr n fn ra imm w) = .next (s.after (t.retire n)) := by
  refine instr_retires ready ((meets_body rfl).trans ?_)
  simp only [ends]

/-- PREF and PREFW by whether they ask for M. -/
theorem exec_prefetch (w : Bool) :
    ∃ fn, exec (if w then .prefw n ra imm else .pref n ra imm) s = finish s (s.prefInstr n fn ra imm w) := by
  cases w
  · exact ⟨4, rfl⟩
  · exact ⟨5, rfl⟩

theorem exec_lfill (ready : s.ready n = true) (admitted : s.accFault n (s.maintAddr n ra imm) 1 false = none)
    (drained : s.sbHas n [(s.maintAddr n ra imm).toNat / 128] = false) {x : Nat × State}
    (ends : s.maintLock (.l1 n) ((s.maintAddr n ra imm).toNat / 128) = .ok x) :
    exec (.lfill n rd ra imm) s = .next (s.after ((x.2.setSreg n rd (BitVec.ofNat 64 x.1)).retire n)) := by
  refine instr_retires ready ((meets_body rfl).trans ?_)
  simp only [admitted, drained, ends, Bool.false_eq_true, if_false]
  rfl

/-- A range whose pieces pass their checks, and to which the core has no store left, is done in one step once no line of it
waits, and rd counts it off (R332). -/
theorem rangeInstr_acts (ready : s.ready n = true) (fn : Nat) {len : Nat} (length : rangeLen (s.sreg n rd) = len)
    (admitted : ∀ p ∈ pagePieces (s.maintAddr n ra imm).toNat len, s.accSub n p.1 p.2 op.store = none)
    (drained : s.sbHas n (rangeLines (s.maintAddr n ra imm).toNat len) = false)
    (acts : s.maintRange (.l1 n) op (s.maintAddr n ra imm).toNat len = .ok t) :
    finish s (s.rangeInstr n fn rd ra imm op)
      = .next (s.after ((t.setSreg n rd (t.sreg n rd - BitVec.ofNat 64 len)).retire n)) := by
  refine instr_retires ready ((meets_body rfl).trans ?_)
  have passes : (pagePieces (s.maintAddr n ra imm).toNat len).findSome? (fun p =>
      (s.accSub n p.1 p.2 op.store).map fun sub => (sub, p.1)) = none :=
    List.findSome?_eq_none_iff.2 fun p mem => by rw [admitted p mem, Option.map_none]
  simp only [length, passes, drained, acts, Bool.false_eq_true, if_false]
  rfl

end Maintenance

/-! ## Way locks (R326) and caches that invalidate themselves (R329). -/

section Locks

variable {s : State}

/-- The lines that leave a slice for a lock go to memory, which changes no slice. -/
theorem slice_foldl_memPut (l : List (Nat × CLine)) (m : Nat) :
    (l.foldl (fun t e => t.memPut e.2.line e.2.data e.2.poison) s).slice m = s.slice m := by
  have put (t : State) (e : Nat × CLine) : (t.memPut e.2.line e.2.data e.2.poison).slice m = t.slice m :=
    (congrArg (fun u : State => u.slice m) (memWrite_beside t e.2.line (BitVec.allOnes 128) e.2.data e.2.poison) :)
  exact foldl_keeps (fun t : State => t.slice m) put l s

/-- Once its ways have drained, a lock takes effect, and its new ways are empty. -/
theorem lockDrained_locks {n : Nat} (waits : (s.slice n).lockBusy = true) :
    let x := s.slice n
    let new := x.lockReq &&& ~~~x.locked
    (s.lockDrained n).slice n = { x with
      l2 := { x.l2 with lines := x.l2.lines.filter fun e => !new.getLsbD (e.1 % 16) }
      locked := x.lockReq, lockBusy := false } := by
  simp only [State.lockDrained, waits, Bool.not_true, Bool.false_eq_true, if_false]
  rw [slice_updSlice_self, slice_foldl_memPut]

/-- A cache that invalidates itself ends with no line, and with every age 3, which an empty table reads as. -/
theorem fresh_busy {c : Cache} (busy : c.busy = true) : c.fresh = { c with busy := false, lines := [], ages := [] } :=
  if_pos busy

theorem updCache_fresh {r : Cacher} (busy : (s.cacheOf r).busy = true) :
    s.updCache r Cache.fresh = s.updCache r fun c => { c with busy := false, lines := [], ages := [] } :=
  updCache_congr (fresh_busy busy)

end Locks

/-- Settles O45: the instructions act by `maintInstr_acts`, `rangeInstr_acts`, `prefInstr_ends` and `exec_lfill`, a lock takes
effect as `lockDrained_locks` says, and a cache that has invalidated itself is `fresh_busy`. -/
theorem maintenanceAndLocksAct : Obligations.MaintenanceAndLocksAct := by
  refine ⟨fun n rd ra imm s ready => ⟨fun drained idle inside => ?inside, fun drained outside => ?outside, fun w => ?prefetch,
    fun t => ?range⟩, fun s => ⟨fun a n val heard may => finish_eq (regCmd_okay heard may val), fun n waits => ?lock,
      fun n busy => ?icache, fun n busy => finish_eq (updCache_fresh busy),
      fun m busy => finish_eq (updCache_fresh busy), fun c busy => finish_eq (updCache_fresh busy),
      fun n busy => ?slice⟩⟩
  case inside =>
    refine ⟨fun admitted open_ => ?_, fun served => ⟨fun admitted => ?_, fun admitted => ?_, fun t admitted zeros => ?_⟩,
      fun served admitted => ?_⟩
    · exact maintInstr_acts ready 0 admitted drained (maintOne_clean inside idle open_)
    · exact maintInstr_acts ready 2 admitted drained (maintOne_served inside idle served).1
    · exact maintInstr_acts ready 1 admitted drained (maintOne_served inside idle served).2.1
    · exact maintInstr_acts ready 3 admitted drained ((maintOne_served inside idle served).2.2.trans zeros)
    · exact exec_lfill ready admitted drained (maintLock_served inside idle served)
  case outside =>
    refine ⟨fun admitted => ⟨?_, ?_, ?_⟩, fun admitted => ⟨?_, ?_⟩⟩
    · exact maintInstr_acts ready 0 admitted drained (maintOne_outside outside)
    · exact maintInstr_acts ready 2 admitted drained (maintOne_outside outside)
    · exact exec_lfill (x := (2, s)) ready admitted drained (maintLock_outside outside)
    · exact maintInstr_acts ready 1 admitted drained (maintOne_outside outside)
    · exact maintInstr_acts ready 3 admitted drained (maintOne_outside outside)
  case prefetch =>
    obtain ⟨fn, runs⟩ := exec_prefetch (n := n) (ra := ra) (imm := imm) (s := s) w
    dsimp only
    rw [runs]
    refine ⟨fun fails => prefInstr_ends ready fn w (maintPref_dropped ?_),
      fun passes cached idle => prefInstr_ends ready fn w (maintPref_asks ?_ idle)⟩
    · rw [← Option.not_isSome]
      exact Bool.and_eq_false_iff.2 (fails.imp_left (congrArg not))
    · rw [← Option.not_isSome]
      exact Bool.and_eq_true_iff.2 ⟨congrArg not passes, cached⟩
  case range =>
    exact ⟨fun ok acts => rangeInstr_acts ready 8 rfl ok.1 ok.2 acts, fun ok acts => rangeInstr_acts ready 10 rfl ok.1 ok.2 acts,
      fun ok acts => rangeInstr_acts ready 9 rfl ok.1 ok.2 acts⟩
  case lock =>
    have locks := lockDrained_locks waits
    refine ⟨s.lockDrained n.val, finish_after s _, ?_⟩
    rw [locks]
    refine ⟨rfl, rfl, rfl, fun set w way new => Tbl.get_filter_dropped _ (fun x => ?_) _⟩
    rw [show (16 * set + w) % 16 = w by omega, new]
    rfl
  case icache => exact finish_eq (congrArg (fun t => ({ s with icache := t } : State)) (Tbl.upd_congr (fresh_busy busy)))
  case slice =>
    exact finish_eq (congrArg (fun t => ({ s with l2 := t } : State)) (Tbl.upd_congr
      (congrArg (fun c => { s.slice n.val with l2 := c }) (fresh_busy busy))))

end Sys2Proof.Machine

/-! Vaults: what their controllers serve and what the patrol scrub, refresh, temperature reports, commands and training act on,
and the statement O46. -/

namespace Sys2Proof.Tbl

/-- A run of writes of one value leaves it at every key written. -/
theorem get_foldl_set_const {α : Type} [DecidableEq α] (d v : α) {l : List Nat} {k : Nat} (mem : k ∈ l) (t : Tbl α) :
    get d (l.foldl (fun t i => set d t i v) t) k = v := by
  induction l generalizing t with
  | nil => cases mem
  | cons i l ih =>
    rw [List.foldl_cons]
    by_cases later : k ∈ l
    · exact ih later _
    · obtain rfl : k = i := (List.mem_cons.1 mem).resolve_right later
      rw [get_foldl_set_other d (fun i => i) (fun _ _ => v) (fun i hi e => later (by rwa [e])), get_set_self]

end Sys2Proof.Tbl

namespace Sys2Proof.Machine

/-! ## Lines at an open controller (R358 to R361). -/

section VaultLines

variable {s : State} {v : Vault} {l : Nat} {hit : List SymErr}

/-- A read of a line leaves the address map as it was. -/
theorem vaultFetch_vaultLine (w k : Nat) : (s.vaultFetch v l hit).2.2.vaultLine w k = s.vaultLine w k :=
  (congrArg (fun t : State => t.vaultLine w k) (vaultFetch_beside s v l hit) :)

/-- A read delivers what its decode found, to the home slice too. -/
theorem exec_vaultRead (takes : s.vaultTakes v.val l = true) (hit : List SymErr) :
    let r := s.vaultFetch v.val l hit
    exec (.vaultRead v l hit) s = .next (s.after
      ((r.2.2.l2Arrive v.val (r.2.2.vaultLine v.val l) r.1).replyLine (if r.1.2 then .poison else .okay) r.1.1 r.1.2)) := by
  refine finish_eq ((if_pos takes).trans ?_)
  rw [vaultFetch_vaultLine]
  rfl

theorem exec_vaultWrite (takes : s.vaultTakes v.val l = true) (w : Line128) (poison : Bool) :
    exec (.vaultWrite v l w poison) s = .next (s.after ((s.vaultStore v.val l w poison).reply .okay 0)) :=
  finish_eq (if_pos takes)

theorem exec_vaultPartialWrite (takes : s.vaultTakes v.val l = true) (m : BitVec 128) (w : Line128) (hit : List SymErr) :
    exec (.vaultPartialWrite v l m w hit) s = .next (s.after ((s.vaultMerge v.val l m w false hit).1.reply .okay 0)) :=
  finish_eq (if_pos takes)

/-- A write of every byte is one of the whole line. -/
theorem vaultMerge_whole (v l : Nat) (w : Line128) (poison : Bool) (hit : List SymErr) :
    s.vaultMerge v l (BitVec.allOnes 128) w poison hit = (s.vaultStore v l w poison, false) :=
  if_pos rfl

/-- A write of fewer bytes keeps the others, and the poison of the line as it was read. -/
theorem vaultMerge_part (v l : Nat) {m : BitVec 128} (part : m ≠ BitVec.allOnes 128) (w : Line128) (hit : List SymErr) :
    let r := s.vaultFetch v l hit
    (s.vaultMerge v l m w false hit).1
      = ((r.2.2.vaultPut v l (mergeLine r.1.1 m w) r.1.2).count (0x300 + v) 2).count (0x300 + v) 3 := by
  simp only [State.vaultMerge, if_neg part, Bool.or_false]

end VaultLines

/-! ## What tells how a line reads (R360). -/

section Marks

variable (s : State)

/-- The memories, and the slices that every vault has marked erased. -/
def State.lineMarks (s : State) : MemSt × (Nat → Tbl Nat) := (s.mem, fun v => (s.vault v).erase)

/-- A change of a vault that marks no slice. -/
theorem updVault_lineMarks (v : Nat) {f : Vlt → Vlt} (marks : ∀ x, (f x).erase = x.erase) :
    (s.updVault v f).lineMarks = s.lineMarks := by
  refine Prod.ext rfl (funext fun w => ?_)
  by_cases h : w = v
  · subst h
    exact (congrArg Vlt.erase (vault_updVault_self s w f)).trans (marks _)
  · exact congrArg Vlt.erase (vault_updVault_other s v f h)

theorem addPmc_lineMarks (u i k : Nat) : (s.addPmc u i k).lineMarks = s.lineMarks := by
  simp only [State.addPmc]
  split
  · split <;> rfl
  · rfl

theorem count_lineMarks (u ev : Nat) : (s.count u ev).lineMarks = s.lineMarks := by
  unfold State.count State.countBy
  split
  · rfl
  · refine foldl_keeps State.lineMarks (fun t i => ?_) _ _
    dsimp only
    split
    · exact addPmc_lineMarks ..
    · rfl

theorem activate_lineMarks (v bank row : Nat) : (s.activate v bank row).lineMarks = s.lineMarks := by
  unfold State.activate
  extract_lets x t c t1
  split
  · exact (count_lineMarks ..).trans (updVault_lineMarks s v fun _ => rfl)
  · exact updVault_lineMarks s v fun _ => rfl

theorem openRow_lineMarks (v l : Nat) (read : Bool) : (s.openRow v l read).lineMarks = s.lineMarks := by
  unfold State.openRow
  extract_lets b r was s1
  have opened : s1.lineMarks = s.lineMarks := (activate_lineMarks ..).trans (updVault_lineMarks s v fun _ => rfl)
  split
  · split
    · exact count_lineMarks ..
    · rfl
  · split
    · exact (count_lineMarks ..).trans opened
    · exact opened

theorem charge_lineMarks (v n : Nat) : (s.charge v n).lineMarks = s.lineMarks := updVault_lineMarks s v fun _ => rfl

variable {s} {t : State}

/-- These give the poison of a device line, and the wrong symbols that it holds. -/
theorem marked_of_lineMarks (h : t.lineMarks = s.lineMarks) (dev : Nat) : t.marked dev = s.marked dev :=
  (congrArg (fun m : MemSt × (Nat → Tbl Nat) =>
    Tbl.get 0 m.1.poison dev &&& ~~~(BitVec.ofNat 9 (2 ^ Tbl.get 0xF (m.2 (dev / 12582912)) (dev % 12582912 % 8))) != 0) h :)

theorem rawErr_of_lineMarks (h : t.lineMarks = s.lineMarks) (dev : Nat) :
    Tbl.get [] t.mem.rawErr dev = Tbl.get [] s.mem.rawErr dev :=
  (congrArg (fun m : MemSt × (Nat → Tbl Nat) => Tbl.get [] m.1.rawErr dev) h :)

end Marks

/-! ## The patrol scrub (R364, R365). -/

section Scrub

variable {s : State} {v n : Nat} {claimed : Bool}

/-- A line that holds no error and no marker decodes as it is stored. -/
theorem vaultDecode_clean {l : Nat} (unmarked : s.marked (vaultLines * v + l) = false)
    (whole : Tbl.get [] s.mem.rawErr (vaultLines * v + l) = []) : s.vaultDecode v l [] = (.data [] 0 false, s) := by
  simp only [State.vaultDecode, unmarked, whole, Bool.false_eq_true, if_false]
  rfl

/-- A scrub of a line that holds no error only opens its row and moves on. -/
theorem scrub_clean {l : Nat} (line : (s.vault v).scrubLine = l) (unmarked : s.marked (vaultLines * v + l) = false)
    (whole : Tbl.get [] s.mem.rawErr (vaultLines * v + l) = []) :
    s.scrub v [] = ((s.openRow v l false).updVault v fun x =>
      if l + 1 < vaultLines then { x with scrubLine := l + 1 }
      else { x with scrubLine := 0, passes := min (x.passes + 1) 0xFFFF }).count (0x300 + v) 8 := by
  have marks := openRow_lineMarks s v l false
  have clean := vaultDecode_clean ((marked_of_lineMarks marks _).trans unmarked) ((rawErr_of_lineMarks marks _).trans whole)
  simp only [State.scrub, line, clean]
  rfl

/-- A scrub that has a slot is charged for it; a forced one is noted for its frame. -/
theorem scrubGo_clean {l : Nat} (line : (s.vault v).scrubLine = l) (unmarked : s.marked (vaultLines * v + l) = false)
    (whole : Tbl.get [] s.mem.rawErr (vaultLines * v + l) = []) (slot : s.scrubSlot v claimed = some n) :
    let moved := (((s.charge v n).openRow v l false).updVault v fun x =>
      if l + 1 < vaultLines then { x with scrubLine := l + 1 }
      else { x with scrubLine := 0, passes := min (x.passes + 1) 0xFFFF }).count (0x300 + v) 8
    s.scrubGo v claimed [] = if claimed
      then (moved.updVault v fun x => { x with forcedAt := some (n / 20) }).count (0x300 + v) 9 else moved := by
  have marks := charge_lineMarks s v n
  have kept : ((s.charge v n).vault v).scrubLine = l := (congrArg Vlt.scrubLine (vault_updVault_self s v _)).trans line
  simp only [State.scrubGo, slot,
    scrub_clean kept ((marked_of_lineMarks marks _).trans unmarked) ((rawErr_of_lineMarks marks _).trans whole)]

theorem scrubGo_noSlot (slot : s.scrubSlot v claimed = none) (hit : List SymErr) : s.scrubGo v claimed hit = s := by
  simp only [State.scrubGo, slot]

/-- The next slot is one of this HK cycle, after the last one that was charged (R22, R50). -/
theorem nextSlot_some (next : s.nextSlot v = some n) :
    6 * s.time.hk ≤ n ∧ n < 6 * s.time.hk + 6 ∧ ∀ m ∈ (s.vault v).charged.head?, m < n := by
  unfold State.nextSlot at next
  extract_lets k at next
  split at next
  next within =>
    obtain rfl : k = n := Option.some.inj next
    refine ⟨?low, within, ?later⟩ <;> unfold k
    case low =>
      cases (s.vault v).charged with
      | nil => exact le_rfl
      | cons c cs => exact le_max_left ..
    case later =>
      cases (s.vault v).charged with
      | nil => exact fun m none => nomatch none
      | cons c cs => exact fun m last => Option.some.inj last ▸ Nat.lt_of_succ_le (le_max_right ..)
  next => cases next

/-- A slot that a scrub takes is the next one, within the budget; a forced one needs the lag, and a frame that has forced none. -/
theorem scrubSlot_some (slot : s.scrubSlot v claimed = some n) :
    s.nextSlot v = some n ∧ s.slotLeft v n = true
      ∧ (claimed = true → 65536 < s.scrubLag v ∧ (s.vault v).forcedAt ≠ some (n / 20)) := by
  unfold State.scrubSlot at slot
  split at slot
  next => cases slot
  next k next =>
    split at slot
    next => cases slot
    next left =>
      split at slot
      next => cases slot
      next free =>
        obtain rfl : k = n := Option.some.inj slot
        refine ⟨next, by simpa using left, ?_⟩
        rintro rfl
        simpa using free

end Scrub

/-! ## Refresh and temperature (R366, R367, R561). -/

section Refresh

variable {s : State} {v : Nat}

theorem updVault_congr {f g : Vlt → Vlt} (h : f (s.vault v) = g (s.vault v)) : s.updVault v f = s.updVault v g :=
  congrArg (fun x : Tbl Vlt => ({ s with vlt := x } : State)) (Tbl.upd_congr h)

/-- A band change and the end of the period start a window, by what the vault holds. -/
theorem refresh_eq : s.refresh v = (s.updVault v fun x =>
    if x.bandNext.isSome || decide (x.winStart + bandPeriod x.band ≤ s.now)
    then { x with winStart := s.now, bandNext := none, act := [] } else x).count (0x300 + v) 6 :=
  congrArg (fun t : State => t.count (0x300 + v) 6) (updVault_congr rfl)

theorem tierTimeout_stales {t : Nat} (fresh : Tbl.get false (s.vault v).stale t = false)
    (late : Tbl.get 0 (s.vault v).tempAt t + 600000 ≤ s.now) :
    s.tierTimeout v t = (s.updVault v fun x => { x with stale := Tbl.set false x.stale t true }).vaultTemps v t :=
  if_neg (not_or.2 ⟨by simp [fresh], Nat.not_lt.2 late⟩)

theorem bandFall_falls {at_ : Nat} (since : (s.vault v).coolSince = some at_) (long : at_ + 2000000 ≤ s.now) :
    s.bandFall v = s.updVault v fun x =>
      { x with band := bandOf x.hottest, bandNext := some (bandOf x.hottest), coolSince := none } := by
  simp only [State.bandFall, since, if_pos long]

end Refresh

/-! ## Commands and training (R373, R561). -/

section Commands

variable {s : State} {v : Nat} {a : Agent}

/-- The command of a controller is told by CMD, the tier and the slice of what is written. -/
theorem regPut_vltCmd (val : W64) : s.regPut a (.vltCmd v) .full val
    = s.vltCmd v (field val.toNat 1 0) (field val.toNat 6 4) (field val.toNat 11 8) := rfl

theorem field_and (m n h l : Nat) : field (m &&& n) h l = field m h l &&& field n h l := by
  simp only [field, Nat.shiftRight_and_distrib, Nat.and_mod_two_pow]

theorem field_or (m n h l : Nat) : field (m ||| n) h l = field m h l ||| field n h l := by
  simp only [field, Nat.shiftRight_or_distrib, Nat.or_mod_two_pow]

theorem field_and_ones {n h l : Nat} (ones : field n h l = 2 ^ (h + 1 - l) - 1) (m : Nat) :
    field (m &&& n) h l = field m h l := by
  rw [field_and, ones, Nat.and_two_pow_sub_one_eq_mod, field, Nat.mod_mod]

/-- MARK_ERASE is the value 1, beside the tier and the slice. -/
theorem regPut_vltCmd_markErase (val : W64) : s.regPut a (.vltCmd v) .full ((val &&& 0xFFC#64) ||| 1#64)
    = s.vltCmd v 1 (field val.toNat 6 4) (field val.toNat 11 8) := by
  have word : ((val &&& 0xFFC#64) ||| 1#64).toNat = val.toNat &&& 0xFFC ||| 1 := by simp
  have op : field (val.toNat &&& 0xFFC ||| 1) 1 0 = 1 := by
    rw [field_or, field_and, show field 0xFFC 1 0 = 0 by decide, Nat.and_zero]
    decide
  have tier : field (val.toNat &&& 0xFFC ||| 1) 6 4 = field val.toNat 6 4 := by
    rw [field_or, field_and_ones (by decide), show field 1 6 4 = 0 by decide, Nat.or_zero]
  have sl : field (val.toNat &&& 0xFFC ||| 1) 11 8 = field val.toNat 11 8 := by
    rw [field_or, field_and_ones (by decide), show field 1 11 8 = 0 by decide, Nat.or_zero]
  rw [regPut_vltCmd, word, op, tier, sl]

theorem exec_markErase {v : Vault} (heard : s.mute a = false) (may : s.regCode a (.vltCmd v.val) true .full = .okay)
    (val : W64) : exec (.markErase a v val) s
      = .next (s.after ((s.vltCmd v.val 1 (field val.toNat 6 4) (field val.toNat 11 8)).reply .okay 0)) :=
  finish_eq ((regCmd_okay heard may _).trans (by rw [regPut_vltCmd_markErase]))

theorem exec_zeroAll {v : Vault} (heard : s.mute a = false) (may : s.regCode a (.vltCmd v.val) true .full = .okay) :
    exec (.zeroAll a v) s = .next (s.after ((s.vltCmd v.val 2 0 0).reply .okay 0)) :=
  finish_eq (regCmd_okay heard may 2)

variable {tier sl : Nat}

/-- While the controller writes zeros it refuses either command with 3. -/
theorem vltCmd_busy (busy : (s.vault v).zeroBusy = true) {op : Nat} (known : op = 1 ∨ op = 2) :
    s.vltCmd v op tier sl = s.updVault v fun x => { x with cmdResult := 3 } := by
  obtain rfl | rfl := known <;> simp [State.vltCmd, busy]

theorem vltCmd_zeroAll (idle : (s.vault v).zeroBusy = false) :
    s.vltCmd v 2 tier sl = s.updVault v fun x => { x with cmdResult := 0, zeroBusy := true } := by
  simp [State.vltCmd, idle]

theorem vltCmd_noSlice (idle : (s.vault v).zeroBusy = false) (beyond : 8 < sl) :
    s.vltCmd v 1 tier sl = s.updVault v fun x => { x with cmdResult := 2 } := by
  simp [State.vltCmd, idle, beyond]

theorem vltCmd_erased (idle : (s.vault v).zeroBusy = false) (slice : sl ≤ 8)
    (erased : Tbl.get 0xF (s.vault v).erase tier ≠ 0xF) :
    s.vltCmd v 1 tier sl = s.updVault v fun x => { x with cmdResult := 1 } := by
  simp [State.vltCmd, idle, Nat.not_lt.2 slice, erased]

theorem vltCmd_erases (idle : (s.vault v).zeroBusy = false) (slice : sl ≤ 8)
    (whole : Tbl.get 0xF (s.vault v).erase tier = 0xF) :
    s.vltCmd v 1 tier sl = (s.eraseSlice v tier sl).updVault v fun x => { x with cmdResult := 0 } := by
  simp [State.vltCmd, idle, Nat.not_lt.2 slice, whole]

/-- At the end of ZERO_ALL the vault's bytes are zero and the controller takes requests again. -/
theorem zeroDone_zeros (busy : (s.vault v).zeroBusy = true) :
    ((s.zeroDone v).vault v).zeroBusy = false ∧ ∀ a : Nat, Tbl.get 0 (s.zeroDone v).mem.dram a
      = if 0x6000_0000 * v ≤ a ∧ a < 0x6000_0000 * v + 0x6000_0000 then 0 else Tbl.get 0 s.mem.dram a := by
  simp only [State.zeroDone, busy, Bool.not_true, Bool.false_eq_true, if_false]
  exact ⟨congrArg Vlt.zeroBusy (vault_updVault_self _ v _), fun a => Tbl.get_cut _ _ _ _ a⟩

/-- The state of the boot leaves the vaults alone. -/
theorem setBlk_vault (st : BlkState) : (s.setBlk st).vault v = s.vault v := by
  unfold State.setBlk
  split <;> rfl

theorem trainingDone_bad (training : (s.vault v).st = 1) : ((s.trainingDone v true).vault v).st = 3 := by
  have failed : ((s.updVault v fun x => { x with st := 3 }).vault v).st = 3 := congrArg Vlt.st (vault_updVault_self s v _)
  simp only [State.trainingDone, training, ne_eq, not_true_eq_false, if_false, if_true]
  split
  · exact failed
  · rw [setBlk_vault]
    exact failed

theorem trainingDone_good (training : (s.vault v).st = 1) :
    (s.trainingDone v false).vault v = { s.vault v with
      st := 2, winStart := s.now, tempAt := (List.range 8).foldl (fun t i => Tbl.set 0 t i s.now) (s.vault v).tempAt } := by
  simp only [State.trainingDone, training, ne_eq, not_true_eq_false, if_false, Bool.false_eq_true]
  exact vault_updVault_self s v _

end Commands

/-- Settles O46: a request is a `vaultFetch`, `vaultStore` or `vaultMerge`, a scrub of a line without errors is
`scrubGo_clean` in a slot of `scrubSlot_some`, and each command acts as its case of `vltCmd` says. -/
theorem vaultCommandsAct : Obligations.VaultCommandsAct := by
  intro v s x u
  refine ⟨fun l hit takes => ?lines, fun l n claimed line takes unmarked whole slot => ?scrub, fun claimed hit slot => ?noSlot,
    fun n claimed slot => ?slot, fun open_ => finish_eq ((if_pos open_).trans refresh_eq),
    fun t frame => ⟨fun invalid => ?frame, fun valid => finish_eq (if_pos valid),
      fun fresh late => finish_eq (tierTimeout_stales fresh late)⟩,
    fun at_ since long => finish_eq (bandFall_falls since long), fun a val heard may => ?commands,
    fun busy => ⟨s.zeroDone v.val, finish_after s _, zeroDone_zeros busy⟩,
    fun training => ⟨⟨s.trainingDone v.val true, finish_after s _, trainingDone_bad training⟩, ?training⟩,
    fun bank => finish_after s _⟩
  case lines =>
    refine ⟨exec_vaultRead takes hit, fun m w part => ?_, fun w poison => ⟨exec_vaultWrite takes w poison, ?_⟩⟩
    · rw [exec_vaultPartialWrite takes, vaultMerge_part _ _ part]
      rfl
    · rw [exec_vaultPartialWrite takes, vaultMerge_whole, exec_vaultWrite takes]
  case scrub =>
    exact finish_eq ((if_pos (line ▸ takes)).trans (scrubGo_clean line unmarked whole slot))
  case noSlot =>
    exact finish_eq (ite_eq_right_iff.2 fun _ => scrubGo_noSlot slot hit)
  case slot =>
    obtain ⟨next, left, forced⟩ := scrubSlot_some slot
    obtain ⟨low, high, later⟩ := nextSlot_some next
    exact ⟨low, high, later, of_decide_eq_true left, forced⟩
  case frame =>
    exact finish_eq (if_neg (ne_true_of_eq_false invalid))
  case commands =>
    intro answered tier sl
    have mark := exec_markErase heard may val
    have zero := exec_zeroAll heard may
    refine ⟨fun busy => ⟨?_, ?_⟩, fun idle => ⟨?_, fun beyond => ?_, fun slice erased => ?_, fun slice whole => ?_⟩⟩
    · rw [mark, vltCmd_busy busy (.inl rfl)]
    · rw [zero, vltCmd_busy busy (.inr rfl)]
    · rw [zero, vltCmd_zeroAll idle]
    · rw [mark, vltCmd_noSlice idle beyond]
    · rw [mark, vltCmd_erased idle slice erased]
    · rw [mark, vltCmd_erases idle slice whole]
  case training =>
    refine ⟨s.trainingDone v.val false, finish_after s _, ?_⟩
    rw [trainingDone_good training]
    exact ⟨rfl, rfl, fun i hi => Tbl.get_foldl_set_const 0 _ (List.mem_range.2 hi) _⟩

end Sys2Proof.Machine

/-! Clove threads: how their instructions end, what they reach in the Clove memories, and the statement O49. -/

namespace Sys2Proof.Machine

/-! ## How an instruction of a ready thread ends (R386). -/

section ThreadEnds

variable {s t : State} {h : Thread} {word : W64} {legal : Bool} {body : State → Res}

@[simp] theorem thread_endClv (s : State) (h : Nat) :
    (s.endClv h).thread h = { s.thread h with issued := false, partsDone := 0 } := by
  simp only [State.endClv]
  split
  · exact thread_updThr_self ..
  · exact thread_updThr_self s h fun t => { t with issued := false, partsDone := 0 }

/-- A change of a thread is told by what it makes of the thread as it is. -/
theorem updThr_congr {h : Nat} {f g : Thr → Thr} (e : f (s.thread h) = g (s.thread h)) : s.updThr h f = s.updThr h g :=
  congrArg (fun t => ({ s with thr := t } : State)) (Tbl.upd_congr e)

/-- With TRAP = 0 an exception is the trap. -/
theorem thrExcept_trap {h : Nat} (untrapped : (s.thread h).trap = false) (code sub : Nat) (info : W64) :
    s.thrExcept h code sub info = (s.endClv h).updThr h fun t => t.trapTo false code sub info := by
  simp [State.thrExcept, untrapped]

/-- A legal instruction completes. -/
theorem cinstr_retires (ready : s.readyT h = true) (hl : legal = true) (e : body s = .next t) :
    finish s (s.cinstr h word legal body) = .next (s.after (t.retireT h)) :=
  finish_eq (by rw [cinstr_body ready word hl, e, retireT_eq])

/-- It completes and goes elsewhere. -/
theorem cinstr_jumps {pc : W64} (ready : s.readyT h = true) (hl : legal = true) (e : body s = .goto t pc) :
    finish s (s.cinstr h word legal body) = .next (s.after (t.retireToT h pc)) :=
  finish_eq (by rw [cinstr_body ready word hl, e, retireToT_eq])

/-- It stays where it is. -/
theorem cinstr_stays (ready : s.readyT h = true) (hl : legal = true) (e : body s = .stay t) :
    finish s (s.cinstr h word legal body) = .next (s.after t) :=
  finish_eq (by rw [cinstr_body ready word hl, e]; rfl)

/-- It raises an exception, which is taken. -/
theorem cinstr_traps {code sub : Nat} {info : W64} (ready : s.readyT h = true) (untrapped : (s.thread h).trap = false)
    (hl : legal = true) (e : body s = .fault s code sub info) :
    finish s (s.cinstr h word legal body)
      = .next (s.after ((s.endClv h).updThr h fun t => t.trapTo false code sub info)) :=
  finish_eq (by rw [cinstr_body ready word hl, e]; exact thrExcept_trap untrapped ..)

/-- An instruction that is not legal faults ILLEGAL with its word. -/
theorem cinstr_illegal (ready : s.readyT h = true) (untrapped : (s.thread h).trap = false) (hl : legal = false) :
    finish s (s.cinstr h word legal body) = .next (s.after ((s.endClv h).updThr h fun t => t.trapTo false 1 0 word)) :=
  finish_eq (by rw [cinstr_ready ready, if_pos hl]; exact thrExcept_trap untrapped ..)

theorem runs_of_readyT (ready : s.readyT h = true) : s.clvRuns h = true ∧ (s.thread h).run = .running := by
  simp only [State.readyT, Bool.and_eq_true, decide_eq_true_eq] at ready
  obtain ⟨⟨⟨⟨running, runs⟩, _⟩, _⟩, _⟩ := ready
  exact ⟨runs, running⟩

end ThreadEnds

/-! ## Integer instructions (R381, R382). -/

section CloveIntegers

variable {s : State} {h : Thread} {rd ra rb : GReg} {top : BitVec 4} {fn : BitVec 12}

/-- Classes 1 and 2 are the register operations. -/
theorem exec_clvIntOp_reg {cls : BitVec 4} (reg : cls = 1 ∨ cls = 2) :
    exec (.clvIntOp h cls rd ra rb top fn) s = finish s (s.clvReg h cls.toNat rd ra rb (top ++ fn)) :=
  congrArg (finish s) (if_pos reg)

/-- Class 3, but for LIH, is the immediate operations. -/
theorem exec_clvIntOp_imm (other : rb.val ≠ 9) :
    exec (.clvIntOp h 3 rd ra rb top fn) s = finish s (s.clvImm h rd ra rb.val (top ++ fn)) := by
  have other : rb ≠ 9 := fun e => other (congrArg Fin.val e)
  show execClvIntOp h 3 rd ra rb top fn s = _
  simp [execClvIntOp, other]

/-- A word that no command spells faults ILLEGAL. -/
theorem exec_clvIntOp_unassigned (ready : s.readyT h = true) (untrapped : (s.thread h).trap = false) {cls : BitVec 4}
    (h1 : cls ≠ 1) (h2 : cls ≠ 2) (h3 : cls = 3 → rb.val = 9)
    (spells : decodeClove h (cloveWordOf cls rd ra rb (top ++ fn)) = none) :
    exec (.clvIntOp h cls rd ra rb top fn) s = .next (s.after ((s.endClv h).updThr h fun t =>
      t.trapTo false 1 0 (gImmWord cls.toNat rd.val ra.val rb.val (top ++ fn)))) := by
  have no3 : ¬(cls = 3 ∧ rb ≠ 9) := fun e => e.2 (Fin.ext (h3 e.1))
  show execClvIntOp h cls rd ra rb top fn s = _
  simp only [execClvIntOp, h1, h2, or_self, no3, spells, Option.isSome_none, Bool.false_eq_true, if_false]
  exact cinstr_illegal ready untrapped rfl

/-- The shifts of class 3, whose immediate is bounded. -/
theorem clvImmCode_shift {k : Nat} (shift : k ∈ [4, 5, 6, 10]) : ((clvImmCode k).getD 0 == 0x07
    || (clvImmCode k).getD 0 == 0x08 || (clvImmCode k).getD 0 == 0x09 || (clvImmCode k).getD 0 == 0x0A) = true := by
  simp only [List.mem_cons, List.not_mem_nil, or_false] at shift
  rcases shift with rfl | rfl | rfl | rfl <;> rfl

section Results

variable (ready : s.readyT h = true)

include ready

/-- A register operation that is assigned writes its value; a unary one has no second operand. -/
theorem clvInt_retires {v : W64} (short : (top ++ fn).toNat ≤ 0x13)
    (unary : intOpUnary (top ++ fn).toNat = true → rb.val = 0)
    (op : intOp (top ++ fn).toNat (s.greg h ra) (s.greg h rb) = some v) :
    exec (.clvIntOp h 1 rd ra rb top fn) s = .next (s.after ((s.setG h rd.val v).retireT h)) := by
  rw [exec_clvIntOp_reg (.inl rfl)]
  refine cinstr_retires ready ?_ (by simp [short, op, State.gput])
  cases one : intOpUnary (top ++ fn).toNat with
  | false => simp [short, op]
  | true => simp [short, op, unary one]

theorem clvMulDiv_retires {v : W64} (short : (top ++ fn).toNat ≤ 0x0F)
    (op : mulDiv (top ++ fn).toNat (s.greg h ra) (s.greg h rb) = some v) :
    exec (.clvIntOp h 2 rd ra rb top fn) s = .next (s.after ((s.setG h rd.val v).retireT h)) := by
  rw [exec_clvIntOp_reg (.inr rfl)]
  exact cinstr_retires ready (by simp [short, op]) (by simp [short, op, State.gput])

/-- An immediate operation writes its value; the immediate of a shift is below 64. -/
theorem clvImm_retires {code : Nat} {v : W64} (other : rb.val ≠ 9) (assigned : clvImmCode rb.val = some code)
    (shift : code ∈ [0x07, 0x08, 0x09, 0x0A] → (top ++ fn).toNat < 64)
    (op : intOp code (s.greg h ra) ((top ++ fn).signExtend 64) = some v) :
    exec (.clvIntOp h 3 rd ra rb top fn) s = .next (s.after ((s.setG h rd.val v).retireT h)) := by
  rw [exec_clvIntOp_imm other]
  refine cinstr_retires ready ?_ (by simp [assigned, op, State.gput])
  rcases Nat.lt_or_ge (top ++ fn).toNat 64 with below | beyond
  · simp [assigned, below]
  · have unbounded : code ∉ [0x07, 0x08, 0x09, 0x0A] := fun mem => absurd (shift mem) (Nat.not_lt.2 beyond)
    simp only [List.mem_cons, List.not_mem_nil, or_false, not_or] at unbounded
    simp [assigned, unbounded]

end Results

end CloveIntegers

/-! ## The Clove memories (R377, R379, R391). -/

section CloveMemories

variable {s t : State} {h : Thread} {a : W64} {len x off : Nat} {tcm : Bool}

/-- A thread runs only where its core is on (R473). -/
theorem clvOff_of_clvRuns {h : Nat} (runs : s.clvRuns h = true) : s.clvOff (h / 8) = false := by
  simp only [State.clvRuns, Bool.and_eq_true, Bool.not_eq_true'] at runs
  exact runs.1

/-- A thread that runs reads the TCM of its own core and cluster SRAM. -/
theorem clvLoadPart_mem (runs : s.clvRuns h = true) (place : clvMem x = some (if tcm then some (h.val / 8) else none, off))
    (good : (s.clvBytes tcm off len).2 = false) : s.clvLoadPart h x len = .ok s (s.clvBytes tcm off len).1 false := by
  have on := clvOff_of_clvRuns runs
  cases tcm with
  | true => simp [State.clvLoadPart, show clvMem x = some (some (h.val / 8), off) from place, on, good]
  | false => simp [State.clvLoadPart, show clvMem x = some (none, off) from place, good]

theorem clvStorePart_mem (runs : s.clvRuns h = true) (place : clvMem x = some (if tcm then some (h.val / 8) else none, off))
    (bs : List Byte) : s.clvStorePart h x bs = .ok (s.clvPut tcm off bs) [] false := by
  have on := clvOff_of_clvRuns runs
  cases tcm with
  | true => simp [State.clvStorePart, show clvMem x = some (some (h.val / 8), off) from place, on]
  | false => simp [State.clvStorePart, show clvMem x = some (none, off) from place]

/-- A load of one half that lies in a Clove memory and passes its checks. -/
theorem clvLoad_one {bs : List Byte} {k : State → List Byte → Res} (inside : (clvMem a.toNat).isSome = true)
    (one : clvHalves a len = [(a.toNat, len)]) (admitted : s.clvFault h a len false = none)
    (part : s.clvLoadPart h a.toNat len = .ok t bs false) : s.clvLoad h a len k = k t bs := by
  have outside : (clvMem a.toNat).isNone = false := by rw [← Option.not_isSome, inside]; rfl
  simp [State.clvLoad, State.withClvLoad, State.clvLoads, outside, admitted, one, part]

/-- A store of one half that lies in a Clove memory and passes its checks. -/
theorem clvStore_one {bs : List Byte} {k : State → Res} (inside : (clvMem a.toNat).isSome = true)
    (one : clvHalves a bs.length = [(a.toNat, bs.length)]) (admitted : s.clvFault h a bs.length true = none)
    (first : (s.thread h).partsDone = 0) (part : s.clvStorePart h a.toNat bs = .ok t [] false) :
    s.clvStore h a bs k = k (t.updThr h fun t => { t with partsDone := t.partsDone + 1 }) := by
  have outside : (clvMem a.toNat).isNone = false := by rw [← Option.not_isSome, inside]; rfl
  simp [State.clvStore, State.withClvStore, outside, admitted, one, first, part]

/-- Cluster SRAM after an atomic: with the new value, or as it was where there is none. -/
def State.sramSwap (s : State) (off w : Nat) : Option (Option W64) → State
  | some (some v) => s.clvPut false off (natToBytes v.toNat w)
  | _ => s

/-- An atomic on cluster SRAM. -/
theorem clvAmo_sram {rd : GReg} {fn : BitVec 12} {w : Nat} {b : W64} (aligned : a.toNat % w = 0)
    (admitted : s.clvFault h a w true = none) (place : clvMem a.toNat = some (none, off))
    (good : (s.clvBytes false off w).2 = false) :
    let old : W64 := BitVec.ofNat 64 (bytesToNat (s.clvBytes false off w).1)
    s.clvAmo h rd a w fn b
      = (s.sramSwap off w (atomicNew (field fn.toNat 4 0) w old b (s.greg h rd))).gput h rd (atomicOld w old) := by
  simp only [State.clvAmo, State.clvAtomic, aligned, admitted, place, good, ne_eq, not_true_eq_false, Bool.false_eq_true,
    if_false]
  rfl

end CloveMemories

/-! ## Maintenance (R330 to R334, R383). -/

section CloveMaintenance

variable {s u : State} {h : Thread} {rd ra : GReg} {op : Maint} {fn : Nat}

theorem clvMaint_line (fixed : (s.thread h).fixed = false) (code : maintCode fn = some (op, false))
    (admitted : s.clvFault h (s.greg h ra) 1 op.store = none)
    (acts : s.maintOne (clvCacher h) op ((s.greg h ra).toNat / 128) = .ok u) : s.clvMaint h rd ra fn = .next u := by
  simp [State.clvMaint, fixed, code, admitted, acts]

theorem clvMaint_range (fixed : (s.thread h).fixed = false) (code : maintCode fn = some (op, true))
    (admitted : ∀ p ∈ pagePieces (s.greg h ra).toNat (rangeLen (s.greg h rd)), s.clvSub h p.1 op.store = none)
    (acts : s.maintRange (clvCacher h) op (s.greg h ra).toNat (rangeLen (s.greg h rd)) = .ok u) :
    s.clvMaint h rd ra fn = u.gput h rd (u.greg h rd - BitVec.ofNat 64 (rangeLen (s.greg h rd))) := by
  have passes : (pagePieces (s.greg h ra).toNat (rangeLen (s.greg h rd))).findSome? (fun p =>
      (s.clvSub h p.1 op.store).map fun sub => (sub, p.1)) = none :=
    List.findSome?_eq_none_iff.2 fun p mem => by rw [admitted p mem, Option.map_none]
  simp only [State.clvMaint, State.clvRange, fixed, code, passes, acts, Bool.false_eq_true, if_false]

/-- The codes of the range operations. -/
theorem range_of_maintCode (code : maintCode fn = some (op, true)) : 8 ≤ fn ∧ fn ≤ 10 := by
  unfold maintCode at code
  split at code <;> cases code <;> decide

/-- The codes of the prefetches, by whether they ask for M. -/
theorem clvMaint_pref (fixed : (s.thread h).fixed = false) (w : Bool)
    (ends : s.maintPref (clvCacher h) ((s.greg h ra).toNat / 128) w
      ((s.clvFault h (s.greg h ra) 1 w).isNone && s.cacheable (s.greg h ra).toNat) = .ok u) :
    s.clvMaint h rd ra (if w then 5 else 4) = .next u := by
  cases w with
  | true => simp [State.clvMaint, fixed, maintCode, ends]
  | false => simp [State.clvMaint, fixed, maintCode, ends]

theorem clvMaint_lock (fixed : (s.thread h).fixed = false) {x : Nat × State}
    (admitted : s.clvFault h (s.greg h ra) 1 false = none)
    (ends : s.maintLock (clvCacher h) ((s.greg h ra).toNat / 128) = .ok x) :
    s.clvMaint h rd ra 6 = x.2.gput h rd (BitVec.ofNat 64 x.1) := by
  simp [State.clvMaint, fixed, maintCode, admitted, ends]

/-- A thread with FIXED set reaches no line (R385). -/
theorem clvMaint_fixed (fixed : (s.thread h).fixed = true) : s.clvMaint h rd ra fn = .fault s 4 6 (s.greg h ra) :=
  if_pos fixed

/-- CMO of an assigned code ends as its operation does; a code below 6 writes no register. -/
theorem cmo_retires {fn : BitVec 5} (ready : s.readyT h = true)
    (assigned : fn.toNat ≤ 10 ∧ fn.toNat ≠ 7 ∧ (6 ≤ fn.toNat ∨ rd.val = 0))
    (e : s.clvMaint h rd ra fn.toNat = .next u) : exec (.cmo h rd ra fn) s = .next (s.after (u.retireT h)) := by
  obtain ⟨known, unused, target⟩ := assigned
  refine cinstr_retires ready ?_ e
  simp only [Bool.and_eq_true, Bool.or_eq_true, decide_eq_true_eq, bne_iff_ne, beq_iff_eq]
  exact ⟨⟨known, unused⟩, target⟩

theorem cmo_pref_retires (ready : s.readyT h = true) (fixed : (s.thread h).fixed = false) (zero : rd.val = 0) {w : Bool}
    (ends : s.maintPref (clvCacher h) ((s.greg h ra).toNat / 128) w
      ((s.clvFault h (s.greg h ra) 1 w).isNone && s.cacheable (s.greg h ra).toNat) = .ok u) :
    exec (.cmo h rd ra (if w then 5 else 4)) s = .next (s.after (u.retireT h)) := by
  have acts := clvMaint_pref (rd := rd) fixed w ends
  cases w with
  | true => exact cmo_retires ready ⟨by decide, by decide, .inr zero⟩ acts
  | false => exact cmo_retires ready ⟨by decide, by decide, .inr zero⟩ acts

end CloveMaintenance

/-! ## Interrupts and traps (R386, R387). -/

/-- Clearing the low eight bits of a word shifts them out and zeros in. -/
theorem and_not_low_byte (v : W64) : v &&& ~~~(0xFF : W64) = v >>> 8 <<< 8 := by
  have low (i : Nat) (hi : i < 64) : (0xFF : W64).getLsbD i = decide (i < 8) := by
    rw [show (0xFF : W64) = BitVec.ofNat 64 (2 ^ 8 - 1) from rfl, BitVec.getLsbD_ofNat, Nat.testBit_two_pow_sub_one]
    simp [hi]
  refine BitVec.eq_of_getLsbD_eq fun i hi => ?_
  rw [BitVec.getLsbD_and, BitVec.getLsbD_not, low i hi, BitVec.getLsbD_shiftLeft, BitVec.getLsbD_ushiftRight]
  by_cases below : i < 8
  · simp [below]
  · simp [below, hi, Nat.add_sub_cancel' (Nat.not_lt.1 below)]

/-- An interrupt that is due at a boundary of a running thread is taken. -/
theorem thrTrap_running {s : State} {h k : Nat} (runs : s.clvRuns h = true) (running : (s.thread h).run = .running)
    (fresh : (s.thread h).issued = false) (due : s.tcDue h = some k) :
    s.thrTrap h = (s.updThr h fun t => t.trapTo true k 0 0).count (clvUnit h) 4 := by
  simp [State.thrTrap, runs, running, fresh, due]

/-- WFI of a waiting thread completes with an enabled interrupt that is pending. -/
theorem clvWfi_wakes {s : State} {h : Thread} (waits : (s.thread h).run = .waitInt) (runs : s.clvRuns h = true)
    (on : s.tcOn h ≠ 0) :
    s.clvWfi h = (s.updThr h fun t => { t with run := .running, pc := t.pc + 4 }).count (clvUnit h) 1 := by
  have due : (s.clvRuns h && s.tcOn h != 0) = true := by rw [runs, Bool.true_and, bne_iff_ne]; exact on
  simp only [State.clvWfi, waits, due, if_true]

/-- Settles O49: each command ends as `cinstr_retires` and its kin say of its body, which the laws above evaluate. -/
theorem cloveInstructionsAct : Obligations.CloveInstructionsAct := by
  intro h s
  refine ⟨fun ready rd ra rb => ⟨
      fun top fn v => ⟨clvInt_retires ready, clvMulDiv_retires ready, fun code => clvImm_retires ready⟩,
      fun untrapped top fn => ?illegal, fun imm => cinstr_retires ready rfl rfl, fun fn imm tcm off one place => ?access,
      fun fn w off size short aligned admitted place good => ?atomic, fun cond off taken goes => ?branch,
      fun off => cinstr_jumps ready rfl rfl, fun imm => cinstr_jumps ready rfl rfl, cinstr_retires ready rfl rfl,
      fun num v val => ?trd, fun num x val => ?twr, cinstr_jumps ready rfl rfl, ?wfi, fun untrapped => ?stop,
      fun unfixed => ?maintenance,
      fun fixed untrapped fn short zero => cinstr_traps ready untrapped ?fixed (clvMaint_fixed fixed)⟩,
    fun waits runs on => finish_eq (clvWfi_wakes waits runs on),
    fun k runs running fresh due => finish_eq (thrTrap_running runs running fresh due),
    fun x intr code sub info => ⟨rfl, rfl, rfl, rfl, rfl, and_not_low_byte _, ?cause, rfl, rfl⟩⟩
  case illegal =>
    refine ⟨fun bad => ?_, fun bad => ?_, fun other bad => ?_,
      fun cls h1 h2 h3 spells => exec_clvIntOp_unassigned ready untrapped h1 h2 h3 spells⟩
    · rw [exec_clvIntOp_reg (.inl rfl)]
      refine cinstr_illegal ready untrapped ?_
      rcases bad with beyond | ⟨unary, operand⟩
      · simp [Nat.not_le.2 beyond]
      · simp [unary, operand]
    · rw [exec_clvIntOp_reg (.inr rfl)]
      exact cinstr_illegal ready untrapped (by simp [Nat.not_le.2 bad])
    · rw [exec_clvIntOp_imm other]
      refine cinstr_illegal ready untrapped ?_
      rcases bad with unassigned | ⟨shift, beyond⟩
      · simp [unassigned]
      · simp only [clvImmCode_shift shift, decide_eq_true beyond, Bool.and_self, Bool.not_true, Bool.and_false]
  case access =>
    have runs := (runs_of_readyT ready).1
    have inside := Option.isSome_of_eq_some place
    refine ⟨fun legal admitted good => ?_, fun legal admitted first => ?_⟩
    · exact cinstr_retires ready (decide_eq_true legal) (clvLoad_one inside one admitted (clvLoadPart_mem runs place good))
    · have len : (natToBytes (s.greg h rd).toNat (sizeBytes fn.toNat)).length = sizeBytes fn.toNat := length_natToBytes ..
      refine cinstr_retires ready (List.contains_iff_mem.2 legal) ?_
      exact clvStore_one inside (by rw [len]; exact one) (by rw [len]; exact admitted) first (clvStorePart_mem runs place _)
  case atomic =>
    refine cinstr_retires ready (by simp [size, short]) ?_
    rw [size]
    exact clvAmo_sram aligned admitted place good
  case branch =>
    cases taken with
    | true => exact cinstr_jumps ready (by rw [goes]; rfl) (if_pos goes)
    | false => exact cinstr_retires ready (by rw [goes]; rfl) (if_neg (by simp [goes]))
  case trd => exact cinstr_retires ready (by rw [val]; rfl) (by rw [val]; rfl)
  case twr => exact cinstr_retires ready (by rw [val]; rfl) (by rw [val]; rfl)
  case wfi =>
    have awake : (s.thread h).run ≠ .waitInt := by simp [(runs_of_readyT ready).2]
    show finish s (s.clvWfi h) = _
    rw [State.clvWfi, if_neg awake]
    split
    case isTrue on => exact cinstr_retires ready rfl (if_pos on)
    case isFalse off => exact cinstr_stays ready rfl (if_neg off)
  case stop =>
    refine (cinstr_traps ready untrapped rfl rfl).trans (congrArg (fun t => (.next (s.after t) : Out)) (updThr_congr ?_))
    rw [thread_endClv]
  case maintenance =>
    refine ⟨fun fn op u short zero code admitted acts =>
        cmo_retires ready ⟨by omega, by omega, .inr zero⟩ (clvMaint_line unfixed code admitted acts),
      fun fn op u code admitted acts => ?range, fun w zero => ⟨fun fails => ?drops, fun passes cached idle => ?asks⟩,
      fun x admitted ends => cinstr_retires ready rfl (clvMaint_lock unfixed admitted ends)⟩
    case range =>
      have codes := range_of_maintCode code
      exact cmo_retires ready ⟨codes.2, by omega, .inl (by omega)⟩ (clvMaint_range unfixed code admitted acts)
    case drops =>
      refine cmo_pref_retires ready unfixed zero (maintPref_dropped ?_)
      rw [← Option.not_isSome]
      exact Bool.and_eq_false_iff.2 (fails.imp_left (congrArg not))
    case asks =>
      refine cmo_pref_retires ready unfixed zero (maintPref_asks ?_ idle)
      rw [← Option.not_isSome]
      exact Bool.and_eq_true_iff.2 ⟨congrArg not passes, cached⟩
  case fixed =>
    simp [zero]
    omega
  case cause =>
    simp only [Thr.trapTo, b2n]
    congr 1
    split <;> omega

end Sys2Proof.Machine

/-! The scheduler instructions: how they end, an equation for each case of an op, and the statement O50. -/

namespace Sys2Proof.Machine

/-! ## The checks of an op (R397, R398, R402). -/

section SchedulerChecks

variable {s t : State} {h : Thread} {rd ra rb op x : Nat} {legal : Bool} {body : State → Res}

/-- An op acts on the state that tick processing and matching leave. -/
theorem schedOp_retires (ready : s.readyT h = true) (hl : legal = true) (e : body s.schedSync = .next t) :
    finish s (s.schedOp h rd ra rb op legal body) = .next (s.after (t.retireT h)) :=
  cinstr_retires ready hl e

theorem schedOp_stays (ready : s.readyT h = true) (hl : legal = true) (e : body s.schedSync = .stay t) :
    finish s (s.schedOp h rd ra rb op legal body) = .next (s.after t) :=
  cinstr_stays ready hl e

theorem heldOp_task (held : (s.thread h).task = some x) (f : Nat → Res) : s.heldOp h rd op f = f x := by
  simp only [State.heldOp, held]

theorem heldOp_none (free : (s.thread h).task = none) (f : Nat → Res) :
    s.heldOp h rd op f = .next (s.refuse h rd op 4 .none false) := by
  simp only [State.heldOp, free]

theorem taskArg_some {v : W64} (named : v.toNat = x) (known : x < 256) : taskArg v = some x := by
  rw [taskArg, if_pos (by omega), named]

theorem taskArg_none {v : W64} (beyond : 256 ≤ v.toNat) : taskArg v = none :=
  if_neg (Nat.not_lt.2 beyond)

end SchedulerChecks

/-! ## GETTASK (R396, R399). -/

section GetTask

variable {s : State} {h : Thread} {rd ra x : Nat}

theorem getTask_holds (held : (s.thread h).task = some x) :
    s.getTask h rd ra = .next (s.refuse h rd 0 5 (s.aniseTask x) true) := by
  simp only [State.getTask, held]

theorem getTask_takes (free : (s.thread h).task = none) (found : s.sched.order.find? (s.eligible h) = some x) :
    s.getTask h rd ra = .stay (s.give h rd x) := by
  simp only [State.getTask, free, found]

/-- With no task to take, GETTASK that may not wait is refused. -/
theorem getTask_refused (free : (s.thread h).task = none) (nothing : s.sched.order.find? (s.eligible h) = none)
    (once : ((s.thread h).r ra).getLsbD 0 = true) : s.getTask h rd ra = .next (s.refuse h rd 0 8 .none true) := by
  simp only [State.getTask, free, nothing, once, if_true]

/-- One that may wait joins the threads that wait. -/
theorem getTask_waits (free : (s.thread h).task = none) (nothing : s.sched.order.find? (s.eligible h) = none)
    (waits : ((s.thread h).r ra).getLsbD 0 = false) :
    s.getTask h rd ra = .stay (((s.updThr h fun t => { t with run := .waitTask rd }).updSched fun d =>
      { d with waiters := d.waiters ++ [h.val] }).anise 12 h .none 0) := by
  simp only [State.getTask, free, nothing, waits, Bool.false_eq_true, if_false]

end GetTask

/-! ## Ops on the held task (R398, R401, R403). -/

section HeldOps

variable {s : State} {h : Thread} {rd ra x n : Nat}

theorem tblock_long (long : 2 ^ 24 ≤ ((s.thread h).r ra).toNat) :
    s.tblock h rd ra = .next (s.refuse h rd 3 2 .none false) := if_pos long

theorem tblock_short (short : ((s.thread h).r ra).toNat < 2 ^ 24) : s.tblock h rd ra = s.heldOp h rd 3 fun x =>
    if (s.task x).wakePend then
      let t := ((s.release h).updTask x fun k => { k with wakePend := false }).makeReady x 0
      .next ((t.anise 4 h (t.aniseTask x) 0).setG h rd 0)
    else
      let n := ((s.thread h).r ra).toNat
      let t := (s.release h).updTask x fun k => { k with st := .blocked }
      let u := if n = 0 then t else t.enterTime x n true
      .next ((u.anise 4 h (u.aniseTask x) (if n = 0 then 0 else (s.sched.tick + n) % 2 ^ 32)).setG h rd 0) :=
  if_neg (Nat.not_le.2 short)

/-- A wake-up that is pending ends TBLOCK at once (R401). -/
theorem tblock_wakes (short : ((s.thread h).r ra).toNat < 2 ^ 24) (held : (s.thread h).task = some x)
    (wake : (s.task x).wakePend = true) :
    let t := ((s.release h).updTask x fun k => { k with wakePend := false }).makeReady x 0
    s.tblock h rd ra = .next ((t.anise 4 h (t.aniseTask x) 0).setG h rd 0) := by
  rw [tblock_short short, heldOp_task held, if_pos wake]

theorem tblock_blocks (forever : ((s.thread h).r ra).toNat = 0) (held : (s.thread h).task = some x)
    (quiet : (s.task x).wakePend = false) :
    let t := (s.release h).updTask x fun k => { k with st := .blocked }
    s.tblock h rd ra = .next ((t.anise 4 h (t.aniseTask x) 0).setG h rd 0) := by
  rw [tblock_short (by omega), heldOp_task held, if_neg (by simp [quiet])]
  simp only [forever, if_true]

theorem tblock_timed (some_ : 0 < ((s.thread h).r ra).toNat) (short : ((s.thread h).r ra).toNat < 2 ^ 24)
    (held : (s.thread h).task = some x) (quiet : (s.task x).wakePend = false) :
    let n := ((s.thread h).r ra).toNat
    let t := ((s.release h).updTask x fun k => { k with st := .blocked }).enterTime x n true
    s.tblock h rd ra = .next ((t.anise 4 h (t.aniseTask x) ((s.sched.tick + n) % 2 ^ 32)).setG h rd 0) := by
  rw [tblock_short short, heldOp_task held, if_neg (by simp [quiet])]
  simp only [Nat.ne_of_gt some_, if_false]

theorem tdelay_badTime (bad : ((s.thread h).r ra).toNat = 0 ∨ 2 ^ 24 ≤ ((s.thread h).r ra).toNat) :
    s.tdelay h rd ra = .next (s.refuse h rd 4 2 .none false) := if_pos bad

theorem tdelay_none (some_ : 0 < ((s.thread h).r ra).toNat) (short : ((s.thread h).r ra).toNat < 2 ^ 24)
    (free : (s.thread h).task = none) : s.tdelay h rd ra = .next (s.refuse h rd 4 4 .none false) :=
  (if_neg (by omega)).trans (heldOp_none free _)

theorem tdelay_delays (some_ : 0 < ((s.thread h).r ra).toNat) (short : ((s.thread h).r ra).toNat < 2 ^ 24)
    (held : (s.thread h).task = some x) :
    let n := ((s.thread h).r ra).toNat
    let t := ((s.release h).updTask x fun k => { k with st := .delayed }).enterTime x n false
    s.tdelay h rd ra = .next ((t.anise 5 h (t.aniseTask x) ((s.sched.tick + n) % 2 ^ 32)).setG h rd 0) :=
  (if_neg (by omega)).trans (heldOp_task held _)

theorem flowDone_noFlow (held : (s.thread h).task = some x) (none_ : (s.task x).flow = none) :
    s.flowDone h rd ra = .next (s.refuse h rd 8 10 (s.aniseTask x) false) := by
  simp only [State.flowDone, heldOp_task held, none_]

/-- FLOWDONE ends the task's turn and completes its entry (R403). -/
theorem flowDone_completes (held : (s.thread h).task = some x) {f : Nat × Nat} (flow : (s.task x).flow = some f) :
    let v := (s.thread h).r ra
    let t := (s.release h).updTask x fun k => { k with st := .dormant, wakePend := false }
    s.flowDone h rd ra = .next (((t.anise 3 h { t.aniseTask x with flow := (s.task x).flowByte }
      (v.toNat % 2 ^ 32)).flowComplete x v false).setG h rd 0) := by
  simp only [State.flowDone, heldOp_task held, flow]

end HeldOps

/-! ## Ops on a named task (R398, R401). -/

section NamedOps

variable {s t : State} {h : Thread} {rd ra rb x : Nat}

theorem tready_ready (n : Nat) (st : (s.task x).st = .ready) : s.tready n x = (1, s) := by
  simp only [State.tready, st]

/-- A running task takes note of the wake-up. -/
theorem tready_running (n : Nat) (st : (s.task x).st = .running) :
    let t := s.updTask x fun k => { k with wakePend := true }
    s.tready n x = (0, t.anise 1 n (t.aniseTask x) ((s.task x).arg.toNat % 2 ^ 32)) := by
  simp only [State.tready, st]

theorem tready_readies (n : Nat) (unready : (s.task x).st ≠ .ready) (idle : (s.task x).st ≠ .running) :
    let t := s.makeReady x 0
    s.tready n x = (0, t.anise 1 n (t.aniseTask x) ((s.task x).arg.toNat % 2 ^ 32)) := by
  cases st : (s.task x).st with
  | ready => exact absurd st unready
  | running => exact absurd st idle
  | dormant | blocked | delayed => simp only [State.tready, st]

theorem treadyOp_badTask (bad : taskArg ((s.thread h).r ra) = none) :
    s.treadyOp h rd ra = .next (s.refuse h rd 1 2 .none false) := by
  simp only [State.treadyOp, bad]

theorem treadyOp_done (named : taskArg ((s.thread h).r ra) = some x) (done : s.tready h x = (0, t)) :
    s.treadyOp h rd ra = .next (t.setG h rd 0) := by
  simp only [State.treadyOp, named, done, if_true]

theorem treadyOp_ready (named : taskArg ((s.thread h).r ra) = some x) (st : (s.task x).st = .ready) :
    s.treadyOp h rd ra = .next (s.refuse h rd 1 1 (s.aniseTask x) false) := by
  simp only [State.treadyOp, named, tready_ready h st, Nat.one_ne_zero, if_false]

theorem tprio_badTask (bad : taskArg ((s.thread h).r ra) = none) :
    s.tprio h rd ra rb = .next (s.refuse h rd 6 2 .none false) := by
  simp only [State.tprio, bad]

theorem tprio_sets (named : taskArg ((s.thread h).r ra) = some x) (level : ((s.thread h).r rb).toNat < 32) :
    s.tprio h rd ra rb = .next ((s.setPrio h x ((s.thread h).r rb).toNat).setG h rd 0) := by
  simp only [State.tprio, named, level, if_true]

theorem tprio_badLevel (named : taskArg ((s.thread h).r ra) = some x) (beyond : 32 ≤ ((s.thread h).r rb).toNat) :
    s.tprio h rd ra rb = .next (s.refuse h rd 6 2 .none false) := by
  simp only [State.tprio, named, Nat.not_lt.2 beyond, if_false]

end NamedOps

/-! ## Flows (R403, R404). -/

section FlowOps

variable {s : State} {h : Thread} {rd ra rb x f : Nat}

theorem flowPut_badTask (bad : taskArg ((s.thread h).r ra) = none) :
    s.flowPut h rd ra rb = .next (s.refuse h rd 7 2 .none false) := by
  simp only [State.flowPut, bad]

section Named

variable (named : taskArg ((s.thread h).r ra) = some x)

include named

theorem flowPut_notDormant (st : (s.task x).st ≠ .dormant) :
    s.flowPut h rd ra rb = .next (s.refuse h rd 7 3 (s.aniseTask x) false) := by
  simp only [State.flowPut, named, st, ne_eq, not_false_eq_true, if_true]

variable (st : (s.task x).st = .dormant) (flow : field ((s.thread h).r rb).toNat 3 0 = f)

include st flow

theorem flowPut_full (full : 64 ≤ (s.flow f).ents.length) :
    s.flowPut h rd ra rb = .next (s.refuse h rd 7 6 (s.aniseTask x) false) := by
  simp only [State.flowPut, named, st, flow, full, ne_eq, not_true_eq_false, if_false, if_true]

theorem flowPut_disabled (room : (s.flow f).ents.length < 64) (off : (s.flow f).en = false) :
    s.flowPut h rd ra rb = .next (s.refuse h rd 7 9 (s.aniseTask x) false) := by
  simp only [State.flowPut, named, st, flow, Nat.not_le.2 room, off, ne_eq, not_true_eq_false, if_false, Bool.not_false,
    if_true]

/-- The task joins the flow at its tail and becomes READY. -/
theorem flowPut_enters (room : (s.flow f).ents.length < 64) (on : (s.flow f).en = true) :
    let seq := ((s.flow f).head + BitVec.ofNat 16 (s.flow f).ents.length).toNat
    let t := ((s.updFlow f fun y => { y with ents := y.ents ++ [none] }).updTask x fun k =>
      { k with flow := some (f, seq) }).makeReady x 0
    s.flowPut h rd ra rb = .next ((t.anise 10 h (t.aniseTask x) seq).setG h rd (BitVec.ofNat 64 seq)) := by
  simp only [State.flowPut, named, st, flow, Nat.not_le.2 room, on, ne_eq, not_true_eq_false, if_false, Bool.not_true,
    Bool.false_eq_true]

end Named

variable (flow : field ((s.thread h).r ra).toNat 3 0 = f)

include flow

theorem flowTake_empty (ents : (s.flow f).ents = []) : s.flowTake h rd ra = .next (s.refuse h rd 9 8 .none true) := by
  simp only [State.flowTake, flow, ents]

theorem flowTake_incomplete {rest : List (Option (W64 × Bool))} (ents : (s.flow f).ents = none :: rest) :
    s.flowTake h rd ra = .next (s.refuse h rd 9 7 .none true) := by
  simp only [State.flowTake, flow, ents]

variable {v : W64} {ab : Bool} {rest : List (Option (W64 × Bool))} (ents : (s.flow f).ents = some (v, ab) :: rest)

include ents

theorem flowTake_disabled (off : (s.flow f).en = false) : s.flowTake h rd ra = .next (s.refuse h rd 9 9 .none true) := by
  simp only [State.flowTake, flow, ents, off, Bool.not_false, if_true]

/-- The head entry is taken, with its number and whether it was abandoned. -/
theorem flowTake_takes (on : (s.flow f).en = true) :
    s.flowTake h rd ra = .next (((((s.updFlow f fun y => { y with head := y.head + 1, ents := rest }).anise 11 h
      { AniseInfo.none with flow := 0x80 + f } (s.flow f).head.toNat).setG h rd v).setG h (rd + 1)
        (BitVec.ofNat 64 ((s.flow f).head.toNat + 65536 * (if ab then 1 else 0))))) := by
  simp only [State.flowTake, flow, ents, on, Bool.not_true, Bool.false_eq_true, if_false]
  rfl

end FlowOps

/-- Settles O50: every op ends as `schedOp_retires` says of its body, which has one equation above for each of its cases. -/
theorem schedulerInstructionsAct : Obligations.SchedulerInstructionsAct := by
  intro h rd ra rb s ready
  refine ⟨fun even free => ⟨fun x found => ?takes, fun nothing => ?nothing⟩, fun x held => ?held, fun free => ?free,
    fun long => schedOp_retires ready rfl (tblock_long long), fun bad => schedOp_retires ready rfl (tdelay_badTime bad),
    fun beyond => ?beyond, fun odd untrapped => ?odd, fun x named known => ?named, fun even => ?flowtake⟩
  case takes => exact schedOp_stays ready (by simp [even]) (getTask_takes free found)
  case nothing =>
    split
    case isTrue once => exact schedOp_retires ready (by simp [even]) (getTask_refused free nothing once)
    case isFalse waits =>
      exact schedOp_stays ready (by simp [even]) (getTask_waits free nothing (Bool.eq_false_of_not_eq_true waits))
  case held =>
    exact ⟨fun even => schedOp_retires ready (by simp [even]) (getTask_holds held),
      schedOp_retires ready rfl (heldOp_task held _),
      fun short wake => schedOp_retires ready rfl (tblock_wakes short held wake),
      fun forever quiet => schedOp_retires ready rfl (tblock_blocks forever held quiet),
      fun some_ short quiet => schedOp_retires ready rfl (tblock_timed some_ short held quiet),
      fun some_ short => schedOp_retires ready rfl (tdelay_delays some_ short held),
      schedOp_retires ready rfl (heldOp_task held _),
      fun noFlow => schedOp_retires ready rfl (flowDone_noFlow held noFlow),
      fun f flow => schedOp_retires ready rfl (flowDone_completes held flow)⟩
  case free =>
    exact ⟨schedOp_retires ready rfl (heldOp_none free _), schedOp_retires ready rfl (heldOp_none free _),
      schedOp_retires ready rfl (heldOp_none free _),
      fun short => schedOp_retires ready rfl ((tblock_short short).trans (heldOp_none free _)),
      fun some_ short => schedOp_retires ready rfl (tdelay_none some_ short free)⟩
  case beyond =>
    have bad := taskArg_none beyond
    exact ⟨schedOp_retires ready rfl (treadyOp_badTask bad), schedOp_retires ready rfl (tprio_badTask bad),
      schedOp_retires ready rfl (flowPut_badTask bad)⟩
  case odd =>
    exact ⟨cinstr_illegal ready untrapped (by simp [odd]), cinstr_illegal ready untrapped (by simp [odd])⟩
  case named =>
    have named := taskArg_some named known
    exact ⟨fun st => schedOp_retires ready rfl (treadyOp_ready named st),
      fun st => schedOp_retires ready rfl (treadyOp_done named (tready_running _ st)),
      fun unready idle => schedOp_retires ready rfl (treadyOp_done named (tready_readies _ unready idle)),
      fun level => schedOp_retires ready rfl (tprio_sets named level),
      fun beyond => schedOp_retires ready rfl (tprio_badLevel named beyond),
      fun st => schedOp_retires ready rfl (flowPut_notDormant named st),
      fun st full => schedOp_retires ready rfl (flowPut_full named st rfl full),
      fun st room off => schedOp_retires ready rfl (flowPut_disabled named st rfl room off),
      fun st room on => schedOp_retires ready rfl (flowPut_enters named st rfl room on)⟩
  case flowtake =>
    have legal : (rd.val % 2 == 0) = true := by simp [even]
    exact ⟨fun ents => schedOp_retires ready legal (flowTake_empty rfl ents),
      fun rest ents => schedOp_retires ready legal (flowTake_incomplete rfl ents),
      fun v ab rest ents => ⟨fun off => schedOp_retires ready legal (flowTake_disabled rfl ents off),
        fun on => schedOp_retires ready legal (flowTake_takes rfl ents on)⟩⟩

end Sys2Proof.Machine

/-! The scheduler's events and registers: how a task becomes READY, what the scheduler and a cache's reset leave of the threads,
and the statement O51. -/

namespace Sys2Proof.Tbl

/-- A change of the entries that a list names, each once. -/
theorem get_foldl_upd {α : Type} [DecidableEq α] (d : α) (f : α → α) {l : List Nat} (once : l.Nodup) (t : Tbl α) (k : Nat) :
    get d (l.foldl (fun t p => upd d t p f) t) k = if k ∈ l then f (get d t k) else get d t k := by
  induction l generalizing t with
  | nil => simp
  | cons p l ih =>
    obtain ⟨fresh, once⟩ := List.nodup_cons.1 once
    rw [List.foldl_cons, ih once]
    by_cases same : k = p
    · subst same
      simp [fresh]
    · simp [same, get_upd_other d t f same]

end Sys2Proof.Tbl

namespace Sys2Proof.Machine

/-! ## Ready lists (R395, R396, R401, R405). -/

section Lists

variable {s : State} {x p : Nat}

theorem list_unlist (c : SchedSt) (x : Nat) (hp : p < 32) : (c.unlist x).list p = (c.list p).filter (· != x) := by
  simp only [SchedSt.list, SchedSt.unlist]
  rw [Tbl.get_foldl_upd [] _ List.nodup_range, if_pos (List.mem_range.2 hp)]

/-- What `makeReady` makes of the scheduler. -/
theorem makeReady_sched (s : State) (x k : Nat) : (s.makeReady x k).sched = { s.sched.unlist x with
    tasks := Tbl.upd Task.off s.sched.tasks x fun t => { t with st := .ready, cause := k }
    ready := Tbl.upd [] (s.sched.unlist x).ready (s.task x).prio fun l => l ++ [x]
    due := true } := rfl

theorem task_makeReady (s : State) (x k : Nat) : (s.makeReady x k).task x = { s.task x with st := .ready, cause := k } := by
  rw [State.task, makeReady_sched, Tbl.get_upd_self]

/-- A task that becomes READY leaves every list, and joins that of its priority at the tail. -/
theorem list_makeReady (hp : p < 32) (k : Nat) : (s.makeReady x k).sched.list p
    = (s.sched.list p).filter (· != x) ++ if p = (s.task x).prio then [x] else [] := by
  rw [← list_unlist s.sched x hp, makeReady_sched, SchedSt.list]
  split
  case isTrue own => rw [own, Tbl.get_upd_self]
  case isFalse other => rw [Tbl.get_upd_other _ _ _ other, List.append_nil]

theorem dispatch_due (due : s.sched.due = true) :
    s.dispatch = (s.matchWaiters s.sched.waiters.length).updSched fun c => { c with due := false } := if_pos due

/-- The entry that expires next readies its task, unless the scheduler stands still with its clock (R405, R467). -/
theorem expiry_readies {e : TimerEnt} {timeout : Bool} (clocked : s.clk.relock = false) (task : e.task = x)
    (first : s.sched.expired = some (e, timeout)) : s.expiry x timeout = s.timeUp (e, timeout) := by
  simp [State.expiry, first, clocked, task]

end Lists

/-! ## What the scheduler leaves of the threads. -/

section Threads

variable (s : State)

@[simp] theorem updTask_thr (x : Nat) (f : Task → Task) : (s.updTask x f).thr = s.thr := rfl
@[simp] theorem updFlow_thr (f : Nat) (g : Flow → Flow) : (s.updFlow f g).thr = s.thr := rfl
@[simp] theorem makeReady_thr (x k : Nat) : (s.makeReady x k).thr = s.thr := rfl

@[simp] theorem sramWrite_thr (off : Nat) (bs : List Byte) : (s.sramWrite off bs).thr = s.thr := rfl

@[simp] theorem anise_thr (ev hart : Nat) (i : AniseInfo) (data : Nat) : (s.anise ev hart i data).thr = s.thr := by
  simp only [State.anise]
  split
  · rfl
  · split
    · rfl
    · split <;> simp

@[simp] theorem tready_thr (n x : Nat) : (s.tready n x).2.thr = s.thr := by
  simp only [State.tready]
  split <;> simp

@[simp] theorem flowWake_thr (f : Nat) (before : Bool) : (s.flowWake f before).thr = s.thr := by
  simp only [State.flowWake]
  split <;> simp

@[simp] theorem flowComplete_thr (x : Nat) (v : W64) (ab : Bool) : (s.flowComplete x v ab).thr = s.thr := by
  simp only [State.flowComplete]
  split <;> simp

theorem thread_updThr (h i : Nat) (f : Thr → Thr) :
    (s.updThr h f).thread i = if i = h then f (s.thread h) else s.thread i :=
  (Tbl.get_set ..).trans rfl

/-- A thread whose task is abandoned holds none, and no other thread changes (R401). -/
theorem thread_abandon (h i : Nat) :
    (s.abandon h).thread i = if i = h then { s.thread h with task := none } else s.thread i := by
  rw [← thread_updThr s h i fun t => { t with task := none }]
  simp only [State.abandon]
  split
  next free =>
    rw [thread_updThr]
    split
    next same => rw [same, ← free]
    next => rfl
  next => simp [State.thread]

theorem thread_endClv_other {h i : Nat} (other : i ≠ h) : (s.endClv h).thread i = s.thread i := by
  simp only [State.endClv]
  split
  · exact thread_updThr_other _ _ _ other
  · exact thread_updThr_other s h (fun t => { t with issued := false, partsDone := 0 }) other

/-- The reset of a thread keeps where it starts and why it last stopped, and reaches no other thread (R409). -/
theorem thread_threadReset (h i : Nat) : (s.threadReset h).thread i = if i = h then { Thr.off with
    start := (s.thread h).start, stopCause := (s.thread h).stopCause } else s.thread i := by
  have left (f : SchedSt → SchedSt) (j : Nat) : ((s.endClv h).updSched f).thread j = (s.endClv h).thread j := rfl
  have kept (t : State) (f : GroupSt → GroupSt) (j : Nat) : (t.updGrp f).thread j = t.thread j := rfl
  rw [State.threadReset, thread_updThr, kept, kept, thread_abandon, thread_abandon, left, left, if_pos rfl, thread_endClv]
  split
  · rfl
  next other => rw [thread_endClv_other s other]

end Threads

/-! ## Registers of threads and cores (R409). -/

section ThreadRegisters

variable {s : State} {a : Agent}

/-- RUN and RESET are bits 0 and 1 of CLV_THREAD_CTRL. -/
theorem regPut_thrCtrl (h : Nat) (v : W64) : s.regPut a (.thrCtrl h) .full v =
    let t := if bitOf v.toNat 0 then s.threadRun h else s
    if bitOf v.toNat 1 then t.threadReset h else t := rfl

variable {h : Thread}

theorem exec_clvThreadRun (heard : s.mute a = false) (may : s.regCode a (.thrCtrl h.val) true .full = .okay) :
    exec (.clvThreadRun a h) s = .next (s.after ((s.threadRun h).reply .okay 0)) :=
  finish_eq ((regCmd_okay heard may 1).trans (by rw [regPut_thrCtrl]; rfl))

theorem exec_clvThreadReset (heard : s.mute a = false) (may : s.regCode a (.thrCtrl h.val) true .full = .okay) :
    exec (.clvThreadReset a h) s = .next (s.after ((s.threadReset h).reply .okay 0)) :=
  finish_eq ((regCmd_okay heard may 2).trans (by rw [regPut_thrCtrl]; rfl))

/-- RESET is bit 0 of CLV_CORE_CTRL. -/
theorem regPut_clvCoreCtrl (c : Nat) (v : W64) :
    s.regPut a (.clvCoreCtrl c) .full v = if bitOf v.toNat 0 then s.clvCoreReset c else s := rfl

theorem exec_clvCoreReset {c : Clove} (heard : s.mute a = false) (may : s.regCode a (.clvCoreCtrl c.val) true .full = .okay) :
    exec (.clvCoreReset a c) s = .next (s.after ((s.clvCoreReset c).reply .okay 0)) :=
  finish_eq ((regCmd_okay heard may 1).trans (by rw [regPut_clvCoreCtrl]; rfl))

/-- RUN of a halted thread whose core is on starts it where it is told. -/
theorem threadRun_starts (halted : (s.thread h).run = .halted) (on : s.clvOff (h.val / 8) = false) :
    s.threadRun h = s.updThr h fun t => { t with run := .running, pc := t.start } :=
  if_pos ⟨halted, by rw [on]; rfl⟩

theorem threadRun_ignored (going : (s.thread h).run ≠ .halted) : s.threadRun h = s :=
  if_neg fun ok => going ok.1

end ThreadRegisters

section CoreReset

variable (s : State)

/-! A cache that is reset writes its lines back, which reaches no thread. -/

theorem dirMap_thr (l : Nat) (f : DirEnt → DirEnt) : (s.dirMap l f).thr = s.thr := by
  simp only [State.dirMap, State.dirSet]
  split <;> rfl

theorem memWrite_thr (l : Nat) (m : BitVec 128) (d : Line128) (p : Bool) : (s.memWrite l m d p).1.thr = s.thr :=
  (congrArg State.thr (memWrite_beside s l m d p) :)

theorem dropNodes_thr (l : Nat) : (s.dropNodes l).thr = s.thr := by
  unfold State.dropNodes
  split
  · exact (dirMap_thr ..).trans (foldl_keeps State.thr (fun t u => updCache_thr t _ _) _ _)
  · rfl

theorem l2Install_thr (l : Nat) (elig : List Nat) (x : CLine) (age : Nat) : (s.l2Install l elig x age).thr = s.thr := by
  simp only [State.l2Install]
  split
  · split
    · rw [memWrite_thr, updSlice_thr]
    · rfl
  · rfl

theorem homePut_thr (l : Nat) (d : Line128) (p : Bool) (b : Nat) : (s.homePut l d p b).thr = s.thr := by
  simp only [State.homePut]
  split
  · exact dropNodes_thr ..
  · split
    · rw [memWrite_thr, dropNodes_thr]
    · rw [l2Install_thr, dropNodes_thr]

theorem cacheReset_thr (r : Cacher) : (s.cacheReset r).thr = s.thr := by
  simp only [State.cacheReset]
  refine (updCache_thr ..).trans (foldl_keeps State.thr (fun t e => ?_) _ s)
  have back : (if e.2.st = .m then t.homePut e.2.line e.2.data e.2.poison 0 else t).thr = t.thr := by
    split
    · exact homePut_thr ..
    · rfl
  have forget (u : State) : (if u.isPrivate e.2.line then u else u.dirMap e.2.line fun d => d.forget r.unit).thr = u.thr := by
    split
    · rfl
    · exact dirMap_thr ..
  exact (forget _).trans back

/-- Resets of threads leave halted those that they name, and those that were. -/
theorem foldl_threadReset_halts {c i : Nat} {l : List Nat} (halts : i ∈ l ∨ (s.thread (8 * c + i)).run = .halted) :
    ((l.foldl (fun t j => t.threadReset (8 * c + j)) s).thread (8 * c + i)).run = .halted := by
  induction l generalizing s with
  | nil => exact halts.resolve_left List.not_mem_nil
  | cons j l ih =>
    refine ih _ ?_
    rw [thread_threadReset]
    split
    next => exact .inr rfl
    next other =>
      refine halts.imp_left fun named => (List.mem_cons.1 named).resolve_left fun same => other (by rw [same])

/-- CLV_CORE_CTRL.RESET halts every thread of its core (R409). -/
theorem clvCoreReset_halts {c i : Nat} (on : s.clvOff c = false) (hi : i < 8) :
    ((s.clvCoreReset c).thread (8 * c + i)).run = .halted := by
  rw [State.clvCoreReset, if_neg (by simp [on]), State.thread, cacheReset_thr]
  exact foldl_threadReset_halts s (.inl (List.mem_range.2 hi))

end CoreReset

/-- Settles O51: a task becomes READY as `task_makeReady` and `list_makeReady` say, an expired entry readies its task, and the
resets are `thread_threadReset` and `clvCoreReset_halts`. -/
theorem schedulerEventsAndRegistersAct : Obligations.SchedulerEventsAndRegistersAct := by
  intro a s
  refine ⟨fun x k p _ hp => ⟨by rw [task_makeReady], by rw [task_makeReady], list_makeReady hp k⟩,
    fun clocked due => finish_eq ?dispatch, finish_after ..,
    fun x e clocked task => ⟨fun first => ?delay, fun first => ?timeout⟩,
    fun x val heard may => finish_eq (regCmd_okay heard may val), fun val heard may => finish_eq (regCmd_okay heard may val),
    fun h heard may => ⟨fun halted on => ?starts, fun going => ?ignored, ?reset⟩,
    fun mask => ⟨fun heard may => finish_eq (regCmd_okay heard may mask),
      fun heard may => finish_eq (regCmd_okay heard may mask)⟩,
    fun c heard may on => ?core⟩
  case dispatch => rw [clocked, dispatch_due due]; rfl
  case delay => exact finish_eq ((expiry_readies clocked task first).trans (by rw [← task]; rfl))
  case timeout => exact finish_eq ((expiry_readies clocked task first).trans (by rw [← task]; rfl))
  case starts => exact (exec_clvThreadRun heard may).trans (by rw [threadRun_starts halted on])
  case ignored => exact (exec_clvThreadRun heard may).trans (by rw [threadRun_ignored going])
  case reset => exact ⟨s.threadReset h, exec_clvThreadReset heard may, (thread_threadReset s h h).trans (if_pos rfl)⟩
  case core => exact ⟨s.clvCoreReset c, exec_clvCoreReset heard may, fun i hi => clvCoreReset_halts s on hi⟩

end Sys2Proof.Machine

/-! The queue and the settling of commands: what every command answers, how doorbells are seen, and the statements O1, O2 and
O4. -/

namespace Sys2Proof.Machine

/-! ## What every command leaves (R431, R508, R509). -/

/-- Every command answers with a settled effect (log 2). -/
theorem exec_eq_finish (c : Instr) (s : State) : ∃ e, exec c s = finish s e := by
  cases c
  case registerWrite a x w val =>
    change ∃ e, execRegisterWrite a x w val s = finish s e
    simp only [execRegisterWrite]
    split
    · exact ⟨s, rfl⟩
    · split
      · exact ⟨_, rfl⟩
      · exact ⟨_, rfl⟩
  case rcRead a x w =>
    change ∃ e, execRcRead a x w s = finish s e
    simp only [execRcRead]
    split
    · exact ⟨s, rfl⟩
    · split
      · exact ⟨_, rfl⟩
      · exact ⟨_, rfl⟩
  case intRegisterOp n rd ra rb op =>
    change ∃ e, execIntRegisterOp n rd ra rb op s = finish s e
    simp only [execIntRegisterOp]
    split
    · exact ⟨s, rfl⟩
    · exact ⟨_, rfl⟩
  all_goals exact ⟨_, rfl⟩

/-- The error unit leaves no detection waiting, whatever handling one raises (R508). -/
theorem drain_queue (s : State) (fuel : Nat) : (s.drain fuel).err.queue = [] := by
  induction fuel generalizing s with
  | zero => rfl
  | succ fuel ih =>
    unfold State.drain
    split
    next none => exact none
    next => exact ih _

/-- The detections of a command are handled before its doorbells are sent. -/
def State.handled (s : State) : State :=
  (if s.err.queue.isEmpty then s else s.drain 16).updErr fun e => { e with injected := false }

theorem settle_eq (s : State) : s.settle = s.handled.dbSettle := by
  have cleared (t : State) : (if t.err.injected then t.updErr fun e => { e with injected := false } else t)
      = t.updErr fun e => { e with injected := false } := by
    split
    next => rfl
    next no =>
      have : t.err = { t.err with injected := false } := by rw [← Bool.eq_false_iff.2 no]
      exact congrArg (fun e => { t with err := e }) this
  simp only [State.settle, State.handled, cleared]

theorem handled_quiet (s : State) : s.handled.err.queue = [] ∧ s.handled.err.injected = false := by
  refine ⟨?_, rfl⟩
  change (if s.err.queue.isEmpty then s else s.drain 16).err.queue = []
  split
  next none => exact List.isEmpty_iff.1 none
  next => exact drain_queue ..

/-! ## Doorbells (R431, R432). -/

/-- What is sent for function `i % 17` of host port `i / 17`. -/
def State.dbStep (t : State) (i : Nat) : State :=
  let on := t.doorbell (0x200 + 0x20 * (i / 17) + i % 17)
  let x := t.hostFn (i / 17) (i % 17)
  let y := { x with dbSeen := on, sent1 := if on && !x.mask1 then x.sent1 + 1 else x.sent1 }
  if on == x.dbSeen then t else t.updHost (i / 17) fun p => { p with fns := Tbl.set HostFn.off p.fns (i % 17) y }

/-- What is sent to the board. -/
def State.dbBoard (t : State) : State :=
  let on := t.doorbell 0x300
  if on == t.pins.boardDbSeen then t
  else { t with pins := { t.pins with boardDbSeen := on, ibiDoorbell := t.pins.ibiDoorbell + b2n on } }

theorem dbSettle_eq (s : State) : s.dbSettle = ((List.range 34).foldl State.dbStep s).dbBoard := rfl

/-- A change of host ports that keeps their links and the D3hot bits of their functions keeps every doorbell. -/
theorem doorbell_updHost (s : State) (h : Nat) (g : HostPort → HostPort) (width : ∀ p, (g p).width = p.width)
    (isolated : ∀ p, (g p).isolated = p.isolated)
    (asleep : ∀ f, (Tbl.get HostFn.off (g (s.hostPort h)).fns f).d3hot = (s.hostFn h f).d3hot) (code : Nat) :
    (s.updHost h g).doorbell code = s.doorbell code := by
  have up (k : Nat) : (s.updHost h g).hostUp k = s.hostUp k := by
    by_cases same : k = h
    · subst same; simp only [State.hostUp, hostPort_updHost_self, width, isolated]; rfl
    · simp only [State.hostUp, hostPort_updHost_other _ _ _ same]; rfl
  have sleep (k f : Nat) : (Tbl.get HostFn.off ((s.updHost h g).hostPort k).fns f).d3hot = (s.hostFn k f).d3hot := by
    by_cases same : k = h
    · subst same; rw [hostPort_updHost_self, asleep]
    · rw [hostPort_updHost_other _ _ _ same]
  have off : (s.updHost h g).agentOff code = s.agentOff code := by
    simp only [State.agentOff, up, sleep]
    rfl
  simp only [State.doorbell, off]
  rfl

theorem doorbell_dbStep (t : State) (i code : Nat) : (t.dbStep i).doorbell code = t.doorbell code := by
  unfold State.dbStep
  dsimp only
  split
  · rfl
  · rw [doorbell_updHost]
    case width => exact fun _ => rfl
    case isolated => exact fun _ => rfl
    case asleep =>
      intro f
      rw [Tbl.get_set]
      split
      next same => rw [same]
      next => rfl

/-- A function's doorbell is seen as it stands, and its step leaves the other functions alone. -/
theorem dbSeen_dbStep (t : State) (i : Nat) :
    ((t.dbStep i).hostFn (i / 17) (i % 17)).dbSeen = t.doorbell (0x200 + 0x20 * (i / 17) + i % 17) := by
  unfold State.dbStep
  dsimp only
  split
  next seen => exact (beq_iff_eq.1 seen).symm
  next => rw [State.hostFn, hostPort_updHost_self, Tbl.get_set_self]

theorem hostFn_dbStep_other (t : State) {i h f : Nat} (other : ¬(h = i / 17 ∧ f = i % 17)) :
    (t.dbStep i).hostFn h f = t.hostFn h f := by
  unfold State.dbStep
  dsimp only
  split
  · rfl
  · by_cases port : h = i / 17
    · subst port
      rw [State.hostFn, hostPort_updHost_self, Tbl.get_set_other _ _ _ fun same => other ⟨rfl, same⟩]
    · rw [State.hostFn, hostPort_updHost_other _ _ _ port]

/-- The first `n` functions have their doorbells seen once their steps are made. -/
theorem dbSteps_seen (s : State) (n : Nat) :
    let t := (List.range n).foldl State.dbStep s
    (∀ code, t.doorbell code = s.doorbell code)
      ∧ ∀ i < n, (t.hostFn (i / 17) (i % 17)).dbSeen = s.doorbell (0x200 + 0x20 * (i / 17) + i % 17) := by
  induction n with
  | zero => exact ⟨fun _ => rfl, fun i hi => absurd hi (Nat.not_lt_zero i)⟩
  | succ n ih =>
    obtain ⟨same, seen⟩ := ih
    simp only [List.range_succ, List.foldl_append, List.foldl_cons, List.foldl_nil]
    refine ⟨fun code => (doorbell_dbStep ..).trans (same code), fun i hi => ?_⟩
    rcases Nat.lt_succ_iff_lt_or_eq.1 hi with before | rfl
    · rw [hostFn_dbStep_other _ (by omega)]
      exact seen i before
    · exact (dbSeen_dbStep ..).trans (same _)

theorem doorbell_dbBoard (t : State) (code : Nat) : t.dbBoard.doorbell code = t.doorbell code := by
  unfold State.dbBoard
  dsimp only
  split <;> rfl

theorem boardDbSeen_dbBoard (t : State) : t.dbBoard.pins.boardDbSeen = t.doorbell 0x300 := by
  unfold State.dbBoard
  dsimp only
  split
  next seen => exact (beq_iff_eq.1 seen).symm
  next => rfl

theorem dbBoard_beside (t : State) : t.dbBoard.err = t.err ∧ t.dbBoard.host = t.host := by
  unfold State.dbBoard
  dsimp only
  split <;> exact ⟨rfl, rfl⟩

theorem dbStep_err (t : State) (i : Nat) : (t.dbStep i).err = t.err := by
  unfold State.dbStep
  dsimp only
  split <;> rfl

theorem dbSettle_err (s : State) : s.dbSettle.err = s.err :=
  (dbBoard_beside _).1.trans (foldl_keeps State.err dbStep_err _ s)

/-- A command leaves a settled block. -/
theorem settle_settled (s : State) : s.settle.Settled := by
  obtain ⟨none, quiet⟩ := handled_quiet s
  obtain ⟨same, seen⟩ := dbSteps_seen s.handled 34
  rw [settle_eq]
  refine ⟨(congrArg ErrSt.queue (dbSettle_err _)).trans none, (congrArg ErrSt.injected (dbSettle_err _)).trans quiet,
    fun h hh f hf => ?_, ?_⟩
  · have place := seen (17 * h + f) (by omega)
    rw [show (17 * h + f) / 17 = h by omega, show (17 * h + f) % 17 = f by omega] at place
    rw [dbSettle_eq, doorbell_dbBoard, same, State.hostFn, State.hostPort, (dbBoard_beside _).2]
    exact place
  · rw [dbSettle_eq, doorbell_dbBoard, boardDbSeen_dbBoard]

/-- A settled block has nothing left to settle. -/
theorem settle_of_settled {s : State} (settled : s.Settled) : s.settle = s := by
  obtain ⟨none, quiet, functions, board⟩ := settled
  have steps : (List.range 34).foldl State.dbStep s = s := by
    refine List.foldlRecOn _ _ (motive := fun t => t = s) rfl fun t ht i hi => ?_
    subst ht
    have inRange := List.mem_range.1 hi
    exact if_pos (beq_iff_eq.2 (functions _ (by omega) _ (by omega)).symm)
  rw [settle_quiet none quiet, dbSettle_eq, steps]
  exact if_pos (beq_iff_eq.2 board.symm)

/-- Settles O1: `step` is this case split on the queue. -/
theorem stepRunsFrontCommand : Obligations.StepRunsFrontCommand :=
  ⟨fun c rest s front => by rw [step, front], fun s empty => by rw [step, empty]⟩

/-- Settles O2: every command is a `finish`, which keeps the queue, and a settled effect settles to itself. -/
theorem everyCommandAnswersNextState : Obligations.EveryCommandAnswersNextState := by
  refine ⟨fun c s => ?_, fun s e settled => ?_⟩
  · obtain ⟨e, answers⟩ := exec_eq_finish c s
    exact ⟨s.after e, answers, after_pending s e⟩
  · rw [State.after, settle_of_settled settled]

/-- Settles O4: an idle step changes nothing, and every other ends with `settle`. -/
theorem everyStepKeepsSettled : Obligations.EveryStepKeepsSettled := by
  intro s t settled stepped
  unfold step at stepped
  split at stepped
  next => cases stepped; exact settled
  next c rest _ =>
    obtain ⟨e, answers⟩ := exec_eq_finish c { s with pending := rest }
    cases answers.symm.trans stepped
    exact settle_settled e

end Sys2Proof.Machine

/-! Job rings, the link of a host port and mailboxes: the pointers by the side that owns them, training, the operations of a
channel at the end of their HK cycle, and the statement O52. -/

namespace Sys2Proof.Machine

/-! ## Register commands by what they put. -/

section RegisterCommands

variable {s t : State} {a : Agent} {r : Reg}

/-- A command that writes a register its agent may write answers with what the write leaves. -/
theorem regCmd_leaves {w : Width} {val : W64} (heard : s.mute a = false) (may : s.regCode a r true w = .okay)
    (puts : s.regPut a r w val = t) : finish s (s.regCmd a r w val) = .next (s.after (t.reply .okay 0)) :=
  finish_eq ((regCmd_okay heard may val).trans (by rw [puts]))

/-- A command that reads a whole register its agent may read answers with the value. -/
theorem regAsk_leaves {v : W64} (heard : s.mute a = false) (may : s.regCode a r false .full = .okay)
    (changes : s.regReadEffect a r .full = t) (shows : s.regVal a r = v) :
    finish s (s.regAsk a r .full) = .next (s.after (t.reply .okay v)) := by
  have whole : v &&& Width.mask .full = v := BitVec.and_allOnes
  exact finish_eq ((regAsk_okay heard may).trans (by rw [changes, shows, whole]))

end RegisterCommands

/-! ## Job rings (R424 to R428, R435). -/

section Rings

variable {s : State} {h f : Nat}

/-- A field of the half that a write covers takes the written bits, whatever the other half holds. -/
theorem field_merged {x keep mask val : W64} {hi lo : Nat} (apart : field keep.toNat hi lo = 0)
    (covered : field mask.toNat hi lo = 2 ^ (hi + 1 - lo) - 1) :
    field ((x &&& keep) ||| (val &&& mask)).toNat hi lo = field val.toNat hi lo := by
  rw [BitVec.toNat_or, BitVec.toNat_and, BitVec.toNat_and, field_or, field_and, field_and_ones covered, apart, Nat.and_zero,
    Nat.zero_or]

/-- The pointer that a write of the high half carries. -/
theorem field_hi_merged (a : Agent) (r : Reg) (v : BitVec 12) :
    field (s.regMerged a r .hi (v.setWidth 64 <<< 32)).toNat 43 32 = v.toNat := by
  have placed : field (v.setWidth 64 <<< 32 : W64).toNat 43 32 = v.toNat := by
    have bound := v.isLt
    simp only [field, BitVec.toNat_shiftLeft, BitVec.toNat_setWidth, Nat.shiftLeft_eq, Nat.shiftRight_eq_div_pow]
    omega
  exact (field_merged (by decide) (by decide)).trans placed

/-- The pointer that a write of the low half carries. -/
theorem field_lo_merged (a : Agent) (r : Reg) (v : BitVec 12) :
    field (s.regMerged a r .lo (v.setWidth 64)).toNat 11 0 = v.toNat := by
  have placed : field (v.setWidth 64 : W64).toNat 11 0 = v.toNat := by
    have bound := v.isLt
    simp only [field, BitVec.toNat_setWidth, Nat.shiftRight_eq_div_pow]
    omega
  exact (field_merged (by decide) (by decide)).trans placed

/-- A ring register of a function that has rings changes the function's record, its pointers taken as they stood before the HK
cycle. -/
theorem regPut_sqPtr_host (rings : s.fnRings h f = true) (b : HostId) (g : FnId) (v : BitVec 12) :
    s.regPut (.host b g) (.sqPtr h f) .hi (v.setWidth 64 <<< 32)
      = s.updFn h f fun _ => ((s.hostFn h f).atCycle s.time.hk).sqTailPut v.toNat := by
  simp only [State.regPut, State.fnPut, rings, field_hi_merged]
  rfl

theorem regPut_cqPtr_host (rings : s.fnRings h f = true) (b : HostId) (g : FnId) (v : BitVec 12) :
    s.regPut (.host b g) (.cqPtr h f) .hi (v.setWidth 64 <<< 32)
      = s.updFn h f fun _ => ((s.hostFn h f).atCycle s.time.hk).cqHeadPut v.toNat := by
  simp only [State.regPut, State.fnPut, rings, field_hi_merged]
  rfl

theorem regPut_sqPtr_firmware (rings : s.fnRings h f = true) {a : Agent} (firmware : ∀ b g, a ≠ .host b g) (v : BitVec 12) :
    s.regPut a (.sqPtr h f) .lo (v.setWidth 64)
      = s.updFn h f fun _ => ((s.hostFn h f).atCycle s.time.hk).sqHeadPut v.toNat := by
  simp only [State.regPut, State.fnPut, rings, field_lo_merged]
  cases a with
  | host b g => exact absurd rfl (firmware b g)
  | _ => rfl

theorem regPut_cqPtr_firmware (rings : s.fnRings h f = true) {a : Agent} (firmware : ∀ b g, a ≠ .host b g) (v : BitVec 12) :
    let x := (s.hostFn h f).atCycle s.time.hk
    s.regPut a (.cqPtr h f) .lo (v.setWidth 64)
      = s.updFn h f fun _ => x.cqTailPut v.toNat (s.hostUp h && !x.d3hot) := by
  simp only [State.regPut, State.fnPut, rings, field_lo_merged]
  cases a with
  | host b g => exact absurd rfl (firmware b g)
  | _ => rfl

theorem regPut_sqBase (rings : s.fnRings h f = true) (a : Agent) (val : W64) :
    s.regPut a (.sqBase h f) .full val = s.updFn h f fun _ => ((s.hostFn h f).atCycle s.time.hk).basePut false val := by
  simp only [State.regPut, State.fnPut, rings]
  rfl

theorem regPut_cqBase (rings : s.fnRings h f = true) (a : Agent) (val : W64) :
    s.regPut a (.cqBase h f) .full val = s.updFn h f fun _ => ((s.hostFn h f).atCycle s.time.hk).basePut true val := by
  simp only [State.regPut, State.fnPut, rings]
  rfl

/-- What a ring register's command answers where it leaves `y` of the function. -/
def State.ringAnswer (s : State) (h f : Nat) (y : HostFn) : Out := .next (s.after ((s.updFn h f fun _ => y).reply .okay 0))

theorem ringAnswer_ite (s : State) (h f : Nat) {p : Prop} [Decidable p] {x y z : HostFn} (puts : x = if p then y else z) :
    s.ringAnswer h f x = if p then s.ringAnswer h f y else s.ringAnswer h f z := by
  rw [puts, apply_ite (s.ringAnswer h f)]

/-! What each pointer takes, of a ring that is on (R427, R435). -/

section Pointers

variable {x : HostFn}

theorem sqTailPut_on (on : x.sqEn = true) (n : Nat) :
    x.sqTailPut n = if 2 ^ x.sqSize ≤ n ∨ 2 ^ x.sqSize ≤ ringStep (2 ^ x.sqSize) x.sqHead0 x.sqTail0
        + ringStep (2 ^ x.sqSize) x.sqTail0 n then { x with ptrReject := true }
      else { x with sqTail := n, db := true, tailNow := true } := by
  simp only [HostFn.sqTailPut, on]
  rfl

theorem sqHeadPut_on (on : x.sqEn = true) (n : Nat) :
    x.sqHeadPut n = if 2 ^ x.sqSize ≤ n ∨ ringStep (2 ^ x.sqSize) x.sqHead0 x.sqTail0 < ringStep (2 ^ x.sqSize) x.sqHead0 n
      then { x with ptrReject := true } else { x with sqHead := n } := by
  simp only [HostFn.sqHeadPut, on]
  rfl

theorem cqHeadPut_on (on : x.cqEn = true) (n : Nat) :
    x.cqHeadPut n = if 2 ^ x.cqSize ≤ n ∨ ringStep (2 ^ x.cqSize) x.cqHead0 x.cqTail0 < ringStep (2 ^ x.cqSize) x.cqHead0 n
      then { x with ptrReject := true } else { x with cqHead := n } := by
  simp only [HostFn.cqHeadPut, on]
  rfl

theorem cqTailPut_on (on : x.cqEn = true) (n : Nat) (up : Bool) :
    x.cqTailPut n (up && !x.d3hot) = if 2 ^ x.cqSize ≤ n ∨ 2 ^ x.cqSize ≤ ringStep (2 ^ x.cqSize) x.cqHead0 x.cqTail0
        + ringStep (2 ^ x.cqSize) x.cqTail0 n then { x with ptrReject := true }
      else { x with
        cqTail := n,
        phase := x.phase != decide (2 ^ x.cqSize ≤ x.cqTail + ringStep (2 ^ x.cqSize) x.cqTail n),
        sent0 := if ringStep (2 ^ x.cqSize) x.cqTail n ≠ 0 ∧ up = true ∧ x.d3hot = false ∧ x.mask0 = false
          then x.sent0 + 1 else x.sent0 } := by
  simp [HostFn.cqTailPut, on, and_assoc]

/-- A base write that turns a ring on starts it empty. -/
theorem basePut_sq_starts {val : W64} (low : 4 ≤ field val.toNat 3 0) (high : field val.toNat 3 0 ≤ 12)
    (en : val.getLsbD 4 = true) (off : x.sqEn = false) :
    x.basePut false val = { x with sqBase := field val.toNat 44 12 * 4096, sqSize := field val.toNat 3 0, sqEn := true,
                                   sqHead := 0, sqTail := 0, sqHead0 := 0, sqTail0 := 0 } := by
  have size : ¬(field val.toNat 3 0 < 4 ∨ 12 < field val.toNat 3 0) := by omega
  simp [HostFn.basePut, size, en, off]

theorem basePut_cq_starts {val : W64} (low : 4 ≤ field val.toNat 3 0) (high : field val.toNat 3 0 ≤ 12)
    (en : val.getLsbD 4 = true) (off : x.cqEn = false) :
    x.basePut true val = { x with cqBase := field val.toNat 44 12 * 4096, cqSize := field val.toNat 3 0, cqEn := true,
                                  cqHead := 0, cqTail := 0, cqHead0 := 0, cqTail0 := 0, phase := true } := by
  have size : ¬(field val.toNat 3 0 < 4 ∨ 12 < field val.toNat 3 0) := by omega
  simp [HostFn.basePut, size, en, off]

end Pointers

end Rings

/-! ## The link of a host port (R411 to R414, R418, R432). -/

section HostLink

variable {s : State} {h : Nat}

theorem hostTrain_free (enabled : s.hostEnabled h = true) (isolated : (s.hostPort h).isolated = false)
    (halted : s.boot.halted = false) (width rate : Nat) :
    let w := ([16, 8, 4].find? fun x => decide (x ≤ width ∧ x ≤ (s.cfg.hostOf h).maxWidth)).getD 0
    let r := ([64, 32, 16].find? fun x => decide (x ≤ rate ∧ x ≤ (s.cfg.hostOf h).maxRate)).getD 0
    s.hostTrain h width rate = s.updHost h fun p =>
      if w = 0 ∨ r = 0 then { p with trainFail := true, width := 0, rate := 0, ideUp := false }
      else { p with width := w, rate := rateCode r, ideUp := false } :=
  if_neg (by simp [enabled, isolated, halted])

theorem hostLinkDown_up (up : s.hostUp h = true) :
    s.hostLinkDown h = ((s.markOff (0x21F + 0x20 * h)).updHost h fun p =>
      { p with width := 0, rate := 0, ideUp := false }).raise 0x2A (0x480 + h) 0 0 := by
  rw [State.hostLinkDown, if_pos up, State.hostDown, if_pos up]

/-- A write of the host's configuration space acts on a link that is up. -/
theorem exec_hostConfigWrite {h : HostId} {c : HostCfg} {t : State} (up : s.hostUp h.val = true)
    (acts : s.hostUp h.val = true → s.hostConfig h.val c = t) : exec (.hostConfigWrite h c) s = .next (s.after t) :=
  finish_eq (acts up)

end HostLink

/-! ## Mailboxes (R430, R431, R433). -/

section Mailboxes

variable {s : State} {a : Agent} {c : Nat}

theorem mbxWrite_sender (sends : (s.cfg.mbxOf c).sender = a.code) (w : Nat) (keep val : W64) :
    s.mbxWrite a.code c w keep val = s.mbxArrive c (.write w keep val) := if_neg (not_not_intro sends)

theorem mbxPost_sender (sends : (s.cfg.mbxOf c).sender = a.code) {val : W64} (post : val.getLsbD 0 = true) :
    s.mbxPost a.code c val = if s.appliedUnit 0x493 then s else s.mbxArrive c (.post a.code) := by
  simp only [State.mbxPost, sends, post]
  simp

theorem mbxTake_receiver (receives : (s.cfg.mbxOf c).receiver = a.code) (full : (s.mbxAt c).full = true) :
    s.mbxTake a.code c = ((s.mbxAt c).word 0, s.mbxArrive c .take) := by
  simp [State.mbxTake, receives, full]

theorem mbxTake_nothing (none : (s.cfg.mbxOf c).receiver ≠ a.code ∨ (s.mbxAt c).full = false) :
    s.mbxTake a.code c = (0, s) := if_pos (none.imp_right fun empty => by simp [empty])

/-- The end of an HK cycle applies the operations of the one channel that has any. -/
theorem mbxTick_one {x : Mbx} (only : s.mbx = [(c, x)]) (some : x.ops ≠ []) : s.mbxTick.mbxAt c = x.tick := by
  have named : s.mbxAt c = x := by simp [State.mbxAt, only, Tbl.get]
  have asked : (s.mbx.filter fun e => !e.2.ops.isEmpty) = [(c, x)] := by
    rw [only]
    exact List.filter_cons_of_pos (by simpa using some)
  rw [State.mbxTick, asked, List.foldl_cons, List.foldl_nil, mbxAt_updMbx_self, named]

/-- The operations of an HK cycle in the order in which they apply (R433). -/
theorem tick_eq (y : Mbx) : y.tick = ((y.ops.filter fun o => o.rank == 0) ++ (y.ops.filter fun o => o.rank == 1)
    ++ (y.ops.filter fun o => o.rank == 2) ++ (y.ops.filter fun o => o.rank == 3)).foldl (Mbx.apply y.full)
      { y with ops := [] } := by
  simp [Mbx.tick, List.range_succ]

theorem tick_one {y : Mbx} {op : MbxOp} (ops : y.ops = [op]) : y.tick = Mbx.apply y.full { y with ops := [] } op := by
  rw [tick_eq, ops]
  cases op <;> rfl

/-- TAKE comes last, whenever it was made. -/
theorem tick_take {y : Mbx} {op : MbxOp} (ops : y.ops = [.take, op]) (early : op.rank < 3) :
    y.tick = Mbx.apply y.full (Mbx.apply y.full { y with ops := [] } op) .take := by
  rw [tick_eq, ops]
  cases op with
  | take => exact absurd early (by decide)
  | _ => rfl

end Mailboxes

/-- Settles O52: a ring's pointers are the laws of their registers, on the record `HostFn.atCycle` gives; the link is told by the
laws of its events; and a channel's operations are those of `tick_one` and `tick_take`. -/
theorem hostRingsLinksAndMailboxesAct : Obligations.HostRingsLinksAndMailboxesAct := by
  intro a h s heard
  refine ⟨fun f v rings => ⟨?sqTail, ?sqHead, ?cqTail, ?cqHead, fun val low high en => ⟨?sqBase, ?cqBase⟩⟩,
    fun width rate enabled free running => finish_eq (hostTrain_free enabled free running width rate),
    fun up => ⟨finish_eq (if_pos up), fun st secured => finish_eq (if_pos (by simp [up, secured])),
      finish_eq (hostLinkDown_up up), ?config⟩,
    fun c val => ⟨fun w may => ⟨?notSender, ?word⟩, ?post, fun may => ⟨?take, ?nothing⟩,
      fun only some => mbxTick_one only some, fun y k w keep v => ⟨?posts, ?takes, ?takesThenPosts, ?writes, ?takesThenWrites⟩,
      fun t may => regCmd_leaves heard may rfl⟩⟩
  case sqTail =>
    rintro ⟨b, g, rfl⟩ may on
    exact (regCmd_leaves heard may (regPut_sqPtr_host rings b g v)).trans (ringAnswer_ite s h.val f.val (sqTailPut_on on v.toNat))
  case sqHead =>
    intro firmware may on
    exact (regCmd_leaves heard may (regPut_sqPtr_firmware rings firmware v)).trans (ringAnswer_ite s h.val f.val (sqHeadPut_on on v.toNat))
  case cqTail =>
    intro firmware may on
    exact (regCmd_leaves heard may (regPut_cqPtr_firmware rings firmware v)).trans (ringAnswer_ite s h.val f.val (cqTailPut_on on v.toNat _))
  case cqHead =>
    rintro ⟨b, g, rfl⟩ may on
    exact (regCmd_leaves heard may (regPut_cqPtr_host rings b g v)).trans (ringAnswer_ite s h.val f.val (cqHeadPut_on on v.toNat))
  case sqBase =>
    intro may off
    exact (regCmd_leaves heard may (regPut_sqBase rings a val)).trans
      (congrArg (s.ringAnswer h.val f.val) (basePut_sq_starts low high en off))
  case cqBase =>
    intro may off
    exact (regCmd_leaves heard may (regPut_cqBase rings a val)).trans
      (congrArg (s.ringAnswer h.val f.val) (basePut_cq_starts low high en off))
  case config =>
    refine ⟨fun f on => ?_, fun base => ?_, fun on => ?_, fun n => ?_, fun lo hi on => ?_, fun f on => ⟨?_, ?_⟩⟩
    all_goals exact exec_hostConfigWrite up fun up => if_neg (by simp [up])
  case notSender => exact fun other => regCmd_leaves heard may (if_pos other)
  case word => exact fun sends => regCmd_leaves heard may (mbxWrite_sender sends ..)
  case post =>
    intro may sends post
    exact regCmd_leaves heard may (mbxPost_sender sends post)
  case take =>
    intro receives full
    have takes := mbxTake_receiver receives full
    exact regAsk_leaves heard may (congrArg Prod.snd takes) (congrArg Prod.fst takes)
  case nothing =>
    intro none
    have takes := mbxTake_nothing none
    exact regAsk_leaves heard may (congrArg Prod.snd takes) (congrArg Prod.fst takes)
  case posts => exact fun ops => tick_one ops
  case takes => exact fun ops => tick_one ops
  case takesThenPosts =>
    intro ops full
    rw [tick_take ops (by simp [MbxOp.rank]), full]
    rfl
  case writes =>
    intro ops data
    rw [tick_one ops]
    simp only [Mbx.apply, data]
    rfl
  case takesThenWrites =>
    intro ops full
    rw [tick_take ops (by simp [MbxOp.rank]), full]
    rfl

end Sys2Proof.Machine

/-! Packets and flits as bytes, and the errors that a link port counts: the laws of their layouts. -/

namespace Sys2Proof.Machine

/-! ## Numbers as bytes (R8). -/

theorem bytesToNat_natToBytes (v n : Nat) : bytesToNat (natToBytes v n) = v % 256 ^ n := by
  induction n generalizing v with
  | zero => exact (Nat.mod_one v).symm
  | succ n ih =>
    calc (BitVec.ofNat 8 v).toNat + 256 * bytesToNat (natToBytes (v / 256) n)
        = v % 256 + 256 * (v / 256 % 256 ^ n) := by rw [ih, BitVec.toNat_ofNat]
      _ = v % 256 ^ (n + 1) := by rw [pow_succ', Nat.mod_mul]

/-- A number is read back where it stands. -/
theorem le_natToBytes (v n : Nat) (r : List Byte) : le (natToBytes v n ++ r) 0 n = v % 256 ^ n := by
  rw [le, List.drop_zero, List.take_left' (length_natToBytes v n), bytesToNat_natToBytes]

theorem le_append_right {a : List Byte} {o : Nat} (past : a.length ≤ o) (r : List Byte) (n : Nat) :
    le (a ++ r) o n = le r (o - a.length) n := by
  rw [le, List.drop_append, List.drop_eq_nil_of_le past, List.nil_append, le]

theorem le_append_left {a : List Byte} {o n : Nat} (within : o + n ≤ a.length) (r : List Byte) : le (a ++ r) o n = le a o n := by
  rw [le, List.drop_append_of_le_length (by omega), List.take_append_of_le_length (by rw [List.length_drop]; omega), le]

/-- A field of bytes past a number. -/
theorem le_past_natToBytes {n o : Nat} (past : n ≤ o) (v : Nat) (r : List Byte) (m : Nat) :
    le (natToBytes v n ++ r) o m = le r (o - n) m := by
  rw [le_append_right (by rw [length_natToBytes]; exact past), length_natToBytes]

theorem length_padTo {n : Nat} {bs : List Byte} (fits : bs.length ≤ n) : (padTo n bs).length = n := by
  rw [padTo, List.length_append, List.length_take, List.length_replicate]
  omega

theorem take_padTo {n : Nat} {bs : List Byte} (fits : bs.length ≤ n) : (padTo n bs).take bs.length = bs := by
  rw [padTo, List.take_of_length_le fits, List.take_left]

/-! ## Packets (R442). -/

/-- The 32 bytes of a packet's header. -/
def packetHead (k : Packet) : List Byte :=
  natToBytes (k.op + 32) 1 ++ natToBytes (k.vc + 4 * b2n k.ece + 8 * b2n k.poison) 1 ++ natToBytes k.src.val 1
    ++ natToBytes k.dst.val 1 ++ natToBytes k.part 1 ++ natToBytes k.hops 1 ++ natToBytes k.len 2 ++ natToBytes k.psn 4
    ++ natToBytes k.tag 4 ++ natToBytes k.addr 8 ++ natToBytes k.attr 4 ++ natToBytes 0 4

theorem packetBytes_eq (k : Packet) : packetBytes k = packetHead k ++ padTo ((k.data.length + 15) / 16 * 16) k.data := rfl

theorem length_packetHead (k : Packet) : (packetHead k).length = 32 := by
  simp only [packetHead, List.length_append, length_natToBytes]

/-- The fields of a header, each where R442 puts it. -/
theorem le_packetHead (k : Packet) :
    let b := packetHead k
    le b 0 1 = (k.op + 32) % 256 ∧ le b 1 1 = (k.vc + 4 * b2n k.ece + 8 * b2n k.poison) % 256 ∧ le b 2 1 = k.src.val % 256
      ∧ le b 3 1 = k.dst.val % 256 ∧ le b 4 1 = k.part % 256 ∧ le b 5 1 = k.hops % 256 ∧ le b 6 2 = k.len % 65536
      ∧ le b 8 4 = k.psn % 2 ^ 32 ∧ le b 12 4 = k.tag % 2 ^ 32 ∧ le b 16 8 = k.addr % 2 ^ 64 ∧ le b 24 4 = k.attr % 2 ^ 32
      ∧ le b 28 4 = 0 := by
  have last : le (natToBytes 0 4) 0 4 = 0 := rfl
  simp [packetHead, List.append_assoc, le_past_natToBytes, le_natToBytes, last]

/-- The flag bits beside a virtual channel. -/
theorem vcFlags : ∀ vc < 4, ∀ ece poison : Bool,
    let v := vc + 4 * b2n ece + 8 * b2n poison
    v < 16 ∧ v % 4 = vc ∧ bitOf v 2 = ece ∧ bitOf v 3 = poison := by decide

section PacketRead

variable {k : Packet}

/-- A packet whose fields are in their ranges (R442). -/
structure PacketInRange (k : Packet) : Prop where
  listed : opListed k.op = true
  vc : k.vc < 4
  part : k.part ≤ 16
  hops : k.hops ≤ 3
  len : k.len ≤ 4096
  psn : k.psn < 2 ^ 24
  tag : k.tag < 2 ^ 32
  addr : k.addr < 2 ^ 52
  attr : k.attr < 2 ^ 32
  data : k.data.length = if opData k.op then k.len else 0

theorem op_lt_of_listed {op : Nat} (listed : opListed op = true) : op < 32 := by
  simp [opListed] at listed
  omega

/-- Bytes that hold the fields of a packet in range are read as that packet. -/
theorem packetOf_eq {b : List Byte} (ok : PacketInRange k) (f0 : le b 0 1 = k.op + 32)
    (f1 : le b 1 1 = k.vc + 4 * b2n k.ece + 8 * b2n k.poison) (f2 : le b 2 1 = k.src.val) (f3 : le b 3 1 = k.dst.val)
    (f4 : le b 4 1 = k.part) (f5 : le b 5 1 = k.hops) (f6 : le b 6 2 = k.len) (f8 : le b 8 4 = k.psn) (f12 : le b 12 4 = k.tag)
    (f16 : le b 16 8 = k.addr) (f24 : le b 24 4 = k.attr) (f28 : le b 28 4 = 0)
    (body : (if opData k.op then (b.drop 32).take k.len else []) = k.data) : packetOf b = some k := by
  have op : (k.op + 32) % 32 = k.op := by rw [Nat.add_mod_right, Nat.mod_eq_of_lt (op_lt_of_listed ok.listed)]
  have version : (k.op + 32) / 32 = 1 := by have := op_lt_of_listed ok.listed; omega
  obtain ⟨small, low, ece, poison⟩ := vcFlags k.vc ok.vc k.ece k.poison
  simp only [packetOf, f0, f1, f2, f3, f4, f5, f6, f8, f12, f16, f24, f28, op, low, ece, poison, body, Fin.ofNat_val_eq_self]
  exact if_pos ⟨version, ok.listed, small, k.src.isLt, k.dst.isLt, ok.part, ok.hops, ok.len, ok.psn, ok.addr, trivial⟩

/-- A packet in range is read back from its bytes. -/
theorem packetOf_packetBytes (ok : PacketInRange k) : packetOf (packetBytes k) = some k := by
  obtain ⟨f0, f1, f2, f3, f4, f5, f6, f8, f12, f16, f24, f28⟩ := le_packetHead k
  have head {o n v : Nat} (within : o + n ≤ 32) (field : le (packetHead k) o n = v) : le (packetBytes k) o n = v := by
    rw [packetBytes_eq, le_append_left (by rw [length_packetHead]; exact within), field]
  have op := op_lt_of_listed ok.listed
  have small := (vcFlags k.vc ok.vc k.ece k.poison).1
  have ⟨part, hops, len, psn, tag, addr, attr⟩ :=
    (⟨ok.part, ok.hops, ok.len, ok.psn, ok.tag, ok.addr, ok.attr⟩ : _ ∧ _ ∧ _ ∧ _ ∧ _ ∧ _ ∧ _)
  have src := k.src.isLt
  have dst := k.dst.isLt
  refine packetOf_eq ok (head (by decide) (f0.trans ?_)) (head (by decide) (f1.trans ?_)) (head (by decide) (f2.trans ?_))
    (head (by decide) (f3.trans ?_)) (head (by decide) (f4.trans ?_)) (head (by decide) (f5.trans ?_))
    (head (by decide) (f6.trans ?_)) (head (by decide) (f8.trans ?_)) (head (by decide) (f12.trans ?_))
    (head (by decide) (f16.trans ?_)) (head (by decide) (f24.trans ?_)) (head (by decide) f28) ?body
  case body =>
    rw [packetBytes_eq, List.drop_left' (length_packetHead k)]
    split
    next has =>
      have whole : k.data.length = k.len := ok.data.trans (if_pos has)
      rw [← whole, take_padTo (by omega)]
    next hasNot => exact (List.length_eq_zero_iff.1 (ok.data.trans (if_neg hasNot))).symm
  all_goals exact Nat.mod_eq_of_lt (by omega)

end PacketRead

/-! ## Flits (R438). -/

section Flits

variable (fseq ack : BitVec 12) (nak : Bool) (credit : List Nat) (ctl lane : Nat) {slots : List Byte}

/-- The credits of the four virtual channels, 12 bits each. -/
def creditWord (credit : List Nat) : Nat := (List.range 4).foldl (fun a v => a + credit.getD v 0 * 2 ^ (12 * v)) 0

/-- The 12 bytes of a flit's header before its CRC. -/
def flitHead : List Byte :=
  natToBytes fseq.toNat 2 ++ natToBytes (ack.toNat + 0x8000 * b2n nak) 2 ++ natToBytes (creditWord credit) 6
    ++ natToBytes (ctl + 16 * lane) 2

theorem flitBytes_eq (slots : List Byte) : flitBytes fseq ack nak credit ctl lane slots
    = flitHead fseq ack nak credit ctl lane
      ++ (natToBytes (crc32c (flitHead fseq ack nak credit ctl lane ++ padTo 416 slots)) 4 ++ padTo 416 slots) :=
  List.append_assoc ..

theorem length_flitHead : (flitHead fseq ack nak credit ctl lane).length = 12 := by
  simp only [flitHead, List.length_append, length_natToBytes]

theorem length_flitBytes (fits : slots.length ≤ 416) : (flitBytes fseq ack nak credit ctl lane slots).length = 432 := by
  simp only [flitBytes_eq, List.length_append, length_flitHead, length_natToBytes, length_padTo fits]

theorem crc32c_lt (bs : List Byte) : crc32c bs < 2 ^ 32 := BitVec.isLt _

/-- A flit passes its own CRC. -/
theorem flitGood_flitBytes (fits : slots.length ≤ 416) : flitGood (flitBytes fseq ack nak credit ctl lane slots) = true := by
  have head := length_flitHead fseq ack nak credit ctl lane
  have crc : le (flitBytes fseq ack nak credit ctl lane slots) 12 4
      = crc32c (flitHead fseq ack nak credit ctl lane ++ padTo 416 slots) := by
    rw [flitBytes_eq, le_append_right head.le, head, le_natToBytes]
    exact Nat.mod_eq_of_lt (crc32c_lt _)
  have covered : (flitBytes fseq ack nak credit ctl lane slots).take 12 ++ (flitBytes fseq ack nak credit ctl lane slots).drop 16
      = flitHead fseq ack nak credit ctl lane ++ padTo 416 slots := by
    rw [flitBytes_eq, List.take_left' head, ← List.append_assoc,
      List.drop_left' (by rw [List.length_append, head, length_natToBytes])]
  rw [flitGood, length_flitBytes _ _ _ _ _ _ fits, crc, covered]
  simp

/-- The fields of a flit's header, each where R438 puts it. -/
theorem le_flitHead {f : List Byte} (rest : List Byte) (starts : f = flitHead fseq ack nak credit ctl lane ++ rest) :
    le f 0 2 = fseq.toNat % 65536 ∧ le f 2 2 = (ack.toNat + 0x8000 * b2n nak) % 65536 ∧ le f 4 6 = creditWord credit % 2 ^ 48
      ∧ le f 10 2 = (ctl + 16 * lane) % 65536 := by
  subst starts
  refine ⟨?_, ?_, ?_, ?_⟩
  all_goals simp only [flitHead, List.append_assoc, le_past_natToBytes, le_natToBytes, Nat.reduceLeDiff, Nat.reduceSub,
    Nat.reducePow]

variable {credit}

theorem sum_range_four (f : Nat → Nat) : (List.range 4).foldl (fun a v => a + f v) 0 = 0 + f 0 + f 1 + f 2 + f 3 := rfl

/-- The credits of a virtual channel are read back from the word of all four. -/
theorem field_creditWord (small : ∀ v < 4, credit.getD v 0 < 4096) {v : Nat} (hv : v < 4) :
    field (creditWord credit % 2 ^ 48) (12 * v + 11) (12 * v) = credit.getD v 0 := by
  have sum : creditWord credit = 0 + credit.getD 0 0 * 2 ^ (12 * 0) + credit.getD 1 0 * 2 ^ (12 * 1)
      + credit.getD 2 0 * 2 ^ (12 * 2) + credit.getD 3 0 * 2 ^ (12 * 3) :=
    sum_range_four fun v => credit.getD v 0 * 2 ^ (12 * v)
  have c0 := small 0 (by decide)
  have c1 := small 1 (by decide)
  have c2 := small 2 (by decide)
  have c3 := small 3 (by decide)
  rw [sum, field, Nat.shiftRight_eq_div_pow]
  interval_cases v
  all_goals
    simp only [Nat.reduceMul, Nat.reduceAdd, Nat.reduceSub, Nat.reducePow]
    omega

theorem flitCredit_flitBytes (small : ∀ v < 4, credit.getD v 0 < 4096) (slots : List Byte) {v : Nat} (hv : v < 4) :
    flitCredit (flitBytes fseq ack nak credit ctl lane slots) v = credit.getD v 0 := by
  obtain ⟨-, -, word, -⟩ := le_flitHead fseq ack nak credit ctl lane _ (flitBytes_eq fseq ack nak credit ctl lane slots)
  rw [flitCredit, word, field_creditWord small hv]

/-- The slots follow the header. -/
theorem slots_flitBytes (fits : slots.length ≤ 416) :
    ((flitBytes fseq ack nak credit ctl lane slots).drop 16).take slots.length = slots := by
  rw [flitBytes_eq, ← List.append_assoc, List.drop_left' (by rw [List.length_append, length_flitHead, length_natToBytes]),
    take_padTo fits]

end Flits

/-! ## What counting leaves alone (R461, R513). -/

section Counts

variable (s : State)

/-- The state but for the error unit. -/
def State.besideErr (s : State) : State := { s with err := ErrSt.init }

@[simp] theorem raise_besideErr (d u a i : Nat) : (s.raise d u a i).besideErr = s.besideErr := rfl
@[simp] theorem updErr_besideErr (f : ErrSt → ErrSt) : (s.updErr f).besideErr = s.besideErr := rfl

@[simp] theorem addPmc_besideErr (u i k : Nat) : (s.addPmc u i k).besideErr = s.besideErr := by
  simp only [State.addPmc]
  split
  · split <;> rfl
  · rfl

@[simp] theorem countBy_besideErr (u ev k : Nat) : (s.countBy u ev k).besideErr = s.besideErr := by
  unfold State.countBy
  split
  · rfl
  · refine foldl_keeps State.besideErr (fun t i => ?_) _ _
    dsimp only
    split
    · exact addPmc_besideErr ..
    · rfl

@[simp] theorem count_besideErr (u ev : Nat) : (s.count u ev).besideErr = s.besideErr := countBy_besideErr ..

@[simp] theorem satCount_besideErr (old u i : Nat) : (s.satCount old u i).2.besideErr = s.besideErr := by
  unfold State.satCount
  dsimp only
  split <;> rfl

@[simp] theorem countBy_link (u ev k : Nat) : (s.countBy u ev k).link = s.link :=
  (congrArg State.link (countBy_besideErr s u ev k) :)

@[simp] theorem countBy_shape (u ev k : Nat) : (s.countBy u ev k).shape = s.shape :=
  (congrArg State.shape (countBy_besideErr s u ev k) :)

@[simp] theorem countBy_grp (u ev k : Nat) : (s.countBy u ev k).grp = s.grp :=
  (congrArg State.grp (countBy_besideErr s u ev k) :)

@[simp] theorem countBy_time (u ev k : Nat) : (s.countBy u ev k).time = s.time :=
  (congrArg State.time (countBy_besideErr s u ev k) :)

end Counts

end Sys2Proof.Machine

/-! Link ports: what a port sends, what a flit that arrives changes, replays, lanes and training, and the statement O53. -/

namespace Sys2Proof.Tbl

/-- A change of the entries that a list names, each once and each by its own function. -/
theorem get_foldl_updAt {α : Type} [DecidableEq α] (d : α) (f : Nat → α → α) {l : List Nat} (once : l.Nodup) (t : Tbl α)
    (k : Nat) : get d (l.foldl (fun t p => upd d t p (f p)) t) k = if k ∈ l then f k (get d t k) else get d t k := by
  induction l generalizing t with
  | nil => simp
  | cons p l ih =>
    obtain ⟨fresh, once⟩ := List.nodup_cons.1 once
    rw [List.foldl_cons, ih once]
    by_cases same : k = p
    · subst same
      simp [fresh]
    · simp [same, get_upd_other d t (f p) same]

end Sys2Proof.Tbl

namespace Sys2Proof.Machine

/-! ## What a port sends (R438 to R440). -/

section Sending

variable (x : LinkPort)

/-- The port but for what sending changes. -/
def LinkPort.besideSend : LinkPort :=
  { x with replay := [], txSeq := 0, nak := false, ctl := 0, fifo := 0, credOwed := [], txq := [], credUsed := [], frame := [] }

/-- An Umbale port once it has sent every packet that may leave, or the flit of zero slots that a NAK or a control code asks
for. -/
def LinkPort.pumped : LinkPort :=
  let r := x.leaving
  let bytes := r.go.flatMap fun o => packetBytes o.pkt
  let n := if r.go.isEmpty then (if (x.nak || x.ctl != 0) && decide (0 < x.flitRoom) then 1 else 0) else (r.size + 415) / 416
  (List.range n).foldl (fun y i => y.sendFlit y.credNow ((bytes.drop (416 * i)).take 416))
    { x with txq := r.stay, credUsed := r.used }

theorem credOwed_sendFlit (credit : List Nat) (slots : List Byte) {v : Nat} (hv : v < 4) :
    Tbl.get 0 (x.sendFlit credit slots).credOwed v = Tbl.get 0 x.credOwed v - credit.getD v 0 := by
  refine (Tbl.get_foldl_updAt 0 (fun v => (· - credit.getD v 0)) List.nodup_range _ _).trans ?_
  rw [if_pos (List.mem_range.2 hv)]

theorem besideSend_foldl_sendFlit {α : Type} (credit : LinkPort → α → List Nat) (slots : α → List Byte) (l : List α) :
    (l.foldl (fun y i => y.sendFlit (credit y i) (slots i)) x).besideSend = x.besideSend :=
  foldl_keeps (f := fun y i => y.sendFlit (credit y i) (slots i)) LinkPort.besideSend (fun _ _ => rfl) l x

theorem besideSend_pumped : x.pumped.besideSend = x.besideSend :=
  besideSend_foldl_sendFlit { x with txq := x.leaving.stay, credUsed := x.leaving.used } (fun y _ => y.credNow) ..

/-- A packet that leaves is 32 bytes or more. -/
theorem leaving_size : x.leaving.go = [] ∨ 32 ≤ x.leaving.size := by
  unfold LinkPort.leaving
  refine List.foldlRecOn _ _ (motive := fun r : Leaving => r.go = [] ∨ 32 ≤ r.size) (.inl rfl) fun r hr o _ => ?_
  dsimp only
  split
  · exact .inr (by simp only [Packet.size]; omega)
  · exact hr

theorem replay_sendFlit (credit : List Nat) (slots : List Byte) :
    (x.sendFlit credit slots).replay.length = x.replay.length + 1 := List.length_append

/-- Flits that are sent wait in the replay buffer, and the first one carries the NAK. -/
theorem foldl_sendFlit_nak (credit : LinkPort → Nat → List Nat) (slots : Nat → List Byte) (n : Nat) :
    let y := (List.range n).foldl (fun y i => y.sendFlit (credit y i) (slots i)) x
    y.replay.length = x.replay.length + n ∧ (0 < n → y.nak = false) := by
  induction n with
  | zero => exact ⟨rfl, fun h => absurd h (Nat.lt_irrefl 0)⟩
  | succ n ih =>
    simp only [List.range_succ, List.foldl_append, List.foldl_cons, List.foldl_nil]
    exact ⟨(replay_sendFlit ..).trans (congrArg (· + 1) ih.1), fun _ => rfl⟩

variable {x}

/-- A NAK that waits leaves at once where a flit has room. -/
theorem pumped_nak (nak : x.nak = true) (room : 0 < x.flitRoom) :
    x.pumped.nak = false ∧ x.replay.length < x.pumped.replay.length := by
  have some : 0 < (if x.leaving.go.isEmpty then (if (x.nak || x.ctl != 0) && decide (0 < x.flitRoom) then 1 else 0)
      else (x.leaving.size + 415) / 416) := by
    rcases leaving_size x with none | size
    · simp [none, nak, room]
    · split
      · simp [nak, room]
      · omega
  obtain ⟨length, sent⟩ := foldl_sendFlit_nak { x with txq := x.leaving.stay, credUsed := x.leaving.used } (fun y _ => y.credNow)
    (fun i => ((x.leaving.go.flatMap fun o => packetBytes o.pkt).drop (416 * i)).take 416)
    (if x.leaving.go.isEmpty then (if (x.nak || x.ctl != 0) && decide (0 < x.flitRoom) then 1 else 0)
      else (x.leaving.size + 415) / 416)
  exact ⟨sent some, (Nat.lt_add_of_pos_right some).trans_eq length.symm⟩

/-- A port with nothing to send, and no NAK or control code that waits, sends nothing. -/
theorem pumped_idle (txq : x.txq = []) (nak : x.nak = false) (ctl : x.ctl = 0) : x.pumped = x := by
  have leaving : x.leaving = ⟨[], [], x.credUsed, 0, 0⟩ := by rw [LinkPort.leaving, txq]; rfl
  have quiet : (x.nak || x.ctl != 0) = false := by simp [nak, ctl]
  have stays : ({ x with txq := [], credUsed := x.credUsed } : LinkPort) = x := by rw [← txq]
  simp only [LinkPort.pumped, leaving, quiet]
  exact stays

end Sending

section Pump

variable (s : State) (p : Nat)

theorem pump_port_umbale (umbale : s.linkMode p = 1) : (s.pump p).port p = (s.port p).pumped := by
  rw [State.pump, if_pos umbale]
  simp only [State.pumpFlits, State.port, countBy_link]
  exact port_updPort_self ..

/-- Sending leaves everything else of the port as it is, in either mode. -/
theorem pump_besideSend : ((s.pump p).port p).besideSend = (s.port p).besideSend := by
  unfold State.pump
  split
  next umbale =>
    have port := pump_port_umbale s p umbale
    rw [State.pump, if_pos umbale] at port
    rw [port, besideSend_pumped]
  next =>
    simp only [State.pumpFrames, State.port, countBy_link]
    exact (congrArg LinkPort.besideSend (port_updPort_self s p _) :)

variable {s p} in
/-- A change of a port is what it makes of the port. -/
theorem updPort_congr {f g : LinkPort → LinkPort} (same : f (s.port p) = g (s.port p)) : s.updPort p f = s.updPort p g :=
  congrArg (fun x => { s with link := Tbl.set LinkPort.off s.link p x }) same

theorem linkCount_port (get : LinkPort → Nat) (set : LinkPort → Nat → LinkPort) :
    (s.linkCount p get set).port p = set (s.port p) (min (get (s.port p) + 1) 0xFFFF) := by
  have link : (s.satCount (get (s.port p)) (0x460 + p) 0x20).2.link = s.link :=
    (congrArg State.link (satCount_besideErr ..) :)
  rw [State.linkCount, port_updPort_self, State.port, link]
  rfl

@[simp] theorem linkCount_shape (get : LinkPort → Nat) (set : LinkPort → Nat → LinkPort) :
    (s.linkCount p get set).shape = s.shape :=
  (congrArg State.shape (satCount_besideErr s (get (s.port p)) (0x460 + p) 0x20) :)

end Pump

/-! ## A link that goes down, and a lane that is dropped (R440, R441). -/

section Down

variable {s : State} {p : Nat}

/-- A port that has lost its link holds nothing of what it carried. -/
def LinkPort.downed (x : LinkPort) : LinkPort :=
  { x with st := .down, lanes := 0, nak := false, discard := false, rxPart := [], replayDue := false, replayed := false, fails := 0,
           ctl := 0, replay := [], fifo := 0, txq := [], credUsed := [], rxq := [], credOwed := [], paused := 0, xoff := 0,
           laneFix := [] }

theorem linkDown_eq (able : (s.port p).st ≠ .disabled) (held : (s.port p).st ≠ .down) :
    s.linkDown p = (s.updPort p LinkPort.downed).raise 0x23 (0x460 + p) 0 (s.port p).peerBlock :=
  if_neg (not_or.2 ⟨able, held⟩)

theorem linkDown_port (able : (s.port p).st ≠ .disabled) (held : (s.port p).st ≠ .down) :
    (s.linkDown p).port p = (s.port p).downed := by
  rw [linkDown_eq able held]
  exact port_updPort_self ..

theorem linkDown_st (able : (s.port p).st ≠ .disabled) (held : (s.port p).st ≠ .down) : ((s.linkDown p).port p).st = .down := by
  rw [linkDown_port able held]
  rfl

/-- The port once a lane is taken out of service. -/
def LinkPort.dropped (x : LinkPort) (lane : Nat) : LinkPort :=
  let bit := BitVec.ofNat 8 (2 ^ lane)
  { x with retired := x.retired ||| bit, lanes := x.lanes &&& ~~~bit, replayDue := !x.replay.isEmpty,
           laneFix := Tbl.set 0 x.laneFix lane 0 }

/-- Dropping a lane leaves the port without it, or without its link. -/
theorem dropLane_port (up : (s.port p).st = .up) (lane : Nat) :
    (s.dropLane p lane).port p = (s.port p).dropped lane ∨ (s.dropLane p lane).port p = ((s.port p).dropped lane).downed := by
  have port : (s.updPort p (·.dropped lane)).port p = (s.port p).dropped lane := port_updPort_self ..
  unfold State.dropLane
  dsimp only
  split
  · have st : ((s.updPort p (·.dropped lane)).port p).st = .up := by rw [port]; exact up
    refine .inr ((linkDown_port (s := (s.updPort p (·.dropped lane)).raise 0x22 (0x460 + p) 0 lane) ?_ ?_).trans ?_)
    · exact fun h => LinkRun.noConfusion (st.symm.trans h)
    · exact fun h => LinkRun.noConfusion (st.symm.trans h)
    · exact congrArg LinkPort.downed port
  · exact .inl port

theorem getLsbD_laneBit (lane : Fin 8) : (BitVec.ofNat 8 (2 ^ lane.val)).getLsbD lane.val = true := by
  revert lane
  decide

theorem dropped_lane (x : LinkPort) (lane : Fin 8) :
    (x.dropped lane.val).retired.getLsbD lane.val = true ∧ (x.dropped lane.val).lanes.getLsbD lane.val = false := by
  have bit := getLsbD_laneBit lane
  constructor
  · rw [LinkPort.dropped, BitVec.getLsbD_or, bit, Bool.or_true]
  · rw [LinkPort.dropped, BitVec.getLsbD_and, BitVec.getLsbD_not, bit, Bool.not_true, Bool.and_false, Bool.and_false]

end Down

/-! ## Flits that arrive (R438 to R441). -/

section Flits

variable {s : State} {p : Nat} {b : List Byte} {fixed : List (Fin 8)} {bad : Bool}

/-- How far the flit lies ahead of the expected one, modulo 4,096. -/
def LinkPort.ahead (x : LinkPort) (b : List Byte) : Nat := (BitVec.ofNat 12 (le b 0 2) - (x.rxSeq + 1)).toNat

/-- A flit that fails its check is counted, and a replay is asked for. -/
theorem flitIn_damaged (up : (s.port p).st = .up) (umbale : s.linkMode p = 1) (damaged : bad = true ∨ flitGood b = false) :
    s.flitIn p b 0 fixed bad
      = (((((s.updPort p fun x => x.fecFix (s.now / msUnits) fixed).linkCount p (·.fecUe)
          (fun x v => { x with fecUe := v })).updPort p LinkPort.ask).raise 0x21 (0x460 + p) 0 (le b 0 2 % 4096)).pump p) := by
  rw [State.flitIn, if_neg (by simp [up, umbale])]
  exact if_pos (by simpa using damaged)

/-- What becomes of a flit that passes its check, by how far it lies ahead of the expected one. -/
theorem flitIn_good (up : (s.port p).st = .up) (umbale : s.linkMode p = 1) (sound : bad = false) (good : flitGood b = true) :
    let t := s.updPort p fun x => x.fecFix (s.now / msUnits) fixed
    s.flitIn p b 0 fixed bad = if (s.port p).ahead b = 0 then t.flitTake p b
      else if 2048 ≤ (s.port p).ahead b || (s.port p).discard then t else (t.updPort p LinkPort.ask).pump p := by
  have fixedPort : (s.updPort p fun x => x.fecFix (s.now / msUnits) fixed).port p
      = (s.port p).fecFix (s.now / msUnits) fixed := port_updPort_self ..
  rw [State.flitIn, if_neg (by simp [up, umbale])]
  refine (if_neg (by simp [sound, good])).trans ?_
  simp only [State.fecCount, List.range_zero, List.foldl_nil, fixedPort]
  rfl

/-- What a flit in order leaves of its port, before anything is sent. -/
def LinkPort.taken (x : LinkPort) (b : List Byte) (now : Nat) : LinkPort :=
  let stream := x.rxPart ++ b.drop 16
  let got := packetsOf (stream.length / 16 + 1) stream
  let y := x.covered (BitVec.ofNat 12 (le b 2 2))
  let z := if bitOf (le b 2 2) 15 then y.nakIn else y
  { z with discard := false, rxSeq := BitVec.ofNat 12 (le b 0 2), rxPart := got.2,
           credUsed := (List.range 4).foldl (fun t v => Tbl.upd 0 t v (· - flitCredit b v)) z.credUsed,
           rxq := z.rxq ++ (got.1.filterMap id).map fun k => ⟨k, now⟩ }

/-- The state once a flit in order is taken and its malformed packets are counted. -/
def State.takeFlit (s : State) (p : Nat) (b : List Byte) : State :=
  let u := 0x460 + p
  let stream := (s.port p).rxPart ++ b.drop 16
  let got := packetsOf (stream.length / 16 + 1) stream
  let good := got.1.filterMap id
  let s1 := (s.count u 2).updPort p fun x =>
    let x := x.covered (BitVec.ofNat 12 (le b 2 2))
    let x := if bitOf (le b 2 2) 15 then x.nakIn else x
    { x with discard := false, rxSeq := BitVec.ofNat 12 (le b 0 2), rxPart := got.2,
             credUsed := (List.range 4).foldl (fun t v => Tbl.upd 0 t v (· - flitCredit b v)) x.credUsed,
             rxq := x.rxq ++ good.map fun k => ⟨k, s.now⟩ }
  (got.1.filter Option.isNone).foldl (fun t _ =>
    (t.linkCount p (·.rxDiscard) (fun x v => { x with rxDiscard := v })).raise 0x24 u 0 0) (s1.countBy u 4 good.length)

theorem flitTake_eq (s : State) (p : Nat) (b : List Byte) : s.flitTake p b =
    let t := s.takeFlit p b
    let ctl := field (le b 10 2) 3 0
    let lane := field (le b 10 2) 6 4
    if 32 ≤ (t.port p).fails then t.linkDown p
    else
      let u := if (ctl = 1 ∨ ctl = 2) ∧ (t.port p).lanes.getLsbD lane then t.dropLane p lane else t
      if (u.port p).st ≠ .up then u
      else (if ctl = 1 then u.updPort p fun x => { x with ctl := 2, ctlLane := lane } else u).pump p := rfl

/-- A malformed packet is counted by its port, and nothing else of the port changes. -/
def State.countMalformed (t : State) (p : Nat) : State :=
  (t.linkCount p (·.rxDiscard) (fun x v => { x with rxDiscard := v })).raise 0x24 (0x460 + p) 0 0

theorem countMalformed_port (t : State) (p : Nat) :
    (t.countMalformed p).port p = { t.port p with rxDiscard := min ((t.port p).rxDiscard + 1) 0xFFFF } :=
  (linkCount_port t p (·.rxDiscard) fun x v => { x with rxDiscard := v } :)

@[simp] theorem countMalformed_shape (t : State) (p : Nat) : (t.countMalformed p).shape = t.shape :=
  (linkCount_shape t p (·.rxDiscard) fun x v => { x with rxDiscard := v } :)

/-- Counting malformed packets changes nothing of the port but their counter. -/
theorem takeFlit_port (s : State) (p : Nat) (b : List Byte) :
    ∃ r, (s.takeFlit p b).port p = { (s.port p).taken b s.now with rxDiscard := r } := by
  unfold State.takeFlit
  refine List.foldlRecOn _ (fun t _ => t.countMalformed p)
    (motive := fun t : State => ∃ r, t.port p = { (s.port p).taken b s.now with rxDiscard := r })
    ⟨(s.port p).rxDiscard, ?_⟩ fun t ht _ _ => ?_
  · have port : (s.count (0x460 + p) 2).port p = s.port p := by rw [State.port, State.count, countBy_link]
    rw [State.port, countBy_link]
    refine (port_updPort_self ..).trans ?_
    rw [port]
    simp only [LinkPort.taken]
    split <;> rfl
  · obtain ⟨r, hr⟩ := ht
    exact ⟨_, (countMalformed_port ..).trans (by rw [hr])⟩

@[simp] theorem takeFlit_shape (s : State) (p : Nat) (b : List Byte) : (s.takeFlit p b).shape = s.shape := by
  refine (foldl_keeps (f := fun t _ => t.countMalformed p) State.shape (fun t _ => countMalformed_shape t p) _ _).trans ?_
  rw [countBy_shape, updPort_shape, State.count, countBy_shape]

end Flits

/-! ## The clauses on a flit that arrives. -/

section FlitClauses

variable {s : State} {p : Port} {b : List Byte} {fixed : List (Fin 8)} {bad : Bool}

/-- A flit that arrives leaves what its port makes of it. -/
theorem flitReceive_leaves {t : State} (comes : s.flitIn p.val b 0 fixed bad = t) :
    exec (.flitReceive p ⟨b, 0, fixed, bad⟩) s = .next (s.after t) :=
  finish_eq comes

/-- The two fields of a port that sending reads and its NAK, once a replay is asked for. -/
theorem besideSend_fields {x y : LinkPort} (same : x.besideSend = y.besideSend) :
    x.st = y.st ∧ x.lanes = y.lanes ∧ x.retired = y.retired ∧ x.discard = y.discard ∧ x.rxSeq = y.rxSeq ∧ x.rxq = y.rxq
      ∧ x.fecUe = y.fecUe ∧ x.minWidth = y.minWidth := by
  simp only [LinkPort.besideSend, LinkPort.mk.injEq] at same
  simp [same]

/-- A port that asks for a replay: it discards until the expected flit comes, and the NAK leaves at once where a flit has room. -/
theorem pump_asks {s : State} {p : Nat} {x : LinkPort} (port : s.port p = x.ask) :
    let t := s.pump p
    (t.port p).discard = true ∧ (t.port p).rxSeq = x.rxSeq ∧ (t.port p).rxq = x.rxq ∧ (t.port p).fecUe = x.fecUe
      ∧ (s.linkMode p = 1 → 0 < x.flitRoom → (t.port p).nak = false ∧ x.replay.length < (t.port p).replay.length) := by
  obtain ⟨-, -, -, discard, seq, queue, errors, -⟩ := besideSend_fields ((pump_besideSend s p).trans (congrArg _ port))
  refine ⟨discard, seq, queue, errors, fun umbale room => ?_⟩
  rw [pump_port_umbale s p umbale, port]
  exact pumped_nak rfl room

/-- A port asks for a replay of a flit that failed its check. -/
def State.asked (u : State) (p fseq : Nat) : State := (u.updPort p LinkPort.ask).raise 0x21 (0x460 + p) 0 fseq

theorem asked_port (u : State) (p fseq : Nat) : (u.asked p fseq).port p = (u.port p).ask := port_updPort_self ..

theorem linkMode_asked (u : State) (p fseq : Nat) : (u.asked p fseq).linkMode p = u.linkMode p := rfl

theorem linkMode_of_shape {s t : State} {p : Nat} (same : t.shape = s.shape) : t.linkMode p = s.linkMode p :=
  congrArg (fun shape : ShapeSt => (shape.cfg.linkOf p).mode) same

/-- The state once a damaged codeword's symbols and the damage are counted. -/
def State.damagedCount (s : State) (p : Nat) (fixed : List (Fin 8)) : State :=
  (s.updPort p fun x => x.fecFix (s.now / msUnits) fixed).linkCount p (·.fecUe) fun x v => { x with fecUe := v }

theorem damagedCount_port (s : State) (p : Nat) (fixed : List (Fin 8)) : (s.damagedCount p fixed).port p
    = { (s.port p).fecFix (s.now / msUnits) fixed with fecUe := min ((s.port p).fecUe + 1) 0xFFFF } := by
  rw [State.damagedCount, linkCount_port, port_updPort_self]
  rfl

theorem damagedCount_shape (s : State) (p : Nat) (fixed : List (Fin 8)) : (s.damagedCount p fixed).shape = s.shape :=
  linkCount_shape ..

theorem flitReceive_damaged (up : (s.port p).st = .up) (umbale : s.linkMode p = 1) (damaged : bad = true ∨ flitGood b = false) :
    let x := s.port p
    ∃ t, exec (.flitReceive p ⟨b, 0, fixed, bad⟩) s = .next (s.after t)
      ∧ (t.port p).discard = true ∧ (t.port p).rxSeq = x.rxSeq ∧ (t.port p).rxq = x.rxq
      ∧ (t.port p).fecUe = min (x.fecUe + 1) 0xFFFF
      ∧ (0 < x.flitRoom → (t.port p).nak = false ∧ x.replay.length < (t.port p).replay.length) := by
  refine ⟨((s.damagedCount p fixed).asked p (le b 0 2 % 4096)).pump p, flitReceive_leaves (flitIn_damaged up umbale damaged), ?_⟩
  have mode := (linkMode_asked (s.damagedCount p fixed) p (le b 0 2 % 4096)).trans
    ((linkMode_of_shape (damagedCount_shape s p fixed)).trans umbale)
  obtain ⟨discard, seq, queue, errors, sent⟩ := pump_asks (asked_port (s.damagedCount p fixed) p (le b 0 2 % 4096))
  rw [damagedCount_port] at seq queue errors sent
  exact ⟨discard, seq, queue, errors, sent mode⟩

/-- A sound flit that has been seen before, or comes while a replay is awaited, changes nothing but the lanes' counts. -/
theorem flitReceive_passed (up : (s.port p).st = .up) (umbale : s.linkMode p = 1) (sound : bad = false) (good : flitGood b = true)
    (passed : 2048 ≤ (s.port p).ahead b ∨ (s.port p).ahead b ≠ 0 ∧ (s.port p).discard = true) :
    ∃ t, exec (.flitReceive p ⟨b, 0, fixed, bad⟩) s = .next (s.after t)
      ∧ (t.port p).rxSeq = (s.port p).rxSeq ∧ (t.port p).rxq = (s.port p).rxq ∧ (t.port p).nak = (s.port p).nak := by
  have late : (s.port p).ahead b ≠ 0 := by omega
  have stays : (2048 ≤ (s.port p).ahead b || (s.port p).discard) = true := by
    simpa using passed.imp_right And.right
  refine ⟨s.updPort p fun x => x.fecFix (s.now / msUnits) fixed,
    flitReceive_leaves ((flitIn_good up umbale sound good).trans ((if_neg late).trans (if_pos stays))), ?_⟩
  rw [port_updPort_self]
  exact ⟨rfl, rfl, rfl⟩

/-- A sound flit that comes too early makes the port discard. -/
theorem flitReceive_early (up : (s.port p).st = .up) (umbale : s.linkMode p = 1) (sound : bad = false) (good : flitGood b = true)
    (late : (s.port p).ahead b ≠ 0) (near : (s.port p).ahead b < 2048) (takes : (s.port p).discard = false) :
    ∃ t, exec (.flitReceive p ⟨b, 0, fixed, bad⟩) s = .next (s.after t)
      ∧ (t.port p).discard = true ∧ (t.port p).rxSeq = (s.port p).rxSeq ∧ (t.port p).rxq = (s.port p).rxq := by
  have asks : ¬(2048 ≤ (s.port p).ahead b || (s.port p).discard) = true := by simp [near, takes]
  refine ⟨_, flitReceive_leaves ((flitIn_good up umbale sound good).trans ((if_neg late).trans (if_neg asks))), ?_⟩
  obtain ⟨discard, seq, queue, -, -⟩ := pump_asks (port_updPort_self (s.updPort p fun x => x.fecFix (s.now / msUnits) fixed) p
    LinkPort.ask)
  rw [port_updPort_self] at seq queue
  exact ⟨discard, seq, queue⟩

/-- What taking a flit leaves of the sending side. -/
theorem taken_sending (x : LinkPort) (b : List Byte) (now : Nat) :
    (x.taken b now).st = x.st ∧ (x.taken b now).txq = x.txq ∧ (x.taken b now).nak = x.nak ∧ (x.taken b now).ctl = x.ctl
      ∧ (x.taken b now).fails ≤ x.fails + 1 := by
  have covered : (x.covered (BitVec.ofNat 12 (le b 2 2))).fails ≤ x.fails := by
    simp only [LinkPort.covered]
    split
    · exact Nat.zero_le _
    · exact Nat.le_refl _
  simp only [LinkPort.taken]
  split
  · refine ⟨rfl, rfl, rfl, rfl, ?_⟩
    simp only [LinkPort.nakIn]
    split <;> omega
  · exact ⟨rfl, rfl, rfl, rfl, by omega⟩

/-- What taking a flit leaves of the replay buffer and of the credits. -/
theorem taken_receiving (x : LinkPort) (b : List Byte) (now : Nat) :
    (x.taken b now).replay = (x.covered (BitVec.ofNat 12 (le b 2 2))).replay
      ∧ (x.taken b now).replayDue = (x.replayDue || bitOf (le b 2 2) 15)
      ∧ (x.taken b now).rxq = x.rxq ++ ((packetsOf ((x.rxPart ++ b.drop 16).length / 16 + 1) (x.rxPart ++ b.drop 16)).1.filterMap
          id).map (fun k => ⟨k, now⟩)
      ∧ ∀ v < 4, Tbl.get 0 (x.taken b now).credUsed v = Tbl.get 0 x.credUsed v - flitCredit b v := by
  have credits (c : Tbl Nat) (v : Nat) (hv : v < 4) :
      Tbl.get 0 ((List.range 4).foldl (fun t v => Tbl.upd 0 t v (· - flitCredit b v)) c) v = Tbl.get 0 c v - flitCredit b v :=
    (Tbl.get_foldl_updAt 0 (fun v => (· - flitCredit b v)) List.nodup_range c v).trans (if_pos (List.mem_range.2 hv))
  simp only [LinkPort.taken]
  split
  next nak => exact ⟨rfl, by rw [nak, Bool.or_true]; rfl, rfl, credits _⟩
  next nak => exact ⟨rfl, by rw [Bool.eq_false_iff.2 nak, Bool.or_false]; rfl, rfl, credits _⟩

/-- The expected flit without a control code, at a port with nothing to send: taken, and nothing leaves. -/
theorem flitReceive_expected (up : (s.port p).st = .up) (umbale : s.linkMode p = 1) (sound : bad = false)
    (good : flitGood b = true) (expected : (s.port p).ahead b = 0) (plain : field (le b 10 2) 3 0 = 0)
    (txq : (s.port p).txq = []) (nak : (s.port p).nak = false) (ctl : (s.port p).ctl = 0) (fails : (s.port p).fails < 31) :
    ∃ t r, exec (.flitReceive p ⟨b, 0, fixed, bad⟩) s = .next (s.after t)
      ∧ t.port p = { ((s.port p).fecFix (s.now / msUnits) fixed).taken b s.now with rxDiscard := r } := by
  set f := s.updPort p fun x => x.fecFix (s.now / msUnits) fixed with hf
  have fixedPort : f.port p = (s.port p).fecFix (s.now / msUnits) fixed := port_updPort_self ..
  obtain ⟨r, port⟩ := takeFlit_port f p b
  rw [fixedPort] at port
  obtain ⟨st, queued, waits, code, failed⟩ := taken_sending ((s.port p).fecFix (s.now / msUnits) fixed) b s.now
  have holds : ¬32 ≤ ((f.takeFlit p b).port p).fails := by
    rw [port]
    exact Nat.not_le.2 (Nat.lt_of_le_of_lt failed (Nat.add_lt_add_right fails 1))
  have isUp : ¬((f.takeFlit p b).port p).st ≠ .up := by
    rw [port]
    exact not_not.2 (st.trans up)
  have takes : f.flitTake p b = (f.takeFlit p b).pump p := by
    rw [flitTake_eq]
    simp only [plain]
    rw [if_neg holds]
    exact if_neg isUp
  refine ⟨_, r, flitReceive_leaves ((flitIn_good up umbale sound good).trans ((if_pos expected).trans takes)), ?_⟩
  have mode : (f.takeFlit p b).linkMode p = 1 := (linkMode_of_shape (takeFlit_shape f p b)).trans umbale
  rw [pump_port_umbale _ _ mode, port]
  exact pumped_idle (queued.trans txq) (waits.trans nak) (code.trans ctl)

/-- The expected flit with the NAK of the 32nd failed replay brings the link down. -/
theorem flitReceive_failed (up : (s.port p).st = .up) (umbale : s.linkMode p = 1) (sound : bad = false)
    (good : flitGood b = true) (expected : (s.port p).ahead b = 0) (nak : bitOf (le b 2 2) 15 = true)
    (replayed : ((s.port p).covered (BitVec.ofNat 12 (le b 2 2))).replayed = true)
    (fails : 31 ≤ ((s.port p).covered (BitVec.ofNat 12 (le b 2 2))).fails) :
    ∃ t, exec (.flitReceive p ⟨b, 0, fixed, bad⟩) s = .next (s.after t) ∧ (t.port p).st = .down := by
  set f := s.updPort p fun x => x.fecFix (s.now / msUnits) fixed with hf
  have fixedPort : f.port p = (s.port p).fecFix (s.now / msUnits) fixed := port_updPort_self ..
  obtain ⟨r, port⟩ := takeFlit_port f p b
  rw [fixedPort] at port
  have failed : (((s.port p).fecFix (s.now / msUnits) fixed).taken b s.now).fails
      = ((s.port p).covered (BitVec.ofNat 12 (le b 2 2))).fails + 1 := by
    simp only [LinkPort.taken, nak, if_true]
    exact if_pos replayed
  have beyond : 32 ≤ ((f.takeFlit p b).port p).fails := by
    rw [port]
    exact (Nat.succ_le_succ fails).trans (Nat.le_of_eq failed.symm)
  have isUp : ((f.takeFlit p b).port p).st = .up := by
    rw [port]
    exact (taken_sending ((s.port p).fecFix (s.now / msUnits) fixed) b s.now).1.trans up
  have downs : f.flitTake p b = (f.takeFlit p b).linkDown p := (flitTake_eq ..).trans (if_pos beyond)
  refine ⟨_, flitReceive_leaves ((flitIn_good up umbale sound good).trans ((if_pos expected).trans downs)), ?_⟩
  exact linkDown_st (by simp [isUp]) (by simp [isUp])

end FlitClauses

/-! ## Replays, credits, lanes and training (R437, R439 to R441, R452, R456, R461). -/

section LinkCommands

variable {s : State} {p : Port}

theorem flitReplay_leaves (up : (s.port p).st = .up) (due : (s.port p).replayDue = true) :
    ∃ t, exec (.flitReplay p) s = .next (s.after t)
      ∧ t.port p = { s.port p with retry := min ((s.port p).retry + 1) 0xFFFF, replayDue := false, replayed := true } := by
  have replays : s.flitReplay p = (s.linkCount p (·.retry) fun x v => { x with retry := v }).updPort p fun x =>
      { x with replayDue := false, replayed := true } := if_neg (by simp [up, due])
  refine ⟨_, finish_eq replays, ?_⟩
  rw [port_updPort_self, linkCount_port]

theorem creditReturn_leaves {vc : Fin 4} {n : BitVec 12} (up : (s.port p).st = .up) (umbale : s.linkMode p = 1)
    (owed : n.toNat ≤ Tbl.get 0 (s.port p).credOwed vc) (room : 0 < (s.port p).flitRoom) :
    exec (.creditReturn p vc n) s = .next (s.after ((s.updPort p fun x =>
      x.sendFlit ((List.range 4).map fun v => if v = vc.val then n.toNat else 0) []).count (0x460 + p) 1)) :=
  finish_eq (if_neg (by
    rintro (down | mode | few | full)
    · exact down up
    · exact mode umbale
    · exact Nat.not_lt.2 owed few
    · exact room.ne' full))

/-- A lane that fails is retired; the link goes on over the others or goes down. -/
theorem laneRetire_leaves {lane : Fin 8} {lock : Bool} (up : (s.port p).st = .up) (umbale : s.linkMode p ≠ 2)
    (serves : (s.port p).lanes.getLsbD lane = true) (fails : lock = true ∨ s.laneBad p lane = true) :
    ∃ t, exec (.laneRetire p ⟨lane, lock⟩) s = .next (s.after t) ∧ (t.port p).retired.getLsbD lane = true
      ∧ (t.port p).lanes.getLsbD lane = false ∧ ((t.port p).st = .up ∨ (t.port p).st = .down) := by
  set told := s.updPort p fun x => { x with ctl := 1, ctlLane := lane } with htold
  have port : told.port p = { s.port p with ctl := 1, ctlLane := lane } := port_updPort_self ..
  have retires : s.laneRetire p lane lock = (told.dropLane p lane).pump p := by
    rw [State.laneRetire, if_neg (not_not.2 up), if_neg umbale]
    have failed : (lock || s.laneBad p lane) = true := by simpa using fails
    exact if_neg (by simp [serves, failed])
  have upTold : (told.port p).st = .up := by rw [port]; exact up
  refine ⟨_, finish_eq retires, ?_⟩
  obtain ⟨st, lanes, retired, -⟩ := besideSend_fields (pump_besideSend (told.dropLane p lane) p)
  rw [st, lanes, retired]
  obtain ⟨isRetired, isOut⟩ := dropped_lane (told.port p) lane
  rcases dropLane_port upTold lane.val with drops | drops <;> rw [drops]
  · exact ⟨isRetired, isOut, .inl upTold⟩
  · exact ⟨isRetired, BitVec.getLsbD_zero, .inr rfl⟩

/-- A lane that keeps its lock is left alone by an Ethernet port, and by an Umbale port where it is within its threshold. -/
theorem laneRetire_none {lane : Fin 8} (up : (s.port p).st = .up) (well : s.linkMode p = 2 ∨ s.laneBad p lane = false) :
    exec (.laneRetire p ⟨lane, false⟩) s = .next (s.after s) := by
  refine finish_eq (e := s.laneRetire p lane false) ?_
  rw [State.laneRetire, if_neg (not_not.2 up)]
  by_cases ethernet : s.linkMode p = 2
  · exact if_pos ethernet
  · rw [if_neg ethernet]
    exact if_pos (by simp [well.resolve_left ethernet])

theorem laneRetire_ethernet {lane : Fin 8} (up : (s.port p).st = .up) (ethernet : s.linkMode p = 2) :
    exec (.laneRetire p ⟨lane, true⟩) s = .next (s.after (s.linkDown p)) :=
  finish_eq ((if_neg (not_not.2 up)).trans (if_pos ethernet))

/-- What a write of LNK_CTRL's commands puts: MIN_WIDTH keeps its value where the write brings 0. -/
theorem regPut_lnkCtrl (a : Agent) {val : W64} (none : field val.toNat 11 8 = 0) : s.regPut a (.lnkCtrl p) .full val
    = s.lnkCtrl p Option.none (bitOf val.toNat 0) (bitOf val.toNat 1) (bitOf val.toNat 2) := by
  have keeps (m : Nat) (zero : m = 0) : s.lnkCtrl p (some m) (bitOf val.toNat 0) (bitOf val.toNat 1) (bitOf val.toNat 2)
      = s.lnkCtrl p Option.none (bitOf val.toNat 0) (bitOf val.toNat 1) (bitOf val.toNat 2) := by
    subst zero
    rfl
  exact keeps _ none

variable {a : Agent}

theorem lnkDownCmd_leaves (heard : s.mute a = false) (may : s.regCode a (.lnkCtrl p) true .full = .okay) :
    exec (.lnkDownCmd a p) s = .next (s.after ((s.linkDown p).reply .okay 0)) :=
  regCmd_leaves heard may (regPut_lnkCtrl a (val := 2) rfl)

theorem resetLanes_leaves (heard : s.mute a = false) (may : s.regCode a (.lnkCtrl p) true .full = .okay) :
    exec (.resetLanes a p) s = .next (s.after ((s.updPort p fun x => { x with lanesBack := true }).reply .okay 0)) :=
  regCmd_leaves heard may (regPut_lnkCtrl a (val := 4) rfl)

theorem lnkTrain_leaves (heard : s.mute a = false) (may : s.regCode a (.lnkCtrl p) true .full = .okay) (on : s.grp.en = true)
    (umbale : (s.cfg.linkOf p).mode = 1) (idle : (s.port p).st = .disabled ∨ (s.port p).st = .down) :
    let ret := if (s.port p).lanesBack then 0 else (s.port p).retired
    exec (.lnkTrain a p) s = .next (s.after ((s.updPort p fun x =>
      { x with st := .training, retired := ret, lanesBack := false, lanes := (s.cfg.linkOf p).lanes &&& ~~~ret,
               txSeq := 0, rxSeq := 0xFFF, laneFix := [] }).reply .okay 0)) := by
  have trains := regCmd_leaves heard may (regPut_lnkCtrl (s := s) (p := p) a (val := 1) rfl)
  refine trains.trans (congrArg (fun t : State => (.next (s.after (t.reply .okay 0)) : Out)) ?_)
  have able : ¬((!s.grp.en) = true ∨ (s.cfg.linkOf p).mode = 0 ∨ ((s.port p).st ≠ .disabled ∧ (s.port p).st ≠ .down)
      ∨ ((s.cfg.linkOf p).mode = 2 ∧ (s.cfg.linkOf p).lanes ≠ 0xFF)) := by
    rcases idle with st | st <;> simp [on, umbale, st]
  exact (if_neg able).trans (updPort_congr rfl)

theorem linkTrainingDone_leaves {group : BitVec 32} {block : BitVec 6} {other : BitVec 5} (trains : (s.port p).st = .training) :
    exec (.linkTrainingDone p group block other) s = .next (s.after (s.updPort p fun x =>
      { x with st := if group = s.grp.id ∧ s.grp.members.getLsbD block.toNat then .up else .foreign,
               peerBlock := block.toNat, peerPort := other.toNat })) :=
  finish_eq (if_neg (not_not.2 trains))

end LinkCommands

/-- What a flit's bytes hold, each field where R438 puts it. -/
theorem flitBytes_reads (fseq ack : BitVec 12) (nak : Bool) {credit : List Nat} {ctl lane : Nat} {slots : List Byte}
    (fits : slots.length ≤ 416) (small : ∀ v < 4, credit.getD v 0 < 4096) (hctl : ctl < 16) (hlane : lane < 8) :
    let f := flitBytes fseq ack nak credit ctl lane slots
    f.length = 432 ∧ flitGood f = true ∧ le f 0 2 = fseq.toNat ∧ le f 2 2 = ack.toNat + (if nak then 0x8000 else 0)
      ∧ (∀ v < 4, flitCredit f v = credit.getD v 0) ∧ le f 10 2 = ctl + 16 * lane ∧ (f.drop 16).take slots.length = slots := by
  obtain ⟨seq, acked, -, code⟩ := le_flitHead fseq ack nak credit ctl lane _ (flitBytes_eq fseq ack nak credit ctl lane slots)
  have hseq := fseq.isLt
  have hack := ack.isLt
  have marked : (ack.toNat + 0x8000 * b2n nak) % 65536 = ack.toNat + (if nak then 0x8000 else 0) := by
    cases nak
    · exact Nat.mod_eq_of_lt (by simp [b2n]; omega)
    · exact Nat.mod_eq_of_lt (by simp [b2n]; omega)
  exact ⟨length_flitBytes _ _ _ _ _ _ fits, flitGood_flitBytes _ _ _ _ _ _ fits, seq.trans (Nat.mod_eq_of_lt (by omega)),
    acked.trans marked, fun v hv => flitCredit_flitBytes _ _ _ _ _ small slots hv, code.trans (Nat.mod_eq_of_lt (by omega)),
    slots_flitBytes _ _ _ _ _ fits⟩

/-- Settles O53: the layout of packets and flits, what a port makes of a flit that arrives, and the commands on replays, credits,
lanes, the link and pauses. -/
theorem linkPortsAct : Obligations.LinkPortsAct := by
  refine ⟨fun k listed vc part hops len psn tag addr attr data =>
      packetOf_packetBytes ⟨listed, vc, part, hops, len, psn, tag, addr, attr, data⟩,
    fun fseq ack nak credit ctl lane slots fits small hctl hlane => flitBytes_reads fseq ack nak fits small hctl hlane,
    fun p s => ⟨fun b fixed bad up umbale => ⟨flitReceive_damaged up umbale, fun sound good =>
        ⟨flitReceive_passed up umbale sound good, flitReceive_early up umbale sound good, ?_,
          flitReceive_failed up umbale sound good⟩⟩,
      ?_, fun vc n => creditReturn_leaves, fun y credit slots => ⟨rfl, rfl, rfl, rfl, rfl, fun v => credOwed_sendFlit y credit slots⟩,
      fun lane lock up => ⟨laneRetire_leaves up, ?_, laneRetire_ethernet up⟩, fun able held => ?_,
      fun a heard may => ⟨resetLanes_leaves heard may, lnkTrain_leaves heard may⟩, fun group block other => linkTrainingDone_leaves,
      fun prio xoff ethernet pfc up => ?_⟩⟩
  · intro expected plain txq nak ctl fails
    obtain ⟨t, r, leaves, port⟩ := flitReceive_expected (fixed := fixed) up umbale sound good expected plain txq nak ctl fails
    obtain ⟨replay, due, queue, credits⟩ := taken_receiving ((s.port p).fecFix (s.now / msUnits) fixed) b s.now
    refine ⟨t, leaves, ?_⟩
    rw [port]
    exact ⟨rfl, rfl, rfl, queue, replay, due, credits⟩
  · intro up due
    obtain ⟨t, leaves, port⟩ := flitReplay_leaves up due
    refine ⟨t, leaves, ?_⟩
    rw [port]
    exact ⟨rfl, rfl, rfl, up, rfl⟩
  · rintro rfl
    exact laneRetire_none up
  · have down := linkDown_eq able held
    exact ⟨fun why => finish_eq down, fun a heard may => (lnkDownCmd_leaves heard may).trans
      (congrArg (fun t : State => (.next (s.after (t.reply .okay 0)) : Out)) down)⟩
  · exact finish_eq (if_neg (by simp [ethernet, pfc, up]))

end Sys2Proof.Machine

/-! The transport: what sending leaves of the group, packets that are dropped, executed, kept waiting or forwarded, and the
statement O54. -/

namespace Sys2Proof.Machine

/-! ## Sending leaves the group's record alone (R444). -/

section Group

variable (s : State)

@[simp] theorem pump_grp (p : Nat) : (s.pump p).grp = s.grp := by
  unfold State.pump
  split
  · rw [State.pumpFlits, countBy_grp, countBy_grp, updPort_grp]
  · rw [State.pumpFrames, countBy_grp, updPort_grp]

@[simp] theorem transmit_grp (p unit : Nat) (k : Packet) : (s.transmit p unit k).grp = s.grp := pump_grp ..

@[simp] theorem sendAck_grp (op b vc psn : Nat) (ece : Bool) (tag : Nat) : (s.sendAck op b vc psn ece tag).grp = s.grp := by
  unfold State.sendAck
  split
  · exact transmit_grp ..
  · rfl

theorem conn_updConn (b vc : Nat) (f : Conn → Conn) : (s.updConn b vc f).conn b vc = f (s.conn b vc) := Tbl.get_upd_self ..

theorem expect_eceNow (b vc : Nat) (ce : Bool) : ((s.eceNow b vc ce).2.conn b vc).expect = (s.conn b vc).expect := by
  refine (apply_ite (fun r : Bool × State => (r.2.conn b vc).expect) _ _ _).trans ?_
  rw [conn_updConn]
  exact ite_self _

end Group

/-! ## The check of a numbered packet (R444). -/

section Receive

variable (s : State) (k : Packet)

theorem receive_expected (same : BitVec.ofNat 24 k.psn = ((s.hear k.src).conn k.src k.vc).expect) :
    ∃ t, s.receive k = .take t ∧ (t.conn k.src k.vc).expect = ((s.hear k.src).conn k.src k.vc).expect + 1 := by
  refine ⟨_, if_pos same, ?_⟩
  rw [State.conn, sendAck_grp]
  exact (expect_eceNow ..).trans (congrArg Conn.expect (conn_updConn ..))

theorem receive_other (other : BitVec.ofNat 24 k.psn ≠ ((s.hear k.src).conn k.src k.vc).expect) :
    let c := (s.hear k.src).conn k.src k.vc
    let old := psnBelow (BitVec.ofNat 24 k.psn) c.expect
    s.receive k = .drop ((s.hear k.src).sendAck (if old then 0x11 else 0x12) k.src k.vc
      (if old then c.expect - 1 else c.expect).toNat false 0) := by
  refine (if_neg other).trans ?_
  split
  · rfl
  · rfl

end Receive

/-! ## What becomes of a packet for this block. -/

section Incoming

variable {s t u : State} {p : Nat} {k : Packet} {op : Nat} {wait : State → Option State} {f : State → State}

theorem mine_of (en : s.grp.en = true) (toUs : k.dst.val = s.grp.self) (isOp : k.op = op) : s.mine k op = true := by
  simp [State.mine, en, toUs, isOp]

/-- A packet out of its turn has no effect but what its connection answers. -/
theorem incoming_drop (mine : s.mine k op = true) (leaves : (s.frameIn p k).takeRx p k = some t) (drops : t.receive k = .drop u) :
    s.incoming p k op wait f = u := by
  rw [State.incoming, if_neg (by simp [mine])]
  simp only [leaves, drops]

/-- The packet that is expected waits in its buffer, -/
theorem incoming_wait {w : State} (mine : s.mine k op = true) (leaves : (s.frameIn p k).takeRx p k = some t)
    (takes : t.receive k = .take u) (waits : wait (s.frameIn p k) = some w) : s.incoming p k op wait f = w := by
  rw [State.incoming, if_neg (by simp [mine])]
  simp only [leaves, takes, waits]

/-- or takes effect. -/
theorem incoming_take (mine : s.mine k op = true) (leaves : (s.frameIn p k).takeRx p k = some t) (takes : t.receive k = .take u)
    (ready : wait (s.frameIn p k) = none) : s.incoming p k op wait f = f u := by
  rw [State.incoming, if_neg (by simp [mine])]
  simp only [leaves, takes, ready]

theorem ackComes_takes (mine : s.mine k op = true) (leaves : (s.frameIn p k).takeRx p k = some t) :
    s.ackComes p k op f = f t := by
  rw [State.ackComes, if_neg (by simp [mine])]
  simp only [leaves]

end Incoming

/-! ## Forwarding, drops and timeouts (R444, R445, R450, R451). -/

section Forwarding

variable {s t : State} {p : Port} {k : Packet}

theorem packetForward_sends {q : Nat} {qs : List Nat} (on : s.grp.en = true) (other : k.dst.val ≠ s.grp.self) (hops : 0 < k.hops)
    (umbale : (s.frameIn p k).linkMode p ≠ 2) (route : (s.frameIn p k).routeUp k.dst.val = q :: qs)
    (leaves : (s.frameIn p k).takeRx p k = some t) : exec (.packetForward p k) s
      = .next (s.after ((t.transmit q 0 { k with hops := k.hops - 1 }).count (0x460 + p) 9)) := by
  refine finish_eq (e := s.forward p k) ?_
  rw [State.forward, if_neg (by simp [on, other])]
  refine (if_neg (not_or.2 ⟨hops.ne', umbale⟩)).trans ?_
  simp only [route, leaves]

theorem packetForward_drops (on : s.grp.en = true) (other : k.dst.val ≠ s.grp.self)
    (ends : k.hops = 0 ∨ (s.frameIn p k).linkMode p = 2) (leaves : (s.frameIn p k).takeRx p k = some t) :
    exec (.packetForward p k) s = .next (s.after (t.dropPacket p ((s.frameIn p k).linkMode p == 2))) := by
  refine finish_eq (e := s.forward p k) ?_
  rw [State.forward, if_neg (by simp [on, other])]
  refine (if_pos ends).trans ?_
  simp only [leaves]

theorem retransmitTimeout_leaves (b : BlockNo) (vc : Fin 4) : let c := s.conn b.val vc.val
    exec (.retransmitTimeout b vc) s = .next (s.after (if c.unacked ≠ [] ∧ c.since + s.rtoOf b.val * 200 ≤ s.now
      then s.resend b.val vc.val else s)) := by
  refine finish_eq (e := s.rtoExpired b.val vc.val) ((ite_not _ _ _).symm.trans (if_congr ?_ rfl rfl))
  rw [not_or, Nat.not_lt, List.isEmpty_iff]
  rfl

theorem rateIncrease_leaves (b : BlockNo) : let r := Tbl.get RateSt.off s.grp.rates b.val
    exec (.rateIncrease b) s = .next (s.after (if r.eceAt + 20000 ≤ s.now then s.updGrp fun g =>
      { g with rates := Tbl.set RateSt.off g.rates b.val { r with
        limit := min (200000000000 * (s.routeUp b.val).length) (r.limit + 5000000000), eceAt := s.now } } else s)) :=
  finish_eq (e := s.rateRise b.val) ((ite_not _ _ _).symm.trans (if_congr Nat.not_lt rfl rfl))

theorem collUnarmedTimeout_leaves {u : State} (mine : s.mine k 4 = true) (leaves : (s.frameIn p k).takeRx p k = some t)
    (takes : t.receive k = .take u) (none : s.collFor k = none)
    (waited : (s.port p.val).rxq.any (fun j => j.pkt == k && decide (j.at_ + 200000 ≤ s.now)) = true) :
    exec (.collUnarmedTimeout p k) s = .next (s.after (u.sendAck 0x12 k.src.val k.vc 0xFFFFFF false k.tag)) := by
  have late : ¬((s.collFor k).isSome || !(s.port p).rxq.any (fun j => j.pkt == k && decide (j.at_ + msUnits ≤ s.now))) = true := by
    have held : (s.port p.val).rxq.any (fun j => j.pkt == k && decide (j.at_ + msUnits ≤ s.now)) = true := waited
    simp [none, held]
  exact finish_eq ((if_neg late).trans (incoming_take mine leaves takes rfl))

end Forwarding

/-- Settles O54: the check of a packet's number, what becomes of a packet for this block by that check, and forwarding, drops,
timeouts and the rise of a rate. -/
theorem transportNumbersAndExecutesPackets : Obligations.TransportNumbersAndExecutesPackets := by
  intro p k s
  refine ⟨⟨receive_expected s k, fun other => ⟨_, receive_other s k other, rfl⟩⟩, fun t u on toUs leaves => ⟨?_, ?_, ?_, ?_, ?_, ?_⟩,
    fun on other => ⟨fun t q qs hops umbale route leaves => packetForward_sends on other hops umbale route leaves,
      fun t ends leaves => packetForward_drops on other ends leaves⟩, fun t => ⟨_, rfl, rfl⟩,
    fun b vc => ⟨retransmitTimeout_leaves b vc, rateIncrease_leaves b⟩⟩
  · intro c listed isOp drops
    have mine := mine_of on toUs isOp
    simp only [List.mem_cons, List.not_mem_nil, or_false] at listed
    rcases listed with rfl | rfl | rfl | rfl | rfl | rfl | rfl | rfl | rfl
    all_goals exact finish_eq (incoming_drop mine leaves drops)
  · intro live mgr term stage isOp drops whole
    have drop := incoming_drop (wait := fun _ => none) (f := fun t => t.beatIn k.src.val
      (if le k.data 8 1 < 64 then some (le k.data 8 1) else none) (BitVec.ofNat 32 (le k.data 9 4)) (BitVec.ofNat 64 (le k.data 13 8)))
      (mine_of on toUs isOp) leaves drops
    rw [← whole] at drop
    exact finish_eq drop
  · intro phase isOp drops addr
    have whole : ({ k with addr := phase.toNat } : Packet) = k := by rw [← addr]
    refine finish_eq (e := State.control s p.val { k with addr := phase.toNat } 0x1B _) ?_
    rw [whole]
    exact incoming_drop (mine_of on toUs isOp) leaves drops
  · intro takes
    refine ⟨fun w => ⟨?_, ?_, ?_⟩, ?_, ?_, ?_, ?_, ?_, ?_, ?_⟩
    · exact fun isOp waits => finish_eq (incoming_wait (mine_of on toUs isOp) leaves takes waits)
    · exact fun isOp waits => finish_eq (incoming_wait (mine_of on toUs isOp) leaves takes waits)
    · exact fun isOp waits => finish_eq (incoming_wait (mine_of on toUs isOp) leaves takes waits)
    · exact fun isOp ready => finish_eq (incoming_take (mine_of on toUs isOp) leaves takes ready)
    · exact fun isOp ready => finish_eq (incoming_take (mine_of on toUs isOp) leaves takes ready)
    · exact fun isOp ready => finish_eq (incoming_take (mine_of on toUs isOp) leaves takes ready)
    · exact fun isOp => finish_eq (incoming_take (mine_of on toUs isOp) leaves takes rfl)
    · intro c isOp ready context
      refine finish_eq ((incoming_take (mine_of on toUs isOp) leaves takes ready).trans ?_)
      rw [context]
    · exact fun w isOp waits => finish_eq (incoming_wait (mine_of on toUs isOp) leaves takes waits)
    · exact fun isOp none waited => collUnarmedTimeout_leaves (mine_of on toUs isOp) leaves takes none waited
  · intro isOp
    refine finish_eq ((ackComes_takes (mine_of on toUs isOp) leaves).trans ?_)
    exact (apply_ite (State.ackIn · k) _ _ _).symm
  · exact fun isOp => finish_eq (ackComes_takes (mine_of on toUs isOp) leaves)

end Sys2Proof.Machine

/-! The block group: what its control packets, its barriers, the expiry of a block and the contexts of collectives change, and the
statement O55. -/

namespace Sys2Proof.Machine

/-- Both branches keep what a function of the state tells. -/
theorem keeps_ite {α β : Type} (g : α → β) {c : Prop} [Decidable c] {x y : α} {v : β} (hx : g x = v) (hy : g y = v) :
    g (if c then x else y) = v := by
  split
  · exact hx
  · exact hy

/-! ## What control packets and barriers leave of the group's record (R444, R458, R459). -/

section View

variable (s : State)

/-- The group's record but for its connections and its barriers. -/
def State.groupView (s : State) : GroupSt := { s.grp with conns := [], gbars := [] }

@[simp] theorem updConn_groupView (b vc : Nat) (f : Conn → Conn) : (s.updConn b vc f).groupView = s.groupView := rfl
@[simp] theorem updGbar_groupView (g : Nat) (f : Gbar → Gbar) : (s.updGbar g f).groupView = s.groupView := rfl
@[simp] theorem updBar_groupView (b : Nat) (f : Barrier → Barrier) : (s.updBar b f).groupView = s.groupView := rfl
@[simp] theorem updCore_groupView (n : Nat) (f : Wrk → Wrk) : (s.updCore n f).groupView = s.groupView := rfl
@[simp] theorem barBreak_groupView (b : Nat) : (s.barBreak b).groupView = s.groupView := rfl

@[simp] theorem connSend_groupView (unit : Nat) (k : Packet) : (s.connSend unit k).groupView = s.groupView := by
  unfold State.connSend
  dsimp only
  split
  · rfl
  · split
    · rw [State.groupView, transmit_grp]
      rfl
    · rfl

@[simp] theorem groupSend_groupView (op dst tag addr : Nat) (data : List Byte) :
    (s.groupSend op dst tag addr data).groupView = s.groupView := connSend_groupView ..

@[simp] theorem barComplete_groupView (b : Nat) : (s.barComplete b).groupView = s.groupView :=
  foldl_keeps State.groupView (fun t n => updCore_groupView t n _) _ _

/-- A packet to every block of a list but this one. -/
theorem foldl_groupSend_groupView (op tag addr : Nat) (data : List Byte) (l : List Nat) :
    (l.foldl (fun t b => if b = t.grp.self then t else t.groupSend op b tag addr data) s).groupView = s.groupView :=
  foldl_keeps State.groupView (fun t b => by split <;> simp) l s

@[simp] theorem gbarBreak_groupView (g : Nat) : (s.gbarBreak g).groupView = s.groupView := by
  simp only [State.gbarBreak, barBreak_groupView, updGbar_groupView, foldl_groupSend_groupView]

@[simp] theorem gbarCheck_groupView : s.gbarCheck.groupView = s.groupView := by
  unfold State.gbarCheck
  split
  · rfl
  · exact foldl_keeps State.groupView (fun t g => by split <;> simp) _ _

@[simp] theorem gbarRelease_groupView (g : Nat) (ph : BitVec 32) : (s.gbarRelease g ph).groupView = s.groupView := by
  unfold State.gbarRelease
  dsimp only
  split <;> simp

@[simp] theorem gbarArrive_groupView (b g : Nat) (ph : BitVec 32) : (s.gbarArrive b g ph).groupView = s.groupView := by
  refine keeps_ite State.groupView (gbarCheck_groupView s) (keeps_ite _ (keeps_ite _ ?_ ?_) ?_)
  · rw [gbarRelease_groupView, updGbar_groupView, foldl_groupSend_groupView]
  · rw [updGbar_groupView, updGbar_groupView, foldl_groupSend_groupView]
  · rw [gbarCheck_groupView, updGbar_groupView]

@[simp] theorem gbarSend_groupView (g : Nat) : (s.gbarSend g).groupView = s.groupView := by
  unfold State.gbarSend
  dsimp only
  split
  · simp
  · split
    · simp
    · split <;> simp

@[simp] theorem gbarResend_groupView : s.gbarResend.groupView = s.groupView :=
  foldl_keeps State.groupView (fun t g => by split <;> simp) _ _

end View

/-! ## What an election leaves (R458). -/

section Ballot

variable (s : State)

/-- The group's record but for what a change of manager and a claim write as well. -/
def State.groupBallot (s : State) : GroupSt :=
  { s.groupView with manager := 0, elected := false, claiming := none, claimAt := 0, granted := none, votes := 0 }

theorem groupBallot_of_view {s t : State} (same : t.groupView = s.groupView) : t.groupBallot = s.groupBallot := by
  simp only [State.groupBallot, same]

@[simp] theorem setManager_groupBallot (m : Nat) : (s.setManager m).groupBallot = s.groupBallot := by
  unfold State.setManager
  split
  · rfl
  · exact groupBallot_of_view (s := s.updGrp fun g => { g with manager := m, elected := true, claiming := none }) (by simp)

@[simp] theorem countVotes_groupBallot : s.countVotes.groupBallot = s.groupBallot := by
  unfold State.countVotes
  split
  · split <;> simp
  · rfl

/-- The blocks that are live and the requests to them. -/
def State.peers (s : State) : W64 × List PeerReq := (s.grp.live, s.grp.reqs)

theorem peers_of_ballot {s t : State} (same : t.groupBallot = s.groupBallot) : t.peers = s.peers :=
  (congrArg (fun g : GroupSt => (g.live, g.reqs)) same :)

theorem peers_of_view {s t : State} (same : t.groupView = s.groupView) : t.peers = s.peers :=
  peers_of_ballot (groupBallot_of_view same)

@[simp] theorem election_peers : s.election.peers = s.peers := by
  refine keeps_ite State.peers ?_ rfl
  rw [peers_of_ballot (countVotes_groupBallot _), peers_of_view (foldl_groupSend_groupView ..)]
  rfl

@[simp] theorem gbarCheck_peers : s.gbarCheck.peers = s.peers := peers_of_view (gbarCheck_groupView s)

end Ballot

/-! ## A block that leaves the view (R444, R449, R455, R457 to R459). -/

section Expiry

variable (s : State)

/-- The end of a distribution takes its requests away, and no other. -/
theorem distAbort_peers : s.distAbort.peers.1 = s.peers.1 ∧ s.distAbort.peers.2.Sublist s.peers.2 := by
  unfold State.distAbort
  split
  · exact ⟨rfl, List.filter_sublist⟩
  · exact ⟨rfl, List.Sublist.refl _⟩

theorem noQuorum_peers : s.noQuorum.peers.1 = s.peers.1 ∧ s.noQuorum.peers.2.Sublist s.peers.2 := by
  unfold State.noQuorum
  split
  · exact ⟨rfl, List.Sublist.refl _⟩
  · rw [foldl_keeps State.peers (fun t g => peers_of_view (keeps_ite _ (by simp) rfl)) _ s.distAbort]
    exact distAbort_peers s

/-- A request that completes is one request less. -/
theorem peerDone_peers (r : PeerReq) (code : BusResp) (data : List Byte) (poison : Bool) :
    (s.peerDone r code data poison).peers = (s.peers.1, s.peers.2.erase r) := by
  unfold State.peerDone
  dsimp only
  split
  · exact keeps_ite State.peers rfl rfl
  · split <;> split <;> rfl
  · rfl
  · rfl

theorem foldl_peerDone_peers (code : BusResp) (l : List PeerReq) : (l.foldl (fun t r => t.peerDone r code [] false) s).peers
    = (s.peers.1, s.peers.2.diff l) := by
  induction l generalizing s with
  | nil => simp
  | cons r l ih => rw [List.foldl_cons, ih, peerDone_peers, List.diff_cons]

@[simp] theorem collEnd_peers (c result : Nat) : (s.collEnd c result).peers = s.peers := rfl

/-- A list without those of its entries that a test names has none of them left. -/
theorem not_mem_diff_filter {α : Type} [DecidableEq α] (l : List α) (p : α → Bool) {a : α} (named : p a = true) :
    a ∉ l.diff (l.filter p) := by
  rw [← List.count_eq_zero, List.count_diff, List.count_filter named, Nat.sub_self]

variable {s}

theorem expire_peers {b : Nat} (other : b ≠ s.grp.self) (lives : s.grp.live.getLsbD b = true)
    (silent : Tbl.get 0 s.grp.heard b + 200000 ≤ s.now) : (s.expire b).peers.1 = s.grp.live &&& ~~~(BitVec.ofNat 64 (2 ^ b))
      ∧ (s.expire b).peers.2.Sublist (s.grp.reqs.diff (s.grp.reqs.filter fun r => r.dst == b)) := by
  have gone : ¬(b = s.grp.self ∨ (!s.grp.live.getLsbD b) = true ∨ s.now < Tbl.get 0 s.grp.heard b + msUnits) := by
    simp [other, lives, msUnits, silent]
  rw [State.expire, if_neg gone]
  dsimp only
  rw [election_peers, gbarCheck_peers]
  obtain ⟨live, fewer⟩ := noQuorum_peers ((List.range 8).foldl (fun t c =>
    if (t.collOf c).st == .running && (t.collOf c).step != 2 && (t.collOf c).next == b then t.collEnd c 4 else t)
    ((s.grp.reqs.filter fun r => r.dst == b).foldl (fun t r => t.peerDone r .domainOff [] false)
      (s.updGrp fun g => { g with live := g.live &&& ~~~(BitVec.ofNat 64 (2 ^ b)), conns := Tbl.cut (4 * b) (4 * b + 4) g.conns })))
  rw [foldl_keeps State.peers (fun t c => keeps_ite _ (collEnd_peers ..) rfl), foldl_peerDone_peers] at live fewer
  exact ⟨live, fewer⟩

theorem getLsbD_blockBit (b : BlockNo) : (BitVec.ofNat 64 (2 ^ b.val)).getLsbD b.val = true := by
  revert b
  decide

theorem livenessExpiry_leaves {b : BlockNo} (other : b.val ≠ s.grp.self) (lives : s.grp.live.getLsbD b.val = true)
    (silent : Tbl.get 0 s.grp.heard b.val + 200000 ≤ s.now) :
    ∃ t, exec (.livenessExpiry b) s = .next (s.after t) ∧ t.grp.live.getLsbD b.val = false ∧ ∀ r ∈ t.grp.reqs, r.dst ≠ b.val := by
  obtain ⟨live, fewer⟩ := expire_peers other lives silent
  refine ⟨s.expire b.val, rfl, ?_, fun r asks toIt => ?_⟩
  · rw [show (s.expire b.val).grp.live = _ from live, BitVec.getLsbD_and, BitVec.getLsbD_not, getLsbD_blockBit]
    simp
  · exact not_mem_diff_filter _ _ (by simpa using toIt) (fewer.subset asks)

end Expiry

/-! ## Heartbeats, claims and grants (R457, R458). -/

section Ballots

variable {s : State} {b : Nat}

theorem adopt_current : s.adopt s.grp.term = s := if_neg (Nat.lt_irrefl _)

theorem beatIn_quiet (member : s.grp.members.getLsbD b = true) (other : b ≠ s.grp.self) (stage : W64) :
    s.beatIn b none s.grp.term stage = s.updGrp fun g => { g with stages := Tbl.set 0 g.stages b stage } := by
  rw [State.beatIn, if_neg (by simp [member, other])]
  exact adopt_current (s := s.updGrp fun g => { g with stages := Tbl.set 0 g.stages b stage })

theorem term_of_ballot {t : State} (same : t.groupBallot = s.groupBallot) : t.grp.term = s.grp.term :=
  (congrArg GroupSt.term same :)

theorem distAbort_term : s.distAbort.grp.term = s.grp.term := by
  unfold State.distAbort
  split <;> rfl

theorem adopt_term {term : BitVec 32} (higher : s.grp.term.toNat < term.toNat) : (s.adopt term).grp.term = term := by
  rw [State.adopt, if_pos higher, distAbort_term]
  rfl

theorem beatIn_term {term : BitVec 32} (member : s.grp.members.getLsbD b = true) (other : b ≠ s.grp.self)
    (higher : s.grp.term.toNat < term.toNat) (mgr : Option Nat) (stage : W64) : (s.beatIn b mgr term stage).grp.term = term := by
  have adopts := adopt_term (s := s.updGrp fun g => { g with stages := Tbl.set 0 g.stages b stage }) higher
  rw [State.beatIn, if_neg (by simp [member, other])]
  cases mgr with
  | none => exact adopts
  | some m => exact keeps_ite (fun t : State => t.grp.term) ((term_of_ballot (setManager_groupBallot ..)).trans adopts) adopts

theorem claimIn_grants {term : BitVec 32} (member : s.grp.members.getLsbD b = true) (other : b ≠ s.grp.self)
    (higher : s.grp.term.toNat < term.toNat) (lowest : s.lowestLive = some b) (fresh : s.grp.granted ≠ some term) :
    s.claimIn b term = ((s.adopt term).updGrp fun g => { g with granted := some term }).groupSend 0x1A b 0 term.toNat [] := by
  rw [State.claimIn, if_neg (by simp [member, other])]
  exact if_pos (by simp [higher, lowest, fresh])

theorem grantIn_counts {term : BitVec 32} (member : s.grp.members.getLsbD b = true) (claims : s.grp.claiming = some term) :
    s.grantIn b term = if s.now < s.grp.claimAt + 100000
      then (s.updGrp fun g => { g with votes := g.votes ||| BitVec.ofNat 64 (2 ^ b) }).countVotes else s := by
  rw [State.grantIn, if_neg (by simp [member])]
  exact if_congr (and_iff_right claims) rfl rfl

theorem heartbeatSend_leaves (on : s.grp.en = true) (tick : s.atTick 20000 = true) (due : s.pollDue 4 20000 = true) :
    exec .heartbeatSend s = .next (s.after (
      let s := s.polledNow 4 20000
      let body := natToBytes s.liveMask.toNat 8 ++ natToBytes (if s.managerValid then s.grp.manager else 0xFF) 1
        ++ natToBytes s.grp.term.toNat 4 ++ natToBytes (s.grp.stageAddr + (if s.grp.stageEn then 1 else 0)) 8
      ((blocksOf s.grp.members).foldl (fun t c => if c = t.grp.self ∨ Tbl.get 0 t.grp.route c = 0 then t
        else t.groupSend 0x18 c 0 0 body) s).election)) :=
  finish_eq (e := s.beatSend) (if_neg (by
    rw [show 100 * usUnits = 20000 from rfl, on, tick, due]
    decide))

theorem claimTimeout_leaves : exec .claimTimeout s
    = .next (s.after (if s.isManager = false ∧ s.grp.claiming ≠ none ∧ s.grp.claimAt + 100000 ≤ s.now
      then s.updGrp fun g => { g with claiming := none, votes := 0 } else s)) := by
  refine finish_eq (e := s.claimLost) ((ite_not _ _ _).symm.trans (if_congr ?_ rfl rfl))
  simp [usUnits]

end Ballots

/-! ## Group barriers and the distribution of an image (R459, R460). -/

section Barriers

variable {s : State}

theorem gbarRelease_next {g : Nat} {ph : BitVec 32} (on : (s.gbar g).en = true)
    (next : (s.bar (s.gbar g).loc).phase + 1 = ph) (sent : (s.gbar g).sent = some ph) : s.gbarRelease g ph
      = (s.updGbar g fun x => { x with phase := ph, sent := none }).barComplete (s.gbar g).loc :=
  if_pos (by rw [on, next, sent]; simp)

theorem imageReceived_leaves (on : s.grp.en = true) (stage : s.grp.stageEn = true) : exec .imageReceived s
    = .next (s.after ((s.updGrp fun g => { g with imageRcvd := true }).updSched fun q =>
        { q with ipi := q.ipi ||| BitVec.ofNat 64 (2 ^ s.grp.irqThread) })) :=
  finish_eq (if_pos (by simp [on, stage]))

variable {a : Agent}

theorem distribute_leaves (heard : s.mute a = false) (may : s.regCode a .grpCmd true .full = .okay) {t : State}
    (leaves : s.distribute = t) : exec (.distribute a) s = .next (s.after (t.reply .okay 0)) :=
  regCmd_leaves heard may (Eq.trans rfl leaves)

end Barriers

/-! ## Contexts of collectives (R453, R455, R462). -/

section Contexts

variable {s t : State} {a : Agent} {k : CollCtx}

theorem collArm_command (heard : s.mute a = false) (may : s.regCode a (.collCmd k.val) true .full = .okay)
    (leaves : s.collArm k = t) : exec (.collArm a k) s = .next (s.after (t.reply .okay 0)) :=
  regCmd_leaves heard may (Eq.trans rfl leaves)

theorem collAbort_command (heard : s.mute a = false) (may : s.regCode a (.collCmd k.val) true .full = .okay)
    (leaves : s.collAbort k = t) : exec (.collAbort a k) s = .next (s.after (t.reply .okay 0)) :=
  regCmd_leaves heard may (Eq.trans rfl leaves)

variable (s) in
/-- What ARM does once the descriptor has been read. -/
def State.collArmed (c a : Nat) (b : List Byte) (bad : Bool) : State :=
  if !collOk b a then s.updColl c fun x => { x with result := 1 }
  else if bad then s.updColl c fun x => { x with result := 5 }
  else if (List.range 8).any fun k => (s.collOf k).st != .idle && (s.collOf k).id == le b 20 2 then
    s.updColl c fun x => { x with result := 7 }
  else
    let ctrl := le b 23 1
    let send := ctrl % 4 == 0
    let s1 := s.updColl c fun x =>
      { x with st := if send then .running else .armed, result := 0, flags := 0, done := 0, sent := 0, src := le b 0 8, dst := le b 8 8,
               len := le b 16 4, id := le b 20 2, next := le b 22 1, step := ctrl % 4, op := field ctrl 3 2, fmt := field ctrl 4 4,
               irq := bitOf ctrl 5, sem := le b 24 8 }
    if !send then s1
    else if !s1.grp.live.getLsbD (le b 22 1) ∨ (s1.routeUp (le b 22 1)).isEmpty then s1.collEnd c 4
    else s1.collSend c

theorem collArm_reads {c : Nat} (idle : (s.collOf c).st = .idle) (reads : inSram (s.collOf c).desc = true
      ∨ ((s.collOf c).desc + 64 ≤ stackedBytes ∧ s.rangeWait (s.collOf c).desc 64 false = none)) :
    let d := s.collDesc (s.collOf c).desc
    s.collArm c = d.1.collArmed c (s.collOf c).desc d.2.1 d.2.2 := by
  have within : ¬((!inSram (s.collOf c).desc) = true ∧ stackedBytes < (s.collOf c).desc + 64) := by
    rcases reads with sram | ⟨within, -⟩
    · simp [sram]
    · exact fun h => absurd h.2 (Nat.not_lt.2 within)
  have ready : (if inSram (s.collOf c).desc then none else s.rangeWait (s.collOf c).desc 64 false) = none := by
    split
    · rfl
    · rename_i stacked
      exact (reads.resolve_left stacked).2
  rw [State.collArm, if_neg (not_not.2 idle), if_neg within]
  simp only [ready]
  rfl

variable {c desc : Nat} {b : List Byte} {bad : Bool}

theorem collArmed_broken (broken : collOk b desc = false) : s.collArmed c desc b bad = s.updColl c fun x => { x with result := 1 } :=
  if_pos (by simp [broken])

theorem collArmed_poison (sound : collOk b desc = true) : s.collArmed c desc b true = s.updColl c fun x => { x with result := 5 } :=
  (if_neg (by simp [sound])).trans (if_pos rfl)

theorem collArmed_twice (sound : collOk b desc = true) (twice : ∃ j < 8, (s.collOf j).st ≠ .idle ∧ (s.collOf j).id = le b 20 2) :
    s.collArmed c desc b false = s.updColl c fun x => { x with result := 7 } := by
  obtain ⟨j, hj, busy, same⟩ := twice
  exact (if_neg (by simp [sound])).trans ((if_neg (by decide)).trans
    (if_pos (List.any_eq_true.2 ⟨j, List.mem_range.2 hj, by simp [busy, same]⟩)))

theorem collArmed_arms (sound : collOk b desc = true) (receives : le b 23 1 % 4 ≠ 0)
    (once : ∀ j < 8, (s.collOf j).st ≠ .idle → (s.collOf j).id ≠ le b 20 2) :
    let x := (s.collArmed c desc b false).collOf c
    x.st = .armed ∧ x.id = le b 20 2 ∧ x.len = le b 16 4 ∧ x.result = 0 := by
  have fresh : ¬((List.range 8).any fun k => (s.collOf k).st != .idle && (s.collOf k).id == le b 20 2) = true := by
    simpa using once
  have receives : (le b 23 1 % 4 == 0) = false := by simpa using receives
  rw [State.collArmed, if_neg (by simp [sound]), if_neg (by decide), if_neg fresh]
  simp only [receives, Bool.not_false, if_true]
  rw [State.collOf, State.updColl]
  simp [State.updGrp, Tbl.get_upd_self]

theorem collComplete_ends (runs : (s.collOf k).st = .running) (whole : (s.collOf k).len ≤ (s.collOf k).done * 128)
    (last : (s.collOf k).step = 2) (noSem : bitOf (s.collOf k).sem 1 = false) (noIrq : (s.collOf k).irq = false) :
    exec (.collComplete k) s = .next (s.after (s.updColl k fun x => { x with st := .idle, result := 0 })) := by
  refine finish_eq (e := s.collDone k) ?_
  have sent : ¬((s.collOf k).st = .running ∧ (s.collOf k).step = 0 ∧ (s.collOf k).sent < (s.collOf k).len) := by simp [last]
  rw [State.collDone, if_neg sent]
  refine (if_neg ?_).trans ?_
  · simp [runs, last, whole]
  · simp only [noSem, noIrq]
    rfl

end Contexts

/-- Settles O55: heartbeats, claims and grants, the expiry of a block, group barriers, the distribution of an image and the contexts
of collectives. -/
theorem groupAndCollectivesAct : Obligations.GroupAndCollectivesAct := by
  intro b s
  refine ⟨fun p k t u on toUs leaves takes => ⟨?_, ?_, ?_, ?_, ?_, ?_⟩,
    fun member other => ⟨beatIn_quiet member other, fun stage mgr term higher => beatIn_term member other higher mgr stage,
      fun term => claimIn_grants member other, fun term => grantIn_counts member⟩,
    fun on tick due => ⟨_, heartbeatSend_leaves on tick due, rfl⟩, livenessExpiry_leaves, claimTimeout_leaves,
    fun g ph => ⟨gbarRelease_next, fun on => if_pos on⟩, imageReceived_leaves,
    fun a heard => ⟨fun may => ⟨?_, ?_, ?_⟩, fun k may => ⟨?_, ?_, fun idle reads => ⟨?_, ?_, ?_, ?_⟩, ?_, ?_⟩⟩, fun k => collComplete_ends⟩
  · intro live mgr term stage isOp whole
    have beats := incoming_take (wait := fun _ => none) (f := fun t => t.beatIn k.src.val
      (if le k.data 8 1 < 64 then some (le k.data 8 1) else none) (BitVec.ofNat 32 (le k.data 9 4)) (BitVec.ofNat 64 (le k.data 13 8)))
      (mine_of on toUs isOp) leaves takes rfl
    refine finish_eq (e := State.control s p.val (k.beat live mgr.toNat term stage.toNat) 0x18 _) ?_
    rw [whole]
    exact beats
  · exact fun isOp => finish_eq (incoming_take (mine_of on toUs isOp) leaves takes rfl)
  · exact fun isOp => finish_eq (incoming_take (mine_of on toUs isOp) leaves takes rfl)
  · intro phase isOp addr
    have whole : ({ k with addr := phase.toNat } : Packet) = k := by rw [← addr]
    refine finish_eq (e := State.control s p.val { k with addr := phase.toNat } 0x1B _) ?_
    rw [whole]
    exact incoming_take (mine_of on toUs isOp) leaves takes rfl
  · exact fun isOp => finish_eq (incoming_take (mine_of on toUs isOp) leaves takes rfl)
  · exact fun isOp => finish_eq (incoming_take (mine_of on toUs isOp) leaves takes rfl)
  · exact fun other => distribute_leaves heard may (if_pos (by simp [other]))
  · exact fun manager busy => distribute_leaves heard may ((if_neg (by simp [manager])).trans (if_pos busy))
  · exact fun _ _ => distribute_leaves heard may rfl
  · exact fun busy => collArm_command heard may (if_pos busy)
  · exact fun idle outside far => collArm_command heard may ((if_neg (not_not.2 idle)).trans (if_pos ⟨by simp [outside], far⟩))
  · exact fun broken => collArm_command heard may ((collArm_reads idle reads).trans (collArmed_broken broken))
  · intro sound poison
    refine collArm_command heard may ((collArm_reads idle reads).trans ?_)
    rw [poison, collArmed_poison sound]
  · intro sound clean twice
    refine collArm_command heard may ((collArm_reads idle reads).trans ?_)
    rw [clean, collArmed_twice sound twice]
  · intro sound clean receives once
    refine ⟨_, collArm_command heard may (collArm_reads idle reads), ?_⟩
    rw [clean]
    exact collArmed_arms sound receives once
  · exact fun idle => collAbort_command heard may (if_pos idle)
  · exact fun busy => collAbort_command heard may (if_neg busy)

end Sys2Proof.Machine

/-! Clocks, rails, the cap limiter and the power domains: operating points and the relock, readings of the rails, the limiter's
level, what an off or on domain holds, and the statement O47. -/

namespace Sys2Proof.Machine

/-! ## Operating points (R466, R467). -/

section OperatingPoints

variable {s : State}

/-- A command in a register that its write hands to one function leaves what the function makes of it. -/
theorem opStageWrite_leaves {a : Agent} {val : W64} {t : State} (heard : s.mute a = false)
    (may : s.regCode a .clkStg true .full = .okay) (stages : s.opStage val = t) :
    exec (.opStageWrite a val) s = .next (s.after (t.reply .okay 0)) :=
  regCmd_leaves heard may (Eq.trans rfl stages)

theorem opStage_usable {val : W64} (idle : s.commit.active = false) (named : val.toNat % 4 < s.cfg.op.count)
    (usable : s.nut.usable.getLsbD (val.toNat % 4) = true) : s.opStage val = { s with clk := { s.clk with
      stgIndex := val.toNat % 4, stgPend := decide (val.toNat % 4 ≠ s.clk.cur),
      standby := if val.toNat % 4 = s.clk.cur then .stopped else .locking } } := by
  unfold State.opStage
  rw [if_neg (by simp [idle]), if_neg (by simp [named, usable])]
  split
  next same => simp [same]
  next other => simp [other]

theorem opStage_ignored {val : W64} (idle : s.commit.active = false)
    (unusable : s.cfg.op.count ≤ val.toNat % 4 ∨ s.nut.usable.getLsbD (val.toNat % 4) = false) : s.opStage val = s :=
  (if_neg (by simp [idle])).trans (if_pos (by simpa using unusable))

/-- The last acknowledgement of a commit with an operating-point change starts the relock. -/
theorem partApply_relocks {u : Nat} (active : s.commit.active = true) (part : u ∈ s.commit.parts) (silent : u ∉ s.commit.acked)
    (notWithheld : u ∉ s.commit.withheld) (early : s.now < s.commit.deadline) (still : s.boundary u = true)
    (quiet : s.injHit 0x3B u 0 = false) : s.partApply u
      = { s with commit := { s.commit with acked := s.commit.acked ++ [u] },
                 clk := if s.commit.withOp && s.commit.parts.all (s.commit.acked ++ [u]).contains then { s.clk with relock := true }
                   else s.clk } := by
  unfold State.partApply
  rw [if_neg (by simp [active, part, silent, notWithheld, early, still]), if_neg (by simp [quiet])]
  dsimp only
  split <;> rfl

/-! A change of the settings leaves the clock generator alone. -/

theorem takeFp_clk (s : State) (o : ShapeCfg) : (s.takeFp o).clk = s.clk := by
  refine foldl_keeps State.clk (fun t n => ?_) _ _
  exact (apply_ite State.clk _ _ _).trans (ite_self _)

theorem putCfg_clk (s : State) (n : ShapeCfg) : (s.putCfg n).clk = s.clk := by
  have ops (t : State) : (if s.cfg.op == n.op then t
      else (t.updNut fun x => { x with capW := n.op.capW }).markUsable).clk = t.clk := by
    split <;> rfl
  refine (takeFp_clk _ _).trans ((ops _).trans ?_)
  refine (foldl_keeps State.clk (fun t p => ?trees) _ _).trans (foldl_keeps State.clk (fun t q => ?saffron) _ _)
  case trees => split <;> rfl
  case saffron => split <;> rfl

/-- Measurements stand beside the clocks; stated for any table of them, so that no digest is computed. -/
theorem withMeas_clk (s : State) (m : Tbl (BitVec 384)) : ({ s with sec := { s.sec with meas := m } } : State).clk = s.clk := rfl

theorem takeImage_clk (s : State) : s.takeImage.clk = s.clk := by
  unfold State.takeImage
  split
  · exact (putCfg_clk ..).trans (withMeas_clk s _)
  · rfl

theorem takeStaged_clk (t : State) (e : Nat × Wrk) : (t.takeStaged e).clk = t.clk := by
  unfold State.takeStaged
  split <;> rfl

theorem commitEnd_clk (s : State) : s.commitEnd.clk = { s.clk with stgPend := false } := by
  have staged : (s.takeImage.wrk.foldl State.takeStaged s.takeImage).clk = s.clk :=
    (foldl_keeps State.clk takeStaged_clk _ _).trans (takeImage_clk s)
  exact congrArg (fun c : ClkSt => { c with stgPend := false }) staged

theorem checkMargin_clk (s : State) : s.checkMargin.clk = s.clk := by
  unfold State.checkMargin
  dsimp only
  split
  · rfl
  · split <;> rfl

theorem relockEnd_leaves (relocks : s.clk.relock = true) : ∃ t, exec .relockEnd s = .next (s.after t) ∧ t.clk.relock = false
    ∧ t.clk.cur = s.clk.stgIndex ∧ t.clk.mult = (s.cfg.opAt s.clk.stgIndex).mult
    ∧ t.clk.switches = min (s.clk.switches + 1) 0xFFFF ∧ t.clk.standby = .stopped := by
  refine ⟨_, finish_eq (e := s.relockEnd) (if_neg (by simp [relocks])), ?_⟩
  rw [checkMargin_clk]
  split
  · rw [commitEnd_clk]
    exact ⟨rfl, rfl, rfl, rfl, rfl⟩
  · exact ⟨rfl, rfl, rfl, rfl, rfl⟩

end OperatingPoints

/-! ## Rails (R472, R474). -/

section Rails

variable {s : State} {rail : Rail} {v : Nat}

theorem avsDo_write (s : State) (rail v : Nat) : s.avsDo rail .write true v
    = if !s.railMay rail v then s else s.updNut fun n => { n with target := Tbl.set 0 n.target rail v, avsFails := 0 } := rfl

theorem avsWrite_none (other : s.railGoal rail.val ≠ some v) : exec (.avsTransaction rail .write true v) s = .next (s.after s) :=
  finish_eq ((avsDo_write ..).trans (if_pos (by simp [State.railMay, other])))

/-- VSRAM is raised before VCORE, -/
theorem avsWrite_coreWaits (rises : Tbl.get 0 s.nut.target 0 < v) (low : Tbl.get 0 s.nut.target 1 < (s.railGoal 1).getD 0) :
    exec (.avsTransaction 0 .write true v) s = .next (s.after s) :=
  finish_eq ((avsDo_write ..).trans (if_pos (by simp [State.railMay, rises, low])))

/-- and lowered after it. -/
theorem avsWrite_sramWaits (falls : v < Tbl.get 0 s.nut.target 1) (high : (s.railGoal 0).getD 0 < Tbl.get 0 s.nut.target 0) :
    exec (.avsTransaction 1 .write true v) s = .next (s.after s) :=
  finish_eq ((avsDo_write ..).trans (if_pos (by simp [State.railMay, falls, high])))

theorem avsWrite_sets (goal : s.railGoal rail.val = some v)
    (core : rail.val = 0 → Tbl.get 0 s.nut.target 0 < v → (s.railGoal 1).getD 0 ≤ Tbl.get 0 s.nut.target 1)
    (sram : rail.val = 1 → v < Tbl.get 0 s.nut.target 1 → Tbl.get 0 s.nut.target 0 ≤ (s.railGoal 0).getD 0) :
    exec (.avsTransaction rail .write true v) s
      = .next (s.after (s.updNut fun n => { n with target := Tbl.set 0 n.target rail.val v, avsFails := 0 })) := by
  have may : s.railMay rail v = true := by
    simp only [State.railMay, goal, beq_self_eq_true, Bool.true_and, Bool.and_eq_true, Bool.not_eq_true', Bool.and_eq_false_iff,
      beq_eq_false_iff_ne, decide_eq_false_iff_not, Nat.not_lt]
    exact ⟨by omega, by omega⟩
  exact finish_eq ((avsDo_write ..).trans (if_neg (by simp [may])))

theorem avsRead_other (other : rail.val ≠ 0) :
    exec (.avsTransaction rail .readMv true v) s = .next (s.after (s.updNut fun n =>
      { n with mv := Tbl.set 0 n.mv rail.val v, avsFails := 0, avsHold := false }))
    ∧ exec (.avsTransaction rail .readAmps true v) s = .next (s.after (s.updNut fun n =>
      { n with amps := Tbl.set 0 n.amps rail.val v, avsFails := 0, avsHold := false })) :=
  ⟨finish_eq (e := s.avsVolts rail v) (if_neg fun h => other h.1), finish_eq (e := s.avsAmps rail v) (if_neg fun h => other h.1)⟩

theorem avsVolts_core : let t := s.avsVolts 0 v
    Tbl.get 0 t.nut.mv 0 = v ∧ t.nut.avsFails = 0 ∧ t.nut.avsHold = false
      ∧ t.nut.protect = (s.nut.protect && !decide (2 * (s.setPoints s.clk.cur).getD 0 0 ≤ 2 * v + 5)) := by
  unfold State.avsVolts
  dsimp only
  split
  next ends =>
    obtain ⟨-, -, reached⟩ := ends
    have reached : 2 * (s.setPoints s.clk.cur).getD 0 0 ≤ 2 * v + 5 := reached
    refine ⟨Tbl.get_set_self .., rfl, rfl, ?_⟩
    rw [decide_eq_true reached, Bool.not_true, Bool.and_false]
    rfl
  next stays =>
    refine ⟨Tbl.get_set_self .., rfl, rfl, ?_⟩
    show s.nut.protect = _
    by_cases holds : s.nut.protect = true
    · have below : ¬2 * (s.setPoints s.clk.cur).getD 0 0 ≤ 2 * v + 5 := fun reached => stays ⟨rfl, holds, reached⟩
      rw [decide_eq_false below, Bool.not_false, Bool.and_true]
    · rw [Bool.eq_false_iff.2 holds, Bool.false_and]

theorem avsAmps_core : let t := s.avsAmps 0 v
    Tbl.get 0 t.nut.amps 0 = v ∧ t.nut.avsFails = 0 ∧ t.nut.avsHold = false ∧ t.nut.iLoad = max s.nut.iLoad v := by
  unfold State.avsAmps
  dsimp only
  split
  next more => exact ⟨Tbl.get_set_self .., rfl, rfl, (Nat.max_eq_right more.2.le).symm⟩
  next less => exact ⟨Tbl.get_set_self .., rfl, rfl, (Nat.max_eq_left (Nat.not_lt.1 fun more => less ⟨rfl, more⟩)).symm⟩

theorem avsFails_first (cmd : AvsCmd) (notThird : s.nut.avsFails ≠ 2) : exec (.avsTransaction rail cmd false v) s
    = .next (s.after (s.updNut fun n => { n with avsFails := n.avsFails + 1 })) :=
  finish_eq (e := s.avsFail rail) (if_neg (by omega))

theorem avsFails_third (cmd : AvsCmd) (third : s.nut.avsFails = 2) : exec (.avsTransaction rail cmd false v) s
    = .next (s.after ((s.updNut fun n =>
      { n with avsFails := 3, avsHold := true, event := n.event ||| BitVec.ofNat 7 (2 ^ 6) }).raise 0x35 0x491 0 rail.val)) := by
  have held : s.avsFail rail = (s.updNut fun n => { n with avsFails := s.nut.avsFails + 1, avsHold := true }).nutEvent 6 0x35 rail :=
    if_pos (by rw [third])
  rw [third] at held
  exact finish_eq held

/-- One rail's readings in a poll. -/
def State.readRail (s : State) (mv amps : List Nat) (r : Nat) : State := (s.avsVolts r (mv.getD r 0)).avsAmps r (amps.getD r 0)

/-- What the readings of one rail leave of the tables, and of what every reading leaves. -/
theorem readRail_leaves (s : State) (mv amps : List Nat) (r : Nat) : let t := s.readRail mv amps r
    t.nut.mv = Tbl.set 0 s.nut.mv r (mv.getD r 0) ∧ t.nut.amps = Tbl.set 0 s.nut.amps r (amps.getD r 0) ∧ t.nut.avsFails = 0
      ∧ t.nut.avsHold = false ∧ t.nut.iLoad = (if r = 0 then max s.nut.iLoad (amps.getD 0 0) else s.nut.iLoad)
      ∧ t.nut.polled = s.nut.polled ∧ t.now = s.now := by
  have volts : let u := s.avsVolts r (mv.getD r 0)
      u.nut.mv = Tbl.set 0 s.nut.mv r (mv.getD r 0) ∧ u.nut.amps = s.nut.amps ∧ u.nut.iLoad = s.nut.iLoad
        ∧ u.nut.polled = s.nut.polled ∧ u.now = s.now := by
    unfold State.avsVolts
    dsimp only
    split <;> exact ⟨rfl, rfl, rfl, rfl, rfl⟩
  obtain ⟨hmv, hamps, hload, hpolled, hnow⟩ := volts
  unfold State.readRail State.avsAmps
  dsimp only
  rw [← hmv, ← hamps, ← hload, ← hpolled, ← hnow]
  split
  next more =>
    obtain ⟨rfl, more⟩ := more
    exact ⟨rfl, rfl, rfl, rfl, (Nat.max_eq_right more.le).symm, rfl, rfl⟩
  next less =>
    refine ⟨rfl, rfl, rfl, rfl, ?_, rfl, rfl⟩
    split
    next zero =>
      subst zero
      exact (Nat.max_eq_left (Nat.not_lt.1 fun more => less ⟨rfl, more⟩)).symm
    next => rfl

theorem railPoll_none (mv amps : List Nat) (done : Tbl.get 0 s.nut.polled 1 = s.now / 20000) :
    exec (.railPoll mv amps) s = .next (s.after s) :=
  finish_eq (e := s.railPoll mv amps) (if_neg (by simp [State.pollDue, usUnits, done]))

theorem railPoll_reads (mv amps : List Nat) (due : Tbl.get 0 s.nut.polled 1 ≠ s.now / 20000) :
    ∃ t, exec (.railPoll mv amps) s = .next (s.after t)
      ∧ (∀ r < 4, Tbl.get 0 t.nut.mv r = mv.getD r 0 ∧ Tbl.get 0 t.nut.amps r = amps.getD r 0)
      ∧ t.nut.avsFails = 0 ∧ t.nut.avsHold = false ∧ t.nut.iLoad = max s.nut.iLoad (amps.getD 0 0)
      ∧ Tbl.get 0 t.nut.polled 1 = s.now / 20000 := by
  refine ⟨_, finish_eq (e := s.railPoll mv amps) (if_pos (by simpa [State.pollDue, usUnits] using due)), ?_⟩
  set s0 := s.readRail mv amps 0 with h0
  set s1 := s0.readRail mv amps 1 with h1
  set s2 := s1.readRail mv amps 2 with h2
  obtain ⟨mv0, amps0, -, -, load0, -, now0⟩ := readRail_leaves s mv amps 0
  obtain ⟨mv1, amps1, -, -, load1, -, now1⟩ := readRail_leaves s0 mv amps 1
  obtain ⟨mv2, amps2, -, -, load2, -, now2⟩ := readRail_leaves s1 mv amps 2
  obtain ⟨mv3, amps3, fails, hold, load3, -, now3⟩ := readRail_leaves s2 mv amps 3
  rw [← h0] at mv0 amps0 load0 now0
  rw [← h1, mv0] at mv1
  rw [← h1, amps0] at amps1
  rw [← h1] at load1 now1
  rw [← h2, mv1] at mv2
  rw [← h2, amps1] at amps2
  rw [← h2] at load2 now2
  rw [mv2] at mv3
  rw [amps2] at amps3
  refine ⟨fun r hr => ?_, fails, hold, load3.trans (load2.trans (load1.trans load0)), ?_⟩
  · constructor
    · refine (congrArg (Tbl.get 0 · r) mv3).trans ?_
      interval_cases r <;> simp [Tbl.get_set]
    · refine (congrArg (Tbl.get 0 · r) amps3).trans ?_
      interval_cases r <;> simp [Tbl.get_set]
  · exact (Tbl.get_set_self ..).trans (congrArg (· / 20000) (now3.trans (now2.trans (now1.trans now0))))

end Rails

/-! ## The cap limiter (R474, R476). -/

section Cap

variable {s : State}

theorem capEvaluation_none (done : Tbl.get 0 s.nut.polled 0 = s.now / 20000) : exec .capEvaluation s = .next (s.after s) :=
  finish_eq (e := s.capEval) (if_neg (by simp [State.pollDue, usUnits, done]))

theorem capEvaluation_steps (due : Tbl.get 0 s.nut.polled 0 ≠ s.now / 20000) :
    let p := s.powerNow
    let ps := (p :: s.nut.power).take 10
    let cap := s.nut.capW * 1000 * ps.length
    let old := s.nut.capLevel
    ∃ t, exec .capEvaluation s = .next (s.after t) ∧ t.nut.power = ps ∧ t.nut.energy = s.nut.energy + p
      ∧ t.nut.capLevel = (if cap < ps.sum then min (old + 1) 7 else if 100 * ps.sum < 97 * cap then old - 1 else old)
      ∧ (t.nut.capLevel < 7 → t.nut.capSince = none) ∧ Tbl.get 0 t.nut.polled 0 = s.now / 20000 :=
  ⟨_, finish_eq (e := s.capEval) (if_pos (by simpa [State.pollDue, usUnits] using due)), rfl, rfl, rfl, fun low => if_pos low,
    Tbl.get_set_self ..⟩

theorem capSustained_raises {at_ : Nat} (since : s.nut.capSince = some at_) (long : at_ + 2000000 ≤ s.now)
    (top : s.nut.capLevel = 7) : exec .capSustained s = .next (s.after ((s.updNut fun n =>
      { n with capSince := none, event := n.event ||| BitVec.ofNat 7 (2 ^ 3) }).raise 0x37 0x491 0 0)) := by
  refine finish_eq (e := s.capSustain) ?_
  simp only [State.capSustain, since]
  exact if_pos ⟨long, top⟩

end Cap

/-! ## Power domains (R473). -/

section Domains

variable {s : State}

/-- FPDEFAULT of a core by its partition (R45). -/
def State.fpSetting (s : State) (n : Nat) : BitVec 4 :=
  match s.partOf n with | some p => BitVec.ofNat 4 (s.cfg.partOf p).fpdefault | none => 0

/-- The core, the caches and the memory of a tile return to reset values. -/
def State.tileWiped (s : State) (n : Nat) : State :=
  { (s.updCore n fun _ => { Wrk.off with fpdefault := s.fpSetting n }) with
    l1 := Tbl.upd Cache.off s.l1 n Cache.wiped, icache := Tbl.upd Cache.off s.icache n Cache.wiped,
    mem := { s.mem with tile := Tbl.cut (0x40_0000 * n) (0x40_0000 * (n + 1)) s.mem.tile,
                        tilePoison := Tbl.cut (0x8_0000 * n) (0x8_0000 * (n + 1)) s.mem.tilePoison,
                        tileErr := Tbl.cut (0x8_0000 * n) (0x8_0000 * (n + 1)) s.mem.tileErr } }

/-- The reset of a tile wipes its traversal unit besides. -/
theorem tileReset_wiped (s : State) (n : Nat) : (s.tileReset n).wrk = (s.tileWiped n).wrk ∧ (s.tileReset n).l1 = (s.tileWiped n).l1
    ∧ (s.tileReset n).mem = (s.tileWiped n).mem := by
  unfold State.tileReset
  dsimp only
  split <;> exact ⟨rfl, rfl, rfl⟩

theorem tileWiped_core (s : State) (n : Nat) : (s.tileWiped n).core n = { Wrk.off with fpdefault := s.fpSetting n } :=
  (core_updCore_self s n fun _ => { Wrk.off with fpdefault := s.fpSetting n } :)

theorem reset_core {w : Wrk} {fp : BitVec 4} (same : w = { Wrk.off with fpdefault := fp }) :
    w = { Wrk.off with fpdefault := w.fpdefault } := by
  subst same
  rfl

theorem getLsbD_tileBit (n : Core) : (BitVec.ofNat 256 (2 ^ n.val)).getLsbD n.val = true := by
  rw [BitVec.getLsbD_ofNat, Nat.testBit_two_pow_self, decide_eq_true n.isLt]
  rfl

theorem getLsbD_cloveBit (c : Sys2Proof.Clove) : (BitVec.ofNat 8 (2 ^ c.val)).getLsbD c.val = true := getLsbD_laneBit c

theorem tileWiped_l1 (s : State) (n : Nat) : Tbl.get Cache.off (s.tileWiped n).l1 n = (Tbl.get Cache.off s.l1 n).wiped :=
  Tbl.get_upd_self ..

theorem tileWiped_tile (s : State) (n : Nat) {o : Nat} (inside : o < 0x40_0000) :
    Tbl.get 0 (s.tileWiped n).mem.tile (0x40_0000 * n + o) = 0 :=
  (Tbl.get_cut ..).trans (if_pos ⟨by omega, by omega⟩)

theorem domainOff_tile {n : Core} (asked : s.nut.pdReq.getLsbD n.val = true) (on : s.nut.pdState.getLsbD n.val = false) :
    ∃ t, exec (.domainOffDone (.tile n)) s = .next (s.after t) ∧ t.nut.pdState.getLsbD n.val = true
      ∧ t.core n.val = { Wrk.off with fpdefault := (t.core n.val).fpdefault }
      ∧ t.cacheOf (.l1 n) = { Cache.off with dis := (s.cacheOf (.l1 n)).dis, busy := false }
      ∧ ∀ o < 0x40_0000, Tbl.get 0 t.mem.tile (0x40_0000 * n.val + o) = 0 := by
  obtain ⟨wrk, l1, mem⟩ := tileReset_wiped s n
  have core : (s.tileReset n).core n = { Wrk.off with fpdefault := s.fpSetting n } :=
    (congrArg (Tbl.get Wrk.off · n.val) wrk).trans (tileWiped_core s n)
  refine ⟨_, finish_eq (e := s.domainOff (.tile n)) (if_pos (by rw [asked, on]; rfl)), ?_, reset_core core,
    (congrArg (Tbl.get Cache.off · n.val) l1).trans (tileWiped_l1 s n), fun o inside =>
    (congrArg (fun m : MemSt => Tbl.get 0 m.tile (0x40_0000 * n.val + o)) mem).trans (tileWiped_tile s n inside)⟩
  exact BitVec.getLsbD_or.trans (by rw [getLsbD_tileBit, Bool.or_true])

theorem domainOn_tile {n : Core} (released : s.nut.pdReq.getLsbD n.val = false) (off : s.nut.pdState.getLsbD n.val = true) :
    exec (.domainOnDone (.tile n)) s = .next (s.after ((s.tileReset n.val).updNut fun x =>
      { x with pdState := x.pdState &&& ~~~(BitVec.ofNat 256 (2 ^ n.val)) })) :=
  finish_eq (e := s.domainOn (.tile n)) (if_pos (by rw [released, off]; rfl))

theorem domainOff_clove {c : Sys2Proof.Clove} (asked : s.nut.clvReq.getLsbD c.val = true)
    (on : s.nut.clvState.getLsbD c.val = false) : ∃ t, exec (.domainOffDone (.clove c)) s = .next (s.after t)
      ∧ t.nut.clvState.getLsbD c.val = true ∧ t.cacheOf (.clv c) = { Cache.off with dis := (s.cacheOf (.clv c)).dis, busy := false } := by
  refine ⟨_, finish_eq (e := s.domainOff (.clove c)) (if_pos (by rw [asked, on]; rfl)), ?_, Tbl.get_upd_self ..⟩
  exact BitVec.getLsbD_or.trans (by rw [getLsbD_cloveBit, Bool.or_true])

theorem domainOn_clove {c : Sys2Proof.Clove} (released : s.nut.clvReq.getLsbD c.val = false)
    (off : s.nut.clvState.getLsbD c.val = true) : exec (.domainOnDone (.clove c)) s = .next (s.after ((s.clvReset c.val).updNut fun x =>
      { x with clvState := x.clvState &&& ~~~(BitVec.ofNat 8 (2 ^ c.val)) })) :=
  finish_eq (e := s.domainOn (.clove c)) (if_pos (by rw [released, off]; rfl))

end Domains

/-- Settles O47: staged operating points and the relock, transactions and polls of the rails, the cap limiter, and what a domain
holds that goes off or comes on. -/
theorem clocksRailsAndDomainsAct : Obligations.ClocksRailsAndDomainsAct := by
  intro a val s
  refine ⟨fun heard may => ⟨fun active => opStageWrite_leaves heard may (if_pos active),
      fun idle named usable => opStageWrite_leaves heard may (opStage_usable idle named usable),
      fun idle unusable => opStageWrite_leaves heard may (opStage_ignored idle unusable)⟩,
    fun locks runs => finish_eq (e := s.pllLock) (if_pos ⟨locks, runs⟩),
    fun active part silent notWithheld early still quiet =>
      finish_eq (e := s.partApply 0x491) (partApply_relocks active part silent notWithheld early still quiet),
    relockEnd_leaves,
    fun rail v => ⟨avsWrite_none, avsWrite_sets, avsWrite_coreWaits, avsWrite_sramWaits, avsRead_other, ⟨_, rfl, avsVolts_core⟩,
      ⟨_, rfl, avsAmps_core⟩, fun cmd => ⟨avsFails_first cmd, avsFails_third cmd⟩⟩,
    fun mv amps _ _ => ⟨railPoll_none mv amps, railPoll_reads mv amps⟩, capEvaluation_none, capEvaluation_steps,
    fun at_ => capSustained_raises, fun heard may => ?_, fun j heard may => regCmd_leaves heard may rfl,
    fun heard may => regCmd_leaves heard may rfl, fun n => ⟨domainOff_tile, domainOn_tile⟩, fun c => domainOn_clove,
    fun c => domainOff_clove⟩
  exact regCmd_leaves heard may rfl

end Sys2Proof.Machine

/-! Temperature, the margin planner and droop: what a thermal sample leaves, the age a plan measures, and the guard-bands and
calibrations that follow a loss of validity, and the statement O48. -/

namespace Sys2Proof.Machine

/-! ## Temperature (R477, R478). -/

section Temperature

variable (s : State) (die spine : List Nat)

/-- The hottest reading of a sample. -/
def hottestOf (die spine : List Nat) : Nat := (die.take 64 ++ spine.take 4).foldl max 0

/-- The unit-free place of the hottest reading, which the events carry. -/
def hotPlace (die spine : List Nat) : Nat :=
  ((die.take 64 ++ spine.take 4).findIdx? (· == hottestOf die spine)).getD 0

/-- The sample taken down: its readings, the warning and the hold at 90 °C. -/
def State.sampled : State :=
  let hot := hottestOf die spine
  let s1 := s.updNut fun n =>
    { n with die := Tbl.setMany 0xFF n.die 0 (die.take 64), spine := Tbl.setMany 0xFF n.spine 0 (spine.take 4), tDie := hot,
             warn := decide (n.warnT ≤ hot),
             event := if n.warnT ≤ hot ∧ !n.warn then n.event ||| 1 else n.event,
             hot90 := if 90 ≤ hot then true else if hot < 88 then false else n.hot90,
             coolSince := if hot < 90 then n.coolSince.or (some s.now) else none }
  if s.nut.warnT ≤ hot then { s1 with pins := { s1.pins with alertOut := true } } else s1

/-- The trip at 95 °C. -/
def State.sampleTrip (t : State) (hot : Nat) : State := if 95 ≤ hot then t.tripNow else t

/-- The event of the trip. -/
def State.sampleTripEvent (t s : State) (hot at_ : Nat) : State :=
  if 95 ≤ hot ∧ (s.nut.tDie < 95 ∨ !s.nut.trip) then t.raise 0x30 0x491 0 at_ else t

/-- The critical output and its event at 105 °C. -/
def State.sampleCritical (t s : State) (hot at_ : Nat) : State :=
  if 105 ≤ hot then
    let u := { t with pins := { t.pins with critOut := true } }
    if s.nut.tDie < 105 then u.nutEvent 2 0x31 at_ else u
  else t

theorem thermal_eq : s.thermal die spine
    = ((((s.sampled die spine).sampleTrip (hottestOf die spine)).sampleTripEvent s (hottestOf die spine)
        (hotPlace die spine)).sampleCritical s (hottestOf die spine) (hotPlace die spine)).tierCool.alertCheck := rfl

/-- What the thresholds of a sample change, and nothing else reads: the readings and the outputs of the thresholds below. -/
def State.heat (s : State) : Nat × Bool × Bool × Nat := (s.nut.tDie, s.nut.warn, s.nut.hot90, s.nut.warnT)

theorem sampled_leaves : let t := s.sampled die spine
    let hot := hottestOf die spine
    t.heat = (hot, decide (s.nut.warnT ≤ hot), if 90 ≤ hot then true else if hot < 88 then false else s.nut.hot90, s.nut.warnT)
      ∧ t.nut.trip = s.nut.trip ∧ (s.nut.warnT ≤ hot → t.pins.alertOut = true) := by
  unfold State.sampled
  dsimp only
  split
  next => exact ⟨rfl, rfl, fun _ => rfl⟩
  next cool => exact ⟨rfl, rfl, fun warm => absurd warm cool⟩

theorem sampleTrip_leaves (t : State) (hot : Nat) : let u := t.sampleTrip hot
    u.heat = t.heat ∧ (95 ≤ hot → u.nut.trip = true ∧ u.nut.event.getLsbD 1 = true) ∧ (hot < 95 → u.nut.trip = t.nut.trip)
      ∧ (t.pins.alertOut = true → u.pins.alertOut = true) := by
  unfold State.sampleTrip
  split
  next warm =>
    refine ⟨rfl, fun _ => ⟨rfl, ?_⟩, fun cool => absurd warm (Nat.not_le.2 cool), fun _ => rfl⟩
    exact BitVec.getLsbD_or.trans (Bool.or_true _)
  next cool => exact ⟨rfl, fun warm => absurd warm cool, fun _ => rfl, id⟩

theorem sampleTripEvent_leaves (t : State) (hot at_ : Nat) :
    (t.sampleTripEvent s hot at_).nut = t.nut ∧ (t.sampleTripEvent s hot at_).pins = t.pins := by
  unfold State.sampleTripEvent
  split <;> exact ⟨rfl, rfl⟩

theorem sampleCritical_leaves (t : State) (hot at_ : Nat) : let u := t.sampleCritical s hot at_
    u.heat = t.heat ∧ u.nut.trip = t.nut.trip ∧ (t.nut.event.getLsbD 1 = true → u.nut.event.getLsbD 1 = true)
      ∧ (105 ≤ hot → u.pins.critOut = true) ∧ u.pins.alertOut = t.pins.alertOut := by
  unfold State.sampleCritical
  dsimp only
  split
  next critical =>
    split
    next first =>
      refine ⟨rfl, rfl, fun old => ?_, fun _ => rfl, rfl⟩
      exact BitVec.getLsbD_or.trans (by rw [old, Bool.true_or])
    next => exact ⟨rfl, rfl, id, fun _ => rfl, rfl⟩
  next below => exact ⟨rfl, rfl, id, fun critical => absurd critical below, rfl⟩

/-- The alert is kept while the block is warm. -/
theorem alertCheck_leaves (t : State) : t.alertCheck.nut = t.nut ∧ t.alertCheck.pins.critOut = t.pins.critOut
    ∧ (t.nut.warnT ≤ t.nut.tDie → t.alertCheck.pins.alertOut = t.pins.alertOut) := by
  unfold State.alertCheck
  split
  next cool => exact ⟨rfl, rfl, fun warm => absurd cool.1 (by omega)⟩
  next => exact ⟨rfl, rfl, fun _ => rfl⟩

theorem thermal_leaves : let t := s.thermal die spine
    let hot := hottestOf die spine
    t.nut.tDie = hot ∧ t.nut.warn = decide (s.nut.warnT ≤ hot)
      ∧ t.nut.hot90 = (if 90 ≤ hot then true else if hot < 88 then false else s.nut.hot90)
      ∧ (95 ≤ hot → t.nut.trip = true ∧ t.nut.event.getLsbD 1 = true) ∧ (hot < 95 → t.nut.trip = s.nut.trip)
      ∧ (105 ≤ hot → t.pins.critOut = true) ∧ (s.nut.warnT ≤ hot → t.pins.alertOut = true) := by
  dsimp only
  set hot := hottestOf die spine
  obtain ⟨heat1, trip1, alert1⟩ := sampled_leaves s die spine
  obtain ⟨heat2, trips2, trip2, alert2⟩ := sampleTrip_leaves (s.sampled die spine) hot
  obtain ⟨nut3, pins3⟩ := sampleTripEvent_leaves s ((s.sampled die spine).sampleTrip hot) hot (hotPlace die spine)
  obtain ⟨heat4, trip4, event4, critical4, alert4⟩ := sampleCritical_leaves s
    (((s.sampled die spine).sampleTrip hot).sampleTripEvent s hot (hotPlace die spine)) hot (hotPlace die spine)
  obtain ⟨nut5, critical5, alert5⟩ := alertCheck_leaves
    ((((s.sampled die spine).sampleTrip hot).sampleTripEvent s hot (hotPlace die spine)).sampleCritical s hot
      (hotPlace die spine)).tierCool
  rw [nut3] at trip4 event4
  rw [pins3] at alert4
  have heat3 : (((s.sampled die spine).sampleTrip hot).sampleTripEvent s hot (hotPlace die spine)).heat
      = ((s.sampled die spine).sampleTrip hot).heat := congrArg (fun n : NutSt => (n.tDie, n.warn, n.hot90, n.warnT)) nut3
  have heat := heat4.trans (heat3.trans (heat2.trans heat1))
  simp only [State.heat, Prod.mk.injEq] at heat
  obtain ⟨die4, warn4, hot4, warnT4⟩ := heat
  rw [thermal_eq, nut5, critical5]
  refine ⟨die4, warn4, hot4, fun warm => ⟨trip4.trans (trips2 warm).1, event4 (trips2 warm).2⟩,
    fun cool => trip4.trans ((trip2 cool).trans trip1), critical4, fun warm => ?_⟩
  have warmNow := (warnT4.le.trans warm).trans die4.ge
  exact (alert5 warmNow).trans (alert4.trans (alert2 (alert1 warm)))

variable {s die spine}

theorem thermalSample_none (done : Tbl.get 0 s.nut.polled 2 = s.now / 2000) :
    exec (.thermalSample die spine) s = .next (s.after s) :=
  finish_eq (e := if s.pollDue 2 (10 * usUnits) then (s.thermal die spine).polledNow 2 (10 * usUnits) else s)
    (if_neg (by simp [State.pollDue, usUnits, done]))

theorem thermalSample_leaves (due : Tbl.get 0 s.nut.polled 2 ≠ s.now / 2000) :
    exec (.thermalSample die spine) s = .next (s.after ((s.thermal die spine).polledNow 2 2000)) :=
  finish_eq (e := if s.pollDue 2 (10 * usUnits) then (s.thermal die spine).polledNow 2 (10 * usUnits) else s)
    (if_pos (by simpa [State.pollDue, usUnits] using due))

theorem tripRelease_leaves {a b : Nat} (trip : s.nut.trip = true) (cool : s.nut.coolSince = some a)
    (tiers : s.nut.tierCoolSince = some b) (long : a + 200000 ≤ s.now) (tiersLong : b + 200000 ≤ s.now) :
    ∃ t, exec .tripRelease s = .next (s.after t) ∧ t.nut.trip = false ∧ t.nut.tierHot = false := by
  have releases : s.untrip = (s.updNut fun n => { n with trip := false, tierHot := false }).alertCheck := by
    rw [State.untrip, cool, tiers]
    exact if_pos (by simp [trip, msUnits, long, tiersLong])
  obtain ⟨nut, -, -⟩ := alertCheck_leaves (s.updNut fun n => { n with trip := false, tierHot := false })
  exact ⟨_, finish_eq releases, by rw [nut]; rfl, by rw [nut]; rfl⟩

end Temperature

/-! ## The margin planner (R480 to R483). -/

section Planner

variable {s : State}

theorem plan_leaves {a : Agent} (heard : s.mute a = false) (may : s.regCode a .nutCmd true .full = .okay) :
    exec (.plan a) s = .next (s.after (s.planAsk.reply .okay 0)) := by
  have whole : s.regMerged a .nutCmd .full 1 = 1 := if_pos rfl
  have bit : bitOf (s.regMerged a .nutCmd .full 1).toNat 0 = true := by
    rw [whole]
    decide
  exact regCmd_leaves heard may (if_pos bit)

theorem planTrigger_starts (idle : s.nut.planRunning = false) (single : s.nut.planAgain = false)
    (free : s.appliedUnit 0x491 = false) (due : s.planDue = true) : exec .planTrigger s
      = .next (s.after (s.updNut fun n => { n with planRunning := true, planHk := s.time.hk + 1 })) := by
  have asks : s.planAsk = s.updNut fun n => { n with planRunning := true } := if_neg (by simp [idle, free])
  refine finish_eq (e := s.planTrigger) ?_
  rw [State.planTrigger, if_neg (by simp [idle]), if_neg (by simp [single])]
  exact (if_pos due).trans (congrArg (State.updNut · fun n => { n with planHk := s.time.hk + 1 }) asks)

/-- The ages that a plan measures. -/
def NutSt.ages (n : NutSt) (shift : List Int) : Tbl Nat :=
  (List.range 268).foldl (fun t m => Tbl.set 0 t m (aged (Tbl.get 0 t m) (shift.getD m 0))) n.age

theorem get_ages (n : NutSt) (shift : List Int) {m : Nat} (hm : m < 268) :
    Tbl.get 0 (n.ages shift) m = max (Tbl.get 0 n.age m) (shift.getD m 0).toNat :=
  (Tbl.get_foldl_updAt 0 (fun m => (aged · (shift.getD m 0))) List.nodup_range n.age m).trans (if_pos (List.mem_range.2 hm))

/-- The worst age of a plan. -/
def NutSt.worstAge (n : NutSt) (shift : List Int) : Nat :=
  (List.range 268).foldl (fun a m => max a (Tbl.get 0 (n.ages shift) m)) 0

theorem worstAge_eq (n : NutSt) (shift : List Int) : n.worstAge shift
    = (List.range 268).foldl (fun a m => max a (max (Tbl.get 0 n.age m) (shift.getD m 0).toNat)) 0 :=
  List.foldl_ext _ _ 0 fun a m hm => by rw [get_ages n shift (List.mem_range.1 hm)]

/-- The ageing guard-bands that a plan sets for the entries. -/
def State.planBands (s : State) (w : Nat) : Tbl Nat :=
  (List.range 4).foldl (fun t i =>
    Tbl.set 0 t i ((Tbl.get 0 s.fuse.sens i * w + Tbl.get 0 s.fuse.tdrift i * 10 + 4999) / 5000 * 5)) s.nut.gAge

theorem get_planBands (w : Nat) {i : Nat} (hi : i < 4) : Tbl.get 0 (s.planBands w) i
    = (Tbl.get 0 s.fuse.sens i * w + Tbl.get 0 s.fuse.tdrift i * 10 + 4999) / 5000 * 5 :=
  (Tbl.get_foldl_updAt 0 (fun i _ => (Tbl.get 0 s.fuse.sens i * w + Tbl.get 0 s.fuse.tdrift i * 10 + 4999) / 5000 * 5)
    List.nodup_range s.nut.gAge i).trans (if_pos (List.mem_range.2 hi))

/-- Nutmeg's record once a plan's results stand in it. -/
def State.planned (s : State) (age gAge : Tbl Nat) : NutSt :=
  { s.nut with age := age, gAge := gAge, tPlan := s.nut.tDie, lastPlan := s.now, planBurst := true, planRunning := s.nut.planAgain,
               planAgain := false, planLate := s.commit.active,
               gAgeOld := if s.nut.planLate then s.nut.gAgeOld else s.nut.gAge }

/-- A plan ends with these ages and guard-bands. -/
def State.planWith (s : State) (age gAge : Tbl Nat) : State :=
  let s1 := s.updNut fun _ => s.planned age gAge
  let s2 := s1.updNut fun n =>
    { n with usable := (List.range 4).foldl (fun (a : BitVec 4) i =>
        if i < s1.cfg.op.count ∧ s1.opUsable i then a ||| BitVec.ofNat 4 (2 ^ i) else a) 0 }
  let s3 := { s2 with boot := { s2.boot with planDone := true } }.carRecord 5 s2.planPayload
  let s4 := if s.nut.baselineOnly then s3.carRecord 1 s3.agePayload else s3
  if s.cfg.op.count = 0 then s4 else s4.checkMargin

theorem planEnd_eq (runs : s.nut.planRunning = true) (shift : List Int) :
    s.planEnd shift = s.planWith (s.nut.ages shift) (s.planBands (s.nut.worstAge shift)) :=
  if_neg (by simp [runs])

/-- Nutmeg's record but for the usable entries and what a check of the margin writes. -/
def NutSt.beside (n : NutSt) : NutSt := { n with usable := 0, exhausted := false, marginLevel := 0, event := 0 }

theorem checkMargin_beside (t : State) : t.checkMargin.nut.beside = t.nut.beside ∧ t.checkMargin.boot = t.boot := by
  unfold State.checkMargin
  dsimp only
  split
  · exact ⟨rfl, rfl⟩
  · split <;> exact ⟨rfl, rfl⟩

theorem planWith_leaves (age gAge : Tbl Nat) :
    (s.planWith age gAge).nut.beside = (s.planned age gAge).beside ∧ (s.planWith age gAge).boot.planDone = true := by
  have recorded (c : Prop) [Decidable c] (t : State) (payload : List Byte) :
      let u := if c then t.carRecord 1 payload else t
      u.nut = t.nut ∧ u.boot = t.boot := by
    dsimp only
    split <;> exact ⟨rfl, rfl⟩
  have checked (c : Prop) [Decidable c] (t : State) :
      let u := if c then t else t.checkMargin
      u.nut.beside = t.nut.beside ∧ u.boot = t.boot := by
    dsimp only
    split
    · exact ⟨rfl, rfl⟩
    · exact checkMargin_beside t
  unfold State.planWith
  dsimp only
  obtain ⟨beside, boot⟩ := checked (s.cfg.op.count = 0) _
  rw [beside, boot]
  obtain ⟨nut, boot⟩ := recorded (s.nut.baselineOnly = true) _ _
  rw [nut, boot]
  exact ⟨rfl, rfl⟩

/-- The fields of a plan's end that its statement names. -/
theorem planWith_fields (age gAge : Tbl Nat) : let t := s.planWith age gAge
    t.nut.planRunning = s.nut.planAgain ∧ t.nut.lastPlan = s.now ∧ t.nut.tPlan = s.nut.tDie ∧ t.boot.planDone = true
      ∧ t.nut.age = age ∧ t.nut.gAge = gAge ∧ t.nut.ageNow = (if s.commit.active then s.nut.ageNow else gAge) := by
  obtain ⟨nut, boot⟩ := planWith_leaves (s := s) age gAge
  have field {α : Type} (get : NutSt → α) (same : get (s.planWith age gAge).nut.beside = get (s.planWith age gAge).nut) :
      get (s.planWith age gAge).nut = get (s.planned age gAge).beside := same.symm.trans (congrArg get nut)
  exact ⟨field NutSt.planRunning rfl, field NutSt.lastPlan rfl, field NutSt.tPlan rfl, boot, field NutSt.age rfl,
    field NutSt.gAge rfl, field NutSt.ageNow rfl⟩

theorem planDone_leaves (runs : s.nut.planRunning = true) (shift : List Int) :
    let age (m : Nat) : Nat := max (Tbl.get 0 s.nut.age m) (shift.getD m 0).toNat
    let worst := (List.range 268).foldl (fun a m => max a (age m)) 0
    ∃ t, exec (.planDone shift) s = .next (s.after t) ∧ t.nut.planRunning = s.nut.planAgain ∧ t.nut.lastPlan = s.now
      ∧ t.nut.tPlan = s.nut.tDie ∧ t.boot.planDone = true ∧ (∀ m < 268, Tbl.get 0 t.nut.age m = age m)
      ∧ t.nut.ageNow = (if s.commit.active then s.nut.ageNow else t.nut.gAge)
      ∧ ∀ i < 4, Tbl.get 0 t.nut.gAge i
          = (Tbl.get 0 s.fuse.sens i * worst + Tbl.get 0 s.fuse.tdrift i * 10 + 4999) / 5000 * 5 := by
  obtain ⟨running, last, warm, planned, ages, bands, now⟩ := planWith_fields (s := s) (s.nut.ages shift)
    (s.planBands (s.nut.worstAge shift))
  refine ⟨_, finish_eq (planEnd_eq runs shift), running, last, warm, planned, fun m hm => ?_, now.trans (by rw [bands]), fun i hi => ?_⟩
  · rw [ages]
    exact get_ages s.nut shift hm
  · rw [bands, ← worstAge_eq]
    exact get_planBands _ hi

end Planner

/-! ## Droop (R484 to R487). -/

section Droop

variable {s : State} {i : Nat}

theorem covers_iff {d : DCal} (present : d.present = true) (i : Nat) : d.covers i = decide (4 * i ≤ 5 * d.i) := by
  rw [DCal.covers, present, Bool.true_and]

theorem droopTrip_leaves {x : Tu} {halfMv : Nat} (low : halfMv < 2 * ((s.setPoints s.clk.cur).getD 0 0 - s.nut.droopTrip)) :
    exec (.droopTrip x halfMv) s = .next (s.after ((s.updNut fun n =>
      { n with droopHold := Tbl.set false n.droopHold (x.val / 16) true,
               droopEnd := Tbl.set 0 n.droopEnd (x.val / 16) (s.time.core + 66) }).raise 0x33 0x491 0 x.val)) :=
  finish_eq (e := s.droop x.val halfMv) (if_pos low)

theorem droopValidityLoss_leaves (present : (s.dcalOf s.clk.cur).present = true) (exceeds : 5 * (s.dcalOf s.clk.cur).i < 4 * i)
    (calibrated : s.nut.staticGb = false) : ∃ t, exec (.droopValidityLoss i) s = .next (s.after t) ∧ t.nut.staticGb = true
      ∧ t.nut.protect = true ∧ t.nut.lossAt = some s.now ∧ t.nut.iLoad = i := by
  have lost : s.validityLoss i = (s.noteLoad i).updNut fun n => { n with staticGb := true, protect := true, lossAt := some s.now } :=
    if_pos (by simp [covers_iff present, present, exceeds, calibrated])
  exact ⟨_, finish_eq lost, rfl, rfl, rfl, rfl⟩

theorem staticGbRelease_leaves {ok : Nat} (guarded : s.nut.staticGb = true) (present : (s.dcalOf s.clk.cur).present = true)
    (within : 4 * i ≤ 5 * (s.dcalOf s.clk.cur).i) (since : s.nut.okSince = some ok)
    (long : max ok (s.dcalOf s.clk.cur).made + 2000000 ≤ s.now) :
    ∃ t, exec (.staticGbRelease i) s = .next (s.after t) ∧ t.nut.staticGb = false ∧ t.nut.iLoad = i := by
  have covers : (s.dcalOf s.clk.cur).covers i = true := by rw [covers_iff present, decide_eq_true within]
  have stays : (s.noteLoad i).nut.okSince = some ok := by
    show (if (s.dcalOf s.clk.cur).covers i then s.nut.okSince.or (some s.now) else none) = some ok
    rw [if_pos covers, since]
    rfl
  have released : s.gbRelease i = (s.noteLoad i).updNut fun n => { n with staticGb := false } := by
    simp only [State.gbRelease, stays]
    exact if_pos ⟨guarded, long⟩
  exact ⟨_, finish_eq released, rfl, rfl⟩

theorem burstStart_leaves (none : s.nut.burst = none) (clock : s.coreClock = true) (free : s.appliedUnit 0x491 = false)
    (due : s.burstDue i = true) : ∃ t, exec (.calibrationBurstStart i) s = .next (s.after t)
      ∧ t.nut.burst = some (s.now, false) ∧ t.nut.lossAt = Option.none ∧ t.nut.staticGb = true := by
  have starts : s.burstStart i
      = (s.noteLoad i).updNut fun n => { n with burst := some (s.now, false), lossAt := Option.none, staticGb := true } :=
    (if_neg (by simp [none, clock, free])).trans (if_pos due)
  exact ⟨_, finish_eq starts, rfl, rfl, rfl⟩

/-- What a calibration burst measures and changes, by who asked for it. -/
theorem burstEnd_eq {at_ drop : Nat} {byPlan : Bool} (runs : s.nut.burst = some (at_, byPlan)) (ended : at_ + 200000 ≤ s.now) :
    ∃ t : State, t.nut.burst = none ∧ t.nut.dcal = s.nut.dcal ∧ s.burstEnd drop i
      = if byPlan ∧ (s.dcalOf s.clk.cur).present ∧ i < (s.dcalOf s.clk.cur).i ∧ s.now ≤ (s.dcalOf s.clk.cur).made + 2592000 * secUnits
        then t
        else
          let u := t.updNut fun n =>
            { n with dcal := Tbl.set DCal.off n.dcal s.clk.cur ⟨true, min 45 (ceil5 (drop + 10)), i, s.now⟩ }
          (u.noteLoad u.nut.iLoad).carRecord 4 u.dcalPayload := by
  let s1 := s.updNut fun n => { n with burst := none }
  have event : let t := if 45 < drop + 10 then s1.nutEvent 5 0x34 drop else s1
      t.nut.burst = none ∧ t.nut.dcal = s.nut.dcal := by
    dsimp only
    split <;> exact ⟨rfl, rfl⟩
  obtain ⟨burst, dcal⟩ := event
  refine ⟨_, burst, dcal, ?_⟩
  simp only [State.burstEnd, runs]
  exact if_neg (Nat.not_lt.2 ended)

theorem burstEnd_calibrates {at_ drop : Nat} (runs : s.nut.burst = some (at_, false)) (ended : at_ + 200000 ≤ s.now) :
    ∃ t, exec (.calibrationBurstEnd drop i) s = .next (s.after t) ∧ t.nut.burst = none
      ∧ t.dcalOf s.clk.cur = ⟨true, min 45 (ceil5 (drop + 10)), i, s.now⟩ := by
  obtain ⟨t, burst, -, ends⟩ := burstEnd_eq (i := i) (drop := drop) runs ended
  exact ⟨_, finish_eq (ends.trans (if_neg (by simp))), burst,
    (Tbl.get_set_self DCal.off t.nut.dcal s.clk.cur ⟨true, min 45 (ceil5 (drop + 10)), i, s.now⟩ :)⟩

theorem burstEnd_keeps {at_ drop : Nat} (runs : s.nut.burst = some (at_, true)) (ended : at_ + 200000 ≤ s.now)
    (present : (s.dcalOf s.clk.cur).present = true) (less : i < (s.dcalOf s.clk.cur).i)
    (recent : s.now ≤ (s.dcalOf s.clk.cur).made + 2592000 * 200000000) :
    ∃ t, exec (.calibrationBurstEnd drop i) s = .next (s.after t) ∧ t.nut.burst = none ∧ t.nut.dcal = s.nut.dcal := by
  obtain ⟨t, burst, dcal, ends⟩ := burstEnd_eq (i := i) (drop := drop) runs ended
  exact ⟨t, finish_eq (ends.trans (if_pos ⟨rfl, present, less, recent⟩)), burst, dcal⟩

theorem burstCancel_leaves {at_ : Nat} (lost : s.nut.lossAt = some at_) (late : at_ + 2000000000 ≤ s.now) :
    exec .calibrationBurstCancel s = .next (s.after (s.updNut fun n => { n with lossAt := none })) := by
  refine finish_eq (e := s.burstCancel) ?_
  simp only [State.burstCancel, lost]
  exact if_pos late

end Droop

/-- Settles O48: a sample by its thresholds, the plan by what it measures, and droop by the load that a calibration covers. -/
theorem thermalMarginAndDroopRulesAct : Obligations.ThermalMarginAndDroopRulesAct := fun s =>
  ⟨fun _ _ => thermalSample_none,
    fun die spine due => ⟨_, thermalSample_leaves due, thermal_leaves s die spine⟩,
    fun _ _ => tripRelease_leaves, fun _ => plan_leaves, planTrigger_starts, fun shift runs => planDone_leaves runs shift,
    fun _ _ => droopTrip_leaves, fun _ => rfl,
    fun _ => ⟨droopValidityLoss_leaves, fun _ => staticGbRelease_leaves, burstStart_leaves,
      fun _ _ _ runs ended => ⟨fun short => burstEnd_calibrates (short ▸ runs) ended,
        fun planned => burstEnd_keeps (planned ▸ runs) ended⟩⟩,
    fun _ => burstCancel_leaves⟩

end Sys2Proof.Machine

/-! Caraway: its records and the flash, the canaries, the Clove budget, ageing and telemetry, and the statement O57. -/

namespace Sys2Proof.Machine

/-! ## Detections that carry no RETENTION (R488). -/

section Retention

/-- Between two states no correction by a vault's codes was found. -/
def State.FindsNone (s t : State) : Prop :=
  ∃ l : List Detection, t.err.queue = s.err.queue ++ l ∧ ∀ d ∈ l, ¬(d.det = 0x10 ∨ d.det = 0x11)

variable {s t u : State}

theorem State.FindsNone.of_eq (same : t.err.queue = s.err.queue) : s.FindsNone t := ⟨[], by simp [same], by simp⟩

theorem State.FindsNone.trans (first : s.FindsNone t) (second : t.FindsNone u) : s.FindsNone u := by
  obtain ⟨l, hl, none⟩ := first
  obtain ⟨l', hl', none'⟩ := second
  exact ⟨l ++ l', by rw [hl', hl, List.append_assoc], fun d hd => (List.mem_append.1 hd).elim (none d) (none' d)⟩

theorem findsNone_addPmc (s : State) (u i k : Nat) : s.FindsNone (s.addPmc u i k) := by
  unfold State.addPmc
  dsimp only
  split
  · split
    · refine ⟨[mkDet 0x40 u 0 i], rfl, fun d hd => ?_⟩
      have wrap : ¬((0x40 : BitVec 16) = 0x10 ∨ (0x40 : BitVec 16) = 0x11) := by decide
      rw [List.mem_singleton.1 hd]
      exact wrap
    · exact .of_eq rfl
  · exact .of_eq rfl

theorem findsNone_count (s : State) (u ev : Nat) : s.FindsNone (s.count u ev) := by
  unfold State.count State.countBy
  split
  · exact .of_eq rfl
  · refine List.foldlRecOn _ _ (motive := s.FindsNone) (.of_eq rfl) fun t found i _ => ?_
    dsimp only
    split
    · exact found.trans (findsNone_addPmc ..)
    · exact found

theorem findsNone_activate (s : State) (v bank row : Nat) : s.FindsNone (s.activate v bank row) := by
  unfold State.activate
  extract_lets x t c t1
  split
  · exact .trans (t := s.updVault v _) (.of_eq rfl) (findsNone_count ..)
  · exact .of_eq rfl

theorem findsNone_openRow (s : State) (v l : Nat) (read : Bool) : s.FindsNone (s.openRow v l read) := by
  have opened (r : Nat) : s.FindsNone ((s.updVault v fun x => { x with row := Tbl.set 0 x.row (lineBank l) r }).activate v
      (lineBank l) (lineRow l)) :=
    .trans (t := s.updVault v fun x => { x with row := Tbl.set 0 x.row (lineBank l) r }) (.of_eq rfl) (findsNone_activate ..)
  unfold State.openRow
  dsimp only
  split
  · split
    · exact findsNone_count ..
    · exact .of_eq rfl
  · split
    · exact (opened _).trans (findsNone_count ..)
    · exact opened _

/-- Without corrections there is nothing to mark. -/
theorem retention_of_findsNone (none : s.FindsNone t) : s.retention t = t := by
  obtain ⟨l, hl, none⟩ := none
  have unmarked : l.map (fun d => if d.det = 0x10 ∨ d.det = 0x11 then { d with retention := true } else d) = l :=
    (List.map_congr_left fun d hd => if_neg (none d hd)).trans (List.map_id l)
  have queue : t.err.queue.take s.err.queue.length ++ (t.err.queue.drop s.err.queue.length).map
      (fun d => if d.det = 0x10 ∨ d.det = 0x11 then { d with retention := true } else d) = t.err.queue := by
    rw [hl, List.take_left, List.drop_left, unmarked]
  exact congrArg (fun q => t.updErr fun e => { e with queue := q }) queue

variable {v l n : Nat}

/-- A canary of a line that holds no error only opens its row. -/
theorem vaultFetch_clean (unmarked : s.marked (vaultLines * v + l) = false)
    (whole : Tbl.get [] s.mem.rawErr (vaultLines * v + l) = []) :
    (s.vaultFetch v l []).2.2 = (s.openRow v l true).count (0x300 + v) 1 := by
  have marks := openRow_lineMarks s v l true
  have clean := vaultDecode_clean ((marked_of_lineMarks marks _).trans unmarked) ((rawErr_of_lineMarks marks _).trans whole)
  simp only [State.vaultFetch, clean]
  rfl

theorem retentionCanary_none {v : Vault} {hit : List SymErr} (slot : s.nextSlot v = some n) (spent : s.slotLeft v n = false) :
    exec (.retentionCanary v l hit) s = .next (s.after s) := by
  refine finish_eq (e := s.canary v l hit) ?_
  simp only [State.canary, slot]
  exact if_neg (by simp [spent])

theorem retentionCanary_clean {v : Vault} (slot : s.nextSlot v = some n) (left : s.slotLeft v n = true)
    (takes : s.vaultTakes v l = true) (unmarked : s.marked (vaultLines * v + l) = false)
    (whole : Tbl.get [] s.mem.rawErr (vaultLines * v + l) = []) :
    exec (.retentionCanary v l []) s = .next (s.after
      ((((s.updVault v fun x => { x with charged := (n :: x.charged).take 100 }).openRow v l true)).count (0x300 + v) 1)) := by
  have marks := charge_lineMarks s v n
  have fetched := vaultFetch_clean ((marked_of_lineMarks marks _).trans unmarked) ((rawErr_of_lineMarks marks _).trans whole)
  refine finish_eq (e := s.canary v l []) ?_
  simp only [State.canary, slot]
  refine (if_pos (by simp [takes, left])).trans ?_
  rw [fetched]
  exact retention_of_findsNone ((findsNone_openRow ..).trans (findsNone_count ..))

end Retention

/-! ## Records and the flash (R490 to R493). -/

section Records

variable {s : State} {a : Agent}

theorem carHoldupWrite_leaves {mj : BitVec 16} (heard : s.mute a = false) (may : s.regCode a .carHoldup true .full = .okay) :
    exec (.carHoldupWrite a mj) s = .next (s.after ((s.updCar fun c =>
      { c with mj := mj.toNat, holdupAt := some s.now, deferred := false }).reply .okay 0)) := by
  have placed : field (mj.setWidth 64 : W64).toNat 15 0 = mj.toNat := by
    have bound := mj.isLt
    simp only [field, BitVec.toNat_setWidth, Nat.shiftRight_eq_div_pow]
    omega
  refine regCmd_leaves heard may ?_
  exact congrArg s.holdupWrite placed

variable {r : Rec} {rest : List Rec}

/-- A record is programmed at the next page under the next SEQ where the hold-up energy permits it. -/
theorem recordWrite_programs (idle : s.car.op = .idle) (free : s.appliedUnit 0x492 = false) (on : s.car.recEn = true)
    (area : s.car.recBlocks ≠ 0) (copies : s.car.copies = []) (held : s.car.held = []) (recs : s.car.recs = r :: rest)
    (may : s.flashMay = true) (page : s.car.page % 16 ≠ 0 ∨ s.car.erased = true) :
    exec .recordWrite s = .next (s.after (s.updCar fun c =>
      { c with op := .program c.page r.type (recImage r (c.seq.toNat + 1)) false, seq := c.seq + 1, recs := rest })) := by
  refine finish_eq (e := s.recStart) ?_
  rw [State.recStart, if_neg (by simp [idle, free, on, area, recs]), if_neg (by simp [may]), if_neg (by
    rcases page with within | erased
    · simp [within]
    · simp [erased])]
  simp only [copies, held, recs]

/-- Without that energy it is deferred until the next update of CAR_HOLDUP. -/
theorem recordWrite_defers (idle : s.car.op = .idle) (free : s.appliedUnit 0x492 = false) (on : s.car.recEn = true)
    (area : s.car.recBlocks ≠ 0) (recs : s.car.recs = r :: rest) (low : s.flashMay = false) (first : s.car.deferred = false)
    (few : r.defers < 15) : exec .recordWrite s = .next (s.after (s.updCar fun c =>
      { c with deferred := true, deferrals := min (c.deferrals + 1) 0xFFFF, recs := { r with defers := r.defers + 1 } :: rest })) := by
  refine finish_eq (e := s.recStart) ?_
  rw [State.recStart, if_neg (by simp [idle, free, on, area, recs]), if_pos (by simp [low])]
  simp only [State.recDefer, recs, first]
  refine (if_neg (by decide)).trans (congrArg (fun c : CarSt => { s with car := c }) (if_neg ?_))
  exact Nat.not_le.2 (Nat.succ_lt_succ few)

/-- A page that has been programmed holds the record's image. -/
theorem flashProgramDone_programs {p type : Nat} {img : List Byte} {held : Bool} (runs : s.car.op = .program p type img held) :
    ∃ t, exec .flashProgramDone s = .next (s.after t) ∧ t.car.op = .idle ∧ t.car.page = (p + 1) % max 1 (16 * s.car.recBlocks)
      ∧ ∀ i : Nat, Tbl.get 0xFF t.mem.flash i = (if s.pageAt p ≤ i ∧ i < s.pageAt p + img.length
          then img.getD (i - s.pageAt p) 0xFF else Tbl.get 0xFF s.mem.flash i) := by
  refine ⟨_, rfl, ?_⟩
  simp only [State.flashDone, runs]
  split
  · exact ⟨rfl, rfl, Tbl.get_setMany 0xFF img s.mem.flash (s.pageAt p)⟩
  · exact ⟨rfl, rfl, Tbl.get_setMany 0xFF img s.mem.flash (s.pageAt p)⟩

/-- A block that has been erased reads as all ones. -/
theorem flashProgramDone_erases {b : Nat} (runs : s.car.op = .erase b) :
    ∃ t, exec .flashProgramDone s = .next (s.after t) ∧ t.car.op = .idle ∧ t.car.erased = true
      ∧ ∀ i : Nat, Tbl.get 0xFF t.mem.flash i = (if s.pageAt (16 * b) ≤ i ∧ i < s.pageAt (16 * b + 16)
          then 0xFF else Tbl.get 0xFF s.mem.flash i) := by
  refine ⟨_, rfl, ?_⟩
  simp only [State.flashDone, runs]
  exact ⟨rfl, rfl, Tbl.get_cut 0xFF (s.pageAt (16 * b)) (s.pageAt (16 * b + 16)) s.mem.flash⟩

/-- Caraway does not ready its task without a record to write, or over its budget. -/
theorem carReady_none (still : s.car.recs = [] ∨ s.budgetLeft = false) : s.carReady = s :=
  if_neg (by rcases still with none | spent <;> simp [*])

theorem ageingRecord_leaves (due : s.car.ageDue ≤ s.now) (spent : s.budgetLeft = false) :
    exec .ageingRecord s = .next (s.after ((s.updCar fun c => { c with ageDue := c.ageDue + 2592000 * 200000000 }).carRecord 1
      s.agePayload)) := by
  have aged : s.ageDueNow = (s.updCar fun c => { c with ageDue := c.ageDue + 2592000 * secUnits }).carRecord 1 s.agePayload :=
    if_pos due
  refine finish_eq (e := s.ageDueNow.carReady) ?_
  rw [aged]
  exact carReady_none (.inr spent)

theorem carawayBudgetWindow_leaves (ended : s.car.winStart + 20000000 ≤ s.now) (none : s.car.recs = []) :
    exec .carawayBudgetWindow s = .next (s.after (s.updCar fun c =>
      { c with cloveUsed := min (1000 * c.cloveCount / max 1 (64 * (3 * s.time.hk - c.winCycle))) 0xFFFF, cloveCount := 0,
               winStart := s.now, winCycle := 3 * s.time.hk })) := by
  have counted : s.budgetWindow = s.updCar fun c =>
      { c with cloveUsed := min (1000 * c.cloveCount / max 1 (64 * (3 * s.time.hk - s.car.winCycle))) 0xFFFF, cloveCount := 0,
               winStart := s.now, winCycle := 3 * s.time.hk } := if_neg (Nat.not_lt.2 ended)
  refine finish_eq (e := s.budgetWindow.carReady) ?_
  rw [counted]
  exact carReady_none (.inl none)

end Records

/-! ## Telemetry (R494, R495). -/

section Telemetry

variable {s : State} {a : Agent} {g : TelGroup} {word : Fin 32}

theorem telemetryCapture_leaves (tick : s.atTick 200000 = true) (due : s.pollDue 3 200000 = true) :
    ∃ t, exec .telemetryCapture s = .next (s.after t) ∧ t.car.teleSeq = s.car.teleSeq + 1 ∧ t.nut.iPeak = s.nut.iLoad
      ∧ t.car.tele = s.car.tele ∧ Tbl.get [] t.carTick.car.tele 0 = s.teleThermal (s.car.teleSeq + 1)
      ∧ Tbl.get [] t.carTick.car.tele 1 = s.telePower (s.car.teleSeq + 1)
      ∧ Tbl.get [] t.carTick.car.tele 2 = s.teleMargin (s.car.teleSeq + 1) := by
  have residency (t : State) : t.residency.car = t.car ∧ t.residency.nut.iPeak = t.nut.iPeak := by
    unfold State.residency
    split <;> exact ⟨rfl, rfl⟩
  refine ⟨_, finish_eq (e := s.teleCapture) (if_neg (by rw [show msUnits = 200000 from rfl, tick, due]; decide)), ?_⟩
  have tele (t : State) : t.carTick.car.tele = if t.car.teleNow.isEmpty then t.car.tele else t.car.teleNow := rfl
  rw [tele, (residency _).1, (residency _).2]
  exact ⟨rfl, rfl, rfl, rfl, rfl, rfl⟩

/-- A read answers with the bytes it shows, and leaves what it latches. -/
theorem telemetryLatchRead_shows {t : State} {b : List Byte} (heard : s.mute a = false)
    (may : s.regCode a (.telemetry g word) false .full = .okay)
    (reads : s.teleRead a g word = (t, BitVec.ofNat 64 (le b (8 * word) 8))) :
    exec (.telemetryLatchRead a g word) s = .next (s.after (t.reply .okay (BitVec.ofNat 64 (le b (8 * word) 8)))) :=
  regAsk_leaves heard may (congrArg Prod.fst reads) (congrArg Prod.snd reads)

theorem teleRead_first (none : s.teleHeld a g = none) : s.teleRead a g word
    = (s.updCar fun c => { c with latches := c.latches ++ [⟨a, g, padTo 256 (Tbl.get [] s.car.tele g)⟩] },
      BitVec.ofNat 64 (le (padTo 256 (Tbl.get [] s.car.tele g)) (8 * word) 8)) := by
  simp only [State.teleRead, none]

theorem teleRead_again {l : TelLatch} (held : s.teleHeld a g = some l) : s.teleRead a g 0
    = (s.updCar fun c => { c with latches := c.latches.erase l ++ [⟨a, g, padTo 256 (Tbl.get [] s.car.tele g)⟩] },
      BitVec.ofNat 64 (le (padTo 256 (Tbl.get [] s.car.tele g)) (8 * 0) 8)) := by
  simp only [State.teleRead, held]
  rfl

theorem teleRead_held {l : TelLatch} (held : s.teleHeld a g = some l) (later : word.val ≠ 0) : s.teleRead a g word
    = (s, BitVec.ofNat 64 (le l.bytes (8 * word) 8)) := by
  simp only [State.teleRead, held, later, if_false]

end Telemetry

/-- Settles O57: records and the flash by the operation that runs, the canaries by their slots, ageing, the budget's window, and
telemetry by what an agent holds. -/
theorem carawayRecordsAndTelemetryAct : Obligations.CarawayRecordsAndTelemetryAct := fun s =>
  ⟨fun _ _ => carHoldupWrite_leaves,
    fun _ _ idle free on area copies held recs => ⟨recordWrite_programs idle free on area copies held recs,
      recordWrite_defers idle free on area recs⟩,
    fun _ _ _ _ => flashProgramDone_programs, fun _ => flashProgramDone_erases, ageingRecord_leaves, carawayBudgetWindow_leaves,
    fun _ _ _ slot => ⟨retentionCanary_none slot, retentionCanary_clean slot⟩, telemetryCapture_leaves, rfl,
    fun _ _ _ heard may => ⟨fun none => telemetryLatchRead_shows heard may (teleRead_first none), fun _ held =>
      ⟨fun first => by
          subst first
          exact telemetryLatchRead_shows heard may (teleRead_again held),
        fun later => telemetryLatchRead_shows heard may (teleRead_held held (Fin.val_ne_of_ne later))⟩⟩⟩

end Sys2Proof.Machine

/-! Containment: what a detection's consequences leave of the error unit's counters, log and reports, of the settings, the time and
the boot state. -/

namespace Sys2Proof.Machine

/-! ## The view that the consequences of a detection keep (R328, R500 to R505). -/

section Memories

variable (s : State)

/-- The error unit but for its queue and the performance counters, the settings in force, the time and the boot state. -/
def State.errView (s : State) : ErrSt × ShapeCfg × TimeSt × BootSt :=
  ({ s.err with queue := [], pmc := [], pmcNow := [] }, s.cfg, s.time, s.boot)

@[simp] theorem raiseDet_errView (d : Detection) : (s.raiseDet d).errView = s.errView := rfl
@[simp] theorem raise_errView (d u a i : Nat) : (s.raise d u a i).errView = s.errView := rfl
@[simp] theorem updVault_errView (v : Nat) (f : Vlt → Vlt) : (s.updVault v f).errView = s.errView := rfl
@[simp] theorem updSlice_errView (n : Nat) (f : Slice → Slice) : (s.updSlice n f).errView = s.errView := rfl
@[simp] theorem updMem_errView (f : MemSt → MemSt) : (s.updMem f).errView = s.errView := rfl
@[simp] theorem carRecord_errView (type : Nat) (payload : List Byte) : (s.carRecord type payload).errView = s.errView := rfl
@[simp] theorem eraseSlice_errView (v t k : Nat) : (s.eraseSlice v t k).errView = s.errView := rfl
@[simp] theorem choose_errView (n : Nat) : (s.choose n).2.errView = s.errView := rfl

@[simp] theorem updCache_errView (r : Cacher) (f : Cache → Cache) : (s.updCache r f).errView = s.errView := by
  cases r <;> rfl

@[simp] theorem addPmc_errView (u i k : Nat) : (s.addPmc u i k).errView = s.errView := by
  simp only [State.addPmc]
  split
  · split <;> rfl
  · rfl

@[simp] theorem countBy_errView (u ev k : Nat) : (s.countBy u ev k).errView = s.errView := by
  unfold State.countBy
  split
  · rfl
  · exact foldl_keeps State.errView (fun t i => keeps_ite _ (addPmc_errView ..) rfl) _ _

@[simp] theorem count_errView (u ev : Nat) : (s.count u ev).errView = s.errView := countBy_errView ..

@[simp] theorem satCount_errView (old u i : Nat) : (s.satCount old u i).2.errView = s.errView :=
  keeps_ite State.errView rfl rfl

@[simp] theorem rawWrite_errView (l : Nat) (m : BitVec 128) (d : Line128) (p : Bool) :
    (s.rawWrite l m d p).errView = s.errView :=
  keeps_ite State.errView rfl (keeps_ite _ rfl rfl)

@[simp] theorem activate_errView (v bank row : Nat) : (s.activate v bank row).errView = s.errView :=
  keeps_ite State.errView (count_errView ..) rfl

@[simp] theorem openRow_errView (v l : Nat) (read : Bool) : (s.openRow v l read).errView = s.errView :=
  keeps_ite State.errView (keeps_ite _ (count_errView ..) rfl)
    (keeps_ite _ ((count_errView ..).trans (activate_errView ..)) (activate_errView ..))

@[simp] theorem innerPass_errView (v t : Nat) (p : ErrPat) : (s.innerPass v t p).2.2.errView = s.errView := by
  unfold State.innerPass
  refine foldl_keeps (fun a : ErrPat × Bool × State => a.2.2.errView) (fun a sl => ?_) _ _
  extract_lets here many c r k
  have chosen : c.2.errView = a.2.2.errView := by
    unfold c
    split
    · exact choose_errView ..
    · rfl
  split
  · have counted : k.2.errView = c.2.errView := satCount_errView ..
    dsimp only
    rw [raise_errView, updVault_errView, counted, chosen]
  · exact chosen

@[simp] theorem diagnose_errView (v t sl : Nat) : (s.diagnose v t sl).errView = s.errView := by
  unfold State.diagnose
  extract_lets x d n s1
  have noted : s1.errView = s.errView := updVault_errView ..
  split
  · split
    · exact (eraseSlice_errView ..).trans noted
    · split
      · exact noted
      · exact (raiseDet_errView ..).trans noted
  · exact noted

@[simp] theorem vaultDecode_errView (v l : Nat) (hit : List SymErr) : (s.vaultDecode v l hit).2.errView = s.errView := by
  simp only [State.vaultDecode]
  split
  · rfl
  · split
    · rfl
    · split
      · simp
      · split
        · simp
        · split
          · simp
          · dsimp only
            split <;> simp

@[simp] theorem vaultPut_errView (v l : Nat) (d : Line128) (p : Bool) : (s.vaultPut v l d p).errView = s.errView :=
  rawWrite_errView ..

@[simp] theorem vaultFetch_errView (v l : Nat) (hit : List SymErr) : (s.vaultFetch v l hit).2.2.errView = s.errView := by
  simp only [State.vaultFetch]
  split <;> simp

@[simp] theorem vaultMerge_errView (v l : Nat) (m : BitVec 128) (d : Line128) (p : Bool) (hit : List SymErr) :
    (s.vaultMerge v l m d p hit).1.errView = s.errView := by
  unfold State.vaultMerge
  split <;> simp [State.vaultStore]

@[simp] theorem memRead_errView (l : Nat) : (s.memRead l).2.errView = s.errView := by
  unfold State.memRead
  split <;> simp

@[simp] theorem memWrite_errView (l : Nat) (m : BitVec 128) (d : Line128) (p : Bool) :
    (s.memWrite l m d p).1.errView = s.errView := by
  unfold State.memWrite
  split <;> simp

end Memories

/-! ## Directories and home slices. -/

section Homes

variable (s : State)

@[simp] theorem dirMap_errView (l : Nat) (f : DirEnt → DirEnt) : (s.dirMap l f).errView = s.errView := by
  simp only [State.dirMap, State.dirSet]
  split <;> rfl

@[simp] theorem takeCopy_errView (r : Cacher) (l : Nat) : (s.takeCopy r l).1.errView = s.errView := updCache_errView ..

@[simp] theorem dropNodes_errView (l : Nat) : (s.dropNodes l).errView = s.errView := by
  unfold State.dropNodes
  split
  · rw [dirMap_errView]
    exact foldl_keeps State.errView (fun t u => takeCopy_errView t (cacherOf u) l) _ s
  · rfl

@[simp] theorem l2Modify_errView (l : Nat) (f : CLine → CLine) : (s.l2Modify l f).errView = s.errView := rfl
@[simp] theorem l2SetAge_errView (l a : Nat) : (s.l2SetAge l a).errView = s.errView := rfl

@[simp] theorem l2Install_errView (l : Nat) (elig : List Nat) (x : CLine) (age : Nat) :
    (s.l2Install l elig x age).errView = s.errView := by
  simp only [State.l2Install]
  split
  · split <;> simp
  · rfl

@[simp] theorem l2Hit_errView (l : Nat) : (s.l2Hit l).errView = s.errView :=
  keeps_ite State.errView rfl ((count_errView ..).trans (l2SetAge_errView ..))

@[simp] theorem homePut_errView (l : Nat) (d : Line128) (p : Bool) (b : Nat) : (s.homePut l d p b).errView = s.errView := by
  simp only [State.homePut]
  split
  · simp
  · split <;> simp

@[simp] theorem land_errView (r : State × Option (Line128 × Bool)) (l : Nat) : (State.land r l).errView = r.1.errView := by
  unfold State.land
  split <;> simp

@[simp] theorem killCopies_errView (l : Nat) (but : Option Nat) : (s.killCopies l but).errView = s.errView := by
  unfold State.killCopies
  rw [dirMap_errView]
  exact foldl_keeps State.errView (fun t u => by rw [land_errView, takeCopy_errView]) _ s

@[simp] theorem homeStore_errView (l : Nat) (m : BitVec 128) (d : Line128) (p : Bool) (keep : Option Nat) :
    (s.homeStore l m d p keep).1.errView = s.errView := by
  unfold State.homeStore
  dsimp only
  split
  · split <;> simp
  · split
    · simp
    · dsimp only
      split <;> simp

@[simp] theorem homeStoreBy_errView (u a l : Nat) (m : BitVec 128) (d : Line128) (p : Bool) (keep : Option Nat) :
    (s.homeStoreBy u a l m d p keep).errView = s.errView :=
  keeps_ite State.errView ((raise_errView ..).trans (homeStore_errView ..)) (homeStore_errView ..)

@[simp] theorem memStoreBy_errView (u a l : Nat) (m : BitVec 128) (d : Line128) (p : Bool) :
    (s.memStoreBy u a l m d p).errView = s.errView :=
  keeps_ite State.errView ((raise_errView ..).trans (memWrite_errView ..)) (memWrite_errView ..)

@[simp] theorem sendBi_errView (l h : Nat) (inv : Bool) : (s.sendBi l h inv).errView = s.errView :=
  keeps_ite State.errView rfl ((count_errView ..).trans (updSlice_errView ..))

theorem recall_errView (l : Nat) (write : Bool) (but : Option Nat) : ((s.recall l write but).getD s).errView = s.errView := by
  unfold State.recall
  split
  · rfl
  · exact foldl_keeps State.errView (fun t h => sendBi_errView ..) _ _

@[simp] theorem tileWrite_errView (n off : Nat) (bs : List Byte) (p : Bool) : (s.tileWrite n off bs p).errView = s.errView :=
  keeps_ite State.errView rfl rfl

theorem busWriteNow_errView (u a : Nat) (bs : List Byte) (p : Bool) : (s.busWriteNow u a bs p).1.errView = s.errView := by
  unfold State.busWriteNow
  dsimp only
  split
  · rfl
  · split
    · simp
    · split <;> simp

@[simp] theorem rangeWrite_errView (u a : Nat) (bs : List Byte) (p : Bool) : (s.rangeWrite u a bs p).1.errView = s.errView :=
  foldl_keeps (fun r : State × BusResp => r.1.errView) (fun _ _ => keeps_ite (fun r : State × BusResp => r.1.errView) rfl (busWriteNow_errView ..)) _ _

end Homes

/-! ## Ways, directories and links. -/

section Ways

variable (s : State)

@[simp] theorem wayOut_errView (r : Cacher) (w : Nat) (bad : Option Nat) : (s.wayOut r w bad).errView = s.errView := by
  refine (updCache_errView ..).trans (foldl_keeps State.errView (fun t e => ?_) _ _)
  have back : (if e.2.st = .m then t.homePut e.2.line e.2.data (e.2.poison || bad == some e.2.line) 0 else t).errView = t.errView :=
    keeps_ite _ (homePut_errView ..) rfl
  exact keeps_ite _ back ((dirMap_errView ..).trans back)

@[simp] theorem l2WayOut_errView (n w : Nat) (bad : Option Nat) : (s.l2WayOut n w bad).errView = s.errView :=
  (updSlice_errView ..).trans (foldl_keeps State.errView (fun _ _ => memWrite_errView ..) _ _)

@[simp] theorem wayDisable_errView (c : WayOf) (w : Nat) (bad : Option Nat) : (s.wayDisable c w bad).errView = s.errView := by
  unfold State.wayDisable
  cases c with
  | priv r => exact keeps_ite State.errView rfl (keeps_ite _ rfl ((raise_errView ..).trans (wayOut_errView ..)))
  | l2 n => exact keeps_ite State.errView rfl (keeps_ite _ rfl ((raise_errView ..).trans (l2WayOut_errView ..)))

@[simp] theorem wayError_errView (det u addr info : Nat) : (s.wayError det u addr info).errView = s.errView := by
  unfold State.wayError
  split
  · rfl
  · split
    · simp
    · dsimp only
      split
      · split <;> simp
      · split <;> simp

@[simp] theorem dirRebuild_errView (n set : Nat) : (s.dirRebuild n set).errView = s.errView := by
  unfold State.dirRebuild
  dsimp only
  rw [foldl_keeps State.errView fun t e => (recall_errView ..).trans (dirMap_errView ..)]
  exact foldl_keeps State.errView (fun t r => foldl_keeps State.errView
    (fun t l => (land_errView ..).trans (takeCopy_errView ..)) _ _) _ _

@[simp] theorem linkDown_errView (p : Nat) : (s.linkDown p).errView = s.errView := by
  unfold State.linkDown
  extract_lets x
  split
  · rfl
  · exact raise_errView ..

@[simp] theorem connSend_errView (unit : Nat) (k : Packet) : (s.connSend unit k).errView = s.errView := by
  have pump (t : State) (p : Nat) : (t.pump p).errView = t.errView := by
    unfold State.pump
    split
    · exact (countBy_errView ..).trans (countBy_errView ..)
    · exact countBy_errView ..
  unfold State.connSend
  dsimp only
  split
  · rfl
  · split
    · exact pump ..
    · rfl

end Ways

/-! ## Channels and multicast streams (R277, R285, R294, R501). -/

section Channels

variable (s : State)

@[simp] theorem updCore_errView (n : Nat) (f : Wrk → Wrk) : (s.updCore n f).errView = s.errView := rfl
@[simp] theorem updGroup_errView (g : Nat) (f : McGroup → McGroup) : (s.updGroup g f).errView = s.errView := rfl
@[simp] theorem updGrp_errView (f : GroupSt → GroupSt) : (s.updGrp f).errView = s.errView := rfl

@[simp] theorem updChan_errView (src : StreamSrc) (f : Channel → Channel) : (s.updChan src f).errView = s.errView := by
  cases src <;> rfl

@[simp] theorem descPost_errView (src : StreamSrc) (d : PrivDesc) : (s.descPost src d).errView = s.errView :=
  keeps_ite State.errView (keeps_ite _ rfl rfl) rfl

/-- A request to a peer is sent, or answered at once without a trace. -/
theorem peerAsk_errView {who : Requester} {unit part op b x len : Nat} {data : List Byte} {poison : Bool} {attr : Nat} {t : State}
    (sent : s.peerAsk who unit part op b x len data poison attr = .ok t) : t.errView = s.errView := by
  unfold State.peerAsk at sent
  split at sent
  · cases sent
  · split at sent
    · cases sent
    · cases sent
      exact connSend_errView ..

@[simp] theorem putRecord_errView (src : StreamSrc) (dst : RecordAt) (bs : List Byte) :
    (s.putRecord src dst bs).errView = s.errView := by
  unfold State.putRecord
  split
  · rfl
  · simp
  · split
    · split
      next sent => exact peerAsk_errView s sent
      next => rfl
    · simp

@[simp] theorem finishChan_errView (src : StreamSrc) : (s.finishChan src).errView = s.errView := by
  unfold State.finishChan
  extract_lets c e0 e started s1 bit s2 s3
  have h1 : s1.errView = s.errView := putRecord_errView ..
  have h2 : s2.errView = s1.errView := by
    unfold s2
    split
    · exact updCore_errView ..
    · rfl
  have h3 : s3.errView = s2.errView := by
    unfold s3
    split
    · exact descPost_errView ..
    · rfl
  rw [updChan_errView, h3, h2, h1]

@[simp] theorem chanAbort_errView (src : StreamSrc) (info : EndInfo) : (s.chanAbort src info).errView = s.errView :=
  keeps_ite State.errView rfl (updChan_errView ..)

@[simp] theorem mcAbort_errView (n k : Nat) (b : ChanBlock) : (s.mcAbort n k b).errView = s.errView := by
  unfold State.mcAbort
  split
  · rfl
  · exact foldl_keeps State.errView (fun _ _ => keeps_ite _ (updChan_errView ..) (chanAbort_errView ..)) _ _

@[simp] theorem mcEnd_errView (n k : Nat) (b : ChanBlock) : (s.mcEnd n k b).errView = s.errView := by
  unfold State.mcEnd
  split
  · rfl
  · exact foldl_keeps State.errView (fun _ _ => keeps_ite _ (updChan_errView ..) rfl) _ _

@[simp] theorem mcLeave_errView (n k : Nat) (b : ChanBlock) : (s.mcLeave n k b).errView = s.errView :=
  keeps_ite State.errView rfl rfl

@[simp] theorem mcStart_errView (g : Nat) (m : McStream) : (s.mcStart g m).errView = s.errView := by
  unfold State.mcStart
  dsimp only
  rw [foldl_keeps State.errView fun _ _ => (finishChan_errView ..).trans (updChan_errView ..), updChan_errView, updGroup_errView]

@[simp] theorem mcAttach_errView (g : Nat) : (s.mcAttach g).errView = s.errView := by
  unfold State.mcAttach
  split
  · rfl
  · refine keeps_ite State.errView rfl ?_
    extract_lets lg fit m1 s1
    have attached : s1.errView = s.errView := foldl_keeps State.errView (fun _ _ => updChan_errView ..) _ _
    exact keeps_ite _ ((mcStart_errView ..).trans attached) attached

@[simp] theorem mcClaim_errView (g : Nat) : (s.mcClaim g).errView = s.errView := by
  unfold State.mcClaim
  split
  · rfl
  · split
    · rfl
    · simp

@[simp] theorem detachCount_errView (m : StreamSrc) : (s.detachCount m).errView = s.errView := by
  unfold State.detachCount
  split
  · split
    · exact keeps_ite State.errView (count_errView ..) rfl
    · rfl
  · rfl

@[simp] theorem srcAbort_errView (src : StreamSrc) (info : EndInfo) : (s.srcAbort src info).errView = s.errView := by
  unfold State.srcAbort
  dsimp only
  rw [chanAbort_errView]
  split <;> simp

@[simp] theorem chanStop_errView (src : StreamSrc) : (s.chanStop src).errView = s.errView := by
  unfold State.chanStop
  extract_lets kill
  have kills (t : State) (m : StreamSrc) : (kill t m).errView = t.errView := by
    unfold kill
    dsimp only
    split
    · split <;> simp
    · simp
  exact keeps_ite State.errView rfl ((count_errView ..).trans (foldl_keeps State.errView kills _ _))

@[simp] theorem killChannels_errView (n : Nat) : (s.killChannels n).errView = s.errView := by
  unfold State.killChannels
  rw [chanStop_errView]
  exact foldl_keeps State.errView (fun t k => chanStop_errView t (chSrc n k)) _ s

end Channels

/-! ## Threads and their tasks (R388, R401, R501). -/

section Threads

variable (s : State)

@[simp] theorem updSched_errView (f : SchedSt → SchedSt) : (s.updSched f).errView = s.errView := rfl
@[simp] theorem updTask_errView (x : Nat) (f : Task → Task) : (s.updTask x f).errView = s.errView := rfl
@[simp] theorem updFlow_errView (x : Nat) (f : Flow → Flow) : (s.updFlow x f).errView = s.errView := rfl
@[simp] theorem updThr_errView (h : Nat) (f : Thr → Thr) : (s.updThr h f).errView = s.errView := rfl

@[simp] theorem anise_errView (ev hart : Nat) (i : AniseInfo) (data : Nat) : (s.anise ev hart i data).errView = s.errView :=
  keeps_ite State.errView rfl (keeps_ite _ rfl (keeps_ite State.errView rfl rfl))

@[simp] theorem tready_errView (h x : Nat) : (s.tready h x).2.errView = s.errView := by
  unfold State.tready
  dsimp only
  split
  · rfl
  · simp
  · exact (anise_errView ..).trans rfl

@[simp] theorem flowComplete_errView (x : Nat) (v : W64) (abandoned : Bool) : (s.flowComplete x v abandoned).errView = s.errView := by
  unfold State.flowComplete
  split
  · rfl
  · exact keeps_ite State.errView (tready_errView ..) rfl

@[simp] theorem abandon_errView (h : Nat) : (s.abandon h).errView = s.errView := by
  unfold State.abandon
  split
  · rfl
  · simp

@[simp] theorem stopThread_errView (h cause : Nat) : (s.stopThread h cause).errView = s.errView := by
  have ended : (s.endClv h).errView = s.errView := keeps_ite State.errView rfl rfl
  exact (abandon_errView _ h).trans ended

end Threads

/-! ## Containment (R500 to R503). -/

section Containment

variable (s : State)

@[simp] theorem stopCore_errView (n cause : Nat) : (s.stopCore n cause).errView = s.errView := by
  refine (foldl_keeps State.errView (fun t b => ?_) _ _).trans (updCore_errView s n _)
  split <;> rfl

@[simp] theorem hostDown_errView (h : Nat) : (s.hostDown h).errView = s.errView :=
  keeps_ite State.errView rfl rfl

@[simp] theorem commitLose_errView (us : List Nat) : (s.commitLose us).errView = s.errView :=
  keeps_ite State.errView rfl rfl

@[simp] theorem killCore_errView (n : Nat) : (s.killCore n).errView = s.errView :=
  keeps_ite State.errView rfl rfl

theorem clearStaged_errView : s.clearStaged.errView = s.errView := by
  refine (foldl_keeps State.errView (fun t e => ?_) _ _).trans rfl
  split <;> rfl

/-- A commit that reverts keeps the settings in force, whatever the loader held. -/
@[simp] theorem revertNow_errView : s.revertNow.errView = s.errView := by
  refine Eq.trans ?_ (clearStaged_errView s)
  have cfg : s.revertNow.cfg = s.clearStaged.cfg := (revertNow_cfg s).trans
    (congrArg (fun v : ErrSt × ShapeCfg × TimeSt × BootSt => v.2.1) (clearStaged_errView s)).symm
  exact congrArg (fun c => (({ s.clearStaged.err with queue := [], pmc := [], pmcNow := [] } : ErrSt), c, s.clearStaged.time,
    s.clearStaged.boot)) cfg

end Containment

end Sys2Proof.Machine

/-! The error unit: what handling a detection counts, contains and reports, and the other commands of the error unit; and the
statement O56. -/

namespace Sys2Proof.Machine

/-! ## Stopping partitions and halting the block (R502, R503). -/

section Containment

variable (s : State)

@[simp] theorem updHost_errView (h : Nat) (f : HostPort → HostPort) : (s.updHost h f).errView = s.errView := rfl
@[simp] theorem tuLose_errView (m : Nat) : (s.tuLose m).errView = s.errView := rfl

/-- What isolation leaves of the error unit, with the settings and the time: everything but its queue, the performance counters and
the partitions held. -/
def State.unitView (s : State) : ErrSt × ShapeCfg × TimeSt :=
  ({ s.err with queue := [], pmc := [], pmcNow := [], partHeld := 0 }, s.cfg, s.time)

variable {s} in
theorem unitView_of_errView {t : State} (h : t.errView = s.errView) : t.unitView = s.unitView :=
  congrArg (fun v : ErrSt × ShapeCfg × TimeSt × BootSt => (({ v.1 with partHeld := 0 } : ErrSt), v.2.1, v.2.2.1)) h

variable {s} in
theorem partHeld_of_errView {t : State} (h : t.errView = s.errView) : t.err.partHeld = s.err.partHeld :=
  congrArg (fun v : ErrSt × ShapeCfg × TimeSt × BootSt => v.1.partHeld) h

variable {s} in
theorem boot_of_errView {t : State} (h : t.errView = s.errView) : t.boot = s.boot :=
  congrArg (fun v : ErrSt × ShapeCfg × TimeSt × BootSt => v.2.2.2) h

variable {s} in
theorem cfg_of_unitView {t : State} (h : t.unitView = s.unitView) : t.cfg = s.cfg :=
  congrArg (fun v : ErrSt × ShapeCfg × TimeSt => v.2.1) h

theorem killCores_errView (p : Nat) :
    ((List.range 256).foldl (fun t n => if t.partOf n == some p then t.killCore n else t) s).errView = s.errView :=
  foldl_keeps State.errView (fun _ _ => keeps_ite _ (killCore_errView ..) rfl) _ s

theorem holdPart_unitView (m : BitVec 16) :
    (s.updErr fun e => { e with partHeld := e.partHeld ||| m }).unitView = s.unitView := rfl

theorem stopPartition_unitView (p : Nat) : (s.stopPartition p).unitView = s.unitView := by
  unfold State.stopPartition
  rw [holdPart_unitView]
  exact unitView_of_errView (killCores_errView s p)

theorem holdPart_partHeld (m : BitVec 16) :
    (s.updErr fun e => { e with partHeld := e.partHeld ||| m }).err.partHeld = s.err.partHeld ||| m := rfl

theorem stopPartition_partHeld (p : Nat) :
    (s.stopPartition p).err.partHeld = s.err.partHeld ||| BitVec.ofNat 16 (2 ^ p) := by
  unfold State.stopPartition
  rw [holdPart_partHeld, partHeld_of_errView (killCores_errView s p)]

theorem stopPartitions_unitView (ps : List Nat) : (ps.foldl State.stopPartition s).unitView = s.unitView :=
  foldl_keeps State.unitView stopPartition_unitView ps s

theorem getLsbD_ofNat_two_pow {q : Nat} (n : Nat) (small : q < n) : (BitVec.ofNat n (2 ^ q)).getLsbD q = true := by
  rw [BitVec.getLsbD_ofNat, Nat.testBit_two_pow_self, decide_eq_true small, Bool.and_true]

/-- A stop of partitions releases none, and holds each one named. -/
theorem stopPartitions_partHeld (q : Nat) (small : q < 16) (ps : List Nat) (held : q ∈ ps ∨ s.err.partHeld.getLsbD q = true) :
    (ps.foldl State.stopPartition s).err.partHeld.getLsbD q = true := by
  induction ps generalizing s with
  | nil => simpa using held
  | cons p ps ih =>
    rw [List.foldl_cons]
    refine ih (s.stopPartition p) ?_
    rw [stopPartition_partHeld, BitVec.getLsbD_or]
    rcases held with named | before
    · rcases List.mem_cons.mp named with rfl | later
      · exact .inr (by rw [getLsbD_ofNat_two_pow 16 small, Bool.or_true])
      · exact .inl later
    · exact .inr (by rw [before, Bool.true_or])

theorem isolate_unitView (det u addr info : Nat) : (s.isolate det u addr info).unitView = s.unitView := by
  have stop : ((s.servedParts u).foldl State.stopPartition s).unitView = s.unitView := stopPartitions_unitView ..
  have harts : ((List.range 8).foldl (fun t i => t.stopThread (8 * (u - 0x450) + i) 0xE0) s).errView = s.errView :=
    foldl_keeps State.errView (fun t i => stopThread_errView ..) _ s
  unfold State.isolate
  extract_lets stopped
  split
  · exact unitView_of_errView (by simp)
  split
  · split
    · exact unitView_of_errView (by simp)
    · exact stop
  split
  · exact stop
  split
  · split <;> exact unitView_of_errView (by simp)
  split
  · split
    · exact unitView_of_errView (by simp)
    · exact unitView_of_errView ((commitLose_errView ..).trans harts)
  split
  · exact unitView_of_errView (by simp)
  split
  · exact unitView_of_errView (by simp)
  · exact stop

/-- The partitions a unit serves are a matter of the settings in force. -/
theorem servedParts_congr {t : State} (cfg : t.cfg = s.cfg) (u : Nat) : t.servedParts u = s.servedParts u := by
  simp only [State.servedParts, State.partOf, State.enabledParts, cfg]

/-- The halt as it is entered. -/
def State.halting (s : State) : State := ({ s with boot := { s.boot with halted := true, failStage := 6 } }).setBlk .failed

theorem halting_unitView : s.halting.unitView = s.unitView := by
  unfold State.halting State.setBlk
  split <;> rfl

theorem halting_halted : s.halting.boot.halted = true := by
  unfold State.halting State.setBlk
  split <;> rfl

theorem halting_partHeld : s.halting.err.partHeld = s.err.partHeld := by
  unfold State.halting State.setBlk
  split <;> rfl

/-- The links, the host and the commit after a halt: the error unit and the boot state are those of its entry. -/
theorem haltBlock_errView (running : s.boot.halted = false) : s.haltBlock.errView = s.halting.errView := by
  unfold State.haltBlock
  refine (congrArg State.errView (if_neg (by rw [running]; decide))).trans ?_
  extract_lets b s1 s2 s3
  have links : s2.errView = s1.errView := foldl_keeps State.errView (fun t p => linkDown_errView ..) _ _
  have ports : s3.errView = s2.errView := foldl_keeps State.errView (fun t h => keeps_ite _ (updHost_errView ..) rfl) _ _
  have entered : s3.errView = s.halting.errView := ports.trans links
  exact keeps_ite State.errView ((revertNow_errView ..).trans entered) entered

theorem haltBlock_unitView : s.haltBlock.unitView = s.unitView := by
  cases running : s.boot.halted with
  | true => unfold State.haltBlock; rw [running]; rfl
  | false => exact (unitView_of_errView (haltBlock_errView s running)).trans (halting_unitView s)

theorem haltBlock_partHeld : s.haltBlock.err.partHeld = s.err.partHeld := by
  cases running : s.boot.halted with
  | true => unfold State.haltBlock; rw [running]; rfl
  | false => exact (partHeld_of_errView (haltBlock_errView s running)).trans (halting_partHeld s)

theorem haltBlock_halted : s.haltBlock.boot.halted = true := by
  cases running : s.boot.halted with
  | true => unfold State.haltBlock; rw [running]; exact running
  | false => exact (congrArg BootSt.halted (boot_of_errView (haltBlock_errView s running))).trans (halting_halted s)

section Contain

variable (action det u addr info : Nat)

/-- The isolation of a unit, at the actions that ask for it. -/
def State.isolatedAt (s : State) : State := if 2 ≤ action then s.isolate det u addr info else s

/-- The stop of the partitions the unit serves, at the actions that ask for it. -/
def State.stoppedAt (s : State) : State := if 3 ≤ action then (s.servedParts u).foldl State.stopPartition s else s

theorem contain_eq : s.contain action det u addr info =
    if 4 ≤ action then ((s.isolatedAt action det u addr info).stoppedAt action u).haltBlock
    else (s.isolatedAt action det u addr info).stoppedAt action u := rfl

theorem isolatedAt_unitView : (s.isolatedAt action det u addr info).unitView = s.unitView :=
  keeps_ite State.unitView (isolate_unitView ..) rfl

theorem stoppedAt_unitView : (s.stoppedAt action u).unitView = s.unitView :=
  keeps_ite State.unitView (stopPartitions_unitView ..) rfl

theorem contain_unitView : (s.contain action det u addr info).unitView = s.unitView := by
  have stopped := (stoppedAt_unitView (s.isolatedAt action det u addr info) action u).trans (isolatedAt_unitView s action det u addr info)
  rw [contain_eq]
  exact keeps_ite State.unitView ((haltBlock_unitView _).trans stopped) stopped

theorem contain_halted (h : 4 ≤ action) : (s.contain action det u addr info).boot.halted = true := by
  rw [contain_eq, if_pos h]
  exact haltBlock_halted _

theorem contain_partHeld (h : 3 ≤ action) {q : Nat} (served : q ∈ s.servedParts u) (small : q < 16) :
    (s.contain action det u addr info).err.partHeld.getLsbD q = true := by
  have stopped : ((s.isolatedAt action det u addr info).stoppedAt action u).err.partHeld.getLsbD q = true := by
    unfold State.stoppedAt
    rw [if_pos h, servedParts_congr s (cfg_of_unitView (isolatedAt_unitView s action det u addr info))]
    exact stopPartitions_partHeld _ q small _ (.inl served)
  rw [contain_eq]
  split
  · rw [haltBlock_partHeld]; exact stopped
  · exact stopped

end Contain

end Containment

end Sys2Proof.Machine

namespace Sys2Proof.Machine

/-! ## What handling a detection does (R508, R509, R513). -/

section Handling

variable (s : State) (d : Detection) (row : DetRow)

/-- The detections counted against the threshold of a corrected detector. -/
def State.nearThreshold (s : State) (d : Detection) (row : DetRow) : Nat :=
  Tbl.get 0 s.err.thr (256 * d.unit.toNat + row.id) + 1

/-- Whether a detection is raised: an uncorrected one always, a corrected one at its threshold. -/
def State.raised (s : State) (d : Detection) (row : DetRow) : Bool :=
  !(row.kind == .c) || decide ((s.policy row).threshold ≤ s.nearThreshold d row)

/-- A detection on ERR_CNT and, where it is a corrected one, against its threshold. -/
def State.detCounted (s : State) (d : Detection) (row : DetRow) : State :=
  let t := s.updErr fun e => e.cntUp row.id
  if row.kind == .c then
    t.updErr fun e => { e with thr := Tbl.set 0 e.thr (256 * d.unit.toNat + row.id) (if s.raised d row then 0 else s.nearThreshold d row) }
  else t

/-- A detection's consequences for a directory (R505). -/
def State.detRebuilt (s : State) (d : Detection) (row : DetRow) : State :=
  if row.id = 0x08 ∧ 0x200 ≤ d.unit.toNat ∧ d.unit.toNat < 0x300 then s.dirRebuild (d.unit.toNat - 0x200) (d.info.toNat % 2048) else s

/-- A detection counted, with its consequences for a way, for a directory and for what its policy contains. -/
def State.detContained (s : State) (d : Detection) (row : DetRow) : State :=
  let t := (s.detCounted d row).wayError row.id d.unit.toNat d.addr.toNat d.info.toNat
  (t.detRebuilt d row).contain (s.policy row).action row.id d.unit.toNat d.addr.toNat d.info.toNat

/-- The detections of a row on ERR_CNT, this one with them. -/
def State.cntNext (s : State) (row : DetRow) : Nat := Tbl.get 0 (s.err.cntUp row.id).cnt row.id

/-- The report of a raised detection (R509, R510). -/
def State.detReport (s : State) (d : Detection) (row : DetRow) : ErrReport :=
  let p := s.policy row
  let host := bitOf p.flags 1
  let flags := b2n (s.err.injected || s.err.injPend.contains (injKey d)) + 2 * b2n (row.kind == .c) + 8 * b2n (host || p.action == 4)
    + 16 * b2n d.retention + 32 * b2n d.tierDegraded + 64 * b2n d.lastWay + 128 * b2n (row.id == 0x41)
  ⟨⟨s.time.blk, d.det, d.unit, BitVec.ofNat 8 p.action, BitVec.ofNat 8 flags, BitVec.ofNat 16 (s.cntNext row), d.addr, d.info⟩,
    bitOf p.flags 0 && !(decide (0x30 ≤ row.id ∧ row.id ≤ 0x37)), p.thread, host && p.action != 4⟩

/-- The report among those of its HK cycle. -/
def State.detQueued (s : State) (d : Detection) (x : ErrReport) : State :=
  s.updErr fun e => { e with reports := insertReport x e.reports, injPend := e.injPend.erase (injKey d) }

variable {row} in
theorem handle_eq (known : detectorRow d.det.toNat = some row) :
    s.handle d = if s.raised d row then (s.detContained d row).detQueued d (s.detReport d row) else s.detContained d row := by
  have flip : s.handle d = if !s.raised d row then s.detContained d row
      else (s.detContained d row).detQueued d (s.detReport d row) := by
    unfold State.handle
    rw [known]
    rfl
  rw [flip]
  cases s.raised d row <;> rfl

theorem detContained_unitView : (s.detContained d row).unitView = (s.detCounted d row).unitView := by
  have rebuilt (t : State) : (t.detRebuilt d row).errView = t.errView := keeps_ite State.errView (dirRebuild_errView ..) rfl
  exact (contain_unitView ..).trans (unitView_of_errView ((rebuilt _).trans (wayError_errView ..)))

/-- What a report may change of the error unit's log: its pointers, its records, ERROR pending and the records lost. -/
def ErrSt.logView (e : ErrSt) : BitVec 8 × BitVec 8 × BitVec 128 × Bool × Nat × Tbl LogRec :=
  (e.write, e.rd, e.irq, e.overflow, e.lost, e.log)

variable {s} in
theorem logView_of_unitView {t : State} (h : t.unitView = s.unitView) : t.err.logView = s.err.logView :=
  congrArg (fun v : ErrSt × ShapeCfg × TimeSt => v.1.logView) h

theorem detCounted_logView : (s.detCounted d row).err.logView = s.err.logView :=
  keeps_ite (fun t : State => t.err.logView) rfl rfl

theorem detContained_logView : (s.detContained d row).err.logView = s.err.logView :=
  (logView_of_unitView (detContained_unitView s d row)).trans (detCounted_logView s d row)

theorem cntNext_eq : s.cntNext row = min (Tbl.get 0 s.err.cnt row.id + 1) 0xFFFF := Tbl.get_set_self ..

theorem detContained_cnt : Tbl.get 0 (s.detContained d row).err.cnt row.id = s.cntNext row := by
  have counted : (s.detCounted d row).err.cnt = (s.err.cntUp row.id).cnt := keeps_ite (fun t : State => t.err.cnt) rfl rfl
  have contained : (s.detContained d row).err.cnt = (s.detCounted d row).err.cnt :=
    congrArg (fun v : ErrSt × ShapeCfg × TimeSt => v.1.cnt) (detContained_unitView s d row)
  rw [contained, counted, State.cntNext]

theorem detContained_reports : (s.detContained d row).err.reports = s.err.reports := by
  have counted : (s.detCounted d row).err.reports = s.err.reports := keeps_ite (fun t : State => t.err.reports) rfl rfl
  exact (congrArg (fun v : ErrSt × ShapeCfg × TimeSt => v.1.reports) (detContained_unitView s d row)).trans counted

theorem detContained_halted (h : (s.policy row).action = 4) : (s.detContained d row).boot.halted = true :=
  contain_halted _ _ _ _ _ _ (by omega)

theorem detContained_partHeld (h : 3 ≤ (s.policy row).action) {q : Nat} (served : q ∈ s.servedParts d.unit.toNat) (small : q < 16) :
    (s.detContained d row).err.partHeld.getLsbD q = true := by
  refine contain_partHeld _ _ _ _ _ _ h ?_ small
  have rebuilt (t : State) : (t.detRebuilt d row).cfg = t.cfg :=
    cfg_of_unitView (unitView_of_errView (keeps_ite State.errView (dirRebuild_errView ..) rfl))
  have counted : (s.detCounted d row).cfg = s.cfg := keeps_ite State.cfg rfl rfl
  rw [servedParts_congr s ((rebuilt _).trans ((cfg_of_unitView (unitView_of_errView (wayError_errView ..))).trans counted))]
  exact served

variable {row}

theorem raised_of_uncorrected (h : row.kind ≠ .c) : s.raised d row = true := by
  simp [State.raised, h]

theorem not_raised_of_below (h : row.kind = .c) (below : s.nearThreshold d row < (s.policy row).threshold) :
    s.raised d row = false := by
  simp [State.raised, h, below]

theorem handle_logView (known : detectorRow d.det.toNat = some row) : (s.handle d).err.logView = s.err.logView := by
  rw [handle_eq s d known]
  exact keeps_ite (fun t : State => t.err.logView) (detContained_logView ..) (detContained_logView ..)

theorem handle_cnt (known : detectorRow d.det.toNat = some row) : Tbl.get 0 (s.handle d).err.cnt row.id = s.cntNext row := by
  rw [handle_eq s d known]
  exact keeps_ite (fun t : State => Tbl.get 0 t.err.cnt row.id) (detContained_cnt ..) (detContained_cnt ..)

theorem handle_halted (known : detectorRow d.det.toNat = some row) (h : (s.policy row).action = 4) :
    (s.handle d).boot.halted = true := by
  rw [handle_eq s d known]
  exact keeps_ite (fun t : State => t.boot.halted) (detContained_halted s d row h) (detContained_halted s d row h)

theorem handle_partHeld (known : detectorRow d.det.toNat = some row) (h : 3 ≤ (s.policy row).action) {q : Nat}
    (served : q ∈ s.servedParts d.unit.toNat) (small : q < 16) : (s.handle d).err.partHeld.getLsbD q = true := by
  have held := detContained_partHeld s d row h served small
  rw [handle_eq s d known]
  exact keeps_ite (fun t : State => t.err.partHeld.getLsbD q) held held

theorem handle_reports (known : detectorRow d.det.toNat = some row) (none : s.err.reports = []) :
    (s.handle d).err.reports = if s.raised d row then [s.detReport d row] else [] := by
  have before := (detContained_reports s d row).trans none
  rw [handle_eq s d known]
  split
  · exact congrArg (insertReport (s.detReport d row)) before
  · exact before

theorem id_of_detectorRow {det : Nat} (known : detectorRow det = some row) : row.id = det := by
  simpa using List.find?_some known

end Handling

/-! ## The log (R509 to R511). -/

section Log

variable (e : ErrSt) (r : LogRec)

theorem put_of_room (room : e.unread < 128) : e.put r =
    { e with log := Tbl.set LogRec.off e.log (e.write.toNat % 128) { r with flags := r.flags ||| (if e.overflow then 4 else 0) },
             write := e.write + 1, overflow := false } :=
  if_neg (Nat.not_le.mpr room)

theorem put_of_full (full : 128 ≤ e.unread) : e.put r = { e with lost := min (e.lost + 1) 0xFFFF, overflow := true } :=
  if_pos full

/-- A report changes the error unit by its record and by ERROR pending. -/
theorem report_err (s : State) (x : ErrReport) : (s.report x).err =
    if x.irq then { s.err.put x.record with
      irq := (s.err.put x.record).irq ||| BitVec.ofNat 128 (2 ^ x.record.det.toNat)
      irqThread := Tbl.set 0 (s.err.put x.record).irqThread x.record.det.toNat x.thread }
    else s.err.put x.record := by
  unfold State.report
  extract_lets r det u s1 s2 s3
  have pending : s3.err = s2.err := keeps_ite State.err rfl rfl
  have told : s2.err = if x.irq then { s1.err with irq := s1.err.irq ||| BitVec.ofNat 128 (2 ^ det), irqThread := Tbl.set 0 s1.err.irqThread det x.thread }
      else s1.err := by
    unfold s2
    split <;> rfl
  refine Eq.trans (keeps_ite State.err rfl ?_) (pending.trans told)
  refine foldl_keeps State.err (fun t h => ?_) _ s3
  split <;> rfl

end Log

/-! ## The report of a detection (R509, R510). -/

section Reported

variable (s : State) (d : Detection) (row : DetRow)

/-- The error unit when the reports of the HK cycle are made. -/
def State.reportedErr (s : State) : ErrSt := (s.err.reports.foldl State.report s).err

variable {s row} (known : detectorRow d.det.toNat = some row) (none : s.err.reports = [])
include known none

theorem reportedErr_handle_raised (raised : s.raised d row = true) :
    (s.handle d).reportedErr = ((s.handle d).report (s.detReport d row)).err := by
  unfold State.reportedErr
  rw [handle_reports s d known none, if_pos raised]
  rfl

theorem reportedErr_handle_quiet (quiet : s.raised d row = false) : (s.handle d).reportedErr = (s.handle d).err := by
  unfold State.reportedErr
  rw [handle_reports s d known none, quiet]
  rfl

omit none in
theorem handle_write : (s.handle d).err.write = s.err.write := congrArg (·.1) (handle_logView s d known)
omit none in
theorem handle_irq : (s.handle d).err.irq = s.err.irq := congrArg (·.2.2.1) (handle_logView s d known)
omit none in
theorem handle_lost : (s.handle d).err.lost = s.err.lost := congrArg (·.2.2.2.2.1) (handle_logView s d known)
omit none in
theorem handle_unread : (s.handle d).err.unread = s.err.unread :=
  congrArg (fun v : BitVec 8 × BitVec 8 × BitVec 128 × Bool × Nat × Tbl LogRec => (v.1 - v.2.1).toNat) (handle_logView s d known)

/-- A raised detection's report on a log with room. -/
theorem reportedErr_of_room (kind : row.kind ≠ .c) (room : s.err.unread < 128) :
    let e := (s.handle d).reportedErr
    let x := Tbl.get LogRec.off e.log (s.err.write.toNat % 128)
    e.write = s.err.write + 1 ∧ x.det = d.det ∧ x.unit = d.unit ∧ x.addr = d.addr ∧ x.info = d.info ∧ x.time = s.time.blk
      ∧ x.count = BitVec.ofNat 16 (s.cntNext row) := by
  have put : ∀ r : LogRec, (s.handle d).err.put r = _ := fun r => put_of_room _ r ((handle_unread d known).trans_lt room)
  extract_lets e x
  have write : e.write = s.err.write + 1 := by
    unfold e
    rw [reportedErr_handle_raised d known none (raised_of_uncorrected s d kind), report_err, put, ← handle_write (s := s) d known]
    exact keeps_ite ErrSt.write rfl rfl
  have record : ∃ f, x = { (s.detReport d row).record with flags := f } := by
    have log : e.log = ((s.handle d).err.put (s.detReport d row).record).log := by
      unfold e
      rw [reportedErr_handle_raised d known none (raised_of_uncorrected s d kind), report_err]
      exact keeps_ite ErrSt.log rfl rfl
    unfold x
    rw [log, put, ← handle_write (s := s) d known]
    exact ⟨_, Tbl.get_set_self ..⟩
  obtain ⟨f, record⟩ := record
  rw [record]
  exact ⟨write, rfl, rfl, rfl, rfl, rfl, rfl⟩

/-- A raised detection's report on a full log is lost. -/
theorem reportedErr_of_full (kind : row.kind ≠ .c) (full : 128 ≤ s.err.unread) :
    let e := (s.handle d).reportedErr
    e.write = s.err.write ∧ e.overflow = true ∧ e.lost = min (s.err.lost + 1) 0xFFFF := by
  have put : ∀ r : LogRec, (s.handle d).err.put r = _ := fun r => put_of_full _ r (full.trans_eq (handle_unread d known).symm)
  rw [reportedErr_handle_raised d known none (raised_of_uncorrected s d kind), report_err, put, ← handle_write (s := s) d known,
    ← handle_lost (s := s) d known]
  exact ⟨keeps_ite ErrSt.write rfl rfl, keeps_ite ErrSt.overflow rfl rfl, keeps_ite ErrSt.lost rfl rfl⟩

/-- A raised detection of a detector with an interrupt makes its ERROR pending. -/
theorem reportedErr_irq (kind : row.kind ≠ .c) (asks : bitOf (s.policy row).flags 0 = true)
    (outside : row.id < 0x30 ∨ 0x37 < row.id) (small : row.id < 128) : (s.handle d).reportedErr.irq.getLsbD row.id = true := by
  have irq : (s.detReport d row).irq = true := by
    change (bitOf (s.policy row).flags 0 && !decide (0x30 ≤ row.id ∧ row.id ≤ 0x37)) = true
    rw [asks, decide_eq_false (by omega)]
    rfl
  rw [reportedErr_handle_raised d known none (raised_of_uncorrected s d kind), report_err, if_pos irq]
  change (_ ||| BitVec.ofNat 128 (2 ^ d.det.toNat)).getLsbD row.id = true
  rw [← id_of_detectorRow known, BitVec.getLsbD_or, getLsbD_ofNat_two_pow 128 small, Bool.or_true]

end Reported

/-! ## The counts, the log and the watchdogs (R508, R511, R513, R517). -/

section Unit

variable (s : State)

theorem detect_of_plain (d : Detection) (clove : d.det ≠ 0x0E) (tile : d.det ≠ 0x04 ∨ 0x100 ≤ d.unit.toNat) :
    s.detect d = s.raiseDet d :=
  (if_neg fun h => tile.elim (absurd h.1) (Nat.not_le.mpr h.2)).trans (if_neg clove)

theorem detect_tile (d : Detection) (det : d.det = 0x04) (tile : d.unit.toNat < 0x100) :
    let w := 0x8_0000 * d.unit.toNat + d.info.toNat % 0x40_0000 / 8
    s.detect d = if Tbl.get false s.mem.tilePoison w then s else (s.updMem fun m =>
      { m with tilePoison := Tbl.set false m.tilePoison w true, tileErr := Tbl.set false m.tileErr w false }).raiseDet d :=
  if_pos ⟨det, tile⟩

theorem detect_clove (d : Detection) (det : d.det = 0x0E) : s.detect d = State.raiseDet (match clvMem d.addr.toNat with
    | none => s
    | some (c, off) => s.updMem fun m =>
        { m with clvPoison := Tbl.set false m.clvPoison ((if c.isSome then 0x10_0000 else 0) + off / 8) true }) d := by
  refine (if_neg fun h => absurd (det.symm.trans h.1) (by decide)).trans ((if_pos det).trans ?_)
  cases clvMem d.addr.toNat <;> rfl

theorem exec_errorLogFlush (waiting : 64 ≤ s.err.unread) :
    exec (.errorLogFlush) s = .next (s.after ((s.carRecord 3 ((List.range 64).flatMap fun i =>
      (Tbl.get LogRec.off s.err.log ((s.err.rd.toNat + i) % 128)).bytes)).updErr fun e => { e with rd := e.rd + 64 })) :=
  finish_eq (e := s.logFlush) (if_neg (Nat.not_lt.mpr waiting))

/-- ERR_INJ_CTRL as R518 and R519 take it. -/
theorem injArm_eq (val : W64) (mode : field val.toNat 17 16 ≠ 3) :
    let det := field val.toNat 15 0
    let unit := field val.toNat 47 32
    let carried := (detectorRow det).isSome && carries det unit && !s.unitOff unit
    s.injArm val = s.updErr fun e =>
      { e with injDet := BitVec.ofNat 16 det, injUnit := BitVec.ofNat 16 unit,
               injMode := if field val.toNat 17 16 ≠ 0 && carried then field val.toNat 17 16 else 0,
               injArmed := field val.toNat 17 16 ≠ 0 && carried,
               injResult := if field val.toNat 17 16 = 0 ∨ carried then 0 else if (detectorRow det).isNone then 1 else 2 } := by
  extract_lets det unit carried
  refine (if_neg mode).trans ?_
  by_cases off : field val.toNat 17 16 = 0
  · simp [off, det, unit]
  · cases known : detectorRow det with
    | none => simp [off, det, unit, carried, known]
    | some row =>
      have fits : carried = !(!carries det unit || s.unitOff unit) := by simp [carried, known]
      cases bars : (!carries det unit || s.unitOff unit) <;> simp_all [det, unit]

theorem watchdogExpiry_leaves (c : Nat) (set : Tbl.get 0 s.err.wdtPeriod c ≠ 0) (due : Tbl.get 0 s.err.wdtDue c ≤ s.now) :
    s.wdtExpire c = s.updErr fun e => { e with wdtOut := e.wdtOut ||| BitVec.ofNat 8 (2 ^ c) } :=
  if_pos ⟨set, due⟩

theorem drain_of_quiet (fuel : Nat) (quiet : s.err.queue = []) : s.drain fuel = s := by
  cases fuel with
  | zero => exact congrArg (fun q => ({ s with err := { s.err with queue := q } } : State)) quiet.symm
  | succ n => unfold State.drain; rw [quiet]

theorem satRaise_of_quiet (quiet : s.err.queue = []) (none : s.err.cntNow = []) : s.satRaise = s := by
  have same : (s.updErr fun e => { e with cntNow := [] }) = s :=
    congrArg (fun q => ({ s with err := { s.err with cntNow := q } } : State)) none.symm
  have sat : s.satRaise = (s.updErr fun e => { e with cntNow := e.cntNow }).drain 16 := by
    unfold State.satRaise
    rw [none]
    rfl
  exact sat.trans (drain_of_quiet s 16 quiet)

/-- The end of an HK cycle in the error unit, once its detections are handled. -/
def State.errReport (s : State) : State :=
  let u := s.satRaise.satRaise
  let v := u.err.reports.foldl State.report (u.updErr fun e => { e with reports := [], cntNow := [], pmcNow := [], policyOld := none })
  if v.err.injEnd then v.updErr (fun e => { e with injEnd := false, injArmed := false, injMode := 0, injResult := 3 }) else v

/-- The watchdogs that expired in the HK cycle start again and report (R517). -/
def State.wdtReport (s : State) : State :=
  (List.range 8).foldl (fun t c => if s.err.wdtOut.getLsbD c then (t.wdtRestart c).raise 0x2D (0x450 + c) 0 0 else t) s

theorem errTick_eq : s.errTick = (s.wdtReport.drain 16).errReport := rfl

theorem wdtReport_of_first (first : s.err.wdtOut = 1) : s.wdtReport =
    (s.updErr fun e => { e with wdtDue := Tbl.set 0 e.wdtDue 0 (s.now + 200 * Tbl.get 0 e.wdtPeriod 0), wdtOut := 0 }).raise 0x2D 0x450 0 0 := by
  have only : s.wdtReport = (s.wdtRestart 0).raise 0x2D 0x450 0 0 := by
    unfold State.wdtReport
    rw [first]
    rfl
  have stops : s.err.wdtOut &&& ~~~(BitVec.ofNat 8 (2 ^ 0)) = 0 := by rw [first]; decide
  rw [only]
  exact congrArg (fun w => State.raise (s.updErr fun e =>
    { e with wdtDue := Tbl.set 0 e.wdtDue 0 (s.now + 200 * Tbl.get 0 e.wdtPeriod 0), wdtOut := w }) 0x2D 0x450 0 0) stops

theorem wdtReport_of_none (none : s.err.wdtOut = 0) : s.wdtReport = s := by
  unfold State.wdtReport
  rw [none]
  rfl

theorem errReport_of_quiet (queue : s.err.queue = []) (cnts : s.err.cntNow = []) (reports : s.err.reports = [])
    (inj : s.err.injEnd = false) (pmcs : s.err.pmcNow = []) (policy : s.err.policyOld = none) : s.errReport = s := by
  have sat : s.satRaise.satRaise = s := by rw [satRaise_of_quiet s queue cnts, satRaise_of_quiet s queue cnts]
  have cleared : (s.updErr fun e => { e with reports := [], cntNow := [], pmcNow := [], policyOld := none }) = s := by
    conv_rhs => rw [show s = s.updErr fun e => { e with reports := s.err.reports, cntNow := s.err.cntNow, pmcNow := s.err.pmcNow, policyOld := s.err.policyOld } from rfl]
    rw [reports, cnts, pmcs, policy]
  unfold State.errReport
  rw [sat]
  dsimp only
  rw [reports, cleared]
  exact if_neg (by rw [List.foldl_nil, inj]; decide)

/-! ## Counters and snapshots (R513, R515, R521). -/

section Counters

variable (e : ErrSt) {det b : Nat} (now : Tbl.get (0, 0) e.cntNow det = (1, b))
include now

theorem cntRead_of_now : e.cntRead det = b := by
  unfold ErrSt.cntRead
  rw [now]
  rfl

theorem cntClear_cnt : Tbl.get 0 (e.cntClear det).cnt det = 1 := by
  unfold ErrSt.cntClear
  rw [now]
  dsimp only
  exact Tbl.get_set_self ..

theorem cntClear_cntRead : (e.cntClear det).cntRead det = 0 := by
  refine cntRead_of_now (b := 0) _ ?_
  unfold ErrSt.cntClear
  rw [now]
  exact Tbl.get_set_self (0, 0) e.cntNow det (1, 0)

end Counters

section Snapshots

variable (a : Agent) (u i : Nat)

theorem snapRead_of_outside (h : (s.cfg.counterOf u i).used = false ∨ bitOf (s.cfg.counterOf u i).flags 1 = false) :
    s.snapRead a u i = (s, 0) :=
  if_pos (by rcases h with h | h <;> rw [h] <;> simp)

variable {s u i} (used : (s.cfg.counterOf u i).used = true) (grouped : bitOf (s.cfg.counterOf u i).flags 1 = true)
include used grouped

/-- Whether a latch is the one that an agent has of a counter's group. -/
def latchOf (a : Agent) (g : Nat) (l : SnapLatch) : Bool := l.agent == a && l.group == g

theorem snapRead_eq : s.snapRead a u i =
    (let g := (s.cfg.counterOf u i).group
     let s1 := if s.err.latches.any (latchOf a g) then s else s.snapLatch a g
     match s1.err.latches.find? (latchOf a g) with
     | some l => (s1, Tbl.get 0 l.vals (8 * u + i))
     | none => (s1, 0)) := by
  unfold State.snapRead
  refine (if_neg (by rw [used, grouped]; decide)).trans rfl

/-- A counter of a group that the agent has latched reads from the latch. -/
theorem snapRead_of_latched {l : SnapLatch} (found : s.err.latches.find? (latchOf a (s.cfg.counterOf u i).group) = some l) :
    s.snapRead a u i = (s, Tbl.get 0 l.vals (8 * u + i)) := by
  have has : s.err.latches.any (latchOf a (s.cfg.counterOf u i).group) = true :=
    List.any_eq_true.mpr ⟨l, List.mem_of_find?_eq_some found, List.find?_some found⟩
  rw [snapRead_eq a used grouped]
  dsimp only
  rw [if_pos has, found]

/-- A counter of another group latches the group's latest capture first. -/
theorem snapRead_of_unlatched (missing : s.err.latches.find? (latchOf a (s.cfg.counterOf u i).group) = none) :
    let g := (s.cfg.counterOf u i).group
    s.snapRead a u i = (s.updErr fun e => { e with latches := e.latches ++ [⟨a, g, Tbl.get [] e.snap g⟩] },
      Tbl.get 0 (Tbl.get [] s.err.snap g) (8 * u + i)) := by
  extract_lets g
  have others : ∀ l ∈ s.err.latches, latchOf a g l = false := fun l mem => by
    simpa using List.find?_eq_none.mp missing l mem
  have has : s.err.latches.any (latchOf a g) = false := List.any_eq_false.mpr fun l mem => by simp [others l mem]
  have kept : (s.err.latches.filter fun l => l.agent != a || l.group != g) = s.err.latches := by
    refine List.filter_eq_self.mpr fun l mem => ?_
    have other := others l mem
    unfold latchOf at other
    simpa [imp_iff_not_or] using other
  have latched : s.snapLatch a g = s.updErr fun e => { e with latches := e.latches ++ [⟨a, g, Tbl.get [] e.snap g⟩] } :=
    congrArg (fun ls => s.updErr fun e => { e with latches := ls ++ [⟨a, g, Tbl.get [] e.snap g⟩] }) kept
  have found : (s.err.latches ++ [(⟨a, g, Tbl.get [] s.err.snap g⟩ : SnapLatch)]).find? (latchOf a g)
      = some ⟨a, g, Tbl.get [] s.err.snap g⟩ := by
    rw [List.find?_append, missing]
    simp [latchOf]
  rw [snapRead_eq a used grouped]
  dsimp only
  rw [if_neg (by rw [has]; decide), latched]
  change (match (s.err.latches ++ [(⟨a, g, Tbl.get [] s.err.snap g⟩ : SnapLatch)]).find? (latchOf a g) with
    | some l => _ | none => _) = _
  rw [found]

end Snapshots

theorem snapTick_due {g : Nat} (small : g < 16) (due : s.err.snapDue.getLsbD g = true) : (g, s.snapOf g) ∈ s.snapTick.err.snapNow := by
  have asked : ¬(s.err.snapDue = 0 ∧ s.err.snapNow = []) := fun h => by rw [h.1] at due; simp at due
  unfold State.snapTick
  rw [if_neg asked]
  exact List.mem_map.mpr ⟨g, List.mem_filter.mpr ⟨List.mem_range.mpr small, due⟩, rfl⟩

theorem snapTick_done {g : Nat} {vals : Tbl W64} (taken : s.err.snapNow = [(g, vals)]) :
    Tbl.get [] s.snapTick.err.snap g = vals ∧ Tbl.get 0 s.snapTick.err.snapSeq g = Tbl.get 0 s.err.snapSeq g + 1 := by
  unfold State.snapTick
  rw [if_neg (by simp [taken])]
  dsimp only [State.updErr]
  rw [taken]
  exact ⟨Tbl.get_set_self [] s.err.snap g vals, Tbl.get_upd_self 0 s.err.snapSeq g (· + 1)⟩

/-! ## Injection and the overflow of a counter (R513, R518, R519). -/

theorem injFire_of_miss (det u l : Nat) (miss : s.injHit det u l = false) : s.injFire det u l = s :=
  if_pos (by rw [miss, Bool.not_false, Bool.or_true])

theorem injFire_storedSymbol (u l : Nat) (stacked : l < stackedBytes / 128) (hit : s.injHit 0x10 u l = true) :
    s.injFire 0x10 u l = (s.updErr fun e =>
      { e with injFired := min (e.injFired + 1) 0xFFFFFFFF, injected := true, injArmed := e.injMode == 2,
               injMode := if e.injMode = 2 then 2 else 0, injPend := e.injPend ++ [(0x10, u)] }).updMem fun m =>
        { m with rawErr := Tbl.set [] m.rawErr (devAddr s.cfg (128 * l) / 128) [⟨0, 1⟩] } := by
  have fires : s.injFire 0x10 u l = (s.injUse.damage l [0] 1).injLater 0x10 u :=
    (if_neg (by rw [hit]; decide)).trans rfl
  have damages : s.injUse.damage l [0] 1 = _ := if_pos stacked
  rw [fires, damages]
  rfl

theorem pmcWrap_leaves (u i : Nat) (used : (s.cfg.counterOf u i).used = true)
    (top : (Tbl.get 0 s.err.pmc (8 * u + i)).toNat % 2 ^ 48 = 2 ^ 48 - 1) :
    let t := s.updErr fun e => { e with pmc := Tbl.set 0 e.pmc (8 * u + i) (BitVec.ofNat 64 (2 ^ 63)),
                                        pmcNow := Tbl.upd 0 e.pmcNow (8 * u + i) (· + 1) }
    s.pmcWrap u i = if bitOf (s.cfg.counterOf u i).flags 0 then t.raise 0x40 u 0 i else t := by
  extract_lets t
  have counts : s.pmcWrap u i = s.addPmc u i 1 := if_pos (by rw [used, beq_iff_eq.mpr top]; rfl)
  have wraps : 2 ^ 48 ≤ (Tbl.get 0 s.err.pmc (8 * u + i)).toNat % 2 ^ 48 + 1 := by omega
  have zero : 2 ^ 63 + ((Tbl.get 0 s.err.pmc (8 * u + i)).toNat % 2 ^ 48 + 1) % 2 ^ 48 = 2 ^ 63 := by
    rw [top]
    decide
  rw [counts]
  refine (if_pos wraps).trans ?_
  rw [zero]

end Unit

end Sys2Proof.Machine

namespace Sys2Proof.Machine

/-! ## The registers of the error unit (R501, R515, R518, R520). -/

section ErrorRegisters

variable (s : State) (a : Agent)

theorem regMerged_full (r : Reg) (v : W64) : s.regMerged a r .full v = v := if_pos rfl

theorem regPut_errPartHeld (mask : BitVec 16) : s.regPut a .errPartHeld .full (mask.setWidth 64) =
    s.updErr fun e => { e with partHeld := e.partHeld &&& ~~~mask } := by
  have named : (s.regMerged a .errPartHeld .full (mask.setWidth 64)).setWidth 16 = mask := by
    rw [regMerged_full, BitVec.setWidth_setWidth_of_le _ (by decide), BitVec.setWidth_eq]
  exact congrArg (fun m => s.updErr fun e => { e with partHeld := e.partHeld &&& ~~~m }) named

theorem regPut_snapCmd (mask : BitVec 16) : s.regPut a .snapCmd .full (mask.setWidth 64) =
    s.updErr fun e => { e with snapDue := e.snapDue ||| mask } := by
  have named : BitVec.ofNat 16 (field (s.regMerged a .snapCmd .full (mask.setWidth 64)).toNat 15 0) = mask := by
    rw [regMerged_full]
    refine BitVec.eq_of_toNat_eq ?_
    simpa [field_low] using mask.isLt
  exact congrArg (fun m => s.updErr fun e => { e with snapDue := e.snapDue ||| m }) named

variable {s a} in
/-- A command that reads a whole register its agent may read answers with all of its bits. -/
theorem regAsk_masked {r : Reg} {t : State} {v : W64} (s : State) (heard : s.mute a = false) (may : s.regCode a r false .full = .okay)
    (changes : s.regReadEffect a r .full = t) (shows : s.regVal a r = v) :
    finish s (s.regAsk a r .full) = .next (s.after (t.reply .okay (v &&& Width.mask .full))) :=
  (regAsk_leaves heard may changes shows).trans
    (congrArg (fun x => Host.Outcome.next (s.after (t.reply .okay x))) BitVec.and_allOnes.symm)

theorem exec_snapLatchRead_pmc (u : BitVec 16) (i : Fin 8) (listed : unitListed u.toNat = true) :
    exec (.snapLatchRead a (.pmc u i)) s = finish s (s.regAsk a (.pmcSnap u.toNat i.val) .full) :=
  congrArg (finish s) (if_pos listed)

end ErrorRegisters

/-- Settles O56: a detection's consequences leave the log, its pointers and the reports of the HK cycle alone, so that the report
made as the cycle ends is the detection's own record; every other clause is the rule of its command. -/
theorem errorsAreCountedLoggedAndContained : Obligations.ErrorsAreCountedLoggedAndContained := by
  unfold Obligations.ErrorsAreCountedLoggedAndContained
  intro s
  refine ⟨?detect, ?handle, exec_errorLogFlush s, ?registers, fun c set due => finish_eq (watchdogExpiry_leaves s c.val set due), ?tick,
    ?quiet, fun det b now => ⟨cntRead_of_now s.err now, cntClear_cnt s.err now, cntClear_cntRead s.err now⟩,
    fun e miss => finish_eq (injFire_of_miss s _ _ _ miss), fun u l stacked hit => finish_eq (injFire_storedSymbol s _ l stacked hit),
    fun u i used top => finish_eq (pmcWrap_leaves s _ _ used top), fun g small => ⟨snapTick_due s small, fun vals => snapTick_done s⟩⟩
  case detect =>
    intro d
    refine ⟨fun clove tile => ?_, fun det tile => ⟨fun marked => ?_, fun fresh => ?_⟩, fun det => ?_⟩
    · exact finish_eq (detect_of_plain s d clove tile)
    · exact finish_eq ((detect_tile s d det tile).trans (if_pos marked))
    · exact finish_eq ((detect_tile s d det tile).trans (if_neg (ne_true_of_eq_false fresh)))
    · exact finish_eq ((detect_clove s d det).trans (by cases clvMem d.addr.toNat <;> rfl))
  case handle =>
    intro d row known none
    refine ⟨(handle_cnt s d known).trans (cntNext_eq s row), handle_write d known, handle_irq d known, fun kind room => ?_,
      reportedErr_of_full d known none, fun kind below => ?_, reportedErr_irq d known none, handle_halted s d known,
      fun h q served small => handle_partHeld s d known h served small⟩
    · rw [← cntNext_eq]
      exact reportedErr_of_room d known none kind room
    · have quiet := reportedErr_handle_quiet d known none (not_raised_of_below s d kind below)
      exact ⟨(congrArg ErrSt.write quiet).trans (handle_write d known), (congrArg ErrSt.lost quiet).trans (handle_lost d known),
        (congrArg ErrSt.irq quiet).trans (handle_irq d known)⟩
  case registers =>
    intro a heard
    refine ⟨fun mask => ⟨fun may => ?release, fun may => ?capture⟩, fun c may => regCmd_leaves heard may rfl,
      fun val may mode => regCmd_leaves heard may (injArm_eq s val mode), fun g may => ?seq, fun u i listed may => ⟨?outside, ?grouped⟩⟩
    case release => exact regCmd_leaves heard may (regPut_errPartHeld s a mask)
    case capture => exact regCmd_leaves heard may (regPut_snapCmd s a mask)
    case seq => exact regAsk_masked s heard may rfl rfl
    case outside =>
      intro off
      have reads := snapRead_of_outside s a _ _ off
      exact (exec_snapLatchRead_pmc s a u i listed).trans
        (regAsk_masked s heard may (congrArg Prod.fst reads) (congrArg Prod.snd reads))
    case grouped =>
      intro used grouped
      refine ⟨fun l found => ?_, fun missing => ?_⟩
      · have reads := snapRead_of_latched a used grouped found
        exact (exec_snapLatchRead_pmc s a u i listed).trans
          (regAsk_masked s heard may (congrArg Prod.fst reads) (congrArg Prod.snd reads))
      · have reads := snapRead_of_unlatched a used grouped missing
        exact (exec_snapLatchRead_pmc s a u i listed).trans
          (regAsk_masked s heard may (congrArg Prod.fst reads) (congrArg Prod.snd reads))
  case tick =>
    intro first
    rw [errTick_eq, wdtReport_of_first s first]
    rfl
  case quiet =>
    intro wdt queue cnts reports inj pmcs policy
    rw [errTick_eq, wdtReport_of_none s wdt, drain_of_quiet s 16 queue, errReport_of_quiet s queue cnts reports inj pmcs policy]

end Sys2Proof.Machine

/-! The end of an unlock: no command's end disarms an injection, and the statement O58. -/

namespace Sys2Proof.Machine

/-! ## What the end of a command leaves of an armed injection (R519, R521). -/

section Armed

variable (s : State)

theorem handle_injArmed (d : Detection) : (s.handle d).err.injArmed = s.err.injArmed := by
  cases known : detectorRow d.det.toNat with
  | none =>
    unfold State.handle
    rw [known]
  | some row =>
    have counted : (s.detCounted d row).err.injArmed = s.err.injArmed := keeps_ite (fun t : State => t.err.injArmed) rfl rfl
    have contained : (s.detContained d row).err.injArmed = s.err.injArmed :=
      (congrArg (fun v : ErrSt × ShapeCfg × TimeSt => v.1.injArmed) (detContained_unitView s d row)).trans counted
    rw [handle_eq s d known]
    exact keeps_ite (fun t : State => t.err.injArmed) contained contained

theorem drain_injArmed (fuel : Nat) : (s.drain fuel).err.injArmed = s.err.injArmed := by
  induction fuel generalizing s with
  | zero => rfl
  | succ fuel ih =>
    unfold State.drain
    split
    · rfl
    · exact (ih _).trans (foldl_keeps (fun t : State => t.err.injArmed) handle_injArmed _ _)

/-- An injection that a command leaves armed stays armed as the command ends. -/
theorem after_injArmed (t : State) : (s.after t).err.injArmed = t.err.injArmed := by
  have handled : t.handled.err.injArmed = t.err.injArmed :=
    keeps_ite (fun u : State => u.err.injArmed) (y := t.drain 16) rfl (drain_injArmed t 16)
  have settled : t.settle.err.injArmed = t.handled.err.injArmed := by rw [settle_eq, dbSettle_err]
  exact settled.trans handled

end Armed

/-- A block whose unlock is at its end while an injection that it permitted is armed. -/
def State.armedAtExpiry : State :=
  { State.reset with sec := { State.reset.sec with level := 2 }, err := { State.reset.err with injMode := 2, injArmed := true } }

/-- UNLOCK_EXPIRY takes the level and leaves the injection armed: it disarms only as the HK cycle ends. -/
theorem unlockExpiry_armedAtExpiry :
    State.armedAtExpiry.unlockExpiry.sec.level = 0 ∧ State.armedAtExpiry.unlockExpiry.err.injArmed = true
      ∧ State.armedAtExpiry.unlockExpiry.err.injEnd = true := by
  decide

/-- Refutes O58: the end of an unlock marks an armed injection to disarm as the HK cycle ends, so that UNLOCK_EXPIRY itself leaves it
armed. -/
theorem not_resetBootAndSecurityAct : ¬ Obligations.ResetBootAndSecurityAct := by
  unfold Obligations.ResetBootAndSecurityAct
  intro holds
  obtain ⟨-, -, -, -, -, -, -, -, -, expiry, -⟩ := holds State.armedAtExpiry
  obtain ⟨t, runs, -, disarmed⟩ := expiry (by decide) (by decide)
  have same : State.armedAtExpiry.after State.armedAtExpiry.unlockExpiry = State.armedAtExpiry.after t :=
    Host.Outcome.next.inj runs
  have armed : t.err.injArmed = true := by
    rw [← after_injArmed State.armedAtExpiry, ← same, after_injArmed]
    exact unlockExpiry_armedAtExpiry.2.1
  rw [disarmed] at armed
  exact absurd armed (by decide)

end Sys2Proof.Machine
